-- ==== Sys2Proof/Word.lean ====
section
/-! DEFINITION. The word types of the device (R13, R118, R129), sparse maps in one canonical form, and
little-endian byte strings (R13). -/
namespace Sys2Proof

/-- An instruction word (R129). -/
abbrev Word := BitVec 32
/-- One byte of any storage. -/
abbrev Byte := BitVec 8
/-- A 64-bit register value (R118). -/
abbrev X := BitVec 64

/-- A finite map from numbers: keys strictly rising. `NMap.put` and `NMap.del` keep that form. -/
abbrev NMap (α : Type) := List (Nat × α)

namespace NMap

def find {α : Type} : NMap α → Nat → Option α
  | [], _ => none
  | (k', v) :: t, k => if k' = k then some v else find t k

def put {α : Type} : NMap α → Nat → α → NMap α
  | [], k, v => [(k, v)]
  | (k', v') :: t, k, v =>
    if k < k' then (k, v) :: (k', v') :: t
    else if k = k' then (k, v) :: t
    else (k', v') :: put t k v

def del {α : Type} (m : NMap α) (k : Nat) : NMap α := m.filter fun c => c.1 != k

/-- The value at `k`, or `d` where nothing is listed. -/
def getD {α : Type} (m : NMap α) (k : Nat) (d : α) : α := (find m k).getD d

/-- Write `v` at `k` in a map whose unlisted keys read `d`: writing `d` removes the entry. -/
def putD {α : Type} [DecidableEq α] (d : α) (m : NMap α) (k : Nat) (v : α) : NMap α :=
  if v = d then del m k else put m k v

/-- Keys strictly rising: the canonical form. -/
def rising {α : Type} : NMap α → Bool
  | [] => true
  | [_] => true
  | (k, _) :: (k', v') :: t => decide (k < k') && rising ((k', v') :: t)

end NMap

/-- `n` bytes of `v`, lowest first (R13). -/
def leBytes (v : Nat) : Nat → List Byte
  | 0 => []
  | n + 1 => BitVec.ofNat 8 v :: leBytes (v / 256) n

/-- The unsigned value of little-endian bytes (R13). -/
def leNat : List Byte → Nat
  | [] => 0
  | b :: t => b.toNat + 256 * leNat t

/-- Bits `lo + n - 1` down to `lo` of a natural number (R14). -/
def bits (v lo n : Nat) : Nat := v / 2 ^ lo % 2 ^ n

/-- `n` bytes of a byte string from offset `o`, as an unsigned number. -/
def leAt (bs : List Byte) (o n : Nat) : Nat := leNat ((bs.drop o).take n)

/-- Rounding-up division, `⌈a ÷ b⌉`. -/
def cdiv (a b : Nat) : Nat := (a + b - 1) / b

end Sys2Proof
end

