-- ==== Sys2Proof/Machine/Sm3.lean ====
section
/-! DEFINITION. SM3, the hash that the device computes (R359, R464): the standard's own function, which the spec names and
does not lay down (log 13). -/
namespace Sys2Proof.Machine.Sm3
open Sys2Proof

def P0 (x : Word) : Word := x ^^^ x.rotateLeft 9 ^^^ x.rotateLeft 17
def P1 (x : Word) : Word := x ^^^ x.rotateLeft 15 ^^^ x.rotateLeft 23
def FF (j : Nat) (x y z : Word) : Word := if j < 16 then x ^^^ y ^^^ z else (x &&& y) ||| (x &&& z) ||| (y &&& z)
def GG (j : Nat) (x y z : Word) : Word := if j < 16 then x ^^^ y ^^^ z else (x &&& y) ||| (~~~x &&& z)
def T (j : Nat) : Word := if j < 16 then 0x79cc4519 else 0x7a879d8a

/-- The eight registers. -/
structure Regs where
  a : Word
  b : Word
  c : Word
  d : Word
  e : Word
  f : Word
  g : Word
  h : Word
deriving DecidableEq, Repr

def iv : Regs :=
  ⟨0x7380166f, 0x4914b2b9, 0x172442d7, 0xda8a0600, 0xa96f30bc, 0x163138aa, 0xe38dee4d, 0xb0fb0e4e⟩

/-- The message words, newest first: `n` more after those given. -/
def expand : Nat → List Word → List Word
  | 0, w => w
  | n + 1, w =>
    expand n ((P1 (w.getD 15 0 ^^^ w.getD 8 0 ^^^ (w.getD 2 0).rotateLeft 15) ^^^ (w.getD 12 0).rotateLeft 7 ^^^ w.getD 5 0) :: w)

def round (r : Regs) (j : Nat) (w w' : Word) : Regs :=
  let s1 := (r.a.rotateLeft 12 + r.e + (T j).rotateLeft (j % 32)).rotateLeft 7
  let s2 := s1 ^^^ r.a.rotateLeft 12
  let t1 := FF j r.a r.b r.c + r.d + s2 + w'
  let t2 := GG j r.e r.f r.g + r.h + s1 + w
  ⟨t1, r.a, r.b.rotateLeft 9, r.c, P0 t2, r.e, r.f.rotateLeft 19, r.g⟩

/-- Rounds from number `j` on over the message words. -/
def rounds (r : Regs) (j : Nat) : List Word → Regs
  | w :: t => if j < 64 then rounds (round r j w (w ^^^ t.getD 3 0)) (j + 1) t else r
  | [] => r

def compress (r : Regs) (block : List Word) : Regs :=
  let x := rounds r 0 (expand 52 block.reverse).reverse
  ⟨x.a ^^^ r.a, x.b ^^^ r.b, x.c ^^^ r.c, x.d ^^^ r.d, x.e ^^^ r.e, x.f ^^^ r.f, x.g ^^^ r.g, x.h ^^^ r.h⟩

/-- Big-endian words of a byte string. -/
def beWords : List Byte → List Word
  | a :: b :: c :: d :: t => (a ++ b ++ c ++ d) :: beWords t
  | _ => []
def blocks : Nat → List Word → List (List Word)
  | 0, _ => []
  | n + 1, w => w.take 16 :: blocks n (w.drop 16)
def beBytes (w : Word) : List Byte := [w.extractLsb' 24 8, w.extractLsb' 16 8, w.extractLsb' 8 8, w.extractLsb' 0 8]

/-- The padded message. -/
def pad (m : List Byte) : List Byte :=
  let z := (119 - m.length % 64) % 64
  m ++ [0x80] ++ List.replicate z 0 ++ (leBytes (8 * m.length) 8).reverse

/-- The 32-byte digest. -/
def hash (m : List Byte) : List Byte :=
  let w := beWords (pad m)
  let r := (blocks (w.length / 16) w).foldl compress iv
  [r.a, r.b, r.c, r.d, r.e, r.f, r.g, r.h].flatMap beBytes

end Sys2Proof.Machine.Sm3
end

