-- ==== Sys2Proof/Syntax.lean ====
section
/-! DEFINITION. The syntax: one constructor per row of spec/opcode_table.json, and the operand records that the rows
which are not instruction words carry (packets, messages, sensor readings, errors: inputs from outside). -/
namespace Sys2Proof

/-- The three engines of a core (05). -/
inductive Engine where
  | matrix | vector | copy
deriving DecidableEq, Repr

/-- The halves and maps of R130: the common half, and the private maps of the four streams. -/
inductive Half where
  | common | control | matrix | vector | copy
deriving DecidableEq, Repr

/-- A stream's kind: a voice, or a context of one engine (R130). -/
inductive StreamKind where
  | voice
  | ctx (e : Engine)
deriving DecidableEq, Repr

/-- The private map of an engine (R138). -/
def Engine.half : Engine → Half
  | .matrix => .matrix
  | .vector => .vector
  | .copy => .copy

/-- An engine's code: 0 matrix, 1 vector, 2 copy (R441, R451). -/
def Engine.code : Engine → Nat
  | .matrix => 0
  | .vector => 1
  | .copy => 2

/-- The clock domains whose divisor CLKD sets (R422). -/
inductive Domain where
  | control | vector | copy | matrix
deriving DecidableEq, Repr

/-- A packet as it arrives: its 64-byte header, its body, and the port it came by, 0 host or 1 rack (R76). -/
structure Packet where
  hdr : List Byte
  body : List Byte
  port : Nat
deriving DecidableEq, Repr

/-- A message of the translation channel, 32 bytes (R214). -/
structure XlatMsg where
  bytes : List Byte
deriving DecidableEq, Repr

/-- What made a beat late (R240): causes that its address fixes, or a codeword at weight address `cw` that needed 3 or 4 bits
corrected, or that was read again, corrected then or not (R250), in hour `hours` of the error log (R437). -/
inductive HoldCause where
  | scheduled
  | corrected (cw hours : Nat)
  | reread (cw hours : Nat) (ok : Bool)
deriving DecidableEq, Repr

/-- A write of a row again by the Voicer, and its pulses (R247, R250). -/
structure RowWrite where
  row : Nat
  passes : Nat
deriving DecidableEq, Repr

/-- What the dies find as they leave reset: the size of the memory fitted to each, in GiB, by die (R3); the copies of remap tables
that differ from what was last written, with bank and number (R251); the links that fail to train (R460), and the UALink ports that
do, by die and number (R461). -/
structure Found where
  fitted : List Nat
  copies : List (Nat × Nat × List Byte)
  links : List (Nat × Nat)
  ports : List (Nat × Nat)
deriving DecidableEq, Repr

/-- What an uncorrectable error of global memory takes: a line at its location, or a line of a unit's open version that L2 or the
version log holds, with its address (R379, R487). -/
inductive Lost where
  | location (line : Nat)
  | version (unit line va : Nat)
deriving DecidableEq, Repr

/-- A structure that logs soft errors (R438). -/
inductive Structure where
  | weightRow (row : Nat)
  | bus (core b : Nat)
  | l2Way (slice set way : Nat)
  | accSlot (core slot : Nat)
  | coreStore (core : Nat)
  | lpddrFrame (frame : Nat)
deriving DecidableEq, Repr

/-- The host's fields of a region directory entry (R235, REGMK of R465). -/
structure RegionSpec where
  name : Nat
  ownk : Nat
  fmt : Nat
  sm : Nat
  rflg : Nat
  kext : Nat
  next : Nat
  core0 : Nat
  cstep : Nat
  off0 : Nat
  off1 : Nat
  soff0 : Nat
  soff1 : Nat
deriving DecidableEq, Repr

/-- One constructor per row of the opcode table: the words of the four streams (R130), then the steps of the device
that are not words. -/
inductive Instr where
  /-- NOP (R178): Common no-operation; does nothing but still takes part in a sync bundle. -/
  | nop (s : BitVec 1)
  /-- ADD (R155): xd := xa + xb, wrapping modulo 2^64. -/
  | add (s : BitVec 1) (d a b : BitVec 6)
  /-- SUB (R155): xd := xa - xb, wrapping. -/
  | sub (s : BitVec 1) (d a b : BitVec 6)
  /-- AND (R155): xd := xa AND xb. -/
  | and (s : BitVec 1) (d a b : BitVec 6)
  /-- OR (R155): xd := xa OR xb. -/
  | or (s : BitVec 1) (d a b : BitVec 6)
  /-- XOR (R155): xd := xa XOR xb. -/
  | xor (s : BitVec 1) (d a b : BitVec 6)
  /-- SHL (R155): Shifts xa left by xb<5:0>, filling with zeros. -/
  | shl (s : BitVec 1) (d a b : BitVec 6)
  /-- SHR (R155): Shifts xa right logically by xb<5:0>. -/
  | shr (s : BitVec 1) (d a b : BitVec 6)
  /-- SRA (R155): Shifts xa right arithmetically by xb<5:0>. -/
  | sra (s : BitVec 1) (d a b : BitVec 6)
  /-- MUL (R155): xd := low 64 bits of xa × xb; result after 3 cycles. -/
  | mul (s : BitVec 1) (d a b : BitVec 6)
  /-- MULH (R155): xd := high 64 bits of the signed 128-bit product. -/
  | mulh (s : BitVec 1) (d a b : BitVec 6)
  /-- MIN (R155): xd := signed smaller of xa and xb. -/
  | min (s : BitVec 1) (d a b : BitVec 6)
  /-- MAX (R155): xd := signed larger of xa and xb. -/
  | max (s : BitVec 1) (d a b : BitVec 6)
  /-- AGEN (R155): xd := xa + (xb << sh), forming an element address. -/
  | agen (s : BitVec 1) (d a b : BitVec 6) (h : BitVec 2)
  /-- ADDI (R156): Adds the sign-extended imm12 to xa. -/
  | addi (s : BitVec 1) (d a : BitVec 6) (i : BitVec 12)
  /-- ANDI (R156): ANDs xa with the sign-extended imm12. -/
  | andi (s : BitVec 1) (d a : BitVec 6) (i : BitVec 12)
  /-- ORI (R156): ORs xa with the sign-extended imm12. -/
  | ori (s : BitVec 1) (d a : BitVec 6) (i : BitVec 12)
  /-- XORI (R156): XORs xa with the sign-extended imm12. -/
  | xori (s : BitVec 1) (d a : BitVec 6) (i : BitVec 12)
  /-- SHLI (R156): Shifts xa left by an immediate 0 to 63. -/
  | shli (s : BitVec 1) (d a h : BitVec 6)
  /-- SHRI (R156): Shifts xa right logically by an immediate. -/
  | shri (s : BitVec 1) (d a h : BitVec 6)
  /-- SRAI (R156): Shifts xa right arithmetically by an immediate. -/
  | srai (s : BitVec 1) (d a h : BitVec 6)
  /-- LUI (R157): xd := imm18 << 12, zero-extended. -/
  | lui (s : BitVec 1) (d : BitVec 6) (i : BitVec 18)
  /-- CMP (R158): Sets pd to whether xa cc xb holds. -/
  | cmp (s : BitVec 1) (p : BitVec 7) (a b : BitVec 6) (c : BitVec 3)
  /-- CMPI (R158): Sets pd to whether xa cc sign-extended imm6 holds. -/
  | cmpi (s : BitVec 1) (p : BitVec 7) (a i : BitVec 6) (c : BitVec 3)
  /-- PLOG (R159): Sets pd to a logic function of pa and pb. -/
  | plog (s : BitVec 1) (d a b : BitVec 7) (f : BitVec 3)
  /-- SEL (R160): xd := xa if predicate fn is 1, else xb. -/
  | sel (s : BitVec 1) (d a b p : BitVec 6)
  /-- BR (R161): Unconditional branch by offset24 issue units. -/
  | br (s : BitVec 1) (o : BitVec 24)
  /-- BRP (R161): Branches by offset16 when predicate p equals sense. -/
  | brp (s : BitVec 1) (p : BitVec 7) (n : BitVec 1) (o : BitVec 16)
  /-- CALL (R162): Sets x31 to the next unit and branches by offset24. -/
  | call (s : BitVec 1) (o : BitVec 24)
  /-- JR (R162): Jumps to xa, faulting on a misaligned target. -/
  | jr (s : BitVec 1) (a : BitVec 6)
  /-- RET (R162): Jumps to x31. -/
  | ret (s : BitVec 1)
  /-- LOOP_IMM (R165): Starts a hardware loop at a level with an immediate count, skipping the body for count 0. -/
  | loopImm (s : BitVec 1) (l : BitVec 2) (n : BitVec 13) (e : BitVec 8)
  /-- LOOP_REG (R165): Starts a hardware loop with its count taken from an x register. -/
  | loopReg (s : BitVec 1) (l : BitVec 2) (r : BitVec 6) (e : BitVec 8)
  /-- LOOPX_IMM (R165): Starts an extended loop with an immediate count, unbounded for 0. -/
  | loopxImm (s : BitVec 1) (l : BitVec 2) (n : BitVec 13) (e : BitVec 8)
  /-- LOOPX_REG (R165): Starts an extended loop with a register count, unbounded for 0. -/
  | loopxReg (s : BitVec 1) (l : BitVec 2) (r : BitVec 6) (e : BitVec 8)
  /-- LBRK (R169): Leaves loop level L and deeper when the predicate test holds. -/
  | lbrk (s : BitVec 1) (p : BitVec 7) (n : BitVec 1) (l : BitVec 2)
  /-- REP (R171): Issues the next word count times with stepped register fields. -/
  | rep (s : BitVec 1) (c : BitVec 6) (d a b : BitVec 3)
  /-- MFS (R175): Reads a special register into xd. -/
  | mfs (s : BitVec 1) (d : BitVec 6) (i : BitVec 12)
  /-- MTS (R176): Writes xa to a special register, applying its clamps and refusals. -/
  | mts (s : BitVec 1) (a : BitVec 6) (i : BitVec 12)
  /-- HALT (R179): Parks a voice for the rest of the unit, or stops an engine context's decoding. -/
  | halt (s : BitVec 1)
  /-- LD (R188): Loads from global virtual memory through the span rules. -/
  | ld (s : BitVec 1) (d a : BitVec 6) (w : BitVec 2) (x : BitVec 1) (o : BitVec 9)
  /-- ST (R189): Stores into the team's open span version with its recorded scope. -/
  | st (s : BitVec 1) (d a : BitVec 6) (w : BitVec 2) (o : BitVec 9)
  /-- LDS (R190): Loads from the team's scratchpad allocation. -/
  | lds (s : BitVec 1) (d a : BitVec 6) (w : BitVec 2) (x : BitVec 1) (o : BitVec 9)
  /-- STS (R190): Stores to the team's scratchpad allocation. -/
  | sts (s : BitVec 1) (d a : BitVec 6) (w : BitVec 2) (o : BitVec 9)
  /-- LDW (R192): Reads weight space through the weight window from the active bank. -/
  | ldw (s : BitVec 1) (d a : BitVec 6) (w : BitVec 2) (x : BitVec 1) (o : BitVec 9)
  /-- AMO (R194): Commutative atomic update with no return, applied exactly once at its scope. -/
  | amo (s w : BitVec 1) (a b : BitVec 6) (f c : BitVec 3)
  /-- AMR (R195): Read-modify-write atomic at the line's L2 home returning the old value. -/
  | amr (s : BitVec 1) (d a b : BitVec 6) (f c : BitVec 3)
  /-- FADD (R197): Scalar floating add rounded once. -/
  | fadd (s : BitVec 1) (d a b : BitVec 6) (r : BitVec 2) (p : BitVec 1)
  /-- FSUB (R197): Scalar floating subtract rounded once. -/
  | fsub (s : BitVec 1) (d a b : BitVec 6) (r : BitVec 2) (p : BitVec 1)
  /-- FMUL (R197): Scalar floating multiply rounded once. -/
  | fmul (s : BitVec 1) (d a b : BitVec 6) (r : BitVec 2) (p : BitVec 1)
  /-- FFMA (R197): Scalar fused multiply-add xa × xb + xd rounded once. -/
  | ffma (s : BitVec 1) (d a b : BitVec 6) (r : BitVec 2) (p : BitVec 1)
  /-- FMIN (R198): Returns the smaller operand with NaN rules. -/
  | fmin (s : BitVec 1) (d a b : BitVec 6) (p : BitVec 1)
  /-- FMAX (R198): Returns the larger operand with NaN rules. -/
  | fmax (s : BitVec 1) (d a b : BitVec 6) (p : BitVec 1)
  /-- FSGN (R199): Replaces xa's sign by copy, negation or XOR of xb's sign. -/
  | fsgn (s : BitVec 1) (d a b : BitVec 6) (m : BitVec 2) (p : BitVec 1)
  /-- FCMP (R200): Floating compare setting pd. -/
  | fcmp (s : BitVec 1) (d : BitVec 7) (a b : BitVec 6) (c : BitVec 3) (p : BitVec 1)
  /-- FCVT (R201): Converts between scalar floating and integer types. -/
  | fcvt (s : BitVec 1) (d a : BitVec 6) (r : BitVec 2) (t : BitVec 1) (f g : BitVec 3)
  /-- FSQS (R203): Reciprocal-square-root seed of a binary32 value. -/
  | fsqs (s : BitVec 1) (d a : BitVec 6)
  /-- FRCS (R204): Reciprocal seed of a binary32 value. -/
  | frcs (s : BitVec 1) (d a : BitVec 6)
  /-- FCLS (R202): Writes a one-hot class mask of xa. -/
  | fcls (s : BitVec 1) (d a : BitVec 6) (p : BitVec 1)
  /-- POPC (R205): Counts one bits of xa. -/
  | popc (s : BitVec 1) (d a : BitVec 6)
  /-- CLZ (R205): Counts leading zero bits of xa. -/
  | clz (s : BitVec 1) (d a : BitVec 6)
  /-- BEXT (R205): Extracts a bit field of xa at xb<5:0>. -/
  | bext (s : BitVec 1) (d a b w : BitVec 6)
  /-- SPAN (R395): Span boundary: raises pending guard fault, merges update-only lines and commits the open version atomically. -/
  | span (s : BitVec 1) (c : BitVec 3)
  /-- FENCE (R382): Orders the voice's accesses and merges update-only lines without committing. -/
  | fence (s : BitVec 1) (c : BitVec 3)
  /-- CFLUSH (R397): Widens committed stores on a line, or all lines, to scope sc. -/
  | cflush (s : BitVec 1) (a : BitVec 6) (c : BitVec 3)
  /-- BARI (R399): Initialises a barrier's parties, pending bytes and scope and raises its GEN. -/
  | bari (s : BitVec 1) (a b : BitVec 6) (c : BitVec 3)
  /-- BARA (R400): Makes a span boundary at the barrier's scope and adds one arrival. -/
  | bara (s : BitVec 1) (a : BitVec 6)
  /-- BARW (R401): Waits until the barrier is done or its GEN changes, then makes a span boundary. -/
  | barw (s : BitVec 1) (a : BitVec 6)
  /-- MON (R402): Arms the voice's watch on a line and clears its fired bit. -/
  | mon (s : BitVec 1) (a : BitVec 6)
  /-- MWAIT (R403): Waits for the watch to fire or a DCC deadline. -/
  | mwait (s : BitVec 1) (d a : BitVec 6)
  /-- SEMW (R405): Requests an amount from a semaphore, waiting in arrival order. -/
  | semw (s : BitVec 1) (a b : BitVec 6) (c : BitVec 3)
  /-- SEMP (R406): Adds an amount to a semaphore with release and grants waiters. -/
  | semp (s : BitVec 1) (a b : BitVec 6) (c : BitVec 3)
  /-- QPUSH (R408): Pushes a scratchpad entry to a stage queue, waiting while full. -/
  | qpush (s : BitVec 1) (d a b : BitVec 6)
  /-- QPOP (R408): Pops a stage-queue entry, waiting while empty and open. -/
  | qpop (s : BitVec 1) (d a b : BitVec 6)
  /-- QTRY_POP (R408): Pops if no wait would be needed, else returns would-wait. -/
  | qtryPop (s : BitVec 1) (d a b : BitVec 6)
  /-- QTRY_PUSH (R408): Pushes if no wait would be needed, else returns would-wait. -/
  | qtryPush (s : BitVec 1) (d a b : BitVec 6)
  /-- FORK (R410): Starts the voice slot's matrix, vector and copy contexts at given entries. -/
  | fork (s : BitVec 1) (c m v : BitVec 6)
  /-- RDV (R411): Waits until the named engine contexts of the slot are idle. -/
  | rdv (s : BitVec 1) (e : BitVec 3)
  /-- EKILL (R412): Stops named contexts, discarding unissued queued commands. -/
  | ekill (s : BitVec 1) (e : BitVec 3)
  /-- YIELD (R413): Span boundary at STSC that honours a pending yield request by suspending the team. -/
  | yield (s : BitVec 1)
  /-- PARK (R415): Parks the issuing voice after its bundle. -/
  | park (s : BitVec 1)
  /-- PARK_UN (R415): Unparks parked voice k of the team. -/
  | parkUn (s : BitVec 1) (k : BitVec 2)
  /-- RETIRE (R416): Ends the unit: waits for contexts, commits at package scope and releases resources. -/
  | retire (s : BitVec 1)
  /-- CNCL (R417): Cancels a launch, graph, phase or the job, stalling for the answer. -/
  | cncl (s : BitVec 1) (d a : BitVec 6) (l : BitVec 2)
  /-- CMPLR (R418): Reads a completion counter of the team's job. -/
  | cmplr (s : BitVec 1) (d a : BitVec 6) (l : BitVec 2)
  /-- BRTH (R420): Opens or replaces the team's breath window. -/
  | brth (s : BitVec 1) (a b : BitVec 6) (n : BitVec 4)
  /-- ACQP (R421): Requests a current level, stalling until Bellows grants it. -/
  | acqp (s : BitVec 1) (a : BitVec 6)
  /-- RELP (R421): Returns the power grant and sets PGNT to 0. -/
  | relp (s : BitVec 1)
  /-- CLKD (R422): Requests a clock divisor for a domain of the core, stalling until in effect. -/
  | clkd (s : BitVec 1) (a : BitVec 6) (l : BitVec 2)
  /-- TRAP (R423): Raises the software trap with imm18. -/
  | trap (s : BitVec 1) (i : BitVec 18)
  /-- TRET (R448): Returns from handler mode, restoring loop and repeat state. -/
  | tret (s : BitVec 1)
  /-- PROBE (R414): Reads the pending yield request cause, deadline or time left. -/
  | probe (s : BitVec 1) (d : BitVec 6) (w : BitVec 3)
  /-- MMA (R285): Multiplies M A rows by a column group of a bound region into an accumulator slot. -/
  | mma (z : BitVec 4) (a w : BitVec 6) (p q d m t c : BitVec 1) (f : BitVec 2)
  /-- MMAG (R286): Ragged grouped product driven by a scratchpad group table. -/
  | mmag (z : BitVec 4) (a w : BitVec 6) (p q t : BitVec 1) (f : BitVec 2)
  /-- MFMT (R287): Writes a format-table entry at decode. -/
  | mfmt (b : BitVec 6) (r : BitVec 4) (s : BitVec 2)
  /-- MFMT_TS (R287): Writes a tensor-scale table entry at decode. -/
  | mfmtTs (a b : BitVec 6)
  /-- MFSEL (R288): Writes the context's FMSEL. -/
  | mfsel (b : BitVec 4) (s : BitVec 2)
  /-- MZERO (R290): Zeroes named rows of a slot and sets LAN. -/
  | mzero (z : BitVec 4) (b : BitVec 6)
  /-- MDCY (R289): Multiplies named rows of a slot by a scalar and sets LAN. -/
  | mdcy (z : BitVec 4) (a b : BitVec 6)
  /-- MDCY_SET (R289): Sets a slot's decay scalar. -/
  | mdcySet (z : BitVec 4) (a : BitVec 6)
  /-- MDRN (R292): Drains slot rows to the scratchpad with scale and format conversion, optionally clearing. -/
  | mdrn (z : BitVec 4) (a b : BitVec 6) (c i : BitVec 1) (f : BitVec 2)
  /-- MLDZ (R291): Copies raw words from the scratchpad into slot rows. -/
  | mldz (z : BitVec 4) (a b : BitVec 6)
  /-- MPREF (R293): Pins a tensor A operand's lines in the TFU. -/
  | mpref (a : BitVec 6)
  /-- MPREF_W (R293): Reads a region's weight beats through the array without computing. -/
  | mprefW (a b : BitVec 6)
  /-- MUNP (R294): Releases MPREF pins of an operand or of the context. -/
  | munp (a : BitVec 6)
  /-- MSWP (R295): Arms a stamped swap of a paired region's banks. -/
  | mswp (b : BitVec 6) (n : BitVec 3)
  /-- MBNK (R296): Reads a bound region's bank state as the core sees it. -/
  | mbnk (a : BitVec 6) (n : BitVec 3)
  /-- MHOLD (R297): Sets the hold limit of the next merge-candidate MMA. -/
  | mhold (b : BitVec 6)
  /-- MHOLD_REL (R297): Closes every open merge group holding a member of this context. -/
  | mholdRel
  /-- MTRQ (R298): Transposes and requantises nested weight tiles into the scratchpad. -/
  | mtrq (a b : BitVec 6)
  /-- MSYNC (R299): After earlier commands complete, increments a completion object with release. -/
  | msync (a : BitVec 6) (w : BitVec 1) (s : BitVec 3)
  /-- MSTAT (R300): Writes the status of the last completed array command. -/
  | mstat (a : BitVec 6)
  /-- MNOP (R301): Occupies the array for n matrix cycles. -/
  | mnop (n : BitVec 8)
  /-- VSHP (R316): Sets the team's vector shape register at decode. -/
  | vshp (a : BitVec 5)
  /-- VLD (R318): Loads a tile from scratchpad or tensor. -/
  | vld (d a b m : BitVec 5) (z e : BitVec 1)
  /-- VST (R318): Stores a tile to scratchpad or tensor. -/
  | vst (s a b m : BitVec 5) (e : BitVec 1)
  /-- VLDG (R319): Gathers scratchpad elements by an index tile. -/
  | vldg (d a b m : BitVec 5) (z e : BitVec 1)
  /-- VSTG (R319): Scatters elements into the scratchpad by an index tile. -/
  | vstg (s a b m : BitVec 5) (e : BitVec 1)
  /-- VMOV (R320): Copies a tile. -/
  | vmov (d a m : BitVec 5) (z e : BitVec 1)
  /-- VSPLAT (R320): Sets every active element to a scalar. -/
  | vsplat (d a m : BitVec 5) (z e : BitVec 1)
  /-- VIOTA (R320): Sets elements to their index, row or column. -/
  | viota (d m : BitVec 5) (k : BitVec 2) (z e : BitVec 1)
  /-- VFADD (R321): Elementwise FP32 add. -/
  | vfadd (d a b m : BitVec 5) (r : BitVec 2) (z e : BitVec 1)
  /-- VFSUB (R321): Elementwise FP32 subtract. -/
  | vfsub (d a b m : BitVec 5) (r : BitVec 2) (z e : BitVec 1)
  /-- VFMUL (R321): Elementwise FP32 multiply. -/
  | vfmul (d a b m : BitVec 5) (r : BitVec 2) (z e : BitVec 1)
  /-- VFFMA (R321): Elementwise FP32 fused multiply-add. -/
  | vffma (d a b c : BitVec 5) (r : BitVec 2)
  /-- VFMIN (R321): Elementwise FP32 minimum. -/
  | vfmin (d a b m : BitVec 5) (z e : BitVec 1)
  /-- VFMAX (R321): Elementwise FP32 maximum. -/
  | vfmax (d a b m : BitVec 5) (z e : BitVec 1)
  /-- VFABS (R321): Elementwise FP32 absolute value. -/
  | vfabs (d a m : BitVec 5) (z e : BitVec 1)
  /-- VFNEG (R321): Elementwise FP32 negation. -/
  | vfneg (d a m : BitVec 5) (z e : BitVec 1)
  /-- VADD (R322): Integer, saturating or RA32 elementwise add. -/
  | vadd (d a b m : BitVec 5) (r s z e : BitVec 1)
  /-- VSUB (R322): Integer, saturating or RA32 elementwise subtract. -/
  | vsub (d a b m : BitVec 5) (r s z e : BitVec 1)
  /-- VMUL (R322): Integer or RA32 elementwise multiply. -/
  | vmul (d a b m : BitVec 5) (r z e : BitVec 1)
  /-- VMIN (R322): Signed or unsigned elementwise minimum. -/
  | vmin (d a b m : BitVec 5) (u z e : BitVec 1)
  /-- VMAX (R322): Signed or unsigned elementwise maximum. -/
  | vmax (d a b m : BitVec 5) (u z e : BitVec 1)
  /-- VAND (R322): Elementwise AND. -/
  | vand (d a b m : BitVec 5) (z e : BitVec 1)
  /-- VOR (R322): Elementwise OR. -/
  | vor (d a b m : BitVec 5) (z e : BitVec 1)
  /-- VXOR (R322): Elementwise XOR. -/
  | vxor (d a b m : BitVec 5) (z e : BitVec 1)
  /-- VSHL (R322): Elementwise shift left. -/
  | vshl (d a b m : BitVec 5) (z e : BitVec 1)
  /-- VSHR (R322): Elementwise logical shift right. -/
  | vshr (d a b m : BitVec 5) (z e : BitVec 1)
  /-- VSRA (R322): Elementwise arithmetic shift right. -/
  | vsra (d a b m : BitVec 5) (z e : BitVec 1)
  /-- VFCMP (R324): FP32 compare writing a mask. -/
  | vfcmp (d a b m : BitVec 5) (e : BitVec 1) (c : BitVec 3)
  /-- VCMP (R324): Integer compare writing a mask. -/
  | vcmp (d a b m : BitVec 5) (e : BitVec 1) (c : BitVec 3)
  /-- VSEL (R325): Selects va or vb per mask bit. -/
  | vsel (d a b m : BitVec 5)
  /-- MLOG (R325): Bitwise logic over two masks. -/
  | mlog (d a b : BitVec 5) (f : BitVec 3)
  /-- VRSQS (R326): Elementwise reciprocal-square-root seed. -/
  | vrsqs (d a m : BitVec 5) (z e : BitVec 1)
  /-- VRCPS (R326): Elementwise reciprocal seed. -/
  | vrcps (d a m : BitVec 5) (z e : BitVec 1)
  /-- VEXS (R327): Elementwise approximation of 2^x. -/
  | vexs (d a m : BitVec 5) (z e : BitVec 1)
  /-- VLGS (R328): Elementwise approximation of log2 x. -/
  | vlgs (d a m : BitVec 5) (z e : BitVec 1)
  /-- VRED (R329): Reduces active elements along an axis. -/
  | vred (d a : BitVec 5) (x : BitVec 2) (o : BitVec 3) (m : BitVec 5) (e : BitVec 1)
  /-- VSCAN (R330): Segmented inclusive or exclusive scan. -/
  | vscan (d a : BitVec 5) (x y : BitVec 1) (o : BitVec 3) (h : BitVec 5)
  /-- VTRN (R331): Transposes a tile. -/
  | vtrn (d a : BitVec 5)
  /-- VROT (R331): Rotates rows or columns by an amount. -/
  | vrot (d a b : BitVec 5) (x : BitVec 1)
  /-- VPERM (R331): Permutes rows or columns by an index tile. -/
  | vperm (d a b : BitVec 5) (x : BitVec 1)
  /-- VCVT (R332): Converts elements between format slots. -/
  | vcvt (d a : BitVec 5) (s : BitVec 2) (m : BitVec 5) (f : BitVec 2) (z e : BitVec 1)
  /-- VQNT (R333): Quantises an FP32 tile, tensor-scaled or nested. -/
  | vqnt (d a b : BitVec 5) (f : BitVec 2)
  /-- VDQN (R334): Dequantises a tile to FP32. -/
  | vdqn (d a b : BitVec 5) (f : BitVec 2)
  /-- VRNS (R335): Converts int32 or FP32 elements to RA32. -/
  | vrns (d a m : BitVec 5) (f z e : BitVec 1)
  /-- VCRT (R335): Converts RA32 elements to int32 or FP32. -/
  | vcrt (d a m : BitVec 5) (f z e : BitVec 1)
  /-- VACR (R336): Reads a window of an accumulator slot into a tile. -/
  | vacr (d z b : BitVec 5)
  /-- VACW (R336): Writes or adds a tile into a window of an accumulator slot. -/
  | vacw (s z b m : BitVec 5) (i n e : BitVec 1)
  /-- CPY (R350): Linear copy of B bytes with a promise. -/
  | cpy (d a b : BitVec 6) (c : BitVec 3) (n : BitVec 1) (k : BitVec 2)
  /-- CPY2 (R351): Two-dimensional strided copy. -/
  | cpy2 (d a b : BitVec 6) (c : BitVec 3) (n : BitVec 1) (k : BitVec 2)
  /-- CPYT (R352): Moves a box between a tensor and the scratchpad. -/
  | cpyt (d a b : BitVec 6) (c : BitVec 3) (n : BitVec 1) (k : BitVec 2)
  /-- GTH (R353): Gathers tensor rows into the scratchpad by an index list. -/
  | gth (d a b : BitVec 6) (c : BitVec 3) (n : BitVec 1) (k : BitVec 2)
  /-- SCT (R353): Scatters scratchpad rows into tensor rows by an index list. -/
  | sct (d a b : BitVec 6) (c : BitVec 3) (n : BitVec 1) (k : BitVec 2)
  /-- CPYS (R355): Copies a shadowed tensor's visible copy onto its hidden copy. -/
  | cpys (d a b : BitVec 6) (c : BitVec 3) (n : BitVec 1) (k : BitVec 2)
  /-- PUB (R356): Publishes a shadowed tensor by inverting its visible bit at one instant. -/
  | pub (d a b : BitVec 6) (c : BitVec 3) (n : BitVec 1) (k : BitVec 2)
  /-- WPRG (R357): Programs weight space through the Voicer, into the shadow bank when paired. -/
  | wprg (d a b : BitVec 6) (c : BitVec 3) (n : BitVec 1) (k : BitVec 2)
  /-- WVFY (R358): Compares weight bytes with a source and writes a result. -/
  | wvfy (d a b : BitVec 6) (c : BitVec 3) (n : BitVec 1) (k : BitVec 2)
  /-- WDIG (R359): Writes an SM3 digest of a region's bank to the scratchpad. -/
  | wdig (d a b : BitVec 6) (c : BitVec 3) (n : BitVec 1) (k : BitVec 2)
  /-- CRED (R362): Collective reduction to the root. -/
  | cred (d a b : BitVec 6) (c : BitVec 3) (n : BitVec 1) (k : BitVec 2)
  /-- CAG (R362): Collective all-gather. -/
  | cag (d a b : BitVec 6) (c : BitVec 3) (n : BitVec 1) (k : BitVec 2)
  /-- CBCT (R362): Collective broadcast from the root. -/
  | cbct (d a b : BitVec 6) (c : BitVec 3) (n : BitVec 1) (k : BitVec 2)
  /-- CWAIT (R364): Stops decoding until earlier commands with promise at most xa complete. -/
  | cwait (a : BitVec 6)
  /-- CSIG (R365): After earlier commands complete, increments a completion object with release. -/
  | csig (a : BitVec 6) (c : BitVec 3)
  /-- CFNC (R365): Issues once earlier commands complete and are visible at its scope. -/
  | cfnc (c : BitVec 3)
  /-- CPRQ (R366): Reads the state of a copy command by cn. -/
  | cprq (d a : BitVec 6)
  /-- JOBOPEN (R79): Opens a job on a die, reading its weight region table. -/
  | jobopen (p : Packet)
  /-- JOBCLOSE (R89): Closes a job at the host processor die, setting its OUT. -/
  | jobclose (p : Packet)
  /-- PHASEDEF (R77): Defines a phase with its graph count. -/
  | phasedef (p : Packet)
  /-- GRAPHDEF (R77): Defines a graph with its launch count. -/
  | graphdef (p : Packet)
  /-- LAUNCH (R80): Enters a launch into the die's admission queue as waiting. -/
  | launch (p : Packet)
  /-- CANCEL (R91): Cancels a launch, graph, phase or job on every die. -/
  | cancel (p : Packet)
  /-- SLICE (R83): Schedules a gang slice of active phases at a DCC start. -/
  | slice (p : Packet)
  /-- QUERY (R86): Requests a residency report. -/
  | query (p : Packet)
  /-- LAUNCH_ADMISSION (R46): Front end considers an eligible launch, makes the binding read, and admits it starting UMIN units per stage. -/
  | launchAdmission (lid : Nat)
  /-- LAUNCH_BLOCKING (R81): A launch passed over for 2^24 reference cycles becomes blocking. -/
  | launchBlocking (lid : Nat)
  /-- SLICE_START (R85): At the slice's start DCC, units of inactive phases are pre-empted and newly active phases become eligible. -/
  | sliceStart (die : Nat)
  /-- YIELD_REQUEST_POST (R106): The DWS posts a slice yield request 240,000 reference cycles before the slice start. -/
  | yieldRequestPost (u : Nat)
  /-- UNIT_START (R100): A placed, resumed or restored unit's voice 0 issues its first bundle, spaced per power zone. -/
  | unitStart (u : Nat)
  /-- DWS_SAMPLE (R101): Every 1,024 reference cycles the DWS samples each queue-fed stage's input queue. -/
  | dwsSample (lid stg : Nat)
  /-- THERMAL_SAMPLE (R429): Every 100 µs core temperatures are read and thermal states entered or left. -/
  | thermalSample (die : Nat) (temps : List Nat)
  /-- STAT (R432): A valve's status answer arrives, possibly ending coolant fallback. -/
  | stat (die zone opening flow inlet : Nat) (bad : Bool)
  /-- VALVE_RESEND (R432): An unanswered Valve message times out and is resent, up to 3 times. -/
  | valveResend (die zone : Nat)
  /-- MIGRATION_MOVE (R110): Once every unit on the hot core is stopped, images are moved and the core map exchanged. -/
  | migrationMove (die core : Nat)
  /-- MIGRATION_ABANDON (R109): A migration whose units have not stopped by the deadline is abandoned. -/
  | migrationAbandon (die core : Nat)
  /-- OFFLINE_MOVE (R431): Units of a core past the offline threshold are stopped and moved. -/
  | offlineMove (die core : Nat)
  /-- SYNC_STALL (R115): A sync wait reaching 2^20 resident cycles raises the sync-stall fault. -/
  | syncStall (u : Nat)
  /-- SWAP_OUT (R117): A team whose earliest wait has lasted WTHR is saved and its slots freed. -/
  | swapOut (u : Nat)
  /-- PREADY (R216): Host reports a page ready, waking waiting teams. -/
  | pready (m : XlatMsg)
  /-- INVAL (R218): Host invalidates translations of pages or a job. -/
  | inval (m : XlatMsg)
  /-- INVACK (R218): The die acknowledges an INVAL once pins and old accesses are gone. -/
  | invack (die : Nat)
  /-- ENGINE_ISSUE (R104): An engine chooses a ready command by arbitration and issues it. -/
  | engineIssue (die core : Nat) (e : Engine)
  /-- MATRIX_COMMAND_COMPLETE (R256): A matrix command completes, writing results and LAN in one act. -/
  | matrixCommandComplete (u j cn : Nat)
  /-- VECTOR_COMMAND_COMPLETE (R309): A vector command writes all its results in one act at completion. -/
  | vectorCommandComplete (u j : Nat)
  /-- COPY_PIECE_LAND (R346): A copy piece lands, becoming visible and decrementing a barrier. -/
  | copyPieceLand (u j cn piece : Nat)
  /-- COPY_COMMAND_COMPLETE (R337): A copy command completes and its completion is recorded. -/
  | copyCommandComplete (u j cn : Nat)
  /-- TIMED_COMMAND_STAMP (R263): An armed timed command enters the array when TCLK equals its stamp. -/
  | timedCommandStamp (u j : Nat)
  /-- MERGE_GROUP_CLOSE (R271): A merge group's deadline arrives and it closes to compete as one command. -/
  | mergeGroupClose (die core g : Nat)
  /-- CONSORT_TIMEOUT (R268): A consort wait of 2^20 matrix cycles breaks the operation. -/
  | consortTimeout (u j : Nat)
  /-- MISSED_PROMISE (R345): TCLK passes a copy command's promise while it is incomplete. -/
  | missedPromise (u j cn : Nat)
  /-- COLLECTIVE_TIMEOUT (R362): A collective member waiting 2^28 copy cycles completes with TIMEOUT. -/
  | collectiveTimeout (u j cn : Nat)
  /-- SWAP_BEGIN (R244): At an MSWP's stamp the region's GEN rises and ACT inverts. -/
  | swapBegin (u j : Nat)
  /-- SWAP_LAND (R244): The swap lands on a home core at its first command boundary after the signal. -/
  | swapLand (die core : Nat) (region : Nat)
  /-- GLOBAL_HOLD (R240): A late beat holds the core for a fixed count of matrix cycles. -/
  | globalHold (die core : Nat) (cause : HoldCause)
  /-- VOICER_ROW_PROGRAM (R247): The Voicer completes a row's write-and-check. -/
  | voicerRowProgram (u j cn : Nat) (row : Nat) (passes : Nat)
  /-- VOICER_ROW_REWRITE (R250): A row corrected on re-read is rewritten when its bank is idle. -/
  | voicerRowRewrite (w : RowWrite)
  /-- VERTICAL_BUS_RETIRE (R253): The Drone retires a lasting-faulty vertical bus. -/
  | verticalBusRetire (die core bus : Nat)
  /-- CORRECTED_ERROR (R437): A corrected soft error is logged toward the lasting-fault rule. -/
  | correctedError (die : Nat) (w : Structure) (hours : Nat) (lost : Option Lost)
  /-- ENGINE_RESET (R454): An uncorrectable engine error abandons its commands and reinitialises it. -/
  | engineReset (die core : Nat) (e : Engine) (bad vregs : List (Nat × Nat)) (hours : Nat)
  /-- ENGINE_RESET_END (R455): After 1,024 cycles contexts present journalled commands for replay. -/
  | engineResetEnd (die core : Nat) (e : Engine)
  /-- UNDERVOLT_INTERVAL (R435): Every 10 ms Bellows lowers or raises a domain's voltage by error rate. -/
  | undervoltInterval (die zone errs lastSecond : Nat)
  /-- UNDERVOLT_UE (R436): An uncorrectable error while undervolted restores nominal voltage and ends affected units. -/
  | undervoltUe (die zone : Nat) (units : List Nat)
  /-- UNDERVOLT_REENABLE (R436): After 60 s undervolting is enabled again on the domain. -/
  | undervoltReenable (die zone : Nat)
  /-- REFRESH (R434): An LPDDR-6 bank is refreshed at its interval. -/
  | refresh (die iface bank temp : Nat)
  /-- CLOCK_SWITCH (R428): A domain switches to its new divisor on a reference edge at least 480 cycles after the change. -/
  | clockSwitch (die core : Nat) (dom : Domain)
  /-- BELLOWS_GRANT (R425): Bellows grants a zone's head current request when capacity frees. -/
  | bellowsGrant (die zone : Nat)
  /-- BREATH_PREPOSITION (R427): Bellows raises regulators 64 matrix cycles before a breath window opens. -/
  | breathPreposition (u : Nat)
  /-- CONTEXT_SAVE (R449): After the drain, the frame and vector record are written and slots freed. -/
  | contextSave (u : Nat)
  /-- ENGINE_EVENT_DELIVERY (R446): A queued engine event is delivered to a qualifying voice. -/
  | engineEventDelivery (u : Nat)
  /-- UNIT_FAIL (R458): A unit failing class F stops, discards its version, and is retried or fails the launch. -/
  | unitFail (u : Nat)
  /-- MWAIT_DEADLINE (R403): DCC reaches an MWAIT deadline. -/
  | mwaitDeadline (u j : Nat)
  /-- CANCEL_COMPLETE (R91): The counter records cancelled when every unit of the launch has stopped. -/
  | cancelComplete (lid : Nat)
  /-- COMPLETION_REPORT (R459): A terminal launch state reaches the host processor die, updating graph, phase and job counters. -/
  | completionReport (lid : Nat)
  /-- DONE (R93): A completion record is sent once its stores are visible and the work area released. -/
  | done (level : Nat) (id : Nat)
  /-- UPDATE_LINE_MERGE (R194): An evicted update-only line is merged at its L2 home. -/
  | updateLineMerge (line : Nat)
  /-- HOST_WRITE (R460): A host posted write arrives on the memory channel. -/
  | hostWrite (pa : Nat) (bytes : List Byte) (key : Nat)
  /-- UALINK_READ_REQUEST (R461): A UALink read or atomic request is refused as unsupported. -/
  | ualinkReadRequest (die port : Nat)
  /-- POWER_ON_RESET (R462): Dies leave reset and run the boot sequence. -/
  | powerOnReset (x : Found)
  /-- GET_VERSION (R465): SPDM version request. -/
  | getVersion (die : Nat)
  /-- GET_CAPABILITIES (R465): SPDM capabilities request. -/
  | getCapabilities (die : Nat)
  /-- NEGOTIATE_ALGORITHMS (R465): SPDM algorithm negotiation. -/
  | negotiateAlgorithms (die : Nat)
  /-- GET_DIGESTS (R465): SPDM certificate digests request. -/
  | getDigests (die : Nat)
  /-- GET_CERTIFICATE (R465): SPDM certificate chain request. -/
  | getCertificate (die slot : Nat)
  /-- CHALLENGE (R465): SPDM challenge-response authentication. -/
  | challenge (die : Nat) (nonce : List Byte)
  /-- GET_MEASUREMENTS (R464): SPDM request for measurement blocks. -/
  | getMeasurements (die index : Nat)
  /-- KEY_EXCHANGE (R465): SPDM session key exchange. -/
  | keyExchange (die : Nat)
  /-- FINISH (R465): SPDM session finish. -/
  | finish (die : Nat)
  /-- END_SESSION (R465): Ends an SPDM secured session. -/
  | endSession (die : Nat)
  /-- KEYSET (R465): Installs a job's keys. -/
  | keyset (die jobid keyid : Nat) (xts1 xts2 onDie : BitVec 128)
  /-- KEYDEL (R465): Erases a job's keys. -/
  | keydel (die jobid : Nat)
  /-- REGMK (R465): Creates a weight region. -/
  | regmk (die : Nat) (r : RegionSpec)
  /-- REGDEL (R465): Destroys a weight region. -/
  | regdel (die name : Nat)
  /-- REGLIST (R465): Returns region-list records. -/
  | reglist (die first count : Nat)
  /-- REMEAS (R466): Measures a region or all regions again. -/
  | remeas (die name : Nat)
  /-- CNTRD (R439): Returns the die's event counters. -/
  | cntrd (die : Nat)
  /-- CFGSET (R465): Sets throttle threshold, fault window and undervolting enables. -/
  | cfgset (die tt window : Nat) (undervolt : List Bool)
  /-- RCVDATA (R463): Delivers a recovery firmware image piece, rewriting and resetting on the last valid piece. -/
  | rcvdata (die off : Nat) (bytes : List Byte) (last : Bool)
  /-- POWER_LOSS (R248): Power is lost: every volatile state and every installed job key is gone, and a region with POPEN set is left to be marked damaged at the next start. -/
  | powerLoss
  /-- SWAP_SIGNAL_ARRIVAL (R244): The swap signal reaches a home core within 64 of its matrix cycles, and the core closes and issues every merge group keyed to the region at the old GEN. -/
  | swapSignalArrival (die core : Nat) (region : Nat)
  /-- DATA_ARRIVAL (R186): The data of an LD that missed L1, of an LDW or of an AMR arrive, an unbounded time after issue, and are written to xd, releasing any voice stalled on that register. -/
  | dataArrival (u j r : Nat)
  /-- HOLDING_DIE_ANSWER (R417): The holding compute die or the host processor die answers a CNCL or CMPLR, and the stalled voice receives its status or counter value. -/
  | holdingDieAnswer (u j : Nat)
  /-- HOST_READ_REQUEST (R460): A host read request for die memory arrives on the memory channel, merging update-only lines and reading committed data at system scope. -/
  | hostReadRequest (pa n key : Nat)
deriving DecidableEq, Repr

end Sys2Proof
end

