-- ==== Sys2Proof/WellFormed.lean ====
section
/-! DEFINITION. Which terms of `Instr` are words of a stream: the sub-codes are assigned (check 5 of R141), the fields
that depend on one another agree (check 6), and the registers lie in the stream's files (check 7). -/
namespace Sys2Proof

/-- Check 5 of R141: every sub-code is assigned. -/
def Instr.subOk : Instr → Bool
  | .cmp _ _ _ _ c => decide (c.toNat < 6)
  | .cmpi _ _ _ _ c => decide (c.toNat < 6)
  | .loopImm _ l _ _ => decide (l.toNat < 3)
  | .loopReg _ l _ _ => decide (l.toNat < 3)
  | .loopxImm _ l _ _ => decide (l.toNat < 3)
  | .loopxReg _ l _ _ => decide (l.toNat < 3)
  | .lbrk _ _ _ l => decide (l.toNat < 3)
  | .ld _ _ _ w x _ => !(decide (w.toNat = 3) && decide (x.toNat = 1))
  | .lds _ _ _ w x _ => !(decide (w.toNat = 3) && decide (x.toNat = 1))
  | .ldw _ _ _ w x _ => !(decide (w.toNat = 3) && decide (x.toNat = 1))
  | .amo _ _ _ _ _ c => decide (c.toNat < 6)
  | .amr _ _ _ _ f c => decide (f.toNat < 6) && decide (c.toNat < 6)
  | .fsgn _ _ _ _ m _ => decide (m.toNat < 3)
  | .fcmp _ _ _ _ c _ => decide (c.toNat < 6)
  | .fcvt _ _ _ _ _ f g => decide (f.toNat ≠ g.toNat)
  | .span _ c => decide (c.toNat < 6)
  | .fence _ c => decide (c.toNat < 6)
  | .cflush _ _ c => decide (c.toNat < 6)
  | .bari _ _ _ c => decide (c.toNat < 6)
  | .semw _ _ _ c => decide (c.toNat < 6)
  | .semp _ _ _ c => decide (c.toNat < 6)
  | .rdv _ e => decide (e.toNat ≠ 0)
  | .ekill _ e => decide (e.toNat ≠ 0)
  | .probe _ _ w => decide (w.toNat < 3)
  | .mma _ a w p q d _ t c _ => decide (p.toNat ≠ q.toNat) && (decide (d.toNat = 0) || decide (q.toNat = 1)) && (decide (t.toNat = 0) || decide (c.toNat = 0)) && decide (a.toNat % 2 = 0) && decide (w.toNat % 2 = 0)
  | .mmag _ a w p q _ _ => decide (p.toNat ≠ q.toNat) && decide (a.toNat % 2 = 0) && decide (w.toNat % 2 = 0)
  | .mpref a => decide (a.toNat % 2 = 0)
  | .munp a => decide (a.toNat % 2 = 0)
  | .msync _ _ s => decide (s.toNat < 6)
  | .vld _ _ _ m _ _ => decide (m.toNat < 8)
  | .vst _ _ _ m _ => decide (m.toNat < 8)
  | .vldg _ _ _ m _ _ => decide (m.toNat < 8)
  | .vstg _ _ _ m _ => decide (m.toNat < 8)
  | .vmov _ _ m _ _ => decide (m.toNat < 8)
  | .vsplat _ _ m _ _ => decide (m.toNat < 8)
  | .viota _ m k _ _ => decide (m.toNat < 8) && decide (k.toNat < 3)
  | .vfadd _ _ _ m _ _ _ => decide (m.toNat < 8)
  | .vfsub _ _ _ m _ _ _ => decide (m.toNat < 8)
  | .vfmul _ _ _ m _ _ _ => decide (m.toNat < 8)
  | .vfmin _ _ _ m _ _ => decide (m.toNat < 8)
  | .vfmax _ _ _ m _ _ => decide (m.toNat < 8)
  | .vfabs _ _ m _ _ => decide (m.toNat < 8)
  | .vfneg _ _ m _ _ => decide (m.toNat < 8)
  | .vadd _ _ _ m _ _ _ _ => decide (m.toNat < 8)
  | .vsub _ _ _ m _ _ _ _ => decide (m.toNat < 8)
  | .vmul _ _ _ m _ _ _ => decide (m.toNat < 8)
  | .vmin _ _ _ m _ _ _ => decide (m.toNat < 8)
  | .vmax _ _ _ m _ _ _ => decide (m.toNat < 8)
  | .vand _ _ _ m _ _ => decide (m.toNat < 8)
  | .vor _ _ _ m _ _ => decide (m.toNat < 8)
  | .vxor _ _ _ m _ _ => decide (m.toNat < 8)
  | .vshl _ _ _ m _ _ => decide (m.toNat < 8)
  | .vshr _ _ _ m _ _ => decide (m.toNat < 8)
  | .vsra _ _ _ m _ _ => decide (m.toNat < 8)
  | .vfcmp d _ _ m _ c => decide (m.toNat < 8) && decide (d.toNat < 8) && decide (c.toNat < 6)
  | .vcmp d _ _ m _ c => decide (m.toNat < 8) && decide (d.toNat < 8) && decide (c.toNat < 6)
  | .vsel _ _ _ m => decide (m.toNat < 8)
  | .mlog d a b _ => decide (d.toNat < 8) && decide (a.toNat < 8) && decide (b.toNat < 8)
  | .vrsqs _ _ m _ _ => decide (m.toNat < 8)
  | .vrcps _ _ m _ _ => decide (m.toNat < 8)
  | .vexs _ _ m _ _ => decide (m.toNat < 8)
  | .vlgs _ _ m _ _ => decide (m.toNat < 8)
  | .vred _ _ x o m _ => decide (m.toNat < 8) && decide (x.toNat < 3) && decide (o.toNat < 6)
  | .vscan _ _ _ _ o h => decide (h.toNat < 8) && decide (o.toNat < 6)
  | .vcvt _ _ _ m _ _ _ => decide (m.toNat < 8)
  | .vrns _ _ m _ _ _ => decide (m.toNat < 8)
  | .vcrt _ _ m _ _ _ => decide (m.toNat < 8)
  | .vacr _ z _ => decide (z.toNat < 16)
  | .vacw _ z _ m i n _ => decide (m.toNat < 8) && decide (z.toNat < 16) && (decide (i.toNat = 0) || decide (n.toNat = 1))
  | .cpy _ a b c _ k => decide (c.toNat < 6) && decide (k.toNat < 3) && decide (a.toNat % 2 = 0) && decide (b.toNat % 2 = 0)
  | .cpy2 _ a b c _ k => decide (c.toNat < 6) && decide (k.toNat < 3) && decide (a.toNat % 2 = 0) && decide (b.toNat % 2 = 0)
  | .cpyt _ a b c _ k => decide (c.toNat < 6) && decide (k.toNat < 3) && decide (a.toNat % 2 = 0) && decide (b.toNat % 2 = 0)
  | .gth _ a b c _ k => decide (c.toNat < 6) && decide (k.toNat < 3) && decide (a.toNat % 2 = 0) && decide (b.toNat % 2 = 0)
  | .sct _ a b c _ k => decide (c.toNat < 6) && decide (k.toNat < 3) && decide (a.toNat % 2 = 0) && decide (b.toNat % 2 = 0)
  | .cpys _ a b c _ k => decide (c.toNat < 6) && decide (k.toNat < 3) && decide (a.toNat % 2 = 0) && decide (b.toNat % 2 = 0)
  | .pub _ a b c _ k => decide (c.toNat < 6) && decide (k.toNat < 3) && decide (a.toNat % 2 = 0) && decide (b.toNat % 2 = 0)
  | .wprg _ a b c _ k => decide (c.toNat < 6) && decide (k.toNat < 3) && decide (a.toNat % 2 = 0) && decide (b.toNat % 2 = 0)
  | .wvfy _ a b c _ k => decide (c.toNat < 6) && decide (k.toNat < 3) && decide (a.toNat % 2 = 0) && decide (b.toNat % 2 = 0)
  | .wdig _ a b c _ k => decide (c.toNat < 6) && decide (k.toNat < 3) && decide (a.toNat % 2 = 0) && decide (b.toNat % 2 = 0)
  | .cred _ a b c _ k => decide (c.toNat < 6) && decide (k.toNat < 3) && decide (a.toNat % 2 = 0) && decide (b.toNat % 2 = 0)
  | .cag _ a b c _ k => decide (c.toNat < 6) && decide (k.toNat < 3) && decide (a.toNat % 2 = 0) && decide (b.toNat % 2 = 0)
  | .cbct _ a b c _ k => decide (c.toNat < 6) && decide (k.toNat < 3) && decide (a.toNat % 2 = 0) && decide (b.toNat % 2 = 0)
  | .csig _ c => decide (c.toNat < 6)
  | .cfnc c => decide (c.toNat < 6)
  | _ => true

/-- Check 6 of R141 where one field's value decides whether another must be zero (R201, R305). -/
def Instr.zeroOk : Instr → Bool
  | .fcvt _ _ _ _ t _ g => (decide (t.toNat = 0) || decide (g.toNat < 5))
  | .vld _ _ _ m z e => (decide (e.toNat = 1) || (decide (m.toNat = 0) && decide (z.toNat = 0)))
  | .vst _ _ _ m e => (decide (e.toNat = 1) || (decide (m.toNat = 0)))
  | .vldg _ _ _ m z e => (decide (e.toNat = 1) || (decide (m.toNat = 0) && decide (z.toNat = 0)))
  | .vstg _ _ _ m e => (decide (e.toNat = 1) || (decide (m.toNat = 0)))
  | .vmov _ _ m z e => (decide (e.toNat = 1) || (decide (m.toNat = 0) && decide (z.toNat = 0)))
  | .vsplat _ _ m z e => (decide (e.toNat = 1) || (decide (m.toNat = 0) && decide (z.toNat = 0)))
  | .viota _ m _ z e => (decide (e.toNat = 1) || (decide (m.toNat = 0) && decide (z.toNat = 0)))
  | .vfadd _ _ _ m _ z e => (decide (e.toNat = 1) || (decide (m.toNat = 0) && decide (z.toNat = 0)))
  | .vfsub _ _ _ m _ z e => (decide (e.toNat = 1) || (decide (m.toNat = 0) && decide (z.toNat = 0)))
  | .vfmul _ _ _ m _ z e => (decide (e.toNat = 1) || (decide (m.toNat = 0) && decide (z.toNat = 0)))
  | .vfmin _ _ _ m z e => (decide (e.toNat = 1) || (decide (m.toNat = 0) && decide (z.toNat = 0)))
  | .vfmax _ _ _ m z e => (decide (e.toNat = 1) || (decide (m.toNat = 0) && decide (z.toNat = 0)))
  | .vfabs _ _ m z e => (decide (e.toNat = 1) || (decide (m.toNat = 0) && decide (z.toNat = 0)))
  | .vfneg _ _ m z e => (decide (e.toNat = 1) || (decide (m.toNat = 0) && decide (z.toNat = 0)))
  | .vadd _ _ _ m _ _ z e => (decide (e.toNat = 1) || (decide (m.toNat = 0) && decide (z.toNat = 0)))
  | .vsub _ _ _ m _ _ z e => (decide (e.toNat = 1) || (decide (m.toNat = 0) && decide (z.toNat = 0)))
  | .vmul _ _ _ m _ z e => (decide (e.toNat = 1) || (decide (m.toNat = 0) && decide (z.toNat = 0)))
  | .vmin _ _ _ m _ z e => (decide (e.toNat = 1) || (decide (m.toNat = 0) && decide (z.toNat = 0)))
  | .vmax _ _ _ m _ z e => (decide (e.toNat = 1) || (decide (m.toNat = 0) && decide (z.toNat = 0)))
  | .vand _ _ _ m z e => (decide (e.toNat = 1) || (decide (m.toNat = 0) && decide (z.toNat = 0)))
  | .vor _ _ _ m z e => (decide (e.toNat = 1) || (decide (m.toNat = 0) && decide (z.toNat = 0)))
  | .vxor _ _ _ m z e => (decide (e.toNat = 1) || (decide (m.toNat = 0) && decide (z.toNat = 0)))
  | .vshl _ _ _ m z e => (decide (e.toNat = 1) || (decide (m.toNat = 0) && decide (z.toNat = 0)))
  | .vshr _ _ _ m z e => (decide (e.toNat = 1) || (decide (m.toNat = 0) && decide (z.toNat = 0)))
  | .vsra _ _ _ m z e => (decide (e.toNat = 1) || (decide (m.toNat = 0) && decide (z.toNat = 0)))
  | .vfcmp _ _ _ m e _ => (decide (e.toNat = 1) || (decide (m.toNat = 0)))
  | .vcmp _ _ _ m e _ => (decide (e.toNat = 1) || (decide (m.toNat = 0)))
  | .vrsqs _ _ m z e => (decide (e.toNat = 1) || (decide (m.toNat = 0) && decide (z.toNat = 0)))
  | .vrcps _ _ m z e => (decide (e.toNat = 1) || (decide (m.toNat = 0) && decide (z.toNat = 0)))
  | .vexs _ _ m z e => (decide (e.toNat = 1) || (decide (m.toNat = 0) && decide (z.toNat = 0)))
  | .vlgs _ _ m z e => (decide (e.toNat = 1) || (decide (m.toNat = 0) && decide (z.toNat = 0)))
  | .vred _ _ _ _ m e => (decide (e.toNat = 1) || (decide (m.toNat = 0)))
  | .vcvt _ _ _ m _ z e => (decide (e.toNat = 1) || (decide (m.toNat = 0) && decide (z.toNat = 0)))
  | .vrns _ _ m _ z e => (decide (e.toNat = 1) || (decide (m.toNat = 0) && decide (z.toNat = 0)))
  | .vcrt _ _ m _ z e => (decide (e.toNat = 1) || (decide (m.toNat = 0) && decide (z.toNat = 0)))
  | .vacw _ _ _ m _ _ e => (decide (e.toNat = 1) || (decide (m.toNat = 0)))
  | _ => true

/-- Check 7 of R141 in an engine context whose team owns `acc` slots: x0-x31, p0-p15, z below ACC. -/
def Instr.regsOk (acc : Nat) : Instr → Bool
  | .add _ d a b => decide (d.toNat < 32) && decide (a.toNat < 32) && decide (b.toNat < 32)
  | .sub _ d a b => decide (d.toNat < 32) && decide (a.toNat < 32) && decide (b.toNat < 32)
  | .and _ d a b => decide (d.toNat < 32) && decide (a.toNat < 32) && decide (b.toNat < 32)
  | .or _ d a b => decide (d.toNat < 32) && decide (a.toNat < 32) && decide (b.toNat < 32)
  | .xor _ d a b => decide (d.toNat < 32) && decide (a.toNat < 32) && decide (b.toNat < 32)
  | .shl _ d a b => decide (d.toNat < 32) && decide (a.toNat < 32) && decide (b.toNat < 32)
  | .shr _ d a b => decide (d.toNat < 32) && decide (a.toNat < 32) && decide (b.toNat < 32)
  | .sra _ d a b => decide (d.toNat < 32) && decide (a.toNat < 32) && decide (b.toNat < 32)
  | .mul _ d a b => decide (d.toNat < 32) && decide (a.toNat < 32) && decide (b.toNat < 32)
  | .mulh _ d a b => decide (d.toNat < 32) && decide (a.toNat < 32) && decide (b.toNat < 32)
  | .min _ d a b => decide (d.toNat < 32) && decide (a.toNat < 32) && decide (b.toNat < 32)
  | .max _ d a b => decide (d.toNat < 32) && decide (a.toNat < 32) && decide (b.toNat < 32)
  | .agen _ d a b _ => decide (d.toNat < 32) && decide (a.toNat < 32) && decide (b.toNat < 32)
  | .addi _ d a _ => decide (d.toNat < 32) && decide (a.toNat < 32)
  | .andi _ d a _ => decide (d.toNat < 32) && decide (a.toNat < 32)
  | .ori _ d a _ => decide (d.toNat < 32) && decide (a.toNat < 32)
  | .xori _ d a _ => decide (d.toNat < 32) && decide (a.toNat < 32)
  | .shli _ d a _ => decide (d.toNat < 32) && decide (a.toNat < 32)
  | .shri _ d a _ => decide (d.toNat < 32) && decide (a.toNat < 32)
  | .srai _ d a _ => decide (d.toNat < 32) && decide (a.toNat < 32)
  | .lui _ d _ => decide (d.toNat < 32)
  | .cmp _ p a b _ => decide (p.toNat < 16) && decide (a.toNat < 32) && decide (b.toNat < 32)
  | .cmpi _ p a _ _ => decide (p.toNat < 16) && decide (a.toNat < 32)
  | .plog _ d a b _ => decide (d.toNat < 16) && decide (a.toNat < 16) && decide (b.toNat < 16)
  | .sel _ d a b p => decide (d.toNat < 32) && decide (a.toNat < 32) && decide (b.toNat < 32) && decide (p.toNat < 16)
  | .brp _ p _ _ => decide (p.toNat < 16)
  | .jr _ a => decide (a.toNat < 32)
  | .loopReg _ _ r _ => decide (r.toNat < 32)
  | .loopxReg _ _ r _ => decide (r.toNat < 32)
  | .lbrk _ p _ _ => decide (p.toNat < 16)
  | .mfs _ d _ => decide (d.toNat < 32)
  | .mts _ a _ => decide (a.toNat < 32)
  | .mma z a w _ _ _ _ _ _ _ => decide (a.toNat < 32) && decide (w.toNat < 32) && decide (z.toNat < acc)
  | .mmag z a w _ _ _ _ => decide (a.toNat < 32) && decide (w.toNat < 32) && decide (z.toNat < acc)
  | .mfmt b _ _ => decide (b.toNat < 32)
  | .mfmtTs a b => decide (a.toNat < 32) && decide (b.toNat < 32)
  | .mzero z b => decide (b.toNat < 32) && decide (z.toNat < acc)
  | .mdcy z a b => decide (a.toNat < 32) && decide (b.toNat < 32) && decide (z.toNat < acc)
  | .mdcySet z a => decide (a.toNat < 32) && decide (z.toNat < acc)
  | .mdrn z a b _ _ _ => decide (a.toNat < 32) && decide (b.toNat < 32) && decide (z.toNat < acc)
  | .mldz z a b => decide (a.toNat < 32) && decide (b.toNat < 32) && decide (z.toNat < acc)
  | .mpref a => decide (a.toNat < 32)
  | .mprefW a b => decide (a.toNat < 32) && decide (b.toNat < 32)
  | .munp a => decide (a.toNat < 32)
  | .mswp b _ => decide (b.toNat < 32)
  | .mbnk a _ => decide (a.toNat < 32)
  | .mhold b => decide (b.toNat < 32)
  | .mtrq a b => decide (a.toNat < 32) && decide (b.toNat < 32)
  | .msync a _ _ => decide (a.toNat < 32)
  | .mstat a => decide (a.toNat < 32)
  | .vacr _ z _ => decide (z.toNat < acc)
  | .vacw _ z _ _ _ _ _ => decide (z.toNat < acc)
  | .cpy d a b _ _ _ => decide (d.toNat < 32) && decide (a.toNat < 32) && decide (b.toNat < 32)
  | .cpy2 d a b _ _ _ => decide (d.toNat < 32) && decide (a.toNat < 32) && decide (b.toNat < 32)
  | .cpyt d a b _ _ _ => decide (d.toNat < 32) && decide (a.toNat < 32) && decide (b.toNat < 32)
  | .gth d a b _ _ _ => decide (d.toNat < 32) && decide (a.toNat < 32) && decide (b.toNat < 32)
  | .sct d a b _ _ _ => decide (d.toNat < 32) && decide (a.toNat < 32) && decide (b.toNat < 32)
  | .cpys d a b _ _ _ => decide (d.toNat < 32) && decide (a.toNat < 32) && decide (b.toNat < 32)
  | .pub d a b _ _ _ => decide (d.toNat < 32) && decide (a.toNat < 32) && decide (b.toNat < 32)
  | .wprg d a b _ _ _ => decide (d.toNat < 32) && decide (a.toNat < 32) && decide (b.toNat < 32)
  | .wvfy d a b _ _ _ => decide (d.toNat < 32) && decide (a.toNat < 32) && decide (b.toNat < 32)
  | .wdig d a b _ _ _ => decide (d.toNat < 32) && decide (a.toNat < 32) && decide (b.toNat < 32)
  | .cred d a b _ _ _ => decide (d.toNat < 32) && decide (a.toNat < 32) && decide (b.toNat < 32)
  | .cag d a b _ _ _ => decide (d.toNat < 32) && decide (a.toNat < 32) && decide (b.toNat < 32)
  | .cbct d a b _ _ _ => decide (d.toNat < 32) && decide (a.toNat < 32) && decide (b.toNat < 32)
  | .cwait a => decide (a.toNat < 32)
  | .csig a _ => decide (a.toNat < 32)
  | .cprq d a => decide (d.toNat < 32) && decide (a.toNat < 32)
  | _ => true

/-- The stream whose map holds the word: none for a step that is not a word. -/
def Instr.home : Instr → Option Half
  | .nop _ => some .common
  | .add _ _ _ _ => some .common
  | .sub _ _ _ _ => some .common
  | .and _ _ _ _ => some .common
  | .or _ _ _ _ => some .common
  | .xor _ _ _ _ => some .common
  | .shl _ _ _ _ => some .common
  | .shr _ _ _ _ => some .common
  | .sra _ _ _ _ => some .common
  | .mul _ _ _ _ => some .common
  | .mulh _ _ _ _ => some .common
  | .min _ _ _ _ => some .common
  | .max _ _ _ _ => some .common
  | .agen _ _ _ _ _ => some .common
  | .addi _ _ _ _ => some .common
  | .andi _ _ _ _ => some .common
  | .ori _ _ _ _ => some .common
  | .xori _ _ _ _ => some .common
  | .shli _ _ _ _ => some .common
  | .shri _ _ _ _ => some .common
  | .srai _ _ _ _ => some .common
  | .lui _ _ _ => some .common
  | .cmp _ _ _ _ _ => some .common
  | .cmpi _ _ _ _ _ => some .common
  | .plog _ _ _ _ _ => some .common
  | .sel _ _ _ _ _ => some .common
  | .br _ _ => some .common
  | .brp _ _ _ _ => some .common
  | .call _ _ => some .common
  | .jr _ _ => some .common
  | .ret _ => some .common
  | .loopImm _ _ _ _ => some .common
  | .loopReg _ _ _ _ => some .common
  | .loopxImm _ _ _ _ => some .common
  | .loopxReg _ _ _ _ => some .common
  | .lbrk _ _ _ _ => some .common
  | .rep _ _ _ _ _ => some .common
  | .mfs _ _ _ => some .common
  | .mts _ _ _ => some .common
  | .halt _ => some .common
  | .ld _ _ _ _ _ _ => some .control
  | .st _ _ _ _ _ => some .control
  | .lds _ _ _ _ _ _ => some .control
  | .sts _ _ _ _ _ => some .control
  | .ldw _ _ _ _ _ _ => some .control
  | .amo _ _ _ _ _ _ => some .control
  | .amr _ _ _ _ _ _ => some .control
  | .fadd _ _ _ _ _ _ => some .control
  | .fsub _ _ _ _ _ _ => some .control
  | .fmul _ _ _ _ _ _ => some .control
  | .ffma _ _ _ _ _ _ => some .control
  | .fmin _ _ _ _ _ => some .control
  | .fmax _ _ _ _ _ => some .control
  | .fsgn _ _ _ _ _ _ => some .control
  | .fcmp _ _ _ _ _ _ => some .control
  | .fcvt _ _ _ _ _ _ _ => some .control
  | .fsqs _ _ _ => some .control
  | .frcs _ _ _ => some .control
  | .fcls _ _ _ _ => some .control
  | .popc _ _ _ => some .control
  | .clz _ _ _ => some .control
  | .bext _ _ _ _ _ => some .control
  | .span _ _ => some .control
  | .fence _ _ => some .control
  | .cflush _ _ _ => some .control
  | .bari _ _ _ _ => some .control
  | .bara _ _ => some .control
  | .barw _ _ => some .control
  | .mon _ _ => some .control
  | .mwait _ _ _ => some .control
  | .semw _ _ _ _ => some .control
  | .semp _ _ _ _ => some .control
  | .qpush _ _ _ _ => some .control
  | .qpop _ _ _ _ => some .control
  | .qtryPop _ _ _ _ => some .control
  | .qtryPush _ _ _ _ => some .control
  | .fork _ _ _ _ => some .control
  | .rdv _ _ => some .control
  | .ekill _ _ => some .control
  | .yield _ => some .control
  | .park _ => some .control
  | .parkUn _ _ => some .control
  | .retire _ => some .control
  | .cncl _ _ _ _ => some .control
  | .cmplr _ _ _ _ => some .control
  | .brth _ _ _ _ => some .control
  | .acqp _ _ => some .control
  | .relp _ => some .control
  | .clkd _ _ _ => some .control
  | .trap _ _ => some .control
  | .tret _ => some .control
  | .probe _ _ _ => some .control
  | .mma _ _ _ _ _ _ _ _ _ _ => some .matrix
  | .mmag _ _ _ _ _ _ _ => some .matrix
  | .mfmt _ _ _ => some .matrix
  | .mfmtTs _ _ => some .matrix
  | .mfsel _ _ => some .matrix
  | .mzero _ _ => some .matrix
  | .mdcy _ _ _ => some .matrix
  | .mdcySet _ _ => some .matrix
  | .mdrn _ _ _ _ _ _ => some .matrix
  | .mldz _ _ _ => some .matrix
  | .mpref _ => some .matrix
  | .mprefW _ _ => some .matrix
  | .munp _ => some .matrix
  | .mswp _ _ => some .matrix
  | .mbnk _ _ => some .matrix
  | .mhold _ => some .matrix
  | .mholdRel => some .matrix
  | .mtrq _ _ => some .matrix
  | .msync _ _ _ => some .matrix
  | .mstat _ => some .matrix
  | .mnop _ => some .matrix
  | .vshp _ => some .vector
  | .vld _ _ _ _ _ _ => some .vector
  | .vst _ _ _ _ _ => some .vector
  | .vldg _ _ _ _ _ _ => some .vector
  | .vstg _ _ _ _ _ => some .vector
  | .vmov _ _ _ _ _ => some .vector
  | .vsplat _ _ _ _ _ => some .vector
  | .viota _ _ _ _ _ => some .vector
  | .vfadd _ _ _ _ _ _ _ => some .vector
  | .vfsub _ _ _ _ _ _ _ => some .vector
  | .vfmul _ _ _ _ _ _ _ => some .vector
  | .vffma _ _ _ _ _ => some .vector
  | .vfmin _ _ _ _ _ _ => some .vector
  | .vfmax _ _ _ _ _ _ => some .vector
  | .vfabs _ _ _ _ _ => some .vector
  | .vfneg _ _ _ _ _ => some .vector
  | .vadd _ _ _ _ _ _ _ _ => some .vector
  | .vsub _ _ _ _ _ _ _ _ => some .vector
  | .vmul _ _ _ _ _ _ _ => some .vector
  | .vmin _ _ _ _ _ _ _ => some .vector
  | .vmax _ _ _ _ _ _ _ => some .vector
  | .vand _ _ _ _ _ _ => some .vector
  | .vor _ _ _ _ _ _ => some .vector
  | .vxor _ _ _ _ _ _ => some .vector
  | .vshl _ _ _ _ _ _ => some .vector
  | .vshr _ _ _ _ _ _ => some .vector
  | .vsra _ _ _ _ _ _ => some .vector
  | .vfcmp _ _ _ _ _ _ => some .vector
  | .vcmp _ _ _ _ _ _ => some .vector
  | .vsel _ _ _ _ => some .vector
  | .mlog _ _ _ _ => some .vector
  | .vrsqs _ _ _ _ _ => some .vector
  | .vrcps _ _ _ _ _ => some .vector
  | .vexs _ _ _ _ _ => some .vector
  | .vlgs _ _ _ _ _ => some .vector
  | .vred _ _ _ _ _ _ => some .vector
  | .vscan _ _ _ _ _ _ => some .vector
  | .vtrn _ _ => some .vector
  | .vrot _ _ _ _ => some .vector
  | .vperm _ _ _ _ => some .vector
  | .vcvt _ _ _ _ _ _ _ => some .vector
  | .vqnt _ _ _ _ => some .vector
  | .vdqn _ _ _ _ => some .vector
  | .vrns _ _ _ _ _ _ => some .vector
  | .vcrt _ _ _ _ _ _ => some .vector
  | .vacr _ _ _ => some .vector
  | .vacw _ _ _ _ _ _ _ => some .vector
  | .cpy _ _ _ _ _ _ => some .copy
  | .cpy2 _ _ _ _ _ _ => some .copy
  | .cpyt _ _ _ _ _ _ => some .copy
  | .gth _ _ _ _ _ _ => some .copy
  | .sct _ _ _ _ _ _ => some .copy
  | .cpys _ _ _ _ _ _ => some .copy
  | .pub _ _ _ _ _ _ => some .copy
  | .wprg _ _ _ _ _ _ => some .copy
  | .wvfy _ _ _ _ _ _ => some .copy
  | .wdig _ _ _ _ _ _ => some .copy
  | .cred _ _ _ _ _ _ => some .copy
  | .cag _ _ _ _ _ _ => some .copy
  | .cbct _ _ _ _ _ _ => some .copy
  | .cwait _ => some .copy
  | .csig _ _ => some .copy
  | .cfnc _ => some .copy
  | .cprq _ _ => some .copy
  | _ => none

/-- The sync bit of a common or control word (R129). -/
def Instr.sync : Instr → Bool
  | .nop s => decide (s.toNat = 1)
  | .add s _ _ _ => decide (s.toNat = 1)
  | .sub s _ _ _ => decide (s.toNat = 1)
  | .and s _ _ _ => decide (s.toNat = 1)
  | .or s _ _ _ => decide (s.toNat = 1)
  | .xor s _ _ _ => decide (s.toNat = 1)
  | .shl s _ _ _ => decide (s.toNat = 1)
  | .shr s _ _ _ => decide (s.toNat = 1)
  | .sra s _ _ _ => decide (s.toNat = 1)
  | .mul s _ _ _ => decide (s.toNat = 1)
  | .mulh s _ _ _ => decide (s.toNat = 1)
  | .min s _ _ _ => decide (s.toNat = 1)
  | .max s _ _ _ => decide (s.toNat = 1)
  | .agen s _ _ _ _ => decide (s.toNat = 1)
  | .addi s _ _ _ => decide (s.toNat = 1)
  | .andi s _ _ _ => decide (s.toNat = 1)
  | .ori s _ _ _ => decide (s.toNat = 1)
  | .xori s _ _ _ => decide (s.toNat = 1)
  | .shli s _ _ _ => decide (s.toNat = 1)
  | .shri s _ _ _ => decide (s.toNat = 1)
  | .srai s _ _ _ => decide (s.toNat = 1)
  | .lui s _ _ => decide (s.toNat = 1)
  | .cmp s _ _ _ _ => decide (s.toNat = 1)
  | .cmpi s _ _ _ _ => decide (s.toNat = 1)
  | .plog s _ _ _ _ => decide (s.toNat = 1)
  | .sel s _ _ _ _ => decide (s.toNat = 1)
  | .br s _ => decide (s.toNat = 1)
  | .brp s _ _ _ => decide (s.toNat = 1)
  | .call s _ => decide (s.toNat = 1)
  | .jr s _ => decide (s.toNat = 1)
  | .ret s => decide (s.toNat = 1)
  | .loopImm s _ _ _ => decide (s.toNat = 1)
  | .loopReg s _ _ _ => decide (s.toNat = 1)
  | .loopxImm s _ _ _ => decide (s.toNat = 1)
  | .loopxReg s _ _ _ => decide (s.toNat = 1)
  | .lbrk s _ _ _ => decide (s.toNat = 1)
  | .rep s _ _ _ _ => decide (s.toNat = 1)
  | .mfs s _ _ => decide (s.toNat = 1)
  | .mts s _ _ => decide (s.toNat = 1)
  | .halt s => decide (s.toNat = 1)
  | .ld s _ _ _ _ _ => decide (s.toNat = 1)
  | .st s _ _ _ _ => decide (s.toNat = 1)
  | .lds s _ _ _ _ _ => decide (s.toNat = 1)
  | .sts s _ _ _ _ => decide (s.toNat = 1)
  | .ldw s _ _ _ _ _ => decide (s.toNat = 1)
  | .amo s _ _ _ _ _ => decide (s.toNat = 1)
  | .amr s _ _ _ _ _ => decide (s.toNat = 1)
  | .fadd s _ _ _ _ _ => decide (s.toNat = 1)
  | .fsub s _ _ _ _ _ => decide (s.toNat = 1)
  | .fmul s _ _ _ _ _ => decide (s.toNat = 1)
  | .ffma s _ _ _ _ _ => decide (s.toNat = 1)
  | .fmin s _ _ _ _ => decide (s.toNat = 1)
  | .fmax s _ _ _ _ => decide (s.toNat = 1)
  | .fsgn s _ _ _ _ _ => decide (s.toNat = 1)
  | .fcmp s _ _ _ _ _ => decide (s.toNat = 1)
  | .fcvt s _ _ _ _ _ _ => decide (s.toNat = 1)
  | .fsqs s _ _ => decide (s.toNat = 1)
  | .frcs s _ _ => decide (s.toNat = 1)
  | .fcls s _ _ _ => decide (s.toNat = 1)
  | .popc s _ _ => decide (s.toNat = 1)
  | .clz s _ _ => decide (s.toNat = 1)
  | .bext s _ _ _ _ => decide (s.toNat = 1)
  | .span s _ => decide (s.toNat = 1)
  | .fence s _ => decide (s.toNat = 1)
  | .cflush s _ _ => decide (s.toNat = 1)
  | .bari s _ _ _ => decide (s.toNat = 1)
  | .bara s _ => decide (s.toNat = 1)
  | .barw s _ => decide (s.toNat = 1)
  | .mon s _ => decide (s.toNat = 1)
  | .mwait s _ _ => decide (s.toNat = 1)
  | .semw s _ _ _ => decide (s.toNat = 1)
  | .semp s _ _ _ => decide (s.toNat = 1)
  | .qpush s _ _ _ => decide (s.toNat = 1)
  | .qpop s _ _ _ => decide (s.toNat = 1)
  | .qtryPop s _ _ _ => decide (s.toNat = 1)
  | .qtryPush s _ _ _ => decide (s.toNat = 1)
  | .fork s _ _ _ => decide (s.toNat = 1)
  | .rdv s _ => decide (s.toNat = 1)
  | .ekill s _ => decide (s.toNat = 1)
  | .yield s => decide (s.toNat = 1)
  | .park s => decide (s.toNat = 1)
  | .parkUn s _ => decide (s.toNat = 1)
  | .retire s => decide (s.toNat = 1)
  | .cncl s _ _ _ => decide (s.toNat = 1)
  | .cmplr s _ _ _ => decide (s.toNat = 1)
  | .brth s _ _ _ => decide (s.toNat = 1)
  | .acqp s _ => decide (s.toNat = 1)
  | .relp s => decide (s.toNat = 1)
  | .clkd s _ _ => decide (s.toNat = 1)
  | .trap s _ => decide (s.toNat = 1)
  | .tret s => decide (s.toNat = 1)
  | .probe s _ _ => decide (s.toNat = 1)
  | _ => false

/-- A word that stream kind `k` of a team with `acc` slots accepts (R141). -/
def Instr.wf (k : StreamKind) (acc : Nat) (i : Instr) : Bool :=
  match k with
  | .voice => (i.home == some .common || i.home == some .control) && i.subOk && i.zeroOk
  | .ctx e => (i.home == some .common || i.home == some e.half) && !i.sync && i.subOk && i.zeroOk && i.regsOk acc

end Sys2Proof
end

