-- ==== Sys2Proof/Decode.lean ====
section
/-! DEFINITION. The decoder of each stream, total on every word and rejecting by the name of the check of R141 that
fails; then the encoder, written from the same tables, and the fields that REP steps. -/
namespace Sys2Proof

/-- Why a word is no instruction of its stream: the checks of R141. -/
inductive DecodeError where
  | poolGuard
  | syncBit
  | majUnassigned
  | subUnassigned
  | zeroField
  | registerFile
deriving DecidableEq, Repr

/-- The check number of R141. -/
def DecodeError.check : DecodeError → Nat
  | .poolGuard => 2
  | .syncBit => 3
  | .majUnassigned => 4
  | .subUnassigned => 5
  | .zeroField => 6
  | .registerFile => 7

/-- The `n`-bit field of a word at bit `lo`. -/
def fld (w : Word) (lo n : Nat) : BitVec n := BitVec.ofNat n (w.toNat / 2 ^ lo)

/-- The named bit ranges of the word are zero (check 6 of R141). -/
def zeros (w : Word) (zs : List (Nat × Nat)) : Bool := zs.all fun z => decide (bits w.toNat z.1 z.2 = 0)

/-- Checks 5 and 6 of R141, in that order, on the instruction whose fields were read. -/
def build (w : Word) (zs : List (Nat × Nat)) (i : Instr) : Except DecodeError Instr :=
  if i.subOk = false then .error .subUnassigned
  else if zeros w zs = false then .error .zeroField
  else if i.zeroOk = false then .error .zeroField
  else .ok i

/-- The common half (R134, R135, R154). -/
def decodeCommon (w : Word) : Except DecodeError Instr :=
  match bits w.toNat 24 6 with
  | 0x00 => build w [(0, 24)] (.nop (fld w 30 1))
  | 0x01 =>
    match bits w.toNat 0 6 with
    | 0x00 => build w [] (.add (fld w 30 1) (fld w 18 6) (fld w 12 6) (fld w 6 6))
    | 0x01 => build w [] (.sub (fld w 30 1) (fld w 18 6) (fld w 12 6) (fld w 6 6))
    | 0x02 => build w [] (.and (fld w 30 1) (fld w 18 6) (fld w 12 6) (fld w 6 6))
    | 0x03 => build w [] (.or (fld w 30 1) (fld w 18 6) (fld w 12 6) (fld w 6 6))
    | 0x04 => build w [] (.xor (fld w 30 1) (fld w 18 6) (fld w 12 6) (fld w 6 6))
    | 0x05 => build w [] (.shl (fld w 30 1) (fld w 18 6) (fld w 12 6) (fld w 6 6))
    | 0x06 => build w [] (.shr (fld w 30 1) (fld w 18 6) (fld w 12 6) (fld w 6 6))
    | 0x07 => build w [] (.sra (fld w 30 1) (fld w 18 6) (fld w 12 6) (fld w 6 6))
    | 0x08 => build w [] (.mul (fld w 30 1) (fld w 18 6) (fld w 12 6) (fld w 6 6))
    | 0x09 => build w [] (.mulh (fld w 30 1) (fld w 18 6) (fld w 12 6) (fld w 6 6))
    | 0x0A => build w [] (.min (fld w 30 1) (fld w 18 6) (fld w 12 6) (fld w 6 6))
    | 0x0B => build w [] (.max (fld w 30 1) (fld w 18 6) (fld w 12 6) (fld w 6 6))
    | 0x10 => build w [] (.agen (fld w 30 1) (fld w 18 6) (fld w 12 6) (fld w 6 6) (fld w 0 2))
    | 0x11 => build w [] (.agen (fld w 30 1) (fld w 18 6) (fld w 12 6) (fld w 6 6) (fld w 0 2))
    | 0x12 => build w [] (.agen (fld w 30 1) (fld w 18 6) (fld w 12 6) (fld w 6 6) (fld w 0 2))
    | 0x13 => build w [] (.agen (fld w 30 1) (fld w 18 6) (fld w 12 6) (fld w 6 6) (fld w 0 2))
    | _ => .error .subUnassigned
  | 0x02 => build w [] (.addi (fld w 30 1) (fld w 18 6) (fld w 12 6) (fld w 0 12))
  | 0x03 => build w [] (.andi (fld w 30 1) (fld w 18 6) (fld w 12 6) (fld w 0 12))
  | 0x04 => build w [] (.ori (fld w 30 1) (fld w 18 6) (fld w 12 6) (fld w 0 12))
  | 0x05 => build w [] (.xori (fld w 30 1) (fld w 18 6) (fld w 12 6) (fld w 0 12))
  | 0x06 => build w [(6, 6)] (.shli (fld w 30 1) (fld w 18 6) (fld w 12 6) (fld w 0 6))
  | 0x07 => build w [(6, 6)] (.shri (fld w 30 1) (fld w 18 6) (fld w 12 6) (fld w 0 6))
  | 0x08 => build w [(6, 6)] (.srai (fld w 30 1) (fld w 18 6) (fld w 12 6) (fld w 0 6))
  | 0x09 => build w [] (.lui (fld w 30 1) (fld w 18 6) (fld w 0 18))
  | 0x0A => build w [(0, 2)] (.cmp (fld w 30 1) (fld w 17 7) (fld w 11 6) (fld w 5 6) (fld w 2 3))
  | 0x0B => build w [(0, 2)] (.cmpi (fld w 30 1) (fld w 17 7) (fld w 11 6) (fld w 5 6) (fld w 2 3))
  | 0x0C => build w [] (.plog (fld w 30 1) (fld w 17 7) (fld w 10 7) (fld w 3 7) (fld w 0 3))
  | 0x0D => build w [] (.sel (fld w 30 1) (fld w 18 6) (fld w 12 6) (fld w 6 6) (fld w 0 6))
  | 0x0E => build w [] (.br (fld w 30 1) (fld w 0 24))
  | 0x0F => build w [] (.brp (fld w 30 1) (fld w 17 7) (fld w 16 1) (fld w 0 16))
  | 0x10 => build w [] (.call (fld w 30 1) (fld w 0 24))
  | 0x11 => build w [(0, 12), (18, 6)] (.jr (fld w 30 1) (fld w 12 6))
  | 0x12 => build w [(0, 24)] (.ret (fld w 30 1))
  | 0x13 =>
    match bits w.toNat 21 1 with
    | 0 => build w [] (.loopImm (fld w 30 1) (fld w 22 2) (fld w 8 13) (fld w 0 8))
    | 1 => build w [(14, 7)] (.loopReg (fld w 30 1) (fld w 22 2) (fld w 8 6) (fld w 0 8))
    | _ => .error .subUnassigned
  | 0x14 =>
    match bits w.toNat 21 1 with
    | 0 => build w [] (.loopxImm (fld w 30 1) (fld w 22 2) (fld w 8 13) (fld w 0 8))
    | 1 => build w [(14, 7)] (.loopxReg (fld w 30 1) (fld w 22 2) (fld w 8 6) (fld w 0 8))
    | _ => .error .subUnassigned
  | 0x15 => build w [(2, 14)] (.lbrk (fld w 30 1) (fld w 17 7) (fld w 16 1) (fld w 0 2))
  | 0x16 => build w [(0, 9)] (.rep (fld w 30 1) (fld w 18 6) (fld w 15 3) (fld w 12 3) (fld w 9 3))
  | 0x17 => build w [(12, 6)] (.mfs (fld w 30 1) (fld w 18 6) (fld w 0 12))
  | 0x18 => build w [(18, 6)] (.mts (fld w 30 1) (fld w 12 6) (fld w 0 12))
  | 0x19 => build w [(0, 24)] (.halt (fld w 30 1))
  | _ => .error .majUnassigned

/-- The control core's private map (R137, R183, R391). -/
def decodeControl (w : Word) : Except DecodeError Instr :=
  match bits w.toNat 24 6 with
  | 0x00 => build w [] (.ld (fld w 30 1) (fld w 18 6) (fld w 12 6) (fld w 10 2) (fld w 9 1) (fld w 0 9))
  | 0x01 => build w [(9, 1)] (.st (fld w 30 1) (fld w 18 6) (fld w 12 6) (fld w 10 2) (fld w 0 9))
  | 0x02 => build w [] (.lds (fld w 30 1) (fld w 18 6) (fld w 12 6) (fld w 10 2) (fld w 9 1) (fld w 0 9))
  | 0x03 => build w [(9, 1)] (.sts (fld w 30 1) (fld w 18 6) (fld w 12 6) (fld w 10 2) (fld w 0 9))
  | 0x04 => build w [] (.ldw (fld w 30 1) (fld w 18 6) (fld w 12 6) (fld w 10 2) (fld w 9 1) (fld w 0 9))
  | 0x05 => build w [(19, 5)] (.amo (fld w 30 1) (fld w 18 1) (fld w 12 6) (fld w 6 6) (fld w 3 3) (fld w 0 3))
  | 0x06 => build w [] (.amr (fld w 30 1) (fld w 18 6) (fld w 12 6) (fld w 6 6) (fld w 3 3) (fld w 0 3))
  | 0x08 => build w [(3, 3)] (.fadd (fld w 30 1) (fld w 18 6) (fld w 12 6) (fld w 6 6) (fld w 1 2) (fld w 0 1))
  | 0x09 => build w [(3, 3)] (.fsub (fld w 30 1) (fld w 18 6) (fld w 12 6) (fld w 6 6) (fld w 1 2) (fld w 0 1))
  | 0x0A => build w [(3, 3)] (.fmul (fld w 30 1) (fld w 18 6) (fld w 12 6) (fld w 6 6) (fld w 1 2) (fld w 0 1))
  | 0x0B => build w [(3, 3)] (.ffma (fld w 30 1) (fld w 18 6) (fld w 12 6) (fld w 6 6) (fld w 1 2) (fld w 0 1))
  | 0x0C => build w [(1, 5)] (.fmin (fld w 30 1) (fld w 18 6) (fld w 12 6) (fld w 6 6) (fld w 0 1))
  | 0x0D => build w [(1, 5)] (.fmax (fld w 30 1) (fld w 18 6) (fld w 12 6) (fld w 6 6) (fld w 0 1))
  | 0x0E => build w [(3, 3)] (.fsgn (fld w 30 1) (fld w 18 6) (fld w 12 6) (fld w 6 6) (fld w 1 2) (fld w 0 1))
  | 0x0F => build w [(0, 1)] (.fcmp (fld w 30 1) (fld w 17 7) (fld w 11 6) (fld w 5 6) (fld w 2 3) (fld w 1 1))
  | 0x10 => build w [(6, 3)] (.fcvt (fld w 30 1) (fld w 18 6) (fld w 12 6) (fld w 10 2) (fld w 9 1) (fld w 3 3) (fld w 0 3))
  | 0x11 => build w [(0, 12)] (.fsqs (fld w 30 1) (fld w 18 6) (fld w 12 6))
  | 0x12 => build w [(0, 12)] (.frcs (fld w 30 1) (fld w 18 6) (fld w 12 6))
  | 0x13 => build w [(1, 11)] (.fcls (fld w 30 1) (fld w 18 6) (fld w 12 6) (fld w 0 1))
  | 0x14 => build w [(0, 12)] (.popc (fld w 30 1) (fld w 18 6) (fld w 12 6))
  | 0x15 => build w [(0, 12)] (.clz (fld w 30 1) (fld w 18 6) (fld w 12 6))
  | 0x16 => build w [] (.bext (fld w 30 1) (fld w 18 6) (fld w 12 6) (fld w 6 6) (fld w 0 6))
  | 0x18 => build w [(3, 21)] (.span (fld w 30 1) (fld w 0 3))
  | 0x19 => build w [(3, 21)] (.fence (fld w 30 1) (fld w 0 3))
  | 0x1A => build w [(3, 9), (18, 6)] (.cflush (fld w 30 1) (fld w 12 6) (fld w 0 3))
  | 0x1B => build w [(3, 3), (18, 6)] (.bari (fld w 30 1) (fld w 12 6) (fld w 6 6) (fld w 0 3))
  | 0x1C => build w [(0, 12), (18, 6)] (.bara (fld w 30 1) (fld w 12 6))
  | 0x1D => build w [(0, 12), (18, 6)] (.barw (fld w 30 1) (fld w 12 6))
  | 0x1E => build w [(0, 12), (18, 6)] (.mon (fld w 30 1) (fld w 12 6))
  | 0x1F => build w [(0, 12)] (.mwait (fld w 30 1) (fld w 18 6) (fld w 12 6))
  | 0x20 => build w [(3, 3), (18, 6)] (.semw (fld w 30 1) (fld w 12 6) (fld w 6 6) (fld w 0 3))
  | 0x21 => build w [(3, 3), (18, 6)] (.semp (fld w 30 1) (fld w 12 6) (fld w 6 6) (fld w 0 3))
  | 0x22 => build w [(0, 6)] (.qpush (fld w 30 1) (fld w 18 6) (fld w 12 6) (fld w 6 6))
  | 0x23 => build w [(0, 6)] (.qpop (fld w 30 1) (fld w 18 6) (fld w 12 6) (fld w 6 6))
  | 0x24 =>
    match bits w.toNat 3 3 with
    | 0 => build w [(0, 3)] (.qtryPop (fld w 30 1) (fld w 18 6) (fld w 12 6) (fld w 6 6))
    | 1 => build w [(0, 3)] (.qtryPush (fld w 30 1) (fld w 18 6) (fld w 12 6) (fld w 6 6))
    | _ => .error .subUnassigned
  | 0x28 => build w [(0, 6)] (.fork (fld w 30 1) (fld w 18 6) (fld w 12 6) (fld w 6 6))
  | 0x29 => build w [(0, 3), (6, 18)] (.rdv (fld w 30 1) (fld w 3 3))
  | 0x2A => build w [(0, 3), (6, 18)] (.ekill (fld w 30 1) (fld w 3 3))
  | 0x2C => build w [(0, 24)] (.yield (fld w 30 1))
  | 0x2D =>
    match bits w.toNat 3 3 with
    | 0 => build w [(0, 3), (6, 18)] (.park (fld w 30 1))
    | 4 => build w [(0, 3), (6, 18)] (.parkUn (fld w 30 1) (fld w 3 2))
    | 5 => build w [(0, 3), (6, 18)] (.parkUn (fld w 30 1) (fld w 3 2))
    | 6 => build w [(0, 3), (6, 18)] (.parkUn (fld w 30 1) (fld w 3 2))
    | 7 => build w [(0, 3), (6, 18)] (.parkUn (fld w 30 1) (fld w 3 2))
    | _ => .error .subUnassigned
  | 0x2E => build w [(0, 24)] (.retire (fld w 30 1))
  | 0x2F => if bits w.toNat 5 1 = 1 then .error .subUnassigned else build w [(0, 3), (6, 6)] (.cncl (fld w 30 1) (fld w 18 6) (fld w 12 6) (fld w 3 2))
  | 0x30 => if bits w.toNat 5 1 = 1 then .error .subUnassigned else build w [(0, 3), (6, 6)] (.cmplr (fld w 30 1) (fld w 18 6) (fld w 12 6) (fld w 3 2))
  | 0x34 => build w [(4, 2), (18, 6)] (.brth (fld w 30 1) (fld w 12 6) (fld w 6 6) (fld w 0 4))
  | 0x35 => build w [(0, 12), (18, 6)] (.acqp (fld w 30 1) (fld w 12 6))
  | 0x36 => build w [(0, 24)] (.relp (fld w 30 1))
  | 0x37 => if bits w.toNat 5 1 = 1 then .error .subUnassigned else build w [(0, 3), (6, 6), (18, 6)] (.clkd (fld w 30 1) (fld w 12 6) (fld w 3 2))
  | 0x3C => build w [(18, 6)] (.trap (fld w 30 1) (fld w 0 18))
  | 0x3D => build w [(0, 24)] (.tret (fld w 30 1))
  | 0x3E => build w [(0, 3), (6, 12)] (.probe (fld w 30 1) (fld w 18 6) (fld w 3 3))
  | _ => .error .majUnassigned

/-- The matrix map (R138, R282). -/
def decodeMatrix (w : Word) : Except DecodeError Instr :=
  match bits w.toNat 24 6 with
  | 0x00 => build w [] (.mma (fld w 20 4) (fld w 14 6) (fld w 8 6) (fld w 7 1) (fld w 6 1) (fld w 5 1) (fld w 4 1) (fld w 3 1) (fld w 2 1) (fld w 0 2))
  | 0x01 => build w [(2, 1), (4, 2)] (.mmag (fld w 20 4) (fld w 14 6) (fld w 8 6) (fld w 7 1) (fld w 6 1) (fld w 3 1) (fld w 0 2))
  | 0x02 =>
    match bits w.toNat 1 1 with
    | 0 => build w [(0, 1), (14, 10)] (.mfmt (fld w 8 6) (fld w 4 4) (fld w 2 2))
    | 1 => build w [(0, 1), (2, 6), (20, 4)] (.mfmtTs (fld w 14 6) (fld w 8 6))
    | _ => .error .subUnassigned
  | 0x03 => build w [(2, 2), (8, 16)] (.mfsel (fld w 4 4) (fld w 0 2))
  | 0x04 => build w [(0, 8), (14, 6)] (.mzero (fld w 20 4) (fld w 8 6))
  | 0x05 =>
    match bits w.toNat 0 1 with
    | 0 => build w [(1, 7)] (.mdcy (fld w 20 4) (fld w 14 6) (fld w 8 6))
    | 1 => build w [(1, 13)] (.mdcySet (fld w 20 4) (fld w 14 6))
    | _ => .error .subUnassigned
  | 0x06 => build w [(4, 4)] (.mdrn (fld w 20 4) (fld w 14 6) (fld w 8 6) (fld w 3 1) (fld w 2 1) (fld w 0 2))
  | 0x07 => build w [(0, 8)] (.mldz (fld w 20 4) (fld w 14 6) (fld w 8 6))
  | 0x08 =>
    match bits w.toNat 0 1 with
    | 0 => build w [(1, 13), (20, 4)] (.mpref (fld w 14 6))
    | 1 => build w [(1, 7), (20, 4)] (.mprefW (fld w 14 6) (fld w 8 6))
    | _ => .error .subUnassigned
  | 0x09 => build w [(0, 14), (20, 4)] (.munp (fld w 14 6))
  | 0x0A => build w [(3, 5), (14, 10)] (.mswp (fld w 8 6) (fld w 0 3))
  | 0x0B => build w [(3, 11), (20, 4)] (.mbnk (fld w 14 6) (fld w 0 3))
  | 0x0C =>
    match bits w.toNat 0 1 with
    | 0 => build w [(1, 7), (14, 10)] (.mhold (fld w 8 6))
    | 1 => build w [(1, 23)] (.mholdRel)
    | _ => .error .subUnassigned
  | 0x0D => build w [(0, 8), (20, 4)] (.mtrq (fld w 14 6) (fld w 8 6))
  | 0x0E => build w [(4, 10), (20, 4)] (.msync (fld w 14 6) (fld w 3 1) (fld w 0 3))
  | 0x0F => build w [(0, 14), (20, 4)] (.mstat (fld w 14 6))
  | 0x10 => build w [(8, 16)] (.mnop (fld w 0 8))
  | _ => .error .majUnassigned

/-- The vector map (R138, R312). -/
def decodeVector (w : Word) : Except DecodeError Instr :=
  match bits w.toNat 24 6 with
  | 0x00 => build w [(0, 14), (19, 5)] (.vshp (fld w 14 5))
  | 0x01 => build w [(2, 2)] (.vld (fld w 19 5) (fld w 14 5) (fld w 9 5) (fld w 4 5) (fld w 1 1) (fld w 0 1))
  | 0x02 => build w [(1, 3)] (.vst (fld w 19 5) (fld w 14 5) (fld w 9 5) (fld w 4 5) (fld w 0 1))
  | 0x03 => build w [(2, 2)] (.vldg (fld w 19 5) (fld w 14 5) (fld w 9 5) (fld w 4 5) (fld w 1 1) (fld w 0 1))
  | 0x04 => build w [(1, 3)] (.vstg (fld w 19 5) (fld w 14 5) (fld w 9 5) (fld w 4 5) (fld w 0 1))
  | 0x05 => build w [(2, 2), (9, 5)] (.vmov (fld w 19 5) (fld w 14 5) (fld w 4 5) (fld w 1 1) (fld w 0 1))
  | 0x06 => build w [(2, 2), (9, 5)] (.vsplat (fld w 19 5) (fld w 14 5) (fld w 4 5) (fld w 1 1) (fld w 0 1))
  | 0x07 => build w [(9, 10)] (.viota (fld w 19 5) (fld w 4 5) (fld w 2 2) (fld w 1 1) (fld w 0 1))
  | 0x08 => build w [] (.vfadd (fld w 19 5) (fld w 14 5) (fld w 9 5) (fld w 4 5) (fld w 2 2) (fld w 1 1) (fld w 0 1))
  | 0x09 => build w [] (.vfsub (fld w 19 5) (fld w 14 5) (fld w 9 5) (fld w 4 5) (fld w 2 2) (fld w 1 1) (fld w 0 1))
  | 0x0A => build w [] (.vfmul (fld w 19 5) (fld w 14 5) (fld w 9 5) (fld w 4 5) (fld w 2 2) (fld w 1 1) (fld w 0 1))
  | 0x0B => build w [(0, 2)] (.vffma (fld w 19 5) (fld w 14 5) (fld w 9 5) (fld w 4 5) (fld w 2 2))
  | 0x0C => build w [(2, 2)] (.vfmin (fld w 19 5) (fld w 14 5) (fld w 9 5) (fld w 4 5) (fld w 1 1) (fld w 0 1))
  | 0x0D => build w [(2, 2)] (.vfmax (fld w 19 5) (fld w 14 5) (fld w 9 5) (fld w 4 5) (fld w 1 1) (fld w 0 1))
  | 0x0E => build w [(2, 2), (9, 5)] (.vfabs (fld w 19 5) (fld w 14 5) (fld w 4 5) (fld w 1 1) (fld w 0 1))
  | 0x0F => build w [(2, 2), (9, 5)] (.vfneg (fld w 19 5) (fld w 14 5) (fld w 4 5) (fld w 1 1) (fld w 0 1))
  | 0x10 => build w [] (.vadd (fld w 19 5) (fld w 14 5) (fld w 9 5) (fld w 4 5) (fld w 3 1) (fld w 2 1) (fld w 1 1) (fld w 0 1))
  | 0x11 => build w [] (.vsub (fld w 19 5) (fld w 14 5) (fld w 9 5) (fld w 4 5) (fld w 3 1) (fld w 2 1) (fld w 1 1) (fld w 0 1))
  | 0x12 => build w [(2, 1)] (.vmul (fld w 19 5) (fld w 14 5) (fld w 9 5) (fld w 4 5) (fld w 3 1) (fld w 1 1) (fld w 0 1))
  | 0x13 => build w [(3, 1)] (.vmin (fld w 19 5) (fld w 14 5) (fld w 9 5) (fld w 4 5) (fld w 2 1) (fld w 1 1) (fld w 0 1))
  | 0x14 => build w [(3, 1)] (.vmax (fld w 19 5) (fld w 14 5) (fld w 9 5) (fld w 4 5) (fld w 2 1) (fld w 1 1) (fld w 0 1))
  | 0x15 => build w [(2, 2)] (.vand (fld w 19 5) (fld w 14 5) (fld w 9 5) (fld w 4 5) (fld w 1 1) (fld w 0 1))
  | 0x16 => build w [(2, 2)] (.vor (fld w 19 5) (fld w 14 5) (fld w 9 5) (fld w 4 5) (fld w 1 1) (fld w 0 1))
  | 0x17 => build w [(2, 2)] (.vxor (fld w 19 5) (fld w 14 5) (fld w 9 5) (fld w 4 5) (fld w 1 1) (fld w 0 1))
  | 0x18 => build w [(2, 2)] (.vshl (fld w 19 5) (fld w 14 5) (fld w 9 5) (fld w 4 5) (fld w 1 1) (fld w 0 1))
  | 0x19 => build w [(2, 2)] (.vshr (fld w 19 5) (fld w 14 5) (fld w 9 5) (fld w 4 5) (fld w 1 1) (fld w 0 1))
  | 0x1A => build w [(2, 2)] (.vsra (fld w 19 5) (fld w 14 5) (fld w 9 5) (fld w 4 5) (fld w 1 1) (fld w 0 1))
  | 0x1B => build w [] (.vfcmp (fld w 19 5) (fld w 14 5) (fld w 9 5) (fld w 4 5) (fld w 3 1) (fld w 0 3))
  | 0x1C => build w [] (.vcmp (fld w 19 5) (fld w 14 5) (fld w 9 5) (fld w 4 5) (fld w 3 1) (fld w 0 3))
  | 0x1D => build w [(0, 4)] (.vsel (fld w 19 5) (fld w 14 5) (fld w 9 5) (fld w 4 5))
  | 0x1E => build w [(3, 6)] (.mlog (fld w 19 5) (fld w 14 5) (fld w 9 5) (fld w 0 3))
  | 0x1F => build w [(2, 2), (9, 5)] (.vrsqs (fld w 19 5) (fld w 14 5) (fld w 4 5) (fld w 1 1) (fld w 0 1))
  | 0x20 => build w [(2, 2), (9, 5)] (.vrcps (fld w 19 5) (fld w 14 5) (fld w 4 5) (fld w 1 1) (fld w 0 1))
  | 0x21 => build w [(2, 2), (9, 5)] (.vexs (fld w 19 5) (fld w 14 5) (fld w 4 5) (fld w 1 1) (fld w 0 1))
  | 0x22 => build w [(2, 2), (9, 5)] (.vlgs (fld w 19 5) (fld w 14 5) (fld w 4 5) (fld w 1 1) (fld w 0 1))
  | 0x23 => build w [(1, 3)] (.vred (fld w 19 5) (fld w 14 5) (fld w 12 2) (fld w 9 3) (fld w 4 5) (fld w 0 1))
  | 0x24 => build w [(0, 4)] (.vscan (fld w 19 5) (fld w 14 5) (fld w 13 1) (fld w 12 1) (fld w 9 3) (fld w 4 5))
  | 0x25 => build w [(0, 14)] (.vtrn (fld w 19 5) (fld w 14 5))
  | 0x26 => build w [(1, 8)] (.vrot (fld w 19 5) (fld w 14 5) (fld w 9 5) (fld w 0 1))
  | 0x27 => build w [(1, 8)] (.vperm (fld w 19 5) (fld w 14 5) (fld w 9 5) (fld w 0 1))
  | 0x28 => build w [(11, 3)] (.vcvt (fld w 19 5) (fld w 14 5) (fld w 9 2) (fld w 4 5) (fld w 2 2) (fld w 1 1) (fld w 0 1))
  | 0x29 => build w [(0, 2), (4, 5)] (.vqnt (fld w 19 5) (fld w 14 5) (fld w 9 5) (fld w 2 2))
  | 0x2A => build w [(0, 2), (4, 5)] (.vdqn (fld w 19 5) (fld w 14 5) (fld w 9 5) (fld w 2 2))
  | 0x2B => build w [(3, 1), (9, 5)] (.vrns (fld w 19 5) (fld w 14 5) (fld w 4 5) (fld w 2 1) (fld w 1 1) (fld w 0 1))
  | 0x2C => build w [(3, 1), (9, 5)] (.vcrt (fld w 19 5) (fld w 14 5) (fld w 4 5) (fld w 2 1) (fld w 1 1) (fld w 0 1))
  | 0x2D => build w [(0, 9)] (.vacr (fld w 19 5) (fld w 14 5) (fld w 9 5))
  | 0x2E => build w [(3, 1)] (.vacw (fld w 19 5) (fld w 14 5) (fld w 9 5) (fld w 4 5) (fld w 2 1) (fld w 1 1) (fld w 0 1))
  | _ => .error .majUnassigned

/-- The copy map (R138, R341). -/
def decodeCopy (w : Word) : Except DecodeError Instr :=
  match bits w.toNat 24 6 with
  | 0x00 => build w [] (.cpy (fld w 18 6) (fld w 12 6) (fld w 6 6) (fld w 3 3) (fld w 2 1) (fld w 0 2))
  | 0x01 => build w [] (.cpy2 (fld w 18 6) (fld w 12 6) (fld w 6 6) (fld w 3 3) (fld w 2 1) (fld w 0 2))
  | 0x02 => build w [] (.cpyt (fld w 18 6) (fld w 12 6) (fld w 6 6) (fld w 3 3) (fld w 2 1) (fld w 0 2))
  | 0x03 => build w [] (.gth (fld w 18 6) (fld w 12 6) (fld w 6 6) (fld w 3 3) (fld w 2 1) (fld w 0 2))
  | 0x04 => build w [] (.sct (fld w 18 6) (fld w 12 6) (fld w 6 6) (fld w 3 3) (fld w 2 1) (fld w 0 2))
  | 0x05 => build w [] (.cpys (fld w 18 6) (fld w 12 6) (fld w 6 6) (fld w 3 3) (fld w 2 1) (fld w 0 2))
  | 0x06 => build w [] (.pub (fld w 18 6) (fld w 12 6) (fld w 6 6) (fld w 3 3) (fld w 2 1) (fld w 0 2))
  | 0x07 => build w [] (.wprg (fld w 18 6) (fld w 12 6) (fld w 6 6) (fld w 3 3) (fld w 2 1) (fld w 0 2))
  | 0x08 => build w [] (.wvfy (fld w 18 6) (fld w 12 6) (fld w 6 6) (fld w 3 3) (fld w 2 1) (fld w 0 2))
  | 0x09 => build w [] (.wdig (fld w 18 6) (fld w 12 6) (fld w 6 6) (fld w 3 3) (fld w 2 1) (fld w 0 2))
  | 0x0A => build w [] (.cred (fld w 18 6) (fld w 12 6) (fld w 6 6) (fld w 3 3) (fld w 2 1) (fld w 0 2))
  | 0x0B => build w [] (.cag (fld w 18 6) (fld w 12 6) (fld w 6 6) (fld w 3 3) (fld w 2 1) (fld w 0 2))
  | 0x0C => build w [] (.cbct (fld w 18 6) (fld w 12 6) (fld w 6 6) (fld w 3 3) (fld w 2 1) (fld w 0 2))
  | 0x0D => build w [(0, 12), (18, 6)] (.cwait (fld w 12 6))
  | 0x0E => build w [(0, 3), (6, 6), (18, 6)] (.csig (fld w 12 6) (fld w 3 3))
  | 0x0F => build w [(0, 3), (6, 18)] (.cfnc (fld w 3 3))
  | 0x10 => build w [(0, 12)] (.cprq (fld w 18 6) (fld w 12 6))
  | _ => .error .majUnassigned

/-- The private map of a stream (R130). -/
def decodePrivate (k : StreamKind) (w : Word) : Except DecodeError Instr :=
  match k with
  | .voice => decodeControl w
  | .ctx .matrix => decodeMatrix w
  | .ctx .vector => decodeVector w
  | .ctx .copy => decodeCopy w

/-- Checks 4 to 7 of R141 on a word in a stream of kind `k` whose team owns `acc` slots. -/
def decodeMap (k : StreamKind) (acc : Nat) (w : Word) : Except DecodeError Instr :=
  match (if bits w.toNat 31 1 = 0 then decodeCommon w else decodePrivate k w) with
  | .error e => .error e
  | .ok i =>
    match k with
    | .voice => .ok i
    | .ctx _ => if i.regsOk acc then .ok i else .error .registerFile

/-- Checks 2 to 7 of R141 on one word of a stream; the S bits of a bundle are compared where the bundle is fetched. -/
def decodeWord (k : StreamKind) (acc : Nat) (w : Word) : Except DecodeError Instr :=
  if bits w.toNat 31 1 = 0 ∧ bits w.toNat 24 6 = 0x3F then .error .poolGuard
  else match k with
    | .voice => decodeMap k acc w
    | .ctx _ => if bits w.toNat 30 1 = 1 then .error .syncBit else decodeMap k acc w

/-- The stream kind whose map reads a word of the opcode table, whose rows do not name their stream: common words and
the control core's words in a voice; any other word in the first of the matrix, vector and copy maps that accepts it
(DESIGN CHOICE, log 4). -/
def tableStream (w : Word) : StreamKind :=
  if bits w.toNat 31 1 = 0 ∨ bits w.toNat 30 1 = 1 then .voice
  else match decodeMatrix w with
    | .ok _ => .ctx .matrix
    | .error _ => match decodeVector w with
      | .ok _ => .ctx .vector
      | .error _ => match decodeCopy w with
        | .ok _ => .ctx .copy
        | .error _ => .voice

/-- What the decoder reads from an instruction word of the opcode table (every row has 32 bits). -/
def decodeTableWord (nbits w : Nat) : Option Instr :=
  if nbits ≤ 32 then
    match decodeWord (tableStream (BitVec.ofNat 32 w)) 16 (BitVec.ofNat 32 w) with
    | .ok i => some i
    | .error _ => none
  else none

/-- Places of the fields that REP's steps act on: (lowest bit, width), or none; and which of xa and xb are pair fields,
whose steps must be even (R283, R342). -/
structure RepFields where
  d : Option (Nat × Nat)
  a : Option (Nat × Nat)
  b : Option (Nat × Nat)
  pairA : Bool
  pairB : Bool
deriving DecidableEq, Repr

/-- The word of an instruction, from the same tables of the spec; 0 for a step that is not a word. -/
def encodeNat : Instr → Nat
  | .nop s => 0x00000000 + s.toNat * 0x40000000
  | .add s d a b => 0x01000000 + s.toNat * 0x40000000 + d.toNat * 0x40000 + a.toNat * 0x1000 + b.toNat * 0x40
  | .sub s d a b => 0x01000001 + s.toNat * 0x40000000 + d.toNat * 0x40000 + a.toNat * 0x1000 + b.toNat * 0x40
  | .and s d a b => 0x01000002 + s.toNat * 0x40000000 + d.toNat * 0x40000 + a.toNat * 0x1000 + b.toNat * 0x40
  | .or s d a b => 0x01000003 + s.toNat * 0x40000000 + d.toNat * 0x40000 + a.toNat * 0x1000 + b.toNat * 0x40
  | .xor s d a b => 0x01000004 + s.toNat * 0x40000000 + d.toNat * 0x40000 + a.toNat * 0x1000 + b.toNat * 0x40
  | .shl s d a b => 0x01000005 + s.toNat * 0x40000000 + d.toNat * 0x40000 + a.toNat * 0x1000 + b.toNat * 0x40
  | .shr s d a b => 0x01000006 + s.toNat * 0x40000000 + d.toNat * 0x40000 + a.toNat * 0x1000 + b.toNat * 0x40
  | .sra s d a b => 0x01000007 + s.toNat * 0x40000000 + d.toNat * 0x40000 + a.toNat * 0x1000 + b.toNat * 0x40
  | .mul s d a b => 0x01000008 + s.toNat * 0x40000000 + d.toNat * 0x40000 + a.toNat * 0x1000 + b.toNat * 0x40
  | .mulh s d a b => 0x01000009 + s.toNat * 0x40000000 + d.toNat * 0x40000 + a.toNat * 0x1000 + b.toNat * 0x40
  | .min s d a b => 0x0100000A + s.toNat * 0x40000000 + d.toNat * 0x40000 + a.toNat * 0x1000 + b.toNat * 0x40
  | .max s d a b => 0x0100000B + s.toNat * 0x40000000 + d.toNat * 0x40000 + a.toNat * 0x1000 + b.toNat * 0x40
  | .agen s d a b h => 0x01000010 + s.toNat * 0x40000000 + d.toNat * 0x40000 + a.toNat * 0x1000 + b.toNat * 0x40 + h.toNat * 0x1
  | .addi s d a i => 0x02000000 + s.toNat * 0x40000000 + d.toNat * 0x40000 + a.toNat * 0x1000 + i.toNat * 0x1
  | .andi s d a i => 0x03000000 + s.toNat * 0x40000000 + d.toNat * 0x40000 + a.toNat * 0x1000 + i.toNat * 0x1
  | .ori s d a i => 0x04000000 + s.toNat * 0x40000000 + d.toNat * 0x40000 + a.toNat * 0x1000 + i.toNat * 0x1
  | .xori s d a i => 0x05000000 + s.toNat * 0x40000000 + d.toNat * 0x40000 + a.toNat * 0x1000 + i.toNat * 0x1
  | .shli s d a h => 0x06000000 + s.toNat * 0x40000000 + d.toNat * 0x40000 + a.toNat * 0x1000 + h.toNat * 0x1
  | .shri s d a h => 0x07000000 + s.toNat * 0x40000000 + d.toNat * 0x40000 + a.toNat * 0x1000 + h.toNat * 0x1
  | .srai s d a h => 0x08000000 + s.toNat * 0x40000000 + d.toNat * 0x40000 + a.toNat * 0x1000 + h.toNat * 0x1
  | .lui s d i => 0x09000000 + s.toNat * 0x40000000 + d.toNat * 0x40000 + i.toNat * 0x1
  | .cmp s p a b c => 0x0A000000 + s.toNat * 0x40000000 + p.toNat * 0x20000 + a.toNat * 0x800 + b.toNat * 0x20 + c.toNat * 0x4
  | .cmpi s p a i c => 0x0B000000 + s.toNat * 0x40000000 + p.toNat * 0x20000 + a.toNat * 0x800 + i.toNat * 0x20 + c.toNat * 0x4
  | .plog s d a b f => 0x0C000000 + s.toNat * 0x40000000 + d.toNat * 0x20000 + a.toNat * 0x400 + b.toNat * 0x8 + f.toNat * 0x1
  | .sel s d a b p => 0x0D000000 + s.toNat * 0x40000000 + d.toNat * 0x40000 + a.toNat * 0x1000 + b.toNat * 0x40 + p.toNat * 0x1
  | .br s o => 0x0E000000 + s.toNat * 0x40000000 + o.toNat * 0x1
  | .brp s p n o => 0x0F000000 + s.toNat * 0x40000000 + p.toNat * 0x20000 + n.toNat * 0x10000 + o.toNat * 0x1
  | .call s o => 0x10000000 + s.toNat * 0x40000000 + o.toNat * 0x1
  | .jr s a => 0x11000000 + s.toNat * 0x40000000 + a.toNat * 0x1000
  | .ret s => 0x12000000 + s.toNat * 0x40000000
  | .loopImm s l n e => 0x13000000 + s.toNat * 0x40000000 + l.toNat * 0x400000 + n.toNat * 0x100 + e.toNat * 0x1
  | .loopReg s l r e => 0x13200000 + s.toNat * 0x40000000 + l.toNat * 0x400000 + r.toNat * 0x100 + e.toNat * 0x1
  | .loopxImm s l n e => 0x14000000 + s.toNat * 0x40000000 + l.toNat * 0x400000 + n.toNat * 0x100 + e.toNat * 0x1
  | .loopxReg s l r e => 0x14200000 + s.toNat * 0x40000000 + l.toNat * 0x400000 + r.toNat * 0x100 + e.toNat * 0x1
  | .lbrk s p n l => 0x15000000 + s.toNat * 0x40000000 + p.toNat * 0x20000 + n.toNat * 0x10000 + l.toNat * 0x1
  | .rep s c d a b => 0x16000000 + s.toNat * 0x40000000 + c.toNat * 0x40000 + d.toNat * 0x8000 + a.toNat * 0x1000 + b.toNat * 0x200
  | .mfs s d i => 0x17000000 + s.toNat * 0x40000000 + d.toNat * 0x40000 + i.toNat * 0x1
  | .mts s a i => 0x18000000 + s.toNat * 0x40000000 + a.toNat * 0x1000 + i.toNat * 0x1
  | .halt s => 0x19000000 + s.toNat * 0x40000000
  | .ld s d a w x o => 0x80000000 + s.toNat * 0x40000000 + d.toNat * 0x40000 + a.toNat * 0x1000 + w.toNat * 0x400 + x.toNat * 0x200 + o.toNat * 0x1
  | .st s d a w o => 0x81000000 + s.toNat * 0x40000000 + d.toNat * 0x40000 + a.toNat * 0x1000 + w.toNat * 0x400 + o.toNat * 0x1
  | .lds s d a w x o => 0x82000000 + s.toNat * 0x40000000 + d.toNat * 0x40000 + a.toNat * 0x1000 + w.toNat * 0x400 + x.toNat * 0x200 + o.toNat * 0x1
  | .sts s d a w o => 0x83000000 + s.toNat * 0x40000000 + d.toNat * 0x40000 + a.toNat * 0x1000 + w.toNat * 0x400 + o.toNat * 0x1
  | .ldw s d a w x o => 0x84000000 + s.toNat * 0x40000000 + d.toNat * 0x40000 + a.toNat * 0x1000 + w.toNat * 0x400 + x.toNat * 0x200 + o.toNat * 0x1
  | .amo s w a b f c => 0x85000000 + s.toNat * 0x40000000 + w.toNat * 0x40000 + a.toNat * 0x1000 + b.toNat * 0x40 + f.toNat * 0x8 + c.toNat * 0x1
  | .amr s d a b f c => 0x86000000 + s.toNat * 0x40000000 + d.toNat * 0x40000 + a.toNat * 0x1000 + b.toNat * 0x40 + f.toNat * 0x8 + c.toNat * 0x1
  | .fadd s d a b r p => 0x88000000 + s.toNat * 0x40000000 + d.toNat * 0x40000 + a.toNat * 0x1000 + b.toNat * 0x40 + r.toNat * 0x2 + p.toNat * 0x1
  | .fsub s d a b r p => 0x89000000 + s.toNat * 0x40000000 + d.toNat * 0x40000 + a.toNat * 0x1000 + b.toNat * 0x40 + r.toNat * 0x2 + p.toNat * 0x1
  | .fmul s d a b r p => 0x8A000000 + s.toNat * 0x40000000 + d.toNat * 0x40000 + a.toNat * 0x1000 + b.toNat * 0x40 + r.toNat * 0x2 + p.toNat * 0x1
  | .ffma s d a b r p => 0x8B000000 + s.toNat * 0x40000000 + d.toNat * 0x40000 + a.toNat * 0x1000 + b.toNat * 0x40 + r.toNat * 0x2 + p.toNat * 0x1
  | .fmin s d a b p => 0x8C000000 + s.toNat * 0x40000000 + d.toNat * 0x40000 + a.toNat * 0x1000 + b.toNat * 0x40 + p.toNat * 0x1
  | .fmax s d a b p => 0x8D000000 + s.toNat * 0x40000000 + d.toNat * 0x40000 + a.toNat * 0x1000 + b.toNat * 0x40 + p.toNat * 0x1
  | .fsgn s d a b m p => 0x8E000000 + s.toNat * 0x40000000 + d.toNat * 0x40000 + a.toNat * 0x1000 + b.toNat * 0x40 + m.toNat * 0x2 + p.toNat * 0x1
  | .fcmp s d a b c p => 0x8F000000 + s.toNat * 0x40000000 + d.toNat * 0x20000 + a.toNat * 0x800 + b.toNat * 0x20 + c.toNat * 0x4 + p.toNat * 0x2
  | .fcvt s d a r t f g => 0x90000000 + s.toNat * 0x40000000 + d.toNat * 0x40000 + a.toNat * 0x1000 + r.toNat * 0x400 + t.toNat * 0x200 + f.toNat * 0x8 + g.toNat * 0x1
  | .fsqs s d a => 0x91000000 + s.toNat * 0x40000000 + d.toNat * 0x40000 + a.toNat * 0x1000
  | .frcs s d a => 0x92000000 + s.toNat * 0x40000000 + d.toNat * 0x40000 + a.toNat * 0x1000
  | .fcls s d a p => 0x93000000 + s.toNat * 0x40000000 + d.toNat * 0x40000 + a.toNat * 0x1000 + p.toNat * 0x1
  | .popc s d a => 0x94000000 + s.toNat * 0x40000000 + d.toNat * 0x40000 + a.toNat * 0x1000
  | .clz s d a => 0x95000000 + s.toNat * 0x40000000 + d.toNat * 0x40000 + a.toNat * 0x1000
  | .bext s d a b w => 0x96000000 + s.toNat * 0x40000000 + d.toNat * 0x40000 + a.toNat * 0x1000 + b.toNat * 0x40 + w.toNat * 0x1
  | .span s c => 0x98000000 + s.toNat * 0x40000000 + c.toNat * 0x1
  | .fence s c => 0x99000000 + s.toNat * 0x40000000 + c.toNat * 0x1
  | .cflush s a c => 0x9A000000 + s.toNat * 0x40000000 + a.toNat * 0x1000 + c.toNat * 0x1
  | .bari s a b c => 0x9B000000 + s.toNat * 0x40000000 + a.toNat * 0x1000 + b.toNat * 0x40 + c.toNat * 0x1
  | .bara s a => 0x9C000000 + s.toNat * 0x40000000 + a.toNat * 0x1000
  | .barw s a => 0x9D000000 + s.toNat * 0x40000000 + a.toNat * 0x1000
  | .mon s a => 0x9E000000 + s.toNat * 0x40000000 + a.toNat * 0x1000
  | .mwait s d a => 0x9F000000 + s.toNat * 0x40000000 + d.toNat * 0x40000 + a.toNat * 0x1000
  | .semw s a b c => 0xA0000000 + s.toNat * 0x40000000 + a.toNat * 0x1000 + b.toNat * 0x40 + c.toNat * 0x1
  | .semp s a b c => 0xA1000000 + s.toNat * 0x40000000 + a.toNat * 0x1000 + b.toNat * 0x40 + c.toNat * 0x1
  | .qpush s d a b => 0xA2000000 + s.toNat * 0x40000000 + d.toNat * 0x40000 + a.toNat * 0x1000 + b.toNat * 0x40
  | .qpop s d a b => 0xA3000000 + s.toNat * 0x40000000 + d.toNat * 0x40000 + a.toNat * 0x1000 + b.toNat * 0x40
  | .qtryPop s d a b => 0xA4000000 + s.toNat * 0x40000000 + d.toNat * 0x40000 + a.toNat * 0x1000 + b.toNat * 0x40
  | .qtryPush s d a b => 0xA4000008 + s.toNat * 0x40000000 + d.toNat * 0x40000 + a.toNat * 0x1000 + b.toNat * 0x40
  | .fork s c m v => 0xA8000000 + s.toNat * 0x40000000 + c.toNat * 0x40000 + m.toNat * 0x1000 + v.toNat * 0x40
  | .rdv s e => 0xA9000000 + s.toNat * 0x40000000 + e.toNat * 0x8
  | .ekill s e => 0xAA000000 + s.toNat * 0x40000000 + e.toNat * 0x8
  | .yield s => 0xAC000000 + s.toNat * 0x40000000
  | .park s => 0xAD000000 + s.toNat * 0x40000000
  | .parkUn s k => 0xAD000020 + s.toNat * 0x40000000 + k.toNat * 0x8
  | .retire s => 0xAE000000 + s.toNat * 0x40000000
  | .cncl s d a l => 0xAF000000 + s.toNat * 0x40000000 + d.toNat * 0x40000 + a.toNat * 0x1000 + l.toNat * 0x8
  | .cmplr s d a l => 0xB0000000 + s.toNat * 0x40000000 + d.toNat * 0x40000 + a.toNat * 0x1000 + l.toNat * 0x8
  | .brth s a b n => 0xB4000000 + s.toNat * 0x40000000 + a.toNat * 0x1000 + b.toNat * 0x40 + n.toNat * 0x1
  | .acqp s a => 0xB5000000 + s.toNat * 0x40000000 + a.toNat * 0x1000
  | .relp s => 0xB6000000 + s.toNat * 0x40000000
  | .clkd s a l => 0xB7000000 + s.toNat * 0x40000000 + a.toNat * 0x1000 + l.toNat * 0x8
  | .trap s i => 0xBC000000 + s.toNat * 0x40000000 + i.toNat * 0x1
  | .tret s => 0xBD000000 + s.toNat * 0x40000000
  | .probe s d w => 0xBE000000 + s.toNat * 0x40000000 + d.toNat * 0x40000 + w.toNat * 0x8
  | .mma z a w p q d m t c f => 0x80000000 + z.toNat * 0x100000 + a.toNat * 0x4000 + w.toNat * 0x100 + p.toNat * 0x80 + q.toNat * 0x40 + d.toNat * 0x20 + m.toNat * 0x10 + t.toNat * 0x8 + c.toNat * 0x4 + f.toNat * 0x1
  | .mmag z a w p q t f => 0x81000000 + z.toNat * 0x100000 + a.toNat * 0x4000 + w.toNat * 0x100 + p.toNat * 0x80 + q.toNat * 0x40 + t.toNat * 0x8 + f.toNat * 0x1
  | .mfmt b r s => 0x82000000 + b.toNat * 0x100 + r.toNat * 0x10 + s.toNat * 0x4
  | .mfmtTs a b => 0x82000002 + a.toNat * 0x4000 + b.toNat * 0x100
  | .mfsel b s => 0x83000000 + b.toNat * 0x10 + s.toNat * 0x1
  | .mzero z b => 0x84000000 + z.toNat * 0x100000 + b.toNat * 0x100
  | .mdcy z a b => 0x85000000 + z.toNat * 0x100000 + a.toNat * 0x4000 + b.toNat * 0x100
  | .mdcySet z a => 0x85000001 + z.toNat * 0x100000 + a.toNat * 0x4000
  | .mdrn z a b c i f => 0x86000000 + z.toNat * 0x100000 + a.toNat * 0x4000 + b.toNat * 0x100 + c.toNat * 0x8 + i.toNat * 0x4 + f.toNat * 0x1
  | .mldz z a b => 0x87000000 + z.toNat * 0x100000 + a.toNat * 0x4000 + b.toNat * 0x100
  | .mpref a => 0x88000000 + a.toNat * 0x4000
  | .mprefW a b => 0x88000001 + a.toNat * 0x4000 + b.toNat * 0x100
  | .munp a => 0x89000000 + a.toNat * 0x4000
  | .mswp b n => 0x8A000000 + b.toNat * 0x100 + n.toNat * 0x1
  | .mbnk a n => 0x8B000000 + a.toNat * 0x4000 + n.toNat * 0x1
  | .mhold b => 0x8C000000 + b.toNat * 0x100
  | .mholdRel => 0x8C000001
  | .mtrq a b => 0x8D000000 + a.toNat * 0x4000 + b.toNat * 0x100
  | .msync a w s => 0x8E000000 + a.toNat * 0x4000 + w.toNat * 0x8 + s.toNat * 0x1
  | .mstat a => 0x8F000000 + a.toNat * 0x4000
  | .mnop n => 0x90000000 + n.toNat * 0x1
  | .vshp a => 0x80000000 + a.toNat * 0x4000
  | .vld d a b m z e => 0x81000000 + d.toNat * 0x80000 + a.toNat * 0x4000 + b.toNat * 0x200 + m.toNat * 0x10 + z.toNat * 0x2 + e.toNat * 0x1
  | .vst s a b m e => 0x82000000 + s.toNat * 0x80000 + a.toNat * 0x4000 + b.toNat * 0x200 + m.toNat * 0x10 + e.toNat * 0x1
  | .vldg d a b m z e => 0x83000000 + d.toNat * 0x80000 + a.toNat * 0x4000 + b.toNat * 0x200 + m.toNat * 0x10 + z.toNat * 0x2 + e.toNat * 0x1
  | .vstg s a b m e => 0x84000000 + s.toNat * 0x80000 + a.toNat * 0x4000 + b.toNat * 0x200 + m.toNat * 0x10 + e.toNat * 0x1
  | .vmov d a m z e => 0x85000000 + d.toNat * 0x80000 + a.toNat * 0x4000 + m.toNat * 0x10 + z.toNat * 0x2 + e.toNat * 0x1
  | .vsplat d a m z e => 0x86000000 + d.toNat * 0x80000 + a.toNat * 0x4000 + m.toNat * 0x10 + z.toNat * 0x2 + e.toNat * 0x1
  | .viota d m k z e => 0x87000000 + d.toNat * 0x80000 + m.toNat * 0x10 + k.toNat * 0x4 + z.toNat * 0x2 + e.toNat * 0x1
  | .vfadd d a b m r z e => 0x88000000 + d.toNat * 0x80000 + a.toNat * 0x4000 + b.toNat * 0x200 + m.toNat * 0x10 + r.toNat * 0x4 + z.toNat * 0x2 + e.toNat * 0x1
  | .vfsub d a b m r z e => 0x89000000 + d.toNat * 0x80000 + a.toNat * 0x4000 + b.toNat * 0x200 + m.toNat * 0x10 + r.toNat * 0x4 + z.toNat * 0x2 + e.toNat * 0x1
  | .vfmul d a b m r z e => 0x8A000000 + d.toNat * 0x80000 + a.toNat * 0x4000 + b.toNat * 0x200 + m.toNat * 0x10 + r.toNat * 0x4 + z.toNat * 0x2 + e.toNat * 0x1
  | .vffma d a b c r => 0x8B000000 + d.toNat * 0x80000 + a.toNat * 0x4000 + b.toNat * 0x200 + c.toNat * 0x10 + r.toNat * 0x4
  | .vfmin d a b m z e => 0x8C000000 + d.toNat * 0x80000 + a.toNat * 0x4000 + b.toNat * 0x200 + m.toNat * 0x10 + z.toNat * 0x2 + e.toNat * 0x1
  | .vfmax d a b m z e => 0x8D000000 + d.toNat * 0x80000 + a.toNat * 0x4000 + b.toNat * 0x200 + m.toNat * 0x10 + z.toNat * 0x2 + e.toNat * 0x1
  | .vfabs d a m z e => 0x8E000000 + d.toNat * 0x80000 + a.toNat * 0x4000 + m.toNat * 0x10 + z.toNat * 0x2 + e.toNat * 0x1
  | .vfneg d a m z e => 0x8F000000 + d.toNat * 0x80000 + a.toNat * 0x4000 + m.toNat * 0x10 + z.toNat * 0x2 + e.toNat * 0x1
  | .vadd d a b m r s z e => 0x90000000 + d.toNat * 0x80000 + a.toNat * 0x4000 + b.toNat * 0x200 + m.toNat * 0x10 + r.toNat * 0x8 + s.toNat * 0x4 + z.toNat * 0x2 + e.toNat * 0x1
  | .vsub d a b m r s z e => 0x91000000 + d.toNat * 0x80000 + a.toNat * 0x4000 + b.toNat * 0x200 + m.toNat * 0x10 + r.toNat * 0x8 + s.toNat * 0x4 + z.toNat * 0x2 + e.toNat * 0x1
  | .vmul d a b m r z e => 0x92000000 + d.toNat * 0x80000 + a.toNat * 0x4000 + b.toNat * 0x200 + m.toNat * 0x10 + r.toNat * 0x8 + z.toNat * 0x2 + e.toNat * 0x1
  | .vmin d a b m u z e => 0x93000000 + d.toNat * 0x80000 + a.toNat * 0x4000 + b.toNat * 0x200 + m.toNat * 0x10 + u.toNat * 0x4 + z.toNat * 0x2 + e.toNat * 0x1
  | .vmax d a b m u z e => 0x94000000 + d.toNat * 0x80000 + a.toNat * 0x4000 + b.toNat * 0x200 + m.toNat * 0x10 + u.toNat * 0x4 + z.toNat * 0x2 + e.toNat * 0x1
  | .vand d a b m z e => 0x95000000 + d.toNat * 0x80000 + a.toNat * 0x4000 + b.toNat * 0x200 + m.toNat * 0x10 + z.toNat * 0x2 + e.toNat * 0x1
  | .vor d a b m z e => 0x96000000 + d.toNat * 0x80000 + a.toNat * 0x4000 + b.toNat * 0x200 + m.toNat * 0x10 + z.toNat * 0x2 + e.toNat * 0x1
  | .vxor d a b m z e => 0x97000000 + d.toNat * 0x80000 + a.toNat * 0x4000 + b.toNat * 0x200 + m.toNat * 0x10 + z.toNat * 0x2 + e.toNat * 0x1
  | .vshl d a b m z e => 0x98000000 + d.toNat * 0x80000 + a.toNat * 0x4000 + b.toNat * 0x200 + m.toNat * 0x10 + z.toNat * 0x2 + e.toNat * 0x1
  | .vshr d a b m z e => 0x99000000 + d.toNat * 0x80000 + a.toNat * 0x4000 + b.toNat * 0x200 + m.toNat * 0x10 + z.toNat * 0x2 + e.toNat * 0x1
  | .vsra d a b m z e => 0x9A000000 + d.toNat * 0x80000 + a.toNat * 0x4000 + b.toNat * 0x200 + m.toNat * 0x10 + z.toNat * 0x2 + e.toNat * 0x1
  | .vfcmp d a b m e c => 0x9B000000 + d.toNat * 0x80000 + a.toNat * 0x4000 + b.toNat * 0x200 + m.toNat * 0x10 + e.toNat * 0x8 + c.toNat * 0x1
  | .vcmp d a b m e c => 0x9C000000 + d.toNat * 0x80000 + a.toNat * 0x4000 + b.toNat * 0x200 + m.toNat * 0x10 + e.toNat * 0x8 + c.toNat * 0x1
  | .vsel d a b m => 0x9D000000 + d.toNat * 0x80000 + a.toNat * 0x4000 + b.toNat * 0x200 + m.toNat * 0x10
  | .mlog d a b f => 0x9E000000 + d.toNat * 0x80000 + a.toNat * 0x4000 + b.toNat * 0x200 + f.toNat * 0x1
  | .vrsqs d a m z e => 0x9F000000 + d.toNat * 0x80000 + a.toNat * 0x4000 + m.toNat * 0x10 + z.toNat * 0x2 + e.toNat * 0x1
  | .vrcps d a m z e => 0xA0000000 + d.toNat * 0x80000 + a.toNat * 0x4000 + m.toNat * 0x10 + z.toNat * 0x2 + e.toNat * 0x1
  | .vexs d a m z e => 0xA1000000 + d.toNat * 0x80000 + a.toNat * 0x4000 + m.toNat * 0x10 + z.toNat * 0x2 + e.toNat * 0x1
  | .vlgs d a m z e => 0xA2000000 + d.toNat * 0x80000 + a.toNat * 0x4000 + m.toNat * 0x10 + z.toNat * 0x2 + e.toNat * 0x1
  | .vred d a x o m e => 0xA3000000 + d.toNat * 0x80000 + a.toNat * 0x4000 + x.toNat * 0x1000 + o.toNat * 0x200 + m.toNat * 0x10 + e.toNat * 0x1
  | .vscan d a x y o h => 0xA4000000 + d.toNat * 0x80000 + a.toNat * 0x4000 + x.toNat * 0x2000 + y.toNat * 0x1000 + o.toNat * 0x200 + h.toNat * 0x10
  | .vtrn d a => 0xA5000000 + d.toNat * 0x80000 + a.toNat * 0x4000
  | .vrot d a b x => 0xA6000000 + d.toNat * 0x80000 + a.toNat * 0x4000 + b.toNat * 0x200 + x.toNat * 0x1
  | .vperm d a b x => 0xA7000000 + d.toNat * 0x80000 + a.toNat * 0x4000 + b.toNat * 0x200 + x.toNat * 0x1
  | .vcvt d a s m f z e => 0xA8000000 + d.toNat * 0x80000 + a.toNat * 0x4000 + s.toNat * 0x200 + m.toNat * 0x10 + f.toNat * 0x4 + z.toNat * 0x2 + e.toNat * 0x1
  | .vqnt d a b f => 0xA9000000 + d.toNat * 0x80000 + a.toNat * 0x4000 + b.toNat * 0x200 + f.toNat * 0x4
  | .vdqn d a b f => 0xAA000000 + d.toNat * 0x80000 + a.toNat * 0x4000 + b.toNat * 0x200 + f.toNat * 0x4
  | .vrns d a m f z e => 0xAB000000 + d.toNat * 0x80000 + a.toNat * 0x4000 + m.toNat * 0x10 + f.toNat * 0x4 + z.toNat * 0x2 + e.toNat * 0x1
  | .vcrt d a m f z e => 0xAC000000 + d.toNat * 0x80000 + a.toNat * 0x4000 + m.toNat * 0x10 + f.toNat * 0x4 + z.toNat * 0x2 + e.toNat * 0x1
  | .vacr d z b => 0xAD000000 + d.toNat * 0x80000 + z.toNat * 0x4000 + b.toNat * 0x200
  | .vacw s z b m i n e => 0xAE000000 + s.toNat * 0x80000 + z.toNat * 0x4000 + b.toNat * 0x200 + m.toNat * 0x10 + i.toNat * 0x4 + n.toNat * 0x2 + e.toNat * 0x1
  | .cpy d a b c n k => 0x80000000 + d.toNat * 0x40000 + a.toNat * 0x1000 + b.toNat * 0x40 + c.toNat * 0x8 + n.toNat * 0x4 + k.toNat * 0x1
  | .cpy2 d a b c n k => 0x81000000 + d.toNat * 0x40000 + a.toNat * 0x1000 + b.toNat * 0x40 + c.toNat * 0x8 + n.toNat * 0x4 + k.toNat * 0x1
  | .cpyt d a b c n k => 0x82000000 + d.toNat * 0x40000 + a.toNat * 0x1000 + b.toNat * 0x40 + c.toNat * 0x8 + n.toNat * 0x4 + k.toNat * 0x1
  | .gth d a b c n k => 0x83000000 + d.toNat * 0x40000 + a.toNat * 0x1000 + b.toNat * 0x40 + c.toNat * 0x8 + n.toNat * 0x4 + k.toNat * 0x1
  | .sct d a b c n k => 0x84000000 + d.toNat * 0x40000 + a.toNat * 0x1000 + b.toNat * 0x40 + c.toNat * 0x8 + n.toNat * 0x4 + k.toNat * 0x1
  | .cpys d a b c n k => 0x85000000 + d.toNat * 0x40000 + a.toNat * 0x1000 + b.toNat * 0x40 + c.toNat * 0x8 + n.toNat * 0x4 + k.toNat * 0x1
  | .pub d a b c n k => 0x86000000 + d.toNat * 0x40000 + a.toNat * 0x1000 + b.toNat * 0x40 + c.toNat * 0x8 + n.toNat * 0x4 + k.toNat * 0x1
  | .wprg d a b c n k => 0x87000000 + d.toNat * 0x40000 + a.toNat * 0x1000 + b.toNat * 0x40 + c.toNat * 0x8 + n.toNat * 0x4 + k.toNat * 0x1
  | .wvfy d a b c n k => 0x88000000 + d.toNat * 0x40000 + a.toNat * 0x1000 + b.toNat * 0x40 + c.toNat * 0x8 + n.toNat * 0x4 + k.toNat * 0x1
  | .wdig d a b c n k => 0x89000000 + d.toNat * 0x40000 + a.toNat * 0x1000 + b.toNat * 0x40 + c.toNat * 0x8 + n.toNat * 0x4 + k.toNat * 0x1
  | .cred d a b c n k => 0x8A000000 + d.toNat * 0x40000 + a.toNat * 0x1000 + b.toNat * 0x40 + c.toNat * 0x8 + n.toNat * 0x4 + k.toNat * 0x1
  | .cag d a b c n k => 0x8B000000 + d.toNat * 0x40000 + a.toNat * 0x1000 + b.toNat * 0x40 + c.toNat * 0x8 + n.toNat * 0x4 + k.toNat * 0x1
  | .cbct d a b c n k => 0x8C000000 + d.toNat * 0x40000 + a.toNat * 0x1000 + b.toNat * 0x40 + c.toNat * 0x8 + n.toNat * 0x4 + k.toNat * 0x1
  | .cwait a => 0x8D000000 + a.toNat * 0x1000
  | .csig a c => 0x8E000000 + a.toNat * 0x1000 + c.toNat * 0x8
  | .cfnc c => 0x8F000000 + c.toNat * 0x8
  | .cprq d a => 0x90000000 + d.toNat * 0x40000 + a.toNat * 0x1000
  | _ => 0

/-- The fields that REP's steps sd, sa and sb act on, by place and width in the word; `none` for a word that REP may not
repeat (R172, R173, R185, R283, R314, R342, R392). -/
def Instr.repFields : Instr → Option RepFields
  | .nop _ => some ⟨none, none, none, false, false⟩
  | .add _ _ _ _ => some ⟨some (18, 6), some (12, 6), some (6, 6), false, false⟩
  | .sub _ _ _ _ => some ⟨some (18, 6), some (12, 6), some (6, 6), false, false⟩
  | .and _ _ _ _ => some ⟨some (18, 6), some (12, 6), some (6, 6), false, false⟩
  | .or _ _ _ _ => some ⟨some (18, 6), some (12, 6), some (6, 6), false, false⟩
  | .xor _ _ _ _ => some ⟨some (18, 6), some (12, 6), some (6, 6), false, false⟩
  | .shl _ _ _ _ => some ⟨some (18, 6), some (12, 6), some (6, 6), false, false⟩
  | .shr _ _ _ _ => some ⟨some (18, 6), some (12, 6), some (6, 6), false, false⟩
  | .sra _ _ _ _ => some ⟨some (18, 6), some (12, 6), some (6, 6), false, false⟩
  | .mul _ _ _ _ => some ⟨some (18, 6), some (12, 6), some (6, 6), false, false⟩
  | .mulh _ _ _ _ => some ⟨some (18, 6), some (12, 6), some (6, 6), false, false⟩
  | .min _ _ _ _ => some ⟨some (18, 6), some (12, 6), some (6, 6), false, false⟩
  | .max _ _ _ _ => some ⟨some (18, 6), some (12, 6), some (6, 6), false, false⟩
  | .agen _ _ _ _ _ => some ⟨some (18, 6), some (12, 6), some (6, 6), false, false⟩
  | .addi _ _ _ _ => some ⟨some (18, 6), some (12, 6), none, false, false⟩
  | .andi _ _ _ _ => some ⟨some (18, 6), some (12, 6), none, false, false⟩
  | .ori _ _ _ _ => some ⟨some (18, 6), some (12, 6), none, false, false⟩
  | .xori _ _ _ _ => some ⟨some (18, 6), some (12, 6), none, false, false⟩
  | .shli _ _ _ _ => some ⟨some (18, 6), some (12, 6), none, false, false⟩
  | .shri _ _ _ _ => some ⟨some (18, 6), some (12, 6), none, false, false⟩
  | .srai _ _ _ _ => some ⟨some (18, 6), some (12, 6), none, false, false⟩
  | .lui _ _ _ => some ⟨some (18, 6), none, none, false, false⟩
  | .cmp _ _ _ _ _ => some ⟨some (17, 7), some (11, 6), some (5, 6), false, false⟩
  | .cmpi _ _ _ _ _ => some ⟨some (17, 7), some (11, 6), none, false, false⟩
  | .plog _ _ _ _ _ => some ⟨some (17, 7), some (10, 7), some (3, 7), false, false⟩
  | .sel _ _ _ _ _ => some ⟨some (18, 6), some (12, 6), some (6, 6), false, false⟩
  | .mfs _ _ _ => some ⟨some (18, 6), none, none, false, false⟩
  | .ld _ _ _ _ _ _ => some ⟨some (18, 6), some (12, 6), none, false, false⟩
  | .st _ _ _ _ _ => some ⟨some (18, 6), some (12, 6), none, false, false⟩
  | .lds _ _ _ _ _ _ => some ⟨some (18, 6), some (12, 6), none, false, false⟩
  | .sts _ _ _ _ _ => some ⟨some (18, 6), some (12, 6), none, false, false⟩
  | .ldw _ _ _ _ _ _ => some ⟨some (18, 6), some (12, 6), none, false, false⟩
  | .fadd _ _ _ _ _ _ => some ⟨some (18, 6), some (12, 6), some (6, 6), false, false⟩
  | .fsub _ _ _ _ _ _ => some ⟨some (18, 6), some (12, 6), some (6, 6), false, false⟩
  | .fmul _ _ _ _ _ _ => some ⟨some (18, 6), some (12, 6), some (6, 6), false, false⟩
  | .ffma _ _ _ _ _ _ => some ⟨some (18, 6), some (12, 6), some (6, 6), false, false⟩
  | .fmin _ _ _ _ _ => some ⟨some (18, 6), some (12, 6), some (6, 6), false, false⟩
  | .fmax _ _ _ _ _ => some ⟨some (18, 6), some (12, 6), some (6, 6), false, false⟩
  | .fsgn _ _ _ _ _ _ => some ⟨some (18, 6), some (12, 6), some (6, 6), false, false⟩
  | .fcmp _ _ _ _ _ _ => some ⟨some (17, 7), some (11, 6), some (5, 6), false, false⟩
  | .fcvt _ _ _ _ _ _ _ => some ⟨some (18, 6), some (12, 6), none, false, false⟩
  | .fsqs _ _ _ => some ⟨some (18, 6), some (12, 6), none, false, false⟩
  | .frcs _ _ _ => some ⟨some (18, 6), some (12, 6), none, false, false⟩
  | .fcls _ _ _ _ => some ⟨some (18, 6), some (12, 6), none, false, false⟩
  | .popc _ _ _ => some ⟨some (18, 6), some (12, 6), none, false, false⟩
  | .clz _ _ _ => some ⟨some (18, 6), some (12, 6), none, false, false⟩
  | .bext _ _ _ _ _ => some ⟨some (18, 6), some (12, 6), some (6, 6), false, false⟩
  | .mma _ _ _ _ _ _ _ _ _ _ => some ⟨some (20, 4), some (14, 6), some (8, 6), true, true⟩
  | .mmag _ _ _ _ _ _ _ => some ⟨some (20, 4), some (14, 6), some (8, 6), true, true⟩
  | .mzero _ _ => some ⟨some (20, 4), none, some (8, 6), false, false⟩
  | .mdcy _ _ _ => some ⟨some (20, 4), some (14, 6), some (8, 6), false, false⟩
  | .mdcySet _ _ => some ⟨some (20, 4), some (14, 6), none, false, false⟩
  | .mdrn _ _ _ _ _ _ => some ⟨some (20, 4), some (14, 6), some (8, 6), false, false⟩
  | .mldz _ _ _ => some ⟨some (20, 4), some (14, 6), some (8, 6), false, false⟩
  | .mpref _ => some ⟨none, some (14, 6), none, true, false⟩
  | .mprefW _ _ => some ⟨none, some (14, 6), some (8, 6), false, false⟩
  | .munp _ => some ⟨none, some (14, 6), none, true, false⟩
  | .mtrq _ _ => some ⟨none, some (14, 6), some (8, 6), false, false⟩
  | .mnop _ => some ⟨none, none, none, false, false⟩
  | .vld _ _ _ _ _ _ => some ⟨some (19, 5), some (14, 5), some (9, 5), false, false⟩
  | .vst _ _ _ _ _ => some ⟨some (19, 5), some (14, 5), some (9, 5), false, false⟩
  | .vldg _ _ _ _ _ _ => some ⟨some (19, 5), some (14, 5), some (9, 5), false, false⟩
  | .vstg _ _ _ _ _ => some ⟨some (19, 5), some (14, 5), some (9, 5), false, false⟩
  | .vmov _ _ _ _ _ => some ⟨some (19, 5), some (14, 5), none, false, false⟩
  | .vsplat _ _ _ _ _ => some ⟨some (19, 5), some (14, 5), none, false, false⟩
  | .viota _ _ _ _ _ => some ⟨some (19, 5), none, none, false, false⟩
  | .vfadd _ _ _ _ _ _ _ => some ⟨some (19, 5), some (14, 5), some (9, 5), false, false⟩
  | .vfsub _ _ _ _ _ _ _ => some ⟨some (19, 5), some (14, 5), some (9, 5), false, false⟩
  | .vfmul _ _ _ _ _ _ _ => some ⟨some (19, 5), some (14, 5), some (9, 5), false, false⟩
  | .vffma _ _ _ _ _ => some ⟨some (19, 5), some (14, 5), some (9, 5), false, false⟩
  | .vfmin _ _ _ _ _ _ => some ⟨some (19, 5), some (14, 5), some (9, 5), false, false⟩
  | .vfmax _ _ _ _ _ _ => some ⟨some (19, 5), some (14, 5), some (9, 5), false, false⟩
  | .vfabs _ _ _ _ _ => some ⟨some (19, 5), some (14, 5), none, false, false⟩
  | .vfneg _ _ _ _ _ => some ⟨some (19, 5), some (14, 5), none, false, false⟩
  | .vadd _ _ _ _ _ _ _ _ => some ⟨some (19, 5), some (14, 5), some (9, 5), false, false⟩
  | .vsub _ _ _ _ _ _ _ _ => some ⟨some (19, 5), some (14, 5), some (9, 5), false, false⟩
  | .vmul _ _ _ _ _ _ _ => some ⟨some (19, 5), some (14, 5), some (9, 5), false, false⟩
  | .vmin _ _ _ _ _ _ _ => some ⟨some (19, 5), some (14, 5), some (9, 5), false, false⟩
  | .vmax _ _ _ _ _ _ _ => some ⟨some (19, 5), some (14, 5), some (9, 5), false, false⟩
  | .vand _ _ _ _ _ _ => some ⟨some (19, 5), some (14, 5), some (9, 5), false, false⟩
  | .vor _ _ _ _ _ _ => some ⟨some (19, 5), some (14, 5), some (9, 5), false, false⟩
  | .vxor _ _ _ _ _ _ => some ⟨some (19, 5), some (14, 5), some (9, 5), false, false⟩
  | .vshl _ _ _ _ _ _ => some ⟨some (19, 5), some (14, 5), some (9, 5), false, false⟩
  | .vshr _ _ _ _ _ _ => some ⟨some (19, 5), some (14, 5), some (9, 5), false, false⟩
  | .vsra _ _ _ _ _ _ => some ⟨some (19, 5), some (14, 5), some (9, 5), false, false⟩
  | .vfcmp _ _ _ _ _ _ => some ⟨some (19, 5), some (14, 5), some (9, 5), false, false⟩
  | .vcmp _ _ _ _ _ _ => some ⟨some (19, 5), some (14, 5), some (9, 5), false, false⟩
  | .vsel _ _ _ _ => some ⟨some (19, 5), some (14, 5), some (9, 5), false, false⟩
  | .mlog _ _ _ _ => some ⟨some (19, 5), some (14, 5), some (9, 5), false, false⟩
  | .vrsqs _ _ _ _ _ => some ⟨some (19, 5), some (14, 5), none, false, false⟩
  | .vrcps _ _ _ _ _ => some ⟨some (19, 5), some (14, 5), none, false, false⟩
  | .vexs _ _ _ _ _ => some ⟨some (19, 5), some (14, 5), none, false, false⟩
  | .vlgs _ _ _ _ _ => some ⟨some (19, 5), some (14, 5), none, false, false⟩
  | .vred _ _ _ _ _ _ => some ⟨some (19, 5), some (14, 5), none, false, false⟩
  | .vscan _ _ _ _ _ _ => some ⟨some (19, 5), some (14, 5), none, false, false⟩
  | .vtrn _ _ => some ⟨some (19, 5), some (14, 5), none, false, false⟩
  | .vrot _ _ _ _ => some ⟨some (19, 5), some (14, 5), some (9, 5), false, false⟩
  | .vperm _ _ _ _ => some ⟨some (19, 5), some (14, 5), some (9, 5), false, false⟩
  | .vcvt _ _ _ _ _ _ _ => some ⟨some (19, 5), some (14, 5), none, false, false⟩
  | .vqnt _ _ _ _ => some ⟨some (19, 5), some (14, 5), some (9, 5), false, false⟩
  | .vdqn _ _ _ _ => some ⟨some (19, 5), some (14, 5), some (9, 5), false, false⟩
  | .vrns _ _ _ _ _ _ => some ⟨some (19, 5), some (14, 5), none, false, false⟩
  | .vcrt _ _ _ _ _ _ => some ⟨some (19, 5), some (14, 5), none, false, false⟩
  | .vacr _ _ _ => some ⟨some (19, 5), some (14, 5), some (9, 5), false, false⟩
  | .vacw _ _ _ _ _ _ _ => some ⟨some (19, 5), some (14, 5), some (9, 5), false, false⟩
  | .cpy _ _ _ _ _ _ => some ⟨some (18, 6), some (12, 6), some (6, 6), true, true⟩
  | .cpy2 _ _ _ _ _ _ => some ⟨some (18, 6), some (12, 6), some (6, 6), true, true⟩
  | .cpyt _ _ _ _ _ _ => some ⟨some (18, 6), some (12, 6), some (6, 6), true, true⟩
  | .gth _ _ _ _ _ _ => some ⟨some (18, 6), some (12, 6), some (6, 6), true, true⟩
  | .sct _ _ _ _ _ _ => some ⟨some (18, 6), some (12, 6), some (6, 6), true, true⟩
  | .cpys _ _ _ _ _ _ => some ⟨some (18, 6), some (12, 6), some (6, 6), true, true⟩
  | .wprg _ _ _ _ _ _ => some ⟨some (18, 6), some (12, 6), some (6, 6), true, true⟩
  | .wvfy _ _ _ _ _ _ => some ⟨some (18, 6), some (12, 6), some (6, 6), true, true⟩
  | .wdig _ _ _ _ _ _ => some ⟨some (18, 6), some (12, 6), some (6, 6), true, true⟩
  | _ => none

/-- The word of an instruction (R129). -/
def encode (i : Instr) : Word := BitVec.ofNat 32 (encodeNat i)

/-- A REP step: 3-bit two's complement, -4 to +3 (R171). -/
def repStep (s : BitVec 3) : Int := s.toInt

/-- Field `f` of a word moved by `k`, read as an integer: none when no such field. -/
def repMoved (w : Nat) (f : Option (Nat × Nat)) (k : Int) : Option Int :=
  f.map fun p => (bits w p.1 p.2 : Int) + k

/-- The word with field `f` moved by `k` (R171): register number f + i × step. -/
def repShift (w : Nat) (f : Option (Nat × Nat)) (k : Int) : Nat :=
  match f with
  | none => w
  | some p => w - bits w p.1 p.2 * 2 ^ p.1 + ((bits w p.1 p.2 : Int) + k).toNat % 2 ^ p.2 * 2 ^ p.1

/-- The word that issues at repeat `ix` of a REP with steps sd, sa, sb (R171). -/
def repWord (w : Word) (f : RepFields) (sd sa sb : BitVec 3) (ix : Nat) : Word :=
  BitVec.ofNat 32 (repShift (repShift (repShift w.toNat f.d (repStep sd * ix)) f.a (repStep sa * ix)) f.b (repStep sb * ix))

/-- A step acts on a field the word has, or is zero; and the moved field lies in 0 to 2 ^ width - 1 at every repeat, which
is decided at the last one (R172, R173). -/
def repFieldOk (w : Nat) (f : Option (Nat × Nat)) (s : BitVec 3) (last : Nat) : Bool :=
  match f with
  | none => decide (s.toNat = 0)
  | some p => decide (0 ≤ (bits w p.1 p.2 : Int) + repStep s * last)
      && decide ((bits w p.1 p.2 : Int) + repStep s * last < 2 ^ p.2)

/-- Words whose xb must be zero as they first stand, and which take a step of it under REP (R173, R283): they use no register that
it names. DEDUCED, log 67. -/
def Instr.idleB : Instr → Bool
  | .mpref _ => true
  | .munp _ => true
  | .mdcySet _ _ => true
  | _ => false
/-- REP may repeat the word `w`, which decoded to `i`, `last + 1` times (R173): repeatable, every step acts on a field or
is zero, and the word as it stands at the last repeat still passes the checks of its stream, so no stepped register,
pair, mask or slot field leaves its file (R283, R314, R342). -/
def repAllowed (k : StreamKind) (acc : Nat) (w : Word) (i : Instr) (sd sa sb : BitVec 3) (last : Nat) : Bool :=
  match i.repFields with
  | none => false
  | some f =>
    (!f.pairA || decide (sa.toNat % 2 = 0)) && (!f.pairB || decide (sb.toNat % 2 = 0)) &&
    repFieldOk w.toNat f.d sd last && repFieldOk w.toNat f.a sa last && repFieldOk w.toNat (if Instr.idleB i then some (8, 5) else f.b) sb last
      && (List.range (last + 1)).all fun ix =>
        match decodeWord k acc (repWord w f sd sa sb ix) with
        | .ok _ => true
        | .error _ => false

/-- The x registers that a word reads or writes (R151, R186, R281). -/
def Instr.xregs : Instr → List (BitVec 6)
  | .add _ d a b => [d, a, b]
  | .sub _ d a b => [d, a, b]
  | .and _ d a b => [d, a, b]
  | .or _ d a b => [d, a, b]
  | .xor _ d a b => [d, a, b]
  | .shl _ d a b => [d, a, b]
  | .shr _ d a b => [d, a, b]
  | .sra _ d a b => [d, a, b]
  | .mul _ d a b => [d, a, b]
  | .mulh _ d a b => [d, a, b]
  | .min _ d a b => [d, a, b]
  | .max _ d a b => [d, a, b]
  | .agen _ d a b _ => [d, a, b]
  | .addi _ d a _ => [d, a]
  | .andi _ d a _ => [d, a]
  | .ori _ d a _ => [d, a]
  | .xori _ d a _ => [d, a]
  | .shli _ d a _ => [d, a]
  | .shri _ d a _ => [d, a]
  | .srai _ d a _ => [d, a]
  | .lui _ d _ => [d]
  | .cmp _ _ a b _ => [a, b]
  | .cmpi _ _ a _ _ => [a]
  | .sel _ d a b _ => [d, a, b]
  | .call _ _ => [31]
  | .jr _ a => [a]
  | .ret _ => [31]
  | .loopReg _ _ r _ => [r]
  | .loopxReg _ _ r _ => [r]
  | .mfs _ d _ => [d]
  | .mts _ a _ => [a]
  | .ld _ d a _ _ _ => [d, a]
  | .st _ d a _ _ => [d, a]
  | .lds _ d a _ _ _ => [d, a]
  | .sts _ d a _ _ => [d, a]
  | .ldw _ d a _ _ _ => [d, a]
  | .amo _ _ a b _ _ => [a, b]
  | .amr _ d a b _ _ => [d, a, b]
  | .fadd _ d a b _ _ => [d, a, b]
  | .fsub _ d a b _ _ => [d, a, b]
  | .fmul _ d a b _ _ => [d, a, b]
  | .ffma _ d a b _ _ => [d, a, b]
  | .fmin _ d a b _ => [d, a, b]
  | .fmax _ d a b _ => [d, a, b]
  | .fsgn _ d a b _ _ => [d, a, b]
  | .fcmp _ _ a b _ _ => [a, b]
  | .fcvt _ d a _ _ _ _ => [d, a]
  | .fsqs _ d a => [d, a]
  | .frcs _ d a => [d, a]
  | .fcls _ d a _ => [d, a]
  | .popc _ d a => [d, a]
  | .clz _ d a => [d, a]
  | .bext _ d a b _ => [d, a, b]
  | .cflush _ a _ => [a]
  | .bari _ a b _ => [a, b]
  | .bara _ a => [a]
  | .barw _ a => [a]
  | .mon _ a => [a]
  | .mwait _ d a => [d, a]
  | .semw _ a b _ => [a, b]
  | .semp _ a b _ => [a, b]
  | .qpush _ d a b => [d, a, b]
  | .qpop _ d a b => [d, a, b]
  | .qtryPop _ d a b => [d, a, b]
  | .qtryPush _ d a b => [d, a, b]
  | .fork _ c m v => [c, m, v]
  | .cncl _ d a _ => [d, a]
  | .cmplr _ d a _ => [d, a]
  | .brth _ a b _ => [a, b]
  | .acqp _ a => [a]
  | .clkd _ a _ => [a]
  | .probe _ d _ => [d]
  | .mma _ a w _ _ _ _ _ _ _ => [a, a + 1, w, w + 1]
  | .mmag _ a w _ _ _ _ => [a, a + 1, w, w + 1]
  | .mfmt b _ _ => [b]
  | .mfmtTs a b => [a, b]
  | .mzero _ b => [b]
  | .mdcy _ a b => [a, b]
  | .mdcySet _ a => [a]
  | .mdrn _ a b _ _ _ => [a, b]
  | .mldz _ a b => [a, b]
  | .mpref a => [a, a + 1]
  | .mprefW a b => [a, b]
  | .munp a => [a, a + 1]
  | .mswp b _ => [b]
  | .mbnk a _ => [a]
  | .mhold b => [b]
  | .mtrq a b => [a, b]
  | .msync a _ _ => [a]
  | .mstat a => [a]
  | _ => []

end Sys2Proof
end

