-- ==== Sys2Proof/Machine/Formats.lean ====
section
/-! DEFINITION. The number formats, exact values, rounding and conversion (02 R47-R63, 08 R182). -/
namespace Sys2Proof.Machine

/-- A floating-point format by its field widths, its bias and its special patterns (R56, R182). -/
structure FpFmt where
  ew : Nat
  fw : Nat
  bias : Nat
  /-- E4M3: no infinities, NaN only with every lower bit set (R56). -/
  finiteOnly : Bool
deriving DecidableEq, Repr

def fp32 : FpFmt := ⟨8, 23, 127, false⟩
def fp64 : FpFmt := ⟨11, 52, 1023, false⟩
def bf16 : FpFmt := ⟨8, 7, 127, false⟩
def e4m3 : FpFmt := ⟨4, 3, 7, true⟩
def e5m2 : FpFmt := ⟨5, 2, 15, false⟩

/-- The flags of FPFL by their bits (R72). -/
def flNX : X := 1
def flUF : X := 2
def flOF : X := 4
def flDZ : X := 8
def flNV : X := 16
def flSAT : X := 32
def flNC : X := 64

/-- A value as a datapath holds it: a NaN (signalling or not), an infinity, or the exact number
(-1)^neg × num ÷ den × 2^e, whose zero keeps a sign (R54, R57, R58). -/
inductive Val where
  | nan (sig : Bool)
  | inf (neg : Bool)
  | num (neg : Bool) (num den : Nat) (e : Int)
deriving DecidableEq, Repr

def Val.zero (neg : Bool) : Val := .num neg 0 1 0
/-- An exact integer; zero is +0. -/
def Val.ofInt (i : Int) : Val := .num (decide (i < 0)) i.natAbs 1 0
/-- An exact number m × 2^e. -/
def Val.dyadic (m : Int) (e : Int) : Val := .num (decide (m < 0)) m.natAbs 1 e

def Val.isNum0 : Val → Bool
  | .num _ n _ _ => n = 0
  | _ => false
def Val.negative : Val → Bool
  | .nan _ => false
  | .inf s => s
  | .num s _ _ _ => s

def pow2 (k : Int) : Nat := 2 ^ k.toNat

/-- Bits of format `f` to the value they stand for (R56). -/
def unpack (f : FpFmt) (b : Nat) : Val :=
  let fr := b % 2 ^ f.fw
  let ex := b / 2 ^ f.fw % 2 ^ f.ew
  let sg : Bool := b / 2 ^ (f.fw + f.ew) % 2 = 1
  if ex = 2 ^ f.ew - 1 ∧ f.finiteOnly = false then
    if fr = 0 then .inf sg else .nan (decide (fr < 2 ^ (f.fw - 1)))
  else if ex = 2 ^ f.ew - 1 ∧ fr = 2 ^ f.fw - 1 then .nan false
  else if ex = 0 then .num sg fr 1 (1 - (f.bias : Int) - f.fw)
  else .num sg (fr + 2 ^ f.fw) 1 ((ex : Int) - f.bias - f.fw)

def signBit (f : FpFmt) (neg : Bool) : Nat := if neg then 2 ^ (f.fw + f.ew) else 0
/-- Canonical NaN of a format (R56, R182). -/
def canonNaN (f : FpFmt) : Nat :=
  if f.finiteOnly then 2 ^ (f.fw + f.ew) - 1 else (2 ^ f.ew - 1) * 2 ^ f.fw + 2 ^ (f.fw - 1)
def infBits (f : FpFmt) (neg : Bool) : Nat := signBit f neg + (2 ^ f.ew - 1) * 2 ^ f.fw
/-- Largest finite magnitude, with a sign (R56). -/
def maxBits (f : FpFmt) (neg : Bool) : Nat :=
  signBit f neg + (if f.finiteOnly then 2 ^ (f.fw + f.ew) - 2 else (2 ^ f.ew - 1) * 2 ^ f.fw - 1)

/-- ⌊log2 (n ÷ d)⌋ of positive n and d. -/
def floorLog2 (n d : Nat) : Int :=
  let k : Int := (Nat.log2 n : Int) - Nat.log2 d
  if n * pow2 (-k) < d * pow2 k then k - 1 else k

/-- A nonnegative quotient n ÷ d rounded to an integer: mode 0 nearest even, 1 toward zero, 2 down, 3 up, for a value of
sign `neg` (R52). The second part says whether it was inexact. -/
def roundQuot (rm : Nat) (neg : Bool) (n d : Nat) : Nat × Bool :=
  let q := n / d
  let r := n % d
  if r = 0 then (q, false)
  else
    let up : Bool := match rm with
      | 0 => decide (d < 2 * r) || (decide (d = 2 * r) && decide (q % 2 = 1))
      | 1 => false
      | 2 => neg
      | _ => !neg
    (if up then q + 1 else q, true)

/-- num ÷ den × 2^e rounded to a multiple of 2^u: the multiple, and whether inexact. -/
def roundAt (rm : Nat) (neg : Bool) (num den : Nat) (e u : Int) : Nat × Bool :=
  roundQuot rm neg (num * pow2 (e - u)) (den * pow2 (u - e))

/-- The unit in the last place at which R53 rounds: exponent range unbounded above, subnormal spacing kept. -/
def ulpExp (f : FpFmt) (num den : Nat) (e : Int) : Int :=
  let l := floorLog2 num den + e - f.fw
  let m : Int := 1 - (f.bias : Int) - f.fw
  if l < m then m else l

/-- Magnitude bits of k × 2^u, k at most 2^(fw+1), with no bound on the exponent field. -/
def packMag (f : FpFmt) (k : Nat) (u : Int) : Nat :=
  let m : Int := 1 - (f.bias : Int) - f.fw
  if k < 2 ^ f.fw then k
  else if k = 2 ^ (f.fw + 1) then (u - m + 2).toNat * 2 ^ f.fw
  else (u - m + 1).toNat * 2 ^ f.fw + (k - 2 ^ f.fw)

/-- Rounding of a nonzero number into `f` (R53): magnitude bits (unbounded), inexact, tiny. -/
def roundFp (f : FpFmt) (rm : Nat) (neg : Bool) (num den : Nat) (e : Int) : Nat × Bool × Bool :=
  let u := ulpExp f num den e
  let r := roundAt rm neg num den e u
  (packMag f r.1 u, r.2, decide (packMag f r.1 u < 2 ^ f.fw))

/-- Conversion into a floating-point format: R58 and R53, mode `rm`, saturate bit `sat`. An infinity saturates as R58 says, into
FP32 too. DEDUCED, log 81. -/
def cvtFp (f : FpFmt) (rm : Nat) (sat : Bool) (v : Val) : Nat × X :=
  match v with
  | .nan sig => (canonNaN f, if sig then flNV else 0)
  | .inf neg =>
    if sat then (maxBits f neg, flSAT)
    else if f.finiteOnly then (canonNaN f, flNV)
    else (infBits f neg, 0)
  | .num neg n d e =>
    if n = 0 then (signBit f neg, 0)
    else
      let r := roundFp f rm neg n d e
      if maxBits f false < r.1 then
        if sat then (maxBits f neg, flSAT)
        else if f.finiteOnly then (canonNaN f, flOF ||| flNX)
        else if rm = 0 ∨ (rm = 3 ∧ neg = false) ∨ (rm = 2 ∧ neg = true) then (infBits f neg, flOF ||| flNX)
        else (maxBits f neg, flOF ||| flNX)
      else (signBit f neg + r.1, (if r.2.1 then flNX ||| (if r.2.2 then flUF else 0) else 0))

/-- A number rounded to an integer (RoundToInteger of R58). -/
def roundInt (rm : Nat) (neg : Bool) (n d : Nat) (e : Int) : Int × Bool :=
  let r := roundAt rm neg n d e 0
  (if neg then -(r.1 : Int) else (r.1 : Int), r.2)

/-- Conversion into an integer range: always saturates; a NaN gives 0 with NV (R58, R201). -/
def cvtInt (lo hi : Int) (rm : Nat) (v : Val) : Int × X :=
  match v with
  | .nan _ => (0, flNV)
  | .inf neg => (if neg then lo else hi, flSAT)
  | .num neg n d e =>
    let r := roundInt rm neg n d e
    if hi < r.1 then (hi, flSAT)
    else if r.1 < lo then (lo, flSAT)
    else (r.1, if r.2 then flNX else 0)

/-- The residue byte of an integer in -70..69 (EncodeRB8, R61). -/
def encodeRB8 (v : Int) : Nat := (v % 4).toNat * 64 + (v % 5).toNat * 8 + (v % 7).toNat

/-- The integer of a residue byte and NC for a non-canonical code (DecodeRB8, R61). -/
def decodeRB8 (e : Nat) : Int × X :=
  let a := e / 64 % 4
  let b := e / 8 % 8
  let c := e % 8
  if 4 < b ∨ c = 7 then (0, flNC)
  else
    let t := (105 * a + 56 * b + 120 * c) % 140
    (if t < 70 then (t : Int) else (t : Int) - 140, 0)

/-- The value of an RA32 word: a number, or none for the overflow mark; NC for a non-canonical word (DecodeRA32, R62). -/
def decodeRA32 (w : Nat) : Option Int × X :=
  let r1 := w % 256
  let r2 := w / 256 % 256
  let r3 := w / 65536 % 512
  if 2 ^ 25 ≤ w ∨ 254 < r1 ∨ 256 < r3 then (some 0, flNC)
  else
    let t := (8421376 * r1 + 16711425 * r2 + 8421120 * r3) % 16776960
    if t ≤ 8388479 then (some (t : Int), 0)
    else if 8388481 ≤ t then (some ((t : Int) - 16776960), 0)
    else (none, 0)

/-- The RA32 word of an integer (VRNS, R335). -/
def encodeRA32 (v : Int) : Nat := (v % 257).toNat * 65536 + (v % 256).toNat * 256 + (v % 255).toNat

/-- Lift(e, m) (R63). -/
def lift (e m : Nat) : Nat := ((decodeRB8 e).1 % (m : Int)).toNat

/-- Bits per element of a format code (R47). -/
def codeBits : Nat → Nat
  | 0 => 32
  | 1 => 16
  | 6 => 4
  | _ => 8

/-- The floating-point format of a code, if it is one (R47). -/
def codeFp : Nat → Option FpFmt
  | 0 => some fp32
  | 1 => some bf16
  | 2 => some e4m3
  | 3 => some e5m2
  | _ => none

/-- A two's-complement reading of the low `n` bits. -/
def sint (n : Nat) (v : Nat) : Int := if v % 2 ^ n < 2 ^ (n - 1) then (v % 2 ^ n : Nat) else (v % 2 ^ n : Nat) - (2 ^ n : Nat)
/-- The low `n` bits of an integer. -/
def uint (n : Nat) (v : Int) : Nat := (v % (2 ^ n : Nat)).toNat

/-- The value of an element of format `code` and the flags its reading raises (R56, R60, R61). -/
def readElem (code b : Nat) : Val × X :=
  match codeFp code with
  | some f => (unpack f b, 0)
  | none =>
    match code with
    | 4 => (.ofInt (sint 8 b), 0)
    | 5 => (.ofInt (decodeRB8 b).1, (decodeRB8 b).2)
    | _ => (.ofInt (sint 4 b), 0)

/-- Cvt of R58 into format `code`: the element's bits and flags. -/
def cvt (code rm : Nat) (sat : Bool) (v : Val) : Nat × X :=
  match codeFp code with
  | some f => cvtFp f rm sat v
  | none =>
    if code = 4 then
      let r := cvtInt (-128) 127 rm v
      (uint 8 r.1, r.2)
    else
      let r := cvtInt (-70) 69 rm v
      (encodeRB8 r.1, r.2)

/-- RoundNE(FP32, v): rounding to nearest with the overflow result of R58, SATB clear (R14, R53). -/
def rne32 (v : Val) : Nat × X := cvtFp fp32 0 false v

/-- The exact product of two values, with the NV of ∞ × 0 and of signalling NaNs (R57, R197). -/
def mulVal (a b : Val) : Val × X :=
  let sg := (if a = .nan true ∨ b = .nan true then flNV else 0)
  match a, b with
  | .nan _, _ => (.nan false, sg)
  | _, .nan _ => (.nan false, sg)
  | .inf s, .inf t => (.inf (s != t), 0)
  | .inf s, .num t n _ _ => if n = 0 then (.nan false, flNV) else (.inf (s != t), 0)
  | .num t n _ _, .inf s => if n = 0 then (.nan false, flNV) else (.inf (s != t), 0)
  | .num s n d e, .num t m c g => (.num (s != t) (n * m) (d * c) (e + g), 0)

/-- The signed integer of a number at the scale 2^u (u at most its exponent, denominators 1). -/
def scaledInt (u : Int) : Val → Int
  | .num s n _ e => if s then -((n * pow2 (e - u) : Nat) : Int) else ((n * pow2 (e - u) : Nat) : Int)
  | _ => 0

def minExp : List Val → Int
  | [] => 0
  | [.num _ _ _ e] => e
  | .num _ _ _ e :: t => min e (minExp t)
  | _ :: t => minExp t

/-- The exact sum of numbers with denominator 1, with the sign of a zero sum by R54. -/
def sumNums (rm : Nat) (l : List Val) : Val :=
  let u := minExp l
  let t := (l.map (scaledInt u)).foldl (· + ·) 0
  if t = 0 then
    .zero (!l.isEmpty && (l.all (fun v => v.negative) || (decide (rm = 2) && !l.all (fun v => !v.negative && v.isNum0))))
  else .dyadic t u

/-- The exact sum of values: NaN and infinity rules of R57, R70 and R197. NaN operands raise NV only if signalling. -/
def sumVals (rm : Nat) (l : List Val) : Val × X :=
  let sg := (if l.any (· == .nan true) then flNV else 0)
  let pos := l.any (· == .inf false)
  let neg := l.any (· == .inf true)
  if pos && neg then (.nan false, sg ||| flNV)
  else if l.any (fun v => match v with | .nan _ => true | _ => false) then (.nan false, sg)
  else if pos then (.inf false, sg)
  else if neg then (.inf true, sg)
  else (sumNums rm l, sg)

/-- The value with its sign inverted. -/
def negVal : Val → Val
  | .nan s => .nan s
  | .inf s => .inf (!s)
  | .num s n d e => .num (!s) n d e

/-- FADD: xa + xb, rounded once (R197). -/
def fpAdd (f : FpFmt) (rm a b : Nat) : Nat × X :=
  let s := sumVals rm [unpack f a, unpack f b]
  let r := cvtFp f rm false s.1
  (r.1, s.2 ||| r.2)
/-- FSUB: xa - xb, rounded once (R197). -/
def fpSub (f : FpFmt) (rm a b : Nat) : Nat × X :=
  let s := sumVals rm [unpack f a, negVal (unpack f b)]
  let r := cvtFp f rm false s.1
  (r.1, s.2 ||| r.2)
/-- FMUL: xa × xb, rounded once (R197). -/
def fpMul (f : FpFmt) (rm a b : Nat) : Nat × X :=
  let p := mulVal (unpack f a) (unpack f b)
  let r := cvtFp f rm false p.1
  (r.1, p.2 ||| r.2)
/-- FFMA: xa × xb + xc, rounded once (R197). -/
def fpFma (f : FpFmt) (rm a b c : Nat) : Nat × X :=
  let p := mulVal (unpack f a) (unpack f b)
  let s := sumVals rm [p.1, unpack f c]
  let r := cvtFp f rm false s.1
  (r.1, p.2 ||| s.2 ||| r.2)

/-- Order of two numbers or infinities, -0 below +0 when `signedZero`: -1, 0 or 1. -/
def cmpVal (a b : Val) : Int :=
  match a, b with
  | .inf s, .inf t => if s = t then 0 else if s then -1 else 1
  | .inf s, _ => if s then -1 else 1
  | _, .inf t => if t then 1 else -1
  | a, b =>
    let u := minExp [a, b]
    let x := scaledInt u a
    let y := scaledInt u b
    if x < y then -1 else if y < x then 1 else 0

def isNaN : Val → Bool
  | .nan _ => true
  | _ => false
def isSig (v : Val) : Bool := v == .nan true

/-- FMIN (`mx` false) and FMAX: R198. -/
def fpMinMax (f : FpFmt) (mx : Bool) (a b : Nat) : Nat × X :=
  let x := unpack f a
  let y := unpack f b
  let fl := if isSig x || isSig y then flNV else 0
  if isNaN x && isNaN y then (canonNaN f, fl)
  else if isNaN x then (b, fl)
  else if isNaN y then (a, fl)
  else
    let c := cmpVal x y
    let less : Bool := decide (c < 0) || (decide (c = 0) && x.negative && !y.negative)
    let same : Bool := decide (c = 0) && (x.negative == y.negative)
    if same then (a, fl) else if less != mx then (a, fl) else (b, fl)

/-- FSGN with new sign `s` (R199). -/
def fpSetSign (f : FpFmt) (s : Bool) (a : Nat) : Nat × X :=
  match unpack f a with
  | .nan sig => (canonNaN f, if sig then flNV else 0)
  | _ => (signBit f s + a % 2 ^ (f.fw + f.ew), 0)

def fpSign (f : FpFmt) (a : Nat) : Bool := a / 2 ^ (f.fw + f.ew) % 2 = 1

/-- FCMP and VFCMP: condition `cc` of R200 and its flags. -/
def fpCmp (f : FpFmt) (cc a b : Nat) : Bool × X :=
  let x := unpack f a
  let y := unpack f b
  let un := isNaN x || isNaN y
  let fl := if isSig x || isSig y || (un && (decide (cc = 2) || decide (cc = 3))) then flNV else 0
  let c := cmpVal x y
  let r : Bool := match cc with
    | 0 => !un && decide (c = 0)
    | 1 => un || decide (c ≠ 0)
    | 2 => !un && decide (c < 0)
    | 3 => !un && decide (0 ≤ c)
    | 4 => un || decide (c < 0)
    | _ => un || decide (0 ≤ c)
  (r, fl)

/-- FCLS: the bit number of the class (R202). -/
def fpClass (f : FpFmt) (a : Nat) : Nat :=
  match unpack f a with
  | .nan sig => if sig then 8 else 9
  | .inf s => if s then 0 else 7
  | .num s n _ _ =>
    if n = 0 then (if s then 3 else 4)
    else if n < 2 ^ f.fw then (if s then 2 else 5)
    else (if s then 1 else 6)

/-- Trunc12 on a positive m × 2^e: its 12 leading bits (R203). -/
def trunc12 (m : Nat) (e : Int) : Nat × Int :=
  let k := Nat.log2 m
  if k < 12 then (m, e) else (m / 2 ^ (k - 11), e + ((k - 11 : Nat) : Int))

/-- The integer square root of `n`, built from bit `i - 1` down, `r` so far. -/
def isqrtFrom (n r : Nat) : Nat → Nat
  | 0 => r
  | i + 1 => isqrtFrom n (if (r + 2 ^ i) * (r + 2 ^ i) ≤ n then r + 2 ^ i else r) i

/-- Round14(1 ÷ √(m × 2^e)) as k × 2^q (R203): `m` below 2^13 and `e` even. -/
def rsqrt14 (m : Nat) (e : Int) : Nat × Int :=
  let s0 := 13 + Nat.log2 m / 2
  let k0 := isqrtFrom (4 ^ s0 / m) 0 16
  let s := if k0 < 2 ^ 13 then s0 + 1 else if 2 ^ 14 ≤ k0 then s0 - 1 else s0
  let k := isqrtFrom (4 ^ s / m) 0 16
  let mid := (2 * k + 1) * (2 * k + 1) * m
  let k' := if mid < 4 * 4 ^ s ∨ (mid = 4 * 4 ^ s ∧ k % 2 = 1) then k + 1 else k
  (k', -(s : Int) - e / 2)

/-- FSQS and VRSQS: the reciprocal square root seed (R203). -/
def seedRsqrt (x : Nat) : Nat × X :=
  match unpack fp32 x with
  | .nan sig => (canonNaN fp32, if sig then flNV else 0)
  | .inf s => if s then (canonNaN fp32, flNV) else (0, 0)
  | .num s n _ e =>
    if n = 0 then (infBits fp32 s, flDZ)
    else if s then (canonNaN fp32, flNV)
    else
      let t := trunc12 n e
      let y := if t.2 % 2 = 0 then rsqrt14 t.1 t.2 else rsqrt14 (2 * t.1) (t.2 - 1)
      ((rne32 (.num false y.1 1 y.2)).1, 0)

/-- Round14 of a positive quotient n ÷ d × 2^e: k × 2^u (R203). -/
def round14 (n d : Nat) (e : Int) : Nat × Int :=
  let u := floorLog2 n d + e - 13
  ((roundAt 0 false n d e u).1, u)

/-- FRCS and VRCPS: the reciprocal seed (R204). -/
def seedRecip (x : Nat) : Nat × X :=
  match unpack fp32 x with
  | .nan sig => (canonNaN fp32, if sig then flNV else 0)
  | .inf s => (signBit fp32 s, 0)
  | .num s n _ e =>
    if n = 0 then (infBits fp32 s, flDZ)
    else
      let t := trunc12 n e
      let y := round14 1 t.1 (-t.2)
      if 128 ≤ (Nat.log2 y.1 : Int) + y.2 then (infBits fp32 s, flOF ||| flNX)
      else ((rne32 (.num s y.1 1 y.2)).1, 0)

/-- The largest k below 2^(i) + r with k^4096 ≤ n, built from bit `i - 1` down. -/
def root4096From (n r : Nat) : Nat → Nat
  | 0 => r
  | i + 1 => root4096From n (if (r + 2 ^ i) ^ 4096 ≤ n then r + 2 ^ i else r) i

/-- Round14(2^(k ÷ 4096)) in units of 2^-13 (R327). -/
def exp14 (k : Nat) : Nat :=
  let m := root4096From (2 ^ (4096 * 13 + k)) 0 14
  if (2 * m + 1) ^ 4096 < 2 ^ (4096 * 14 + k) then m + 1 else m

/-- VEXS: an approximation of 2^x (R327). -/
def seedExp2 (x : Nat) : Nat × X :=
  match unpack fp32 x with
  | .nan sig => (canonNaN fp32, if sig then flNV else 0)
  | .inf s => if s then (0, 0) else (infBits fp32 false, 0)
  | .num s m _ e =>
    let v : Int := if s then -(m : Int) else (m : Int)
    let n : Int := if 0 ≤ e then v * (pow2 e : Nat) else v / (pow2 (-e) : Nat)
    if 128 ≤ n then (infBits fp32 false, flOF ||| flNX)
    else
      let k : Nat := if 0 ≤ e then 0 else ((v - n * (pow2 (-e) : Nat)) * 4096 / (pow2 (-e) : Nat)).toNat
      if n < -400 then (0, flUF ||| flNX)
      else
        let r := rne32 (.num false (exp14 k) 1 (n - 13))
        (r.1, if -126 ≤ n then 0 else r.2)

/-- VLGS: an approximation of log2 x (R328). -/
def seedLog2 (x : Nat) : Nat × X :=
  match unpack fp32 x with
  | .nan sig => (canonNaN fp32, if sig then flNV else 0)
  | .inf s => if s then (canonNaN fp32, flNV) else (infBits fp32 false, 0)
  | .num s n _ e =>
    if n = 0 then (infBits fp32 true, flDZ)
    else if s then (canonNaN fp32, flNV)
    else
      let t := trunc12 n e
      let k := Nat.log2 t.1
      let m := t.1 * 2 ^ (11 - k)
      let l := Nat.log2 (m ^ 65536) - 11 * 65536
      let h := Nat.log2 (m ^ 131072) - 11 * 131072
      let l' := if 2 * l + 1 ≤ h then l + 1 else l
      ((rne32 (.dyadic (((k : Int) + t.2) * 65536 + l') (-16))).1, 0)

/-- An FP32 sum rounded to nearest, as accumulators add (R66); UF and NX as R58 and R72 set them. DEDUCED, log 82. -/
def acc32 (acc : Nat) (v : Val) : Nat × X :=
  let s := sumVals 0 [unpack fp32 acc, v]
  let r := rne32 s.1
  (r.1, s.2 ||| r.2)

end Sys2Proof.Machine
end

