-- ==== Sys2Proof/Config.lean ====
section
/-! DEFINITION. What the spec fixes for every device, and the free values it leaves open: opaque constants with no body,
so nothing can be proved of them but what holds for every value. -/
namespace Sys2Proof

/-- A stream of instruction words: voice `j` of unit `u`, or its sequencer context `j` of engine `e` (R112, R124). -/
inductive Sel where
  | voice (u j : Nat)
  | ctx (u : Nat) (e : Engine) (j : Nat)
deriving DecidableEq, Repr, Inhabited

/-- One move of the machine: a stream issues its next unit, a step of the device that is no word happens, or the
reference clock of a die advances by `n` cycles (log 2). -/
inductive Turn where
  | stream (sel : Sel)
  | event (i : Instr)
  | tick (die n : Nat)
deriving DecidableEq, Repr, Inhabited

end Sys2Proof

namespace Sys2Proof.Config

/-- Compute dies of the package (R1, R5). -/
def dies : Nat := 12
/-- Cores of a die (R7). -/
def cores : Nat := 96
/-- Storage of a die that no instruction sees (R7): bytes of L1 of a core, of L2 of a die, and the slices L2 lies in. -/
def l1Bytes : Nat := 256 * 2 ^ 10
def l2Bytes : Nat := 192 * 2 ^ 20
def l2Slices : Nat := 96
/-- LPDDR-6 fitted on each die of the AX3-M12W48: 64 GiB (R1, R3). -/
def fitted : Nat := 64 * 2 ^ 30
/-- Bytes of the device-private area at the top of a die's LPDDR-6 (R452). -/
def privateBytes : Nat := 512 * 2 ^ 20

/-- An unspecified byte (R18): read number, then place. The model leaves it free (log 1). -/
opaque freeByte : Nat → Nat → Byte
/-- A free choice among allowed courses: choice number to a number (log 2). -/
opaque freeChoice : Nat → Nat
/-- Which agent moves at move number `n` where the agenda names none (log 2). -/
opaque nextTurn : Nat → Turn
/-- The opening a valve rests at, and the pump speed that no die asks above (R432); the spec gives no numbers (log 13). -/
opaque restingValve : Nat
opaque restingPump : Nat
/-- Whether the SM2 signature of a firmware image header verifies under the firmware key (R463): the spec gives neither the
key nor the arithmetic (log 13). -/
opaque sm2Verifies : List Byte → Bool
/-- The die's identity in SPDM answers: certificate chain bytes, signatures and exchange data (R465; log 13). -/
opaque spdmBytes : Nat → Nat → List Byte
/-- The tile fetch unit has a step's lines pinned at an attempt of the cycle (R258): attempt number to yes or no (log 75). -/
opaque linesPinned : Nat → Bool
/-- The code with which the host processor die refuses a packet for a die that no route reaches (R460; log 90). -/
opaque unreachedCode : Nat
/-- Bellows asks a valve for its state at a thermal sample (R432): question number to yes or no (log 96). -/
opaque asksState : Nat → Bool
/-- The UALink port, of eight, that carries the data of a collective to the package at an endpoint (R461), and what its members there
have done by an attempt: nothing yet, issued as the others have, or ended it with a status (R362; log 56). -/
opaque portFor : Nat → Nat
opaque remoteEnds : Nat → Nat
/-- The scratchpad or a slot of a unit is found disturbed as it starts again (R450): start number to yes or no (log 25). -/
opaque storageDisturbed : Nat → Bool
/-- Reference cycles that a REMEAS takes (R466): its number to a count (log 102). -/
opaque measureTime : Nat → Nat
/-- An L2 slice has room for one more version entry (R380, R381): choice number and lines held to yes or no (log 11). -/
opaque versionRoom : Nat → Nat → Bool

end Sys2Proof.Config
end

