-- ==== Sys2Proof/Machine/State.lean ====
section
/-! DEFINITION. The state of the device: plain data, every piece the spec names, and the machine right after reset. A map
lists what differs from the value an unlisted key reads as; every field's default is its value at reset. -/
namespace Sys2Proof.Machine
open Sys2Proof

/-- A trap cause with its XINFO (R442). -/
structure Trap where
  code : Nat
  info : Nat
deriving DecidableEq, Repr

/-- One hardware loop level: ACT, TOP, END, N (0 for unbounded) and lc (R123, R165). -/
structure Loop where
  act : Bool := false
  top : X := 0
  fin : X := 0
  n : Nat := 0
  lc : BitVec 32 := 0
deriving DecidableEq, Repr

/-- The repeat state of XSW bits 20:0 (R445): next index, count - 1, steps. -/
structure Rep where
  ix : BitVec 6
  cm : BitVec 6
  sd : BitVec 3
  sa : BitVec 3
  sb : BitVec 3
deriving DecidableEq, Repr

/-- What a stream of words owns: x and p registers (unlisted: 0), PC, loop levels, repeat state, FMSEL (R118, R121); and its
loop buffer: the words of the units of its outermost active loop's body, by address, none before it is filled (R123). -/
structure Stream where
  x : NMap X := []
  p : NMap Bool := []
  pc : X := 0
  l0 : Loop := {}
  l1 : Loop := {}
  l2 : Loop := {}
  rep : Option Rep := none
  fmsel : BitVec 8 := 0x03
  buf : Option (NMap (List Word)) := none
deriving DecidableEq, Repr

/-- The event a waiting voice awaits (R116, R394). -/
inductive Wait where
  | sync
  | mwait (deadline : Option Nat)
  | barrier (pa gen : Nat)
  | semaphore (pa : Nat)
  | push (q : Nat)
  | pop (q : Nat)
  /-- RDV with its engine mask; RETIRE: 8, every context of the unit. -/
  | rdv (mask : Nat)
deriving DecidableEq, Repr

inductive VStatus where
  | running
  | waiting (w : Wait) (since : Nat)
  | parked
  | halted
deriving DecidableEq, Repr

/-- The watch of MON (R402): the line, and whether a write has fired it. -/
structure Watch where
  line : Nat
  va : Nat
  fired : Bool
deriving DecidableEq, Repr

/-- What a stalled voice has asked for (R394): the answer of a counter's die to CNCL or CMPLR of a level and identity
(R417, R418), a power level (R421), a clock domain with the divisor asked
for and the DCC of the request (R422). -/
inductive Ask where
  | cancel (level id : Nat) (d : BitVec 6)
  | read (level id : Nat) (d : BitVec 6)
  | power (level : Nat)
  | clock (dom div since : Nat)
deriving DecidableEq, Repr

/-- A voice (R112, R116, R118, R121, R444). -/
structure Voice where
  st : Stream := {}
  status : VStatus := .parked
  /-- Cycles of its sync wait that the sync-stall count leaves out: those before a voice it waits for last parked (R115). -/
  stall : Nat := 0
  hmode : Bool := false
  xpc : X := 0
  xsw : X := 0
  xcause : X := 0
  xinfo : X := 0
  s0 : Loop := {}
  s1 : Loop := {}
  s2 : Loop := {}
  watch : Option Watch := none
  /-- Registers whose data have not arrived (R186). -/
  busy : List Nat := []
  /-- What it is stalled on (R394). -/
  ask : Option Ask := none
  /-- It has met its team at the sync bundle at its PC (R114, R394); and the same of the code a handler interrupted. -/
  met : Bool := false
  smet : Bool := false
  /-- DCC from which it may issue its next unit: the end of the control cycle of its last, or of a trap's latency (R112, R444,
  R448). -/
  nextAt : Nat := 0
  /-- Its PARK of a control cycle: DCC at the end of that cycle, and its stream before it (R415). -/
  parkAt : Option (Nat × Stream) := none
  /-- Result and destination of its waiting instruction, which completed while the team was away: the register takes it once the
  frame has been read (R394). -/
  won : Option (BitVec 6 × X) := none
  /-- Address that its waiting SEMW or BARW names (R218). -/
  waitVa : Nat := 0
deriving DecidableEq, Repr

/-- How far a command of an engine has come (R104, R256, R309, R337). -/
inductive Phase where
  | queued
  | held
  | issued
deriving DecidableEq, Repr

/-- A range of storage a command declares (R127): space 0 scratchpad bytes, 1 accumulator slots, 2 tile registers,
3 mask registers. -/
structure Claim where
  space : Nat
  lo : Nat
  len : Nat
  wr : Bool
deriving DecidableEq, Repr

/-- An entry of a tile table (R221): physical address of the tile, R and W, whether it is valid, which INVAL ends (R218), and E and
WW of its page, for an entry refilled by a read of the aperture (R211, R229). -/
structure Tile where
  pa : Nat
  r : Bool
  w : Bool
  ok : Bool
  e : Bool := true
  ww : Bool := false
deriving DecidableEq, Repr

/-- A tensor descriptor as admission read it (R219), its tile tables (R221), the visible bit V (R354) and the aperture
tiles held (R230). -/
structure Tensor where
  base : Nat := 0
  scale : Nat := 0
  aper : Nat := 0
  ext : List Nat := []
  str : List Nat := []
  fmt : Nat := 0
  shd : Bool := false
  rdo : Bool := false
  tiles : NMap Tile := []
  stiles : NMap Tile := []
  vis : Bool := false
  snap : NMap (List (BitVec 32)) := []
deriving DecidableEq, Repr

/-- A command of an engine context with all it resolved at decode (R51, R124 to R127, R222). -/
structure Cmd where
  cn : Nat
  word : Word
  /-- Its word as it was fetched, for XINFO (R442). -/
  raw : Word := 0
  instr : Instr
  /-- Values of the x registers its word names, in operand-field order (R126). -/
  regs : List X
  fent : Word := 0
  tsv : BitVec 32 := 0
  /-- Format entries beyond the first that it resolved, and their scale values (R51). -/
  fents : List (Word × BitVec 32) := []
  vsh : BitVec 32 := 0
  /-- The team's STSC at decode (R386). -/
  stsc : BitVec 3 := 0
  /-- Its place in the core-wide entry order (R127), and its first one, which survives a move or a restart (R261). -/
  entry : Nat := 0
  born : Nat := 0
  claims : List Claim := []
  /-- Frames it pins (R222, R223). -/
  pins : List Nat := []
  phase : Phase := .queued
  /-- Cycle of its engine's domain in which it became ready (R104). -/
  readyAt : Option Nat := none
  /-- Timed: the stamp in TCLK, and whether it is armed (R263, R297). -/
  stamp : Option Nat := none
  armed : Bool := false
  /-- Cycles of the engine's domain at entry to the array or at issue, and at completion (R256). -/
  enter : Nat := 0
  fin : Nat := 0
  /-- Promised completion in TCLK, and whether the miss was reported (R344, R345). -/
  promise : Option Nat := none
  missed : Bool := false
  /-- Pieces landed, with their bytes (R346), bytes its barrier has counted (the progress record of R347), the physical address
  of its barrier or completion object, and its ST code (R366). -/
  landed : NMap Nat := []
  counted : Nat := 0
  sync : Option Nat := none
  status : Nat := 0
  /-- The regions a command in the array reads, or first read, each with its bank (R244, R245). -/
  reads : List (Nat × Bool) := []
  /-- Engine resets that interrupted it (R457). -/
  resets : Nat := 0
  /-- Draw level of its window (R419). -/
  level : Nat := 0
  /-- In the array, and entered it with every line of its tensor A operand pinned (R258, R264). -/
  pinned : Bool := false
  /-- It was put back after a reset (R455, R456). -/
  replay : Bool := false
  /-- The V bits of shadowed tensors it resolved (R356), by tensor. -/
  vis : List (Nat × Bool) := []
  /-- Lines of its tensor A operand (R264), D as fixed at entry (R256), held cycles while in the array (R300). -/
  lines : List Nat := []
  dur : Nat := 0
  holdc : Nat := 0
  /-- In the array: matrix cycles from entry to the start of each of its K-steps' beats, and to its boundary (R256). -/
  starts : List Nat := []
  /-- What the tile fetch unit has read of its tensor A operand, by line (R259); K-steps read; matrix cycles by which pauses have
  delayed it (R258); and a member removed from its group by a poisoned line (R274). -/
  abuf : NMap (List Byte) := []
  tstep : Nat := 0
  shift : Nat := 0
  gone : Bool := false
  /-- Cycles a command had waited for its partners before its unit last stopped (R268, R362). -/
  waited : Nat := 0
  /-- The physical core whose copy engine runs it (R111). -/
  core : Nat := 0
  /-- Consort: its number among the unit's consort commands (R268), and the cycle in which it was armed. Collective: its
  number among those its context issued with its tag (R362). -/
  con : Nat := 0
  armedAt : Nat := 0
  /-- Hold limit of a merge candidate, none where it is no candidate (R269); members of the group it ran in (R300). -/
  hlimit : Option Nat := none
  memb : Nat := 0
  /-- Group table of an MMAG or index list of GTH and SCT, read when it became ready (R286, R353). -/
  table : Option (List (Nat × Nat)) := none
  /-- Its tensor operand as translated at submission (R222), and the tensor it writes (R356). -/
  tens : Tensor := {}
  wten : Option Nat := none
  /-- Frames of the pages of its plain global operands, by page number (R222). -/
  pages : List (Nat × Nat) := []
  /-- Region and bank of a weight command of the copy engine, fixed at issue (R357 to R359). -/
  wbank : Option (Nat × Bool) := none
  /-- Collective: GTAG and the member entries (R360); its number among those its context issued with the tag; the bytes it
  receives once the operation has formed, and the flags of the root (R362). -/
  group : List Nat := []
  data : Option (List Byte) := none
  flags : X := 0
deriving DecidableEq, Repr

inductive CtxStatus where
  | idle
  | running
  | draining
deriving DecidableEq, Repr

/-- A sequencer context of an engine (R124 to R128). -/
structure Ctx where
  st : Stream := {}
  status : CtxStatus := .idle
  nextCn : Nat := 1
  /-- The command queue: undrained entries in cn order, head first (R125). -/
  queue : List Cmd := []
  /-- Commands issued and not complete (R104). -/
  flight : List Cmd := []
  /-- Completion number (R126). -/
  done : Nat := 0
  /-- Completed commands above the completion number (R349, R451), with the journal entries each holds. -/
  set : NMap Nat := []
  /-- MHOLD pending and its value (R297). -/
  hold : Option Nat := none
  /-- Decoding stopped: MSYNC.w for its command (R299), CWAIT for its object (R364). -/
  stop : Option Nat := none
  /-- Previous promise (R344). -/
  promise : Nat := 0
  /-- The last sixteen completed commands, newest first: cn, CPRQ word (R366). -/
  last : List (Nat × Nat) := []
  /-- Status of the last completed command, for MSTAT (R300). -/
  mstat : X := 0
  /-- Lines of global memory that its MPREFs pin in the tile fetch unit (R293, R294). -/
  pref : List Nat := []
  /-- Bank of each region index chosen by MBNK (R296). -/
  bank : NMap Nat := []
  /-- Collectives issued with each GTAG, and operations that ended without their partners: GTAG, number, status (R362). -/
  tags : NMap Nat := []
  lapsed : List (Nat × Nat × Nat) := []
  /-- DCC from which it may decode its next word (R124). -/
  nextAt : Nat := 0
  /-- Cycle of its engine after the last in which it issued (R105); its place in its journal ring (R126). -/
  issuedAt : Nat := 0
  jpos : Nat := 0
  /-- Its boost from runs of cycles with a ready command that are over, the first cycle of the run in progress, and the cycle
  after its last where the head has left or lost its readiness without an issue (R105). -/
  boost : Nat := 0
  since : Option Nat := none
  gap : Nat := 0
  /-- DCC at the end of the engine cycle in which it became idle (R411). -/
  idleAt : Nat := 0
deriving DecidableEq, Repr

/-- A store of an open span version: byte, value and the scope STSC held (R189, R372); its voice, and the DCC at which its
control cycle ends, from which the team's loads see it (R376). -/
structure SWrite where
  pa : Nat
  byte : Byte
  scope : Nat
  seenAt : Nat := 0
  voice : Nat := 0
deriving DecidableEq, Repr

/-- A write of a team-scope register, or flags raised in FPFL, that some stream's cycle may not see yet (R73, R121, R177,
R316): DCC at which its cycle began, DCC from which cycles that begin see it, its place among writes of one cycle, the value,
and whether it is flags raised. -/
structure RegWrite where
  start : Nat
  seenAt : Nat
  rank : Nat
  val : X
  raised : Bool
deriving DecidableEq, Repr
/-- The recent writes of one team-scope register, in the order in which they apply, and its value before them. -/
structure Recent where
  base : X
  writes : List RegWrite
deriving DecidableEq, Repr

/-- A scratchpad byte a voice stored in a control cycle that ends at `seenAt` (R191): its key, what it held before, the
voice. -/
structure SpOld where
  key : Nat
  old : Byte
  seenAt : Nat
  voice : Nat
deriving DecidableEq, Repr

/-- A byte written at a scope below system, with the team it reaches from (R369, R374, R386). -/
structure NWrite where
  pa : Nat
  byte : Byte
  scope : Nat
  unit : Nat
  die : Nat
  core : Nat
deriving DecidableEq, Repr

/-- A page that a stream of a unit took a page fault on, with the PC of that bundle or word (R215, R217). -/
structure PageNote where
  page : Nat
  sel : Sel
  pc : X
deriving DecidableEq, Repr

inductive UStatus where
  | placed
  | resident
  | stopping (cause : Nat)
  | suspended (cause : Nat)
  | failing
  | cancelling
  | ended
deriving DecidableEq, Repr

/-- What a unit is and where it stands (R21, R23, R32, R96 to R98). -/
structure Place where
  die : Nat := 0
  /-- Logical core (R87). -/
  core : Nat := 0
  slot0 : Nat := 0
  voices : Nat := 1
  launch : Nat := 0
  stage : Nat := 0
  inst : Nat := 0
  job : Nat := 0
  /-- First unit of its scratchpad allocation and its length in 64 KiB units (R33, R97). -/
  sbase : Nat := 0
  sunits : Nat := 1
  guards : Nat := 1
  jent : Nat := 64
  /-- Physical accumulator slots in ascending order: the slot map (R98). -/
  slots : List Nat := []
  save : Nat := 0
deriving DecidableEq, Repr

/-- The breath window of BRTH (R420). -/
structure Breath where
  onset : Nat
  len : Nat
  int : Nat
  /-- Bellows has begun to raise the regulators (R427). -/
  raised : Bool := false
deriving DecidableEq, Repr

/-- A guard touch record (R225): XINFO layout. -/
structure Guard where
  info : Nat
deriving DecidableEq, Repr

/-- A request queued at a semaphore (R405). -/
structure SemReq where
  pa : Nat
  unit : Nat
  voice : Nat
  n : Nat
  scope : Nat
deriving DecidableEq, Repr

/-- A unit: one team on one core (R21), with the team-scope registers of R121. -/
structure TeamUnit where
  place : Place := {}
  status : UStatus := .placed
  /-- Unheld matrix cycles of its core when it last started, and TCLK then; not resident: where TCLK stands (R122). -/
  tbase : Nat := 0
  tclk : Nat := 0
  started : Bool := false
  xhnd : X := 0
  wthr : BitVec 32 := 20000
  stsc : BitVec 3 := 1
  pgnt : BitVec 4 := 0
  fpfl : X := 0
  prio : Nat := 0
  mhl : BitVec 11 := 64
  vsh : BitVec 32 := 0x00021F1F
  /-- Recent writes of those registers, by number; VSH: 0x100, format entries from 0x200, tensor scales from 0x300 (R73, R121, R177,
  R287, R316). Recent stores to the scratchpad (R191). -/
  recent : NMap Recent := []
  spOld : List SpOld := []
  /-- Format table, row × 4 + slot, and tensor-scale table (R48, R50): unlisted entries hold their reset values. -/
  ftab : NMap Word := []
  tstab : NMap (BitVec 32) := []
  /-- Open span version and its read record (R372, R375). -/
  stores : List SWrite := []
  reads : NMap Byte := []
  /-- The line of the version that cannot be read back, by its address (R379). -/
  vlost : Option Nat := none
  guard : Option Guard := none
  /-- Engine event queue, head first: XCAUSE, XINFO (R446), and lost events. -/
  events : List (X × X) := []
  drop : Nat := 0
  /-- Bytes of a version that a boundary committed in the control cycle of their store: what the team's reads of that cycle
  return (R376). -/
  late : List SpOld := []
  /-- Voices unparked, each with the DCC at the end of that control cycle (R415). -/
  unparks : List (Nat × Nat) := []
  /-- XINFO of the class S cause that last stopped it (R440, R442). -/
  sinfo : Nat := 0
  /-- DCC at which each event entered the queue. -/
  evAt : List Nat := []
  withdrawn : Bool := false
  /-- Pending yield request: cause, deadline (R106). -/
  yreq : Option (Nat × Nat) := none
  breath : Option Breath := none
  /-- CLKD requests by domain code (R422). -/
  clkd : NMap Nat := []
  /-- Power level to request again at a start (R421, R451). -/
  regrant : Nat := 0
  /-- XCAUSE of the class F trap that fails it, its voice and XINFO (R442). -/
  fault : Option X := none
  /-- The page it waits for and the stream that faulted on it (R215, R217). -/
  page : Option (Nat × Sel) := none
  /-- Page faults whose access has not been made again (R217). -/
  notes : List PageNote := []
  /-- Times its lineage has failed (R458). -/
  fails : Nat := 0
  /-- Its place among the starts of its die, once it may start (R100); DCC of its last stop and its place among the stops
  (R110, R451). -/
  ready : Option Nat := none
  dstop : Nat := 0
  stopped : Nat := 0
  /-- Its CLKD requests count on its core before it is resident (R453). -/
  asserted : Bool := false
  /-- Its failure is charged to a voltage domain (R436). -/
  charged : Bool := false
  /-- Stopped for a migration at its boundary (R109). -/
  moved : Bool := false
  /-- Start of the slice that it has yielded to: it may start again from that slice on (R85, R107). -/
  slept : Option Nat := none
  /-- Consort commands it has submitted (R268). -/
  consorts : Nat := 0
  /-- It has given up its voice slots, and has not started since (R449 step 5). -/
  away : Bool := false
  /-- Flags that its copies have raised, and scratchpad bytes they have landed, since its frame and images were saved (R73, R111,
  R450); and the physical core on which its last stop wrote images, none where it wrote none (R450). -/
  gained : X := 0
  spLate : NMap Byte := []
  imaged : Option Nat := none
  /-- The voice that executes its RETIRE, and the DCC at the end of that control cycle (R416). -/
  retireAt : Option (Nat × Nat) := none
deriving DecidableEq, Repr

/-- A failed unit whose retry waits for a core (R99, R458): its stage, times its lineage has failed, the cause and UNITID of its
failure, and whether the retry counts against RETRY (R436). -/
structure Retry where
  stage : Nat
  fails : Nat
  cause : Nat
  unitid : Nat
  counted : Bool
deriving DecidableEq, Repr

/-- A stage record as admission read it (R38), and what the DWS keeps of the stage (R101 to R103). -/
structure Stage where
  image : Nat := 0
  ilen : Nat := 0
  entry : Nat := 0
  team : Nat := 0
  scr : Nat := 1
  guard : Nat := 0
  acc : Nat := 0
  jrn : Nat := 0
  inq : Nat := 0xFF
  umin : Nat := 1
  umax : Nat := 1
  hwm : Nat := 0
  lwm : Nat := 0
  dwell : Nat := 0
  pushm : Nat := 0
  popm : Nat := 0
  fmti : Nat := 0
  fmt : List Word := []
  bind : List Nat := []
  nois : List (Nat × Nat) := []
  next : Nat := 0
  hi : Nat := 0
  lo : Nat := 0
  /-- A creation is pending (R102); samples taken (R101). -/
  pend : Bool := false
  samples : Nat := 0
deriving DecidableEq, Repr

/-- A waiting push or pop (R408): voice, scratchpad address, status register, the entry a push brings, and the DCC at which the
wait began (R103). -/
structure QWait where
  unit : Nat
  voice : Nat
  addr : Nat
  d : BitVec 6
  item : List Byte
  since : Nat
deriving DecidableEq, Repr

/-- A stage queue (R27, R40): entries, head first; waiting pushes and pops in order of arrival (R408). -/
structure Queue where
  qent : Nat := 2
  qsize : Nat := 8
  qpre : Nat := 0
  qpra : Nat := 0
  items : List (List Byte) := []
  pushers : List QWait := []
  poppers : List QWait := []
  /-- It has closed, and never reopens (R29). -/
  closed : Bool := false
deriving DecidableEq, Repr

/-- The states of a completion counter (R89). -/
inductive CState where
  | opened
  | complete
  | failed
  | cancelled
  | rejected
deriving DecidableEq, Repr

/-- A completion counter (R89) with what its completion record needs (R92). -/
structure Counter where
  state : CState := .opened
  fails : Nat := 0
  out : Nat := 0
  retries : Nat := 0
  qdisc : Nat := 0
  fcause : Nat := 0
  funit : Nat := 0
  rej : Nat := 0
  when : Nat := 0
  /-- The level, or one above it, was cancelled (R90, R91). -/
  cancel : Bool := false
  /-- Its DONE packet has been sent (R93). -/
  sent : Bool := false
  /-- It was reported to the level above (R459). -/
  told : Bool := false
deriving DecidableEq, Repr

inductive LStatus where
  | waiting
  | admitted
deriving DecidableEq, Repr

/-- A launch of a die: its record as last read, and its state (R21, R36, R80). -/
structure Launch where
  die : Nat := 0
  job : Nat := 0
  id : Nat := 0
  /-- LAUNCHID as the record gives it, read by MFS (R36). -/
  rid : Nat := 0
  graph : Nat := 0
  node : Nat := 0
  phase : Nat := 0
  addr : Nat := 0
  src : Nat := 0
  status : LStatus := .waiting
  arrival : Nat := 0
  /-- DCC at its admission (R101). -/
  began : Nat := 0
  /-- DCC since which it waits for resources alone (R81), and whether it is blocking. -/
  passed : Option Nat := none
  blocking : Bool := false
  /-- Predecessors, PRIO, RETRY, POLICY, CONS, PARAM, work area, VLOG (R36). -/
  pred : List Nat := []
  prio : Nat := 23
  retry : Nat := 0
  policy : Nat := 0
  cons : Bool := false
  param : Nat := 0
  work : Nat := 0
  wsize : Nat := 0
  vlog : Nat := 1
  stages : List Stage := []
  queues : List Queue := []
  tensors : List Tensor := []
  /-- Failed units whose retry waits for a core (R99, R458). -/
  retries : List Retry := []
  /-- Frames of its work area, as admission translated it (R42, R43). -/
  frames : List Nat := []
  /-- The latest provisional read could not be made or would fail a check: no resource test (R80). -/
  untested : Bool := true
  /-- A unit failed past RETRY under POLICY 0: the launch fails when its units have stopped (R458). -/
  failed : Bool := false
  count : Counter := {}
deriving DecidableEq, Repr

/-- A graph as the host processor die counts it (R78, R89): its phase, its launch count, and the launches that have
arrived: node, LAUNCHID, launch of a die. -/
structure Graph where
  phase : Nat := 0
  nlaunch : Nat := 1
  nodes : List (Nat × Nat × Nat) := []
  count : Counter := {}
deriving DecidableEq, Repr

/-- A phase on the host processor die: graph count, graphs defined (R77, R89). -/
structure PhaseRec where
  ngraph : Nat := 1
  defined : Nat := 0
  count : Counter := {}
deriving DecidableEq, Repr

/-- A job on the host processor die (R78, R89, R92): its source, phases defined, JOBCLOSE accepted, accounts. -/
structure HJob where
  src : Nat := 0
  nphase : Nat := 0
  closed : Bool := false
  count : Counter := {}
  bursts : Nat := 0
  merged : Nat := 0
deriving DecidableEq, Repr

/-- An entry of a job's weight region table (R238). -/
structure RegEntry where
  name : Nat
  die : Nat
  prog : Bool
deriving DecidableEq, Repr

/-- A region directory entry (R235, R236), with the home cores on which a begun swap has not landed, those its signal has
reached (R244), and the rows rewritten since it was damaged (R248). -/
structure Region where
  ownk : Nat := 0
  fmt : Nat := 4
  sm : Nat := 0
  shr : Bool := false
  nomrg : Bool := false
  pair : Bool := false
  dmg : Bool := false
  act : Bool := false
  popen : Bool := false
  kext : Nat := 1
  next : Nat := 1
  core0 : Nat := 0
  cstep : Nat := 1
  off0 : Nat := 0
  off1 : Nat := 0
  soff0 : Nat := 0
  soff1 : Nat := 0
  gen : Nat := 0
  pending : List Nat := []
  signalled : List Nat := []
  rewritten : List Nat := []
deriving DecidableEq, Repr

/-- A job open on a die (R78, R216). -/
structure Job where
  src : Nat := 0
  root : Nat := 0
  ceiling : Nat := 0
  gen : Nat := 0
  table : List RegEntry := []
deriving DecidableEq, Repr

/-- Keys installed for a job on a die (R465). -/
structure Keys where
  keyid : Nat
  xts1 : BitVec 128
  xts2 : BitVec 128
  onDie : BitVec 128
deriving DecidableEq, Repr

/-- Page-fault traffic of one job and page on a die (R215, R217). -/
structure PFault where
  outstanding : Bool := false
  refault : Nat := 0
  tag : Nat := 0
deriving DecidableEq, Repr

/-- An INVAL accepted and not yet answered (R218). -/
structure Inval where
  msg : XlatMsg
  frames : List Nat
  /-- Voice accesses outstanding when it was accepted: unit, voice, register; and waits on a barrier or at a semaphore that had
  translated one of its pages: unit, voice, wait. -/
  loads : List (Nat × Nat × Nat) := []
  waits : List (Nat × Nat × Wait) := []
deriving DecidableEq, Repr

/-- A scheduled or current slice (R83, R84). -/
structure Slice where
  num : Nat
  start : Nat
  pairs : List (Nat × Nat)
deriving DecidableEq, Repr

/-- A counter of domain cycles: divisor, cycles counted at DCC `dcc0`, the divisor before that (R8, R9, R122). -/
structure Clk where
  div : Nat
  base : Nat := 0
  dcc0 : Nat := 0
  prev : Nat := 1
deriving DecidableEq, Repr

/-- A group of the merge buffer (R270, R271): the weight address, S, format code, scale mode and GEN of its key, its region,
its members in order (unit, context, cn), rows, deadline, the smallest PRIO, readiness and voice slot. -/
structure MGroup where
  wa : Nat
  steps : Nat
  code : Nat
  sm : Nat
  gen : Nat
  region : Nat
  members : List (Nat × Nat × Nat)
  rows : Nat
  deadline : Nat
  closed : Bool
  prio : Nat
  readyAt : Nat
  slot : Nat
  jobs : List Nat
deriving DecidableEq, Repr

/-- A beat of a core's stream (R232): the unheld matrix cycle of its slot or, once it has issued, the one in which its data
are due; its address and the key of its region; the hold that its address gives the core (R240); and whether a codeword of it was
corrected or read again (R240, R250). -/
structure Beat where
  slot : Nat
  addr : Nat
  region : Nat
  hold : Nat := 0
  fixed : Bool := false
  again : Bool := false
deriving DecidableEq, Repr

/-- A physical core (R9, R87, R127, R240). -/
structure Core where
  ctl : Clk := { div := 2 }
  vec : Clk := { div := 3 }
  cpy : Clk := { div := 3 }
  mat : Clk := { div := 4 }
  /-- Matrix cycles held so far, and the hold in progress: its first matrix cycle and its length (R240). -/
  held : Nat := 0
  holdAt : Nat := 0
  holdLen : Nat := 0
  /-- DCC at which that hold began; held vector and copy cycles of the holds before it (R105, R240). -/
  holdDcc : Nat := 0
  heldV : Nat := 0
  heldC : Nat := 0
  /-- The stream of beats (R232, R240): cycles by which waits for a bus have shifted it, the shifted cycle in which each bus, as
  core × 4 + bus, took its last beat of this stream, the beats to come in order, and those whose data are under way. -/
  busOff : Nat := 0
  busAt : NMap Nat := []
  beats : List Beat := []
  due : List Beat := []
  /-- Cycle of each engine after the last in which it made a choice (R104). -/
  chose : NMap Nat := []
  ths : Nat := 0
  mig : Option Nat := none
  vbr : Bool := false
  temp : Nat := 0
  /-- Matrix cycle from which the next boundary may come (R256). -/
  bound : Nat := 0
  /-- Matrix cycle from which the accumulator port is free (R302). -/
  port : Nat := 0
  groups : List MGroup := []
  /-- Vector cycle from which the vector engine takes its next command (R311). -/
  vnext : Nat := 0
  /-- Clock switches pending: domain to the earliest DCC (R428). -/
  switch : NMap Nat := []
  /-- Consecutive readings at or below 92 °C (R430). -/
  below : Nat := 0
  /-- Engine resets in progress: engine code to the domain cycle of its end (R454). -/
  reset : NMap Nat := []
  /-- Deadline of the migration attempt, and DCC before which no new attempt begins (R109). -/
  moveBy : Nat := 0
  noMove : Nat := 0
  /-- Moved by an offline move or to be offline once moved (R431, R438). -/
  leaving : Bool := false
  /-- Retired vertical buses (R253) and accumulator slots removed from the free pool (R438). -/
  buses : List Nat := []
  badSlots : List Nat := []
deriving DecidableEq, Repr

/-- A compute die (R1, R8, R86, R439). -/
structure Die where
  dcc : Nat := 0
  /-- LPDDR-6 fitted, as firmware found it when it trained the interfaces (R3, R462). -/
  fitted : Nat := Config.fitted
  /-- Logical core to physical core, where exchanged (R110). -/
  phys : NMap Nat := []
  late : Nat := 0
  slices : List Slice := []
  current : Option Slice := none
  maxSlice : Option Nat := none
  counters : NMap Nat := []
  linkErrors : Nat := 0
  /-- Boot step reached (R462), and recovery mode (R463). -/
  boot : Nat := 0
  recovery : Bool := false
  /-- Throttle threshold and fault window in hours (R429, R437). -/
  tt : Nat := 88
  window : Nat := 24
  /-- Last SEQ accepted from each source, and the last one sent (R76, R78). -/
  seq : NMap Nat := []
  seqOut : Nat := 0
  /-- DCC of the last temperature readings (R429). -/
  sampled : Nat := 0
  /-- LPDDR-6 refresh: DCC of the last refresh of each bank (interface × 64 + bank); interfaces at the halved interval, with
  one more than the DCC since which they read 82 °C or less, 0 where the last reading was above (R434). -/
  refreshed : NMap Nat := []
  hotRefresh : NMap Nat := []
deriving DecidableEq, Repr

/-- A power and thermal zone of a die, and its voltage domain (R100, R425, R429 to R436). -/
structure Zone where
  /-- Throttled: every core of it is at THS 1 or above (R429). -/
  hot : Bool := false
  /-- Consecutive readings at or below TT - 3 (R430), and DCC of its toggles within the last second. -/
  below : Nat := 0
  toggles : List Nat := []
  /-- Coolant fallback (R433); opening last commanded; DCC of an unanswered message and how often it was sent (R432). -/
  fallback : Bool := false
  opening : Nat := 0
  sent : Option Nat := none
  sends : Nat := 0
  /-- The unanswered message is a GETS; flow and inlet temperature of the last STAT (R432). -/
  asked : Bool := false
  flow : Nat := 0
  inlet : Nat := 0
  /-- Current requests, in order of arrival: unit, voice, level (R425). -/
  asks : List (Nat × Nat × Nat) := []
  /-- DCC of the last unit start (R100). -/
  started : Option Nat := none
  /-- An exit from THS 1 is withheld (R430). -/
  withheld : Bool := false
  /-- Voltage steps below nominal; undervolting enabled by the host; DCC until which an error disabled it (R435, R436). -/
  steps : Nat := 0
  uv : Bool := true
  uvAt : Option Nat := none
  /-- DCC at which the last 10 ms interval ended (R435), and of each corrected error of the last second, newest first. -/
  uvLast : Nat := 0
  errs : List Nat := []
deriving DecidableEq, Repr

/-- A Valve message: receiver zone (8 for the pump), code, value (R432). -/
structure Valve where
  die : Nat
  zone : Nat
  code : Nat
  value : Nat
deriving DecidableEq, Repr

/-- The pump as Bellows of die 0 commands it (R432). -/
structure Pump where
  speed : Nat := 0
  sent : Option Nat := none
  sends : Nat := 0
deriving DecidableEq, Repr

/-- A region as last measured: NAME, GEN, bank digests (R464). -/
structure Measured where
  name : Nat
  gen : Nat
  d0 : List Byte
  d1 : List Byte
deriving DecidableEq, Repr

/-- A die's Drone (R462 to R466): SPDM state (0 none, 1 version, 2 capabilities, 3 algorithms, 4 keys exchanged, 5 in a
session); the measurements as last reported; the latest digests of each region; the bytes of a recovery image. -/
structure Drone where
  spdm : Nat := 0
  firmware : List Byte := []
  directory : List Byte := []
  list : List Byte := []
  records : List Measured := []
  blocks : List (List Byte) := []
  latest : List Measured := []
  image : NMap Byte := []
  /-- REMEAS requests that wait until their regions can be measured, oldest first: NAME, or 0 for every region; and the records that
  the one in progress makes, with the DCC of its end (R466). -/
  queued : List Nat := []
  busy : Option (List Measured × Nat) := none
  /-- Rows of the tier that the rewrite of a recovery image has yet to write (R463). -/
  rows : List Nat := []
deriving DecidableEq, Repr

/-- An answer on the management channel: die, code of the request, status (0 accepted, 1 invalid request, 6 unexpected
request), bytes (R465). -/
structure Answer where
  die : Nat
  code : Nat
  status : Nat
  bytes : List Byte
deriving DecidableEq, Repr

/-- The last-applied number of an accumulator slot (R120, R261), with the first place in the entry order of the command it
names. -/
structure Lan where
  ctx : Nat := 0
  cn : Nat := 0
  entry : Nat := 0
deriving DecidableEq, Repr

/-- Why a step ends in a fault. Each is safe: the model stops where the spec describes no storage or behaviour. -/
inductive Fault where
  /-- Raised by HOST_WRITE and HOST_READ_REQUEST on a physical address the spec leaves unassigned
  (R207). Safe. -/
  | absentAddress
deriving DecidableEq, Repr

/-- Why a step is refused. -/
inductive Refusal where
  /-- Raised by `exec` on an instruction that has no meaning yet. Safe. -/
  | notModelled (mnemonic : String)
deriving DecidableEq, Repr

/-- The forms of the AX3 (R1). -/
inductive Form where
  | p12w48
  | m12w48
deriving DecidableEq, Repr

structure State where
  /-- The form of the device (R1): the reset value is a choice of the model (log 9). -/
  form : Form := .m12w48
  /-- The stream that executes (the model's own). -/
  sel : Sel := .voice 0 0
  /-- Moves to come, first first; empty: `Config.nextTurn` decides (the model's own, log 2). -/
  agenda : List Turn := []
  /-- Counter of free values (the model's own, log 1). -/
  fresh : Nat := 0
  /-- The word in issue as it was fetched, for XINFO (R442), and as it issues: a repeat's under REP (R171, R126). -/
  ir : Word := 0
  iw : Word := 0
  /-- The trap of this issue that leaves its bundle without effect (R193; the model's own). -/
  stopTrap : Option Trap := none
  /-- The page faults whose access the issue in progress makes again (R217; the model's own). -/
  resumed : List PageNote := []
  /-- Voices that the bundle in issue parks, and unparks (R415; the model's own). -/
  parks : List Nat := []
  unparks : List Nat := []
  /-- The broadest scope of the boundaries that the sync bundle in issue makes (R395; the model's own). -/
  bscope : Nat := 0
  -- global memory by 52-bit physical address (R207)
  mem : List Host.Cell := []
  lineKey : NMap Nat := []
  mpoison : NMap Bool := []
  narrow : List NWrite := []
  -- storage of the cores, by physical core
  sp : NMap Byte := []
  acc : NMap (BitVec 32) := []
  tiles : NMap Byte := []
  masks : NMap (BitVec 1024) := []
  /-- Beside each accumulator slot: its last-applied number and its decay scalar (R120, R289). -/
  lan : NMap Lan := []
  dsc : NMap (BitVec 32) := []
  -- the weight tier, by 40-bit weight address (R231); unlisted cells read zero (log 9)
  wt : NMap Byte := []
  /-- Poisoned codewords, by weight address ÷ 64 (R250). -/
  wpoison : NMap Bool := []
  /-- Wear of each row and spare row (R247); spare rows in use, by row (R249); unusable banks (R251). -/
  wear : NMap Nat := []
  remap : NMap Nat := []
  unusable : NMap Bool := []
  /-- The three copies of each bank's remap table, by bank: update sequence, entries, SM3 digest (R249, R251); and the digest
  that the system region keeps (R234). Unlisted: tables no change has touched. -/
  rtabs : NMap (List (List Byte)) := []
  rdigest : NMap (List Byte) := []
  /-- Rows in a bank's remap cache, by bank (R240); rows the Voicer is to write again when their bank is idle,
  those corrected on re-read in place, lasting ones in a spare (R250, R438). -/
  rcache : NMap (List Nat) := []
  rewrites : NMap Bool := []
  /-- Region directories: die × 2^64 + NAME (R235). -/
  regions : NMap Region := []
  /-- Bytes that decrements of a barrier's current GEN have released, by its address: unit, address of the byte (R398). -/
  barRel : NMap (List (Nat × Nat)) := []
  /-- The cns applied to a completion object, by context and object (R349, R455). -/
  applied : NMap (List Nat) := []
  -- who runs
  units : NMap TeamUnit := []
  voices : NMap Voice := []
  ctxs : NMap Ctx := []
  launches : NMap Launch := []
  jobs : NMap Job := []
  keys : NMap Keys := []
  pfaults : NMap PFault := []
  /-- The host processor die's counters: graphs and phases by job × 65,536 + number, jobs by JOBID (R89). -/
  graphs : NMap Graph := []
  phases : NMap PhaseRec := []
  hjobs : NMap HJob := []
  /-- Requests waiting at semaphores, in order of arrival (R405). -/
  semq : List SemReq := []
  invals : List (Nat × Inval) := []
  dies : NMap Die := []
  cores : NMap Core := []
  /-- Power zones: die × 8 + zone. -/
  zones : NMap Zone := []
  /-- The Drone of each die (R462 to R466). -/
  drones : NMap Drone := []
  /-- Structures' last error times in hours, and those retired: structure key (R437, R438). -/
  soft : NMap (List Nat) := []
  lasting : NMap Bool := []
  /-- Numbers of the next unit and launch, and the next place in the order of starts and stops (R100, R110). -/
  nextUnit : Nat := 0
  nextLaunch : Nat := 0
  order : Nat := 0
  -- what the package has sent: translation messages, packets, Valve messages, management answers, answers to reads of die
  -- memory, refused UALink requests (die, port), frames reported for retirement
  xlatOut : List XlatMsg := []
  packets : List Packet := []
  valves : List Valve := []
  /-- The pump speed last commanded, DCC of an unanswered SETPMP, and how often it was sent (R432). -/
  pump : Pump := {}
  answers : List Answer := []
  hostReads : List (Nat × List Byte) := []
  unsupported : List (Nat × Nat) := []
  badFrames : List Nat := []
  /-- Links between dies that failed training, the host processor die being 12, and the dies reported unreachable (R460); UALink
  ports that failed training, by die and number (R461). -/
  badLinks : List (Nat × Nat) := []
  unreached : List Nat := []
  badPorts : List (Nat × Nat) := []
deriving DecidableEq, Repr

/-- The machine right after reset (R462): every field at its default, which cites its rule or its log entry. -/
def State.reset : State := {}

end Sys2Proof.Machine
end

