-- ==== Sys2Proof/Machine/Ops.lean ====
section
/-! DEFINITION. The named operations of the device: registers and loops of a stream, clocks, global memory with keys and
scopes, translation, span versions, and taking a trap. -/
namespace Sys2Proof.Machine
open Sys2Proof

/-! Keys of the maps -/

def vkey (u j : Nat) : Nat := u * 4 + j
def ckey (u : Nat) (e : Engine) (j : Nat) : Nat := u * 12 + e.code * 4 + j
def pkey (die p : Nat) : Nat := die * 96 + p
def jkey (die job : Nat) : Nat := die * 2 ^ 32 + job

def State.unit (s : State) (u : Nat) : TeamUnit := s.units.getD u {}
def State.setUnit (s : State) (u : Nat) (t : TeamUnit) : State := { s with units := s.units.put u t }
def State.voice (s : State) (u j : Nat) : Voice := s.voices.getD (vkey u j) {}
def State.setVoice (s : State) (u j : Nat) (v : Voice) : State := { s with voices := s.voices.put (vkey u j) v }
def State.ctx (s : State) (u : Nat) (e : Engine) (j : Nat) : Ctx := s.ctxs.getD (ckey u e j) {}
def State.setCtx (s : State) (u : Nat) (e : Engine) (j : Nat) (c : Ctx) : State :=
  { s with ctxs := s.ctxs.put (ckey u e j) c }
def State.die (s : State) (d : Nat) : Die := s.dies.getD d {}
def State.setDie (s : State) (d : Nat) (x : Die) : State := { s with dies := s.dies.put d x }
/-- A physical core. -/
def State.core (s : State) (d p : Nat) : Core := s.cores.getD (pkey d p) {}
def State.setCore (s : State) (d p : Nat) (c : Core) : State := { s with cores := s.cores.put (pkey d p) c }
def State.launch (s : State) (l : Nat) : Launch := s.launches.getD l {}
def State.setLaunch (s : State) (l : Nat) (x : Launch) : State := { s with launches := s.launches.put l x }
def State.job (s : State) (die job : Nat) : Job := s.jobs.getD (jkey die job) {}

/-- The physical core of a logical core (R87, R110). -/
def State.phys (s : State) (d l : Nat) : Nat := (s.die d).phys.getD l l
/-- The physical core a unit lives on. -/
def State.home (s : State) (u : Nat) : Nat := s.phys (s.unit u).place.die (s.unit u).place.core
def State.unitCore (s : State) (u : Nat) : Core := s.core (s.unit u).place.die (s.home u)
def State.setUnitCore (s : State) (u : Nat) (c : Core) : State := s.setCore (s.unit u).place.die (s.home u) c
def State.unitLaunch (s : State) (u : Nat) : Launch := s.launch (s.unit u).place.launch
def State.unitStage (s : State) (u : Nat) : Stage :=
  ((s.unitLaunch u).stages[(s.unit u).place.stage]?).getD {}

/-! Clocks (R8, R9, R122, R240) -/

/-- Cycles a domain clock has counted when the die's DCC is `dcc`; before `dcc0` they are those of the divisor before. -/
def Clk.now (c : Clk) (dcc : Nat) : Nat :=
  if dcc < c.dcc0 then c.base - cdiv (c.dcc0 - dcc) c.prev else c.base + (dcc - c.dcc0) / c.div
/-- The first reference cycle of the domain cycle that contains `dcc`, and of the next one. -/
def Clk.start (c : Clk) (dcc : Nat) : Nat := c.dcc0 + (dcc - c.dcc0) / c.div * c.div
def Clk.ends (c : Clk) (dcc : Nat) : Nat := c.start dcc + c.div
def State.dcc (s : State) (d : Nat) : Nat := (s.die d).dcc
/-- Control cycles of a physical core. -/
def State.ccyc (s : State) (d p : Nat) : Nat := (s.core d p).ctl.now (s.dcc d)
/-- MCYC (R122). -/
def State.mcyc (s : State) (d p : Nat) : Nat := (s.core d p).mat.now (s.dcc d)
/-- Cycles of an engine's domain. -/
def State.ecyc (s : State) (d p : Nat) (e : Engine) : Nat :=
  match e with
  | .matrix => (s.core d p).mat.now (s.dcc d)
  | .vector => (s.core d p).vec.now (s.dcc d)
  | .copy => (s.core d p).cpy.now (s.dcc d)
/-- Matrix cycles a core had spent under global hold when its matrix cycles were `m` (R240). -/
def Core.heldAt (c : Core) (m : Nat) : Nat := c.held + min (m - c.holdAt) c.holdLen
/-- Matrix cycles spent under global hold (R240). -/
def State.heldCyc (s : State) (d p : Nat) : Nat := (s.core d p).heldAt (s.mcyc d p)
/-- The core is under global hold now (R240). -/
def State.holding (s : State) (d p : Nat) : Bool := decide (s.mcyc d p - (s.core d p).holdAt < (s.core d p).holdLen)
/-- Cycles of clock `k` under global hold at DCC `dcc`, `h` before the hold that began last (R105, R240). -/
def Core.heldIn (c : Core) (k : Clk) (h dcc : Nat) : Nat := h + (k.now (min dcc (c.holdDcc + c.holdLen * c.mat.div)) - k.now c.holdDcc)
/-- What is over of the hold in progress at DCC `dcc` joins the holds before it: nothing else changes (R240). -/
def Core.settleHold (c : Core) (dcc : Nat) : Core :=
  let m := c.mat.now dcc
  { c with
    held := c.heldAt m, heldV := c.heldIn c.vec c.heldV dcc, heldC := c.heldIn c.cpy c.heldC dcc
    holdAt := m, holdLen := c.holdLen - (m - c.holdAt), holdDcc := dcc }
/-- Matrix cycles not under global hold: what TCLK counts (R122). -/
def State.free (s : State) (d p : Nat) : Nat := s.mcyc d p - s.heldCyc d p
/-- Cycles of an engine's domain outside global hold (R105, R240, R256). -/
def State.eclk (s : State) (d p : Nat) (e : Engine) : Nat :=
  match e with
  | .matrix => s.free d p
  | .vector => s.ecyc d p .vector - (s.core d p).heldIn (s.core d p).vec (s.core d p).heldV (s.dcc d)
  | .copy => s.ecyc d p .copy - (s.core d p).heldIn (s.core d p).cpy (s.core d p).heldC (s.dcc d)
/-- TCLK of a unit: it runs while the unit is resident and its core is not held (R122). -/
def State.tclk (s : State) (u : Nat) : Nat :=
  if (s.unit u).status = .resident then (s.unit u).tclk + (s.free (s.unit u).place.die (s.home u) - (s.unit u).tbase)
  else (s.unit u).tclk
/-- TCLK of a unit in the matrix cycle that contains DCC `dcc` (R122, R175). -/
def State.tclkAt (s : State) (u dcc : Nat) : Nat :=
  if (s.unit u).status = .resident then
    (s.unit u).tclk + ((s.unitCore u).mat.now dcc - (s.unitCore u).heldAt ((s.unitCore u).mat.now dcc) - (s.unit u).tbase)
  else (s.unit u).tclk
/-- TOFF: MCYC - TCLK (R122). -/
def State.toff (s : State) (u : Nat) : X :=
  BitVec.ofNat 64 (s.mcyc (s.unit u).place.die (s.home u)) - BitVec.ofNat 64 (s.tclk u)
/-- The clock of an engine's domain (R8, R124). -/
def Core.eng (c : Core) : Engine → Clk
  | .matrix => c.mat
  | .vector => c.vec
  | .copy => c.cpy
/-- Control cycles of the unit's core now. -/
def State.unitCyc (s : State) (u : Nat) : Nat := s.ccyc (s.unit u).place.die (s.home u)

/-! Registers of a stream (R118, R151) -/

def Stream.getX (st : Stream) (r : BitVec 6) : X := if r = 0 then 0 else st.x.getD r.toNat 0
def Stream.setX (st : Stream) (r : BitVec 6) (v : X) : Stream :=
  if r = 0 then st else { st with x := st.x.putD 0 r.toNat v }
def Stream.getP (st : Stream) (p : BitVec 7) : Bool := if p = 0 then true else st.p.getD p.toNat false
def Stream.setP (st : Stream) (p : BitVec 7) (v : Bool) : Stream :=
  if p = 0 then st else { st with p := st.p.putD false p.toNat v }

/-! Loops (R165 to R169); `u` is the stream's issue unit, 16 bytes for a voice and 4 for a context -/

def Stream.lvl (st : Stream) : Nat → Loop
  | 0 => st.l0
  | 1 => st.l1
  | _ => st.l2
def Stream.setLvl (st : Stream) (l : Nat) (v : Loop) : Stream :=
  match l with
  | 0 => { st with l0 := v }
  | 1 => { st with l1 := v }
  | _ => { st with l2 := v }
/-- Clear level `l` and every deeper level; lc stays (R166, R168). -/
def Stream.clearFrom (st : Stream) (l : Nat) : Stream :=
  { st with
    l0 := if l = 0 then { st.l0 with act := false } else st.l0
    l1 := if l ≤ 1 then { st.l1 with act := false } else st.l1
    l2 := { st.l2 with act := false } }

/-- One level's part of R167 for a body that ends at `at`: the stream with that level ended, or looped back (true). -/
def Stream.loopEnd (st : Stream) (l : Nat) : Stream × Bool :=
  let v := st.lvl l
  if v.n = 0 ∨ v.lc.toNat + 1 < v.n then
    ({ st.setLvl l { v with lc := v.lc + 1 } with pc := v.top }, true)
  else (st.setLvl l { v with act := false }, false)

/-- R167 from level `l` - 1 outward, for the unit at `a`: PC := TOP of the first level that loops back, else the next unit. -/
def Stream.loopBack (st : Stream) (u : Nat) (a : X) : Nat → Stream
  | 0 => { st with pc := a + BitVec.ofNat 64 u }
  | l + 1 =>
    if (st.lvl l).act = false then st.loopBack u a l
    else if (st.lvl l).fin ≠ a then { st with pc := a + BitVec.ofNat 64 u }
    else
      let r := st.loopEnd l
      if r.2 then r.1 else r.1.loopBack u a l

/-- The unit at PC completes without a taken transfer (R167). -/
def Stream.next (st : Stream) (u : Nat) : Stream := st.loopBack u st.pc 3

/-- The word at PC has issued: under REP its next repeat follows, else the next unit (R171, R174). -/
def Stream.advance (u : Nat) (st : Stream) : Stream :=
  match st.rep with
  | none => st.next u
  | some r => if r.ix < r.cm then { st with rep := some { r with ix := r.ix + 1 } } else { st with rep := none }.next u

/-- `a` lies in the body of level `l`. -/
def Stream.inBody (st : Stream) (l : Nat) (a : X) : Bool :=
  decide ((st.lvl l).top ≤ a) && decide (a ≤ (st.lvl l).fin)

/-- A taken transfer to `a` (R168). -/
def Stream.jump (st : Stream) (a : X) : Stream :=
  let c := if st.l0.act && !st.inBody 0 a then st.clearFrom 0
    else if st.l1.act && !st.inBody 1 a then st.clearFrom 1
    else if st.l2.act && !st.inBody 2 a then st.clearFrom 2
    else st
  { c with pc := a }

/-! The stream in issue -/

def State.selUnit (s : State) : Nat :=
  match s.sel with
  | .voice u _ => u
  | .ctx u _ _ => u
/-- Bytes of the issue unit: a bundle or a word (R131, R132). -/
def selSize : Sel → Nat
  | .voice _ _ => 16
  | .ctx _ _ _ => 4
def selKind : Sel → StreamKind
  | .voice _ _ => .voice
  | .ctx _ e _ => .ctx e
def State.stream (s : State) : Stream :=
  match s.sel with
  | .voice u j => (s.voice u j).st
  | .ctx u e j => (s.ctx u e j).st
/-- The clock in whose cycles a stream issues (R8, R112, R124). -/
def State.clkOf (s : State) : Sel → Clk
  | .voice u _ => (s.unitCore u).ctl
  | .ctx u e _ => (s.unitCore u).eng e
/-- First reference cycle of the cycle in which the stream in issue issues, and of the cycle after it. -/
def State.cycleStart (s : State) : Nat := (s.clkOf s.sel).start (s.dcc (s.unit s.selUnit).place.die)
def State.cycleEnd (s : State) : Nat := (s.clkOf s.sel).ends (s.dcc (s.unit s.selUnit).place.die)
/-- A wait is over once its voice issues (R116). -/
def VStatus.wake : VStatus → VStatus
  | .waiting _ _ => .running
  | v => v
/-- The stream in issue changes by `f`, which is given its issue unit. -/
def State.mapStream (s : State) (f : Nat → Stream → Stream) : State :=
  match s.sel with
  | .voice u j => s.setVoice u j { s.voice u j with
      st := f 16 (s.voice u j).st, status := (s.voice u j).status.wake, met := false }
  | .ctx u e j => s.setCtx u e j { s.ctx u e j with st := f 4 (s.ctx u e j).st }
/-- The word in issue only moves its stream on. -/
def State.advance (s : State) : State := s.mapStream Stream.advance
/-! Team-scope registers: a write is seen by the cycles that begin after its own (R73, R121, R177) -/

/-- What recent writes leave in a register: the last value written, with the flags raised since its cycle began (R73). -/
def Recent.fold (base : X) (ws : List RegWrite) : X :=
  match ws.reverse.find? fun w => !w.raised with
  | none => ws.foldl (fun a w => a ||| w.val) base
  | some m => (ws.filter fun w => w.raised && decide (m.start ≤ w.start)).foldl (fun a w => a ||| w.val) m.val
/-- The value once every write applies. -/
def Recent.final (r : Recent) : X := Recent.fold r.base r.writes
/-- The value for a cycle that began at DCC `t`. -/
def Recent.at (r : Recent) (t : Nat) : X := Recent.fold r.base (r.writes.filter fun w => decide (w.seenAt ≤ t))
/-- Writes apply in the order of the cycles they end with, those of one cycle in voice order (R121). -/
def insertWrite (w : RegWrite) : List RegWrite → List RegWrite
  | [] => [w]
  | k :: ks => if w.seenAt < k.seenAt ∨ (w.seenAt = k.seenAt ∧ w.rank < k.rank) then w :: k :: ks else k :: insertWrite w ks
/-- A write joins the recent writes of register `n`, which held `old`; writes that every cycle sees are forgotten. -/
def TeamUnit.wrote (t : TeamUnit) (dcc n : Nat) (old : X) (w : RegWrite) : Recent :=
  match t.recent.find n with
  | some r => if r.writes.all fun k => decide (k.seenAt + 16 ≤ dcc) then ⟨old, [w]⟩ else { r with writes := insertWrite w r.writes }
  | none => ⟨old, [w]⟩
/-- A team-scope register that holds `cur`, as a cycle that began at DCC `t` sees it. -/
def TeamUnit.sees (x : TeamUnit) (n : Nat) (cur : X) (t : Nat) : X :=
  match x.recent.find n with
  | none => cur
  | some r => r.at t
/-- PGNT as the device sets it, outside the words of the team: every cycle sees it (R421, R425, R449). -/
def TeamUnit.grant (t : TeamUnit) (v : Nat) : TeamUnit := { t with pgnt := BitVec.ofNat 4 v, recent := t.recent.del 0x023 }
/-- STSC, MHL and VSH as the stream in issue sees them (R121, R177, R316). -/
def State.stscNow (s : State) : BitVec 3 :=
  ((s.unit s.selUnit).sees 0x022 ((s.unit s.selUnit).stsc.setWidth 64) s.cycleStart).setWidth 3
def State.mhlNow (s : State) : BitVec 11 :=
  ((s.unit s.selUnit).sees 0x026 ((s.unit s.selUnit).mhl.setWidth 64) s.cycleStart).setWidth 11
def State.vshNow (s : State) : BitVec 32 :=
  ((s.unit s.selUnit).sees 0x100 ((s.unit s.selUnit).vsh.setWidth 64) s.cycleStart).setWidth 32
/-- XHND as a voice of unit `u` sees it now. -/
def State.handler (s : State) (u : Nat) : X :=
  (s.unit u).sees 0x014 (s.unit u).xhnd ((s.unitCore u).ctl.start (s.dcc (s.unit u).place.die))
/-- The stream in issue writes `v` to team-scope register `n`, which holds `old`: the record of the write (R177). Other contexts see a
context's write as voices do, and a context ranks after every voice in the order of R121: DESIGN CHOICE, log 107. -/
def State.regWrite (s : State) (n : Nat) (old v : X) : Recent :=
  (s.unit s.selUnit).wrote (s.dcc (s.unit s.selUnit).place.die) n old
    ⟨s.cycleStart, s.cycleEnd, (match s.sel with | .voice _ j => j | .ctx _ _ j => 4 + j), v, false⟩
/-- Flags join FPFL at DCC `now`; streams see them from DCC `t` (R72, R73). -/
def TeamUnit.raise (x : TeamUnit) (fl : X) (now t : Nat) : TeamUnit :=
  if fl = 0 then x
  else
    let r := x.wrote now 0x024 x.fpfl ⟨now, t, 8, fl, true⟩
    { x with fpfl := r.final, recent := x.recent.put 0x024 r, gained := if x.away then x.gained ||| fl else x.gained }
/-- Flags join FPFL of a unit; streams see them from DCC `t`. -/
def State.raiseFrom (s : State) (u : Nat) (fl : X) (t : Nat) : State :=
  s.setUnit u ((s.unit u).raise fl (s.dcc (s.unit u).place.die) t)
/-- Flags of an engine's command join FPFL of a unit (R73). -/
def State.raiseAt (s : State) (u : Nat) (fl : X) : State := s.raiseFrom u fl (s.dcc (s.unit u).place.die)
/-- Flags of the word in issue join FPFL of its team (R72, R73). -/
def State.raise (s : State) (fl : X) : State := s.raiseFrom s.selUnit fl s.cycleEnd

/-! Global memory: keys (R226, R227), scopes (R369), coherence (R371) -/

inductive Agent where
  | team (u : Nat)
  | die (d : Nat)
  | host
deriving DecidableEq, Repr

def isHost (pa : Nat) : Bool := decide (15 * 2 ^ 48 ≤ pa)

/-! Routes of the package (R5, R6, R460) -/

/-- The link between two neighbours passed training. -/
def State.linkUp (s : State) (a b : Nat) : Bool := !s.badLinks.contains (a, b) && !s.badLinks.contains (b, a)
/-- The numbers from `a` to `b`, rising or falling. -/
def walkTo (a b : Nat) : List Nat := if a ≤ b then List.range' a (b - a + 1) else (List.range' b (a - b + 1)).reverse
/-- The dies on the way from `a` to `n`: along the row, then the column; or along the column, then the row. -/
def rowFirst (a n : Nat) : List Nat := (walkTo (a % 4) (n % 4)).map (a / 4 * 4 + ·) ++ ((walkTo (a / 4) (n / 4)).drop 1).map (4 * · + n % 4)
def colFirst (a n : Nat) : List Nat := (walkTo (a / 4) (n / 4)).map (4 * · + a % 4) ++ ((walkTo (a % 4) (n % 4)).drop 1).map (n / 4 * 4 + ·)
def State.pathUp (s : State) (l : List Nat) : Bool := (l.zip (l.drop 1)).all fun p => s.linkUp p.1 p.2
/-- A route of die links joins two dies (R460). -/
def State.routed (s : State) (a n : Nat) : Bool := s.pathUp (rowFirst a n) || s.pathUp (colFirst a n)
/-- The host processor die, which attaches to dies 0 and 1, reaches a die (R5, R460; log 90). -/
def State.reached (s : State) (n : Nat) : Bool := [0, 1].any fun a => s.linkUp 12 a && s.routed a n
/-- Die `d` has a way to the storage of a physical address: its own memory; another die's, which is none in recovery mode, over die
links; host memory over the host links (R6, R207, R460, R463; log 103). -/
def State.inReach (s : State) (d pa : Nat) : Bool :=
  let n := pa / 2 ^ 48
  decide (n = d) || (if n < 12 then !(s.die n).recovery && s.routed d n else s.reached d)
/-- A physical address no translation of die `d` may give (R207); one that no route joins to the die is none to it either. DESIGN
CHOICE, log 103. -/
def State.badPA (s : State) (d pa : Nat) : Bool :=
  !s.inReach d pa || decide (2 ^ 52 ≤ pa) || (decide (pa / 2 ^ 48 < 12) &&
    (decide (bits pa 36 12 ≠ 0) || decide ((s.die (pa / 2 ^ 48)).fitted - Config.privateBytes ≤ pa % 2 ^ 36)))
    || (decide (12 ≤ pa / 2 ^ 48) && decide (pa / 2 ^ 48 < 15))

/-- The tag of the key pair a job has on a die; the package's system key is tag 0 (R226, R465). -/
def State.jobKey (s : State) (die job : Nat) : Nat :=
  match s.keys.find (jkey die job) with
  | some k => 1 + k.xts1.toNat * 2 ^ 128 + k.xts2.toNat
  | none => 2 ^ 256
def State.unitKey (s : State) (u : Nat) : Nat := s.jobKey (s.unit u).place.die (s.unit u).place.job

/-- A write below system scope reaches the agent (R369). -/
def State.reaches (s : State) (w : NWrite) (a : Agent) : Bool :=
  match a with
  | .host => false
  | .die d => decide (4 ≤ w.scope) || (decide (w.scope = 3) && decide (w.die = d))
  | .team u => decide (w.unit = u) || decide (4 ≤ w.scope)
      || (decide (3 ≤ w.scope) && decide (w.die = (s.unit u).place.die))
      || (decide (2 ≤ w.scope) && decide (w.die = (s.unit u).place.die) && decide (w.core = (s.unit u).place.core))

/-- The last element of a list that satisfies `f`. -/
def findLast {α : Type} (f : α → Bool) : List α → Option α
  | [] => none
  | a :: t => match findLast f t with
    | some b => some b
    | none => if f a then some a else none

def State.keyOk (s : State) (key pa : Nat) : Bool := isHost pa || decide (s.lineKey.find (pa / 128) = some key)

/-- The line of `pa` is poisoned: its bytes cannot be read (R487). -/
def State.poisoned (s : State) (pa : Nat) : Bool := (s.mpoison.find (pa / 128)).isSome
/-- An unspecified byte (R18). -/
def State.freeByte (s : State) (pa : Nat) : Byte := Config.freeByte s.fresh pa

/-- The byte of `mem` under a key (R227, R228). -/
def State.memByte (s : State) (key pa : Nat) : Byte :=
  if s.keyOk key pa then (NMap.find s.mem pa).getD (s.freeByte pa) else s.freeByte pa
/-- A fresh read of a location: its last write visible to the agent (R375). -/
def State.seen (s : State) (a : Agent) (key pa : Nat) : Byte :=
  if s.poisoned pa then s.freeByte pa
  else match findLast (fun w => decide (w.pa = pa) && s.reaches w a) s.narrow with
    | some w => if s.keyOk key pa then w.byte else s.freeByte pa
    | none => s.memByte key pa
/-- The last write in the coherence order, whatever its scope: what an atomic reads at the line's home (R371, R377). -/
def State.latest (s : State) (key pa : Nat) : Byte :=
  if s.poisoned pa then s.freeByte pa
  else match findLast (fun w => decide (w.pa = pa)) s.narrow with
    | some w => if s.keyOk key pa then w.byte else s.freeByte pa
    | none => s.memByte key pa

/-- The line of `pa` comes under `key`: what another key wrote there is unreadable from then on (R227, R228). -/
def State.claim (s : State) (key pa : Nat) : State :=
  if s.keyOk key pa then s
  else { s with
    lineKey := s.lineKey.put (pa / 128) key
    mem := s.mem.filter fun c => decide (c.1 / 128 ≠ pa / 128)
    narrow := s.narrow.filter fun w => decide (w.pa / 128 ≠ pa / 128) }

/-- A write that every agent sees (R369). -/
def State.writeSys (s : State) (key pa : Nat) (b : Byte) : State :=
  { s.claim key pa with
    mem := NMap.put (s.claim key pa).mem pa b
    narrow := (s.claim key pa).narrow.filter fun w => decide (w.pa ≠ pa) }

/-- A write of unit `u` at a scope (R369, R371). -/
def State.writeAt (s : State) (u scope key pa : Nat) (b : Byte) : State :=
  if 5 ≤ scope then s.writeSys key pa b
  else { s.claim key pa with
    narrow := (s.claim key pa).narrow ++
      [⟨pa, b, scope, u, (s.unit u).place.die, (s.unit u).place.core⟩] }

/-- Lines that a list of written addresses covers whole lose their poison (R487). -/
def State.unpoison (s : State) (pas : List Nat) : State :=
  { s with mpoison := s.mpoison.filter fun l => !((List.range 128).all fun i => pas.contains (l.1 * 128 + i)) }

/-- Consecutive bytes written at a scope by unit `u`. -/
def State.writeList (s : State) (u scope key : Nat) : List (Nat × Byte) → State
  | [] => s
  | (pa, b) :: t => (s.writeAt u scope key pa b).writeList u scope key t
/-- A landed piece, an atomic or a device write: bytes at a scope; poison of lines it covers ends (R371, R487). -/
def State.land (s : State) (u scope key : Nat) (l : List (Nat × Byte)) : State :=
  (s.writeList u scope key l).unpoison (l.map (·.1))
/-- A write by the device or the host, seen by all. -/
def State.writeSysList (s : State) (key : Nat) : List (Nat × Byte) → State
  | [] => s
  | (pa, b) :: t => (s.writeSys key pa b).writeSysList key t
def State.landSys (s : State) (key : Nat) (l : List (Nat × Byte)) : State :=
  (s.writeSysList key l).unpoison (l.map (·.1))

/-- One write of a unit that widens to scope `S` where `f` holds of its address: kept in its place, or moved to what all
see (R370, R387). -/
def widenStep (u S : Nat) (f : Nat → Bool) (acc : List NWrite × List Host.Cell) (w : NWrite) : List NWrite × List Host.Cell :=
  if w.unit = u ∧ w.scope < S ∧ f w.pa = true then
    if 5 ≤ S then (acc.1.filter (fun e => decide (e.pa ≠ w.pa)), NMap.put acc.2 w.pa w.byte)
    else (acc.1 ++ [{ w with scope := S }], acc.2)
  else (acc.1 ++ [w], acc.2)
/-- Writes of unit `u` where `f` holds reach at least scope `S` (R370, R387, R397). -/
def State.widenAt (s : State) (u S : Nat) (f : Nat → Bool) : State :=
  let r := s.narrow.foldl (widenStep u S f) ([], s.mem)
  { s with narrow := r.1, mem := r.2 }
/-- Every write of unit `u` reaches at least scope `S` (R387, R388). -/
def State.widen (s : State) (u S : Nat) : State := s.widenAt u S fun _ => true

/-! Page walks (R208 to R211) -/

inductive WalkFault where
  | invalid
  | format (level : Nat)
deriving DecidableEq, Repr

/-- A translation: the physical address (or weight address) of the byte, and the leaf's attributes (R209). -/
structure Leaf where
  pa : Nat
  r : Bool
  w : Bool
  x : Bool
  e : Bool
  ww : Bool
deriving DecidableEq, Repr

/-- `n` bytes as an agent sees them. -/
def State.seenBytes (s : State) (a : Agent) (key pa n : Nat) : List Byte :=
  (List.range n).map fun i => s.seen a key (pa + i)
/-- A page-table entry, read under the system key (R212). -/
def State.pte (s : State) (die pa : Nat) : Nat := leNat (s.seenBytes (.die die) 0 pa 8)

def pteFrame (e : Nat) : Nat := bits e 12 40 * 4096
/-- Bytes of the page of a leaf at a level. -/
def pageSize (level : Nat) : Nat := 4096 * 512 ^ level

/-- The cases of R210 on one valid entry. -/
def State.pteBad (s : State) (die level e : Nat) : Bool :=
  let leaf := bits e 1 1 = 1
  let ww := bits e 6 1 = 1
  decide (bits e 52 12 ≠ 0 ∨ bits e 8 4 ≠ 0) || decide (leaf ∧ 3 ≤ level) || decide (¬leaf ∧ level = 0)
    || decide (leaf ∧ ww ∧ (bits e 3 1 = 1 ∨ bits e 4 1 = 1 ∨ bits e 40 12 ≠ 0))
    || decide (leaf ∧ pteFrame e % pageSize level ≠ 0)
    || decide (¬leaf ∧ bits e 2 6 ≠ 0)
    || (decide ¬leaf && s.badPA die (pteFrame e))

/-- The aligned group of eight of an entry with CT set is valid (R210): `es` are its entries. -/
def groupOk (level : Nat) (es : List Nat) : Bool :=
  let e0 := es.headD 0
  es.all (fun e => decide (bits e 0 2 = 3) && decide (bits e 7 1 = 1) && decide (bits e 0 12 = bits e0 0 12) && decide (bits e 52 12 = 0))
    && (List.range 8).all (fun k => decide (pteFrame (es.getD k 0) = pteFrame e0 + k * pageSize level))
    && decide (pteFrame e0 % (8 * pageSize level) = 0)

def mkLeaf (e base size va : Nat) : Leaf :=
  { pa := base + va % size, r := bits e 2 1 = 1, w := bits e 3 1 = 1, x := bits e 4 1 = 1, e := bits e 5 1 = 1,
    ww := bits e 6 1 = 1 }

/-- The leaf entry `e` at `level`, found in the table at `tbl` (R208, R210). -/
def State.leaf (s : State) (die va tbl level e : Nat) : Except WalkFault Leaf :=
  let idx := bits va (12 + 9 * level) 9
  let l : Except WalkFault Leaf :=
    if bits e 7 1 = 1 then
      let es := (List.range 8).map fun k => s.pte die (tbl + 8 * (idx / 8 * 8 + k))
      if groupOk level es then .ok (mkLeaf e (pteFrame (es.headD 0)) (8 * pageSize level) va) else .error (.format level)
    else .ok (mkLeaf e (pteFrame e) (pageSize level) va)
  match l with
  | .error f => .error f
  | .ok v => if v.ww = false ∧ s.badPA die v.pa then .error (.format level) else .ok v

/-- The walk from the table at `tbl` of level `n` (R208, R210). -/
def State.walkFrom (s : State) (die va : Nat) : Nat → Nat → Except WalkFault Leaf
  | 0, tbl =>
    let e := s.pte die (tbl + 8 * bits va 12 9)
    if bits e 0 1 = 0 then .error .invalid
    else if s.pteBad die 0 e then .error (.format 0)
    else s.leaf die va tbl 0 e
  | n + 1, tbl =>
    let e := s.pte die (tbl + 8 * bits va (12 + 9 * (n + 1)) 9)
    if bits e 0 1 = 0 then .error .invalid
    else if s.pteBad die (n + 1) e then .error (.format (n + 1))
    else if bits e 1 1 = 1 then s.leaf die va tbl (n + 1) e
    else s.walkFrom die va n (pteFrame e)

/-- A walk through the page tables of a root (R208, R210). -/
def State.walkRoot (s : State) (die root va : Nat) : Except WalkFault Leaf :=
  if s.badPA die root then .error (.format 4) else s.walkFrom die va 4 root
/-- A walk through a job's page tables on a die. -/
def State.walk (s : State) (die job va : Nat) : Except WalkFault Leaf := s.walkRoot die (s.job die job).root va

/-- The access codes of R214. -/
inductive Access where
  | fetch
  | read
  | write
  | atomic
  | engRead
  | engWrite
  | ldw
deriving DecidableEq, Repr

def Access.code : Access → Nat
  | .fetch => 0
  | .read => 1
  | .write => 2
  | .atomic => 3
  | .engRead => 4
  | .engWrite => 5
  | .ldw => 6

/-- R211: the leaf permits the access. On a weight-window page a voice's access needs R alone. -/
def Leaf.permits (l : Leaf) (a : Access) : Bool :=
  match a with
  | .fetch => l.r && l.x
  | .read => l.r
  | .write => if l.ww then l.r else l.w
  | .atomic => if l.ww then l.r else l.r && l.w
  | .engRead => !l.ww && l.r && l.e
  | .engWrite => !l.ww && l.r && l.w && l.e
  | .ldw => l.r

/-- The translation of an access of unit `u` at `va`, or the trap it takes (R207, R210, R211, R215). -/
def State.translate (s : State) (u : Nat) (a : Access) (va : Nat) : Except Trap Leaf :=
  match s.walk (s.unit u).place.die (s.unit u).place.job va with
  | .error .invalid => .error ⟨0x40, va / 4096 * 4096 + a.code⟩
  | .error (.format l) => .error ⟨0x0C, va / 4096 * 4096 + l⟩
  | .ok l => if l.permits a then .ok l else .error ⟨0x0B, va⟩

/-! The span version (R372 to R376) -/

/-- A byte that a boundary of the control cycle in progress committed with a store of that cycle, as the team's reads of the
cycle have it (R376). -/
def State.lateByte (s : State) (u pa : Nat) : Option SpOld :=
  (s.unit u).late.find? fun x => decide (x.key = pa) && decide (s.dcc (s.unit u).place.die < x.seenAt)
/-- The byte a read of the team returns: stores of the control cycle in progress are not in the version yet (R375, R376). -/
def State.teamByte (s : State) (u pa : Nat) : Byte :=
  match findLast (fun w => decide (w.pa = pa) && decide (w.seenAt ≤ s.dcc (s.unit u).place.die)) (s.unit u).stores with
  | some w => w.byte
  | none => match s.lateByte u pa with
    | some x => x.old
    | none => match (s.unit u).reads.find pa with
      | some b => b
      | none => s.seen (.team u) (s.unitKey u) pa
/-- The team has read the byte in this span, or holds it (R372, R375); a byte of the version just committed is of the span
before. -/
def State.noteRead (s : State) (u pa : Nat) : State :=
  if (s.lateByte u pa).isSome then s
  else s.setUnit u { s.unit u with reads := (s.unit u).reads.put pa (s.teamByte u pa) }
def State.noteReads (s : State) (u pa : Nat) : Nat → State
  | 0 => s
  | n + 1 => (s.noteRead u pa).noteReads u (pa + 1) n
/-- `n` bytes at physical `pa` as a read of the team returns them. -/
def State.teamBytes (s : State) (u pa n : Nat) : List Byte := (List.range n).map fun i => s.teamByte u (pa + i)

/-- The lines of an open version (R380). -/
def TeamUnit.lines (t : TeamUnit) : List Nat :=
  ((t.stores.map fun (w : SWrite) => w.pa / 128) ++ (t.reads.map fun (c : Nat × Byte) => c.1 / 128)).eraseDups

/-- An access to the line of `pa` finds neither a version entry nor room for one (R380, R381; log 11). -/
def State.versionFull (s : State) (u pa : Nat) : Bool :=
  !(s.unit u).lines.contains (pa / 128) && decide (480 * (s.unitLaunch u).vlog ≤ (s.unit u).lines.length)
    && !Config.versionRoom s.fresh (s.unit u).lines.length

/-- The stores of a version enter the coherence order, each at its own scope (R373, R374). -/
def State.commitList (s : State) (u S key : Nat) : List SWrite → State
  | [] => s
  | w :: t => (s.writeAt u (max (max S 1) w.scope) key w.pa w.byte).commitList u S key t

/-- What the team's reads of the control cycle in progress have of the bytes that its version stored in that cycle (R376). -/
def State.lateBytes (s : State) (u : Nat) : List SpOld :=
  let now := s.dcc (s.unit u).place.die
  ((s.unit u).stores.filter fun w => decide (now < w.seenAt)).map fun w => ⟨w.pa, s.teamByte u w.pa, w.seenAt, w.voice⟩
/-- The version is discarded (R378). -/
def State.dropVersion (s : State) (u : Nat) : State := s.setUnit u { s.unit u with stores := [], reads := [], vlost := none }

/-! What a write to global memory sets off: watches (R402) and aperture tiles (R230) -/

/-- Bytes of the scale array (R219). -/
def Tensor.scaleLen (t : Tensor) : Nat := 2 * cdiv (t.ext.getD 0 1) 16 * t.ext.getD 1 1 * t.ext.getD 2 1 * t.ext.getD 3 1
/-- The frame of a tile that lies at `va` in a job's space: its entry's, or where INVAL has ended that, the one that the page maps to
now (R218). -/
def State.frameOf (s : State) (d job va : Nat) (x : Tile) : Option Nat :=
  if x.ok then some (x.pa / 4096)
  else match s.walk d job va with
    | .ok l => some (l.pa / 4096)
    | .error _ => none
/-- The byte at `pa` is one of a tensor's span, which is whole tiles (R220), or of its scale array (R219), in a job on a die. -/
def State.covers (s : State) (d job : Nat) (t : Tensor) (pa : Nat) : Bool :=
  t.tiles.any (fun c => decide (s.frameOf d job (t.base + 4096 * c.1) c.2 = some (pa / 4096))) ||
    t.stiles.any (fun c => decide (s.frameOf d job (t.scale / 4096 * 4096 + 4096 * c.1) c.2 = some (pa / 4096)) &&
      decide (t.scale % 4096 ≤ c.1 * 4096 + pa % 4096) && decide (c.1 * 4096 + pa % 4096 < t.scale % 4096 + t.scaleLen))
/-- Aperture tiles of every tensor with a written byte are invalid (R230). -/
def State.dropSnaps (s : State) (pas : List Nat) : State :=
  { s with launches := s.launches.map fun l => (l.1, { l.2 with
      tensors := l.2.tensors.map fun t =>
        if !t.snap.isEmpty && pas.any (s.covers l.2.die l.2.job t) then { t with snap := [] } else t }) }
/-- Armed watches on the lines of the bytes `pas` fire, where what happened at the byte reaches the watch's unit (R402). -/
def State.fire (s : State) (ok : Nat → Nat → Bool) (pas : List Nat) : State :=
  { s with voices := s.voices.map fun v => (v.1, match v.2.watch with
      | none => v.2
      | some w => if pas.any (fun pa => decide (pa / 128 = w.line) && ok (v.1 / 4) pa) then
          { v.2 with watch := some { w with fired := true } } else v.2) }
/-- A write of unit `u` at a scope reaches unit `k` (R369, R402). -/
def State.reachesUnit (s : State) (u scope k : Nat) : Bool :=
  s.reaches ⟨0, 0, scope, u, (s.unit u).place.die, (s.unit u).place.core⟩ (.team k)
/-- A write at its line's home by an atomic or an engine's increment: every watch of the line fires (R371, R402). -/
def State.homeWrite (s : State) (u scope pa : Nat) (bs : List Byte) : State :=
  let l := bs.zipIdx.map fun p => (pa + p.2, p.1)
  let pas := l.map (·.1)
  ((s.land u scope (s.unitKey u) l).dropSnaps pas).fire (fun _ _ => true) pas
/-- A write by an atomic of the team itself: its next read of the bytes is fresh (R375, R377). -/
def State.atomicWrite (s : State) (u scope pa : Nat) (bs : List Byte) : State :=
  let s1 := s.homeWrite u scope pa bs
  s1.setUnit u { s1.unit u with reads := (s1.unit u).reads.filter fun c => !(decide (pa ≤ c.1) && decide (c.1 < pa + bs.length)) }

/-- The commit of unit `u`'s open version at a boundary of scope `S` (R373, R374, R379, R487); its earlier writes reach
`S` too (R387). -/
def State.commit (s : State) (u S : Nat) : Except Trap State :=
  match (s.unit u).vlost, (s.unit u).stores with
  | some va, _ :: _ => .error ⟨0x12, va⟩
  | _, _ =>
    let pas := (s.unit u).stores.map (·.pa)
    let s0 := s.setUnit u { s.unit u with late := s.lateBytes u ++ (s.unit u).late.filter fun x => decide (s.dcc (s.unit u).place.die < x.seenAt) }
    .ok (((((s0.commitList u S (s.unitKey u) (s.unit u).stores).unpoison pas).dropVersion u).widen u S).dropSnaps pas
      |>.fire (fun k pa => (s.unit u).stores.any fun w => decide (w.pa = pa) && s.reachesUnit u (max (max S 1) w.scope) k) pas)

/-! Messages to the host -/

/-- A translation message (R214). -/
def xlatMsg (mtype die flags job va gen count tag : Nat) : XlatMsg :=
  ⟨leBytes mtype 1 ++ leBytes die 1 ++ leBytes flags 2 ++ leBytes job 4 ++ leBytes va 8 ++ leBytes gen 8 ++ leBytes count 4
    ++ leBytes tag 4⟩

/-! Traps (R440 to R447) -/

/-- Class of a cause code: 0 F, 1 S, 2 H (R442). -/
def Trap.cls (t : Trap) : Nat := if t.code < 0x40 then 0 else if t.code < 0x80 then 1 else 2
/-- XCAUSE (R441). -/
def causeWord (code cls : Nat) (eng : Option Engine) (vx : Nat) : X :=
  BitVec.ofNat 64 (code + cls * 256 + (match eng with | none => 0 | some e => 1024 + e.code * 2048) + vx * 8192)

/-- TCLK stands from here on (R122, R449 step 3). -/
def State.freeze (s : State) (u : Nat) : State :=
  s.setUnit u { s.unit u with tclk := s.tclk u, tbase := s.free (s.unit u).place.die (s.home u) }

/-- The waiting requests of the voices `ok` of unit `u` leave their semaphores and queues, and the power queues of their zones (R394,
R405, R409, R425). -/
def State.abandon (s : State) (u : Nat) (ok : Nat → Bool) : State :=
  let gone := fun (k v : Nat) => decide (k = u) && ok v
  { s with
    semq := s.semq.filter fun r => !gone r.unit r.voice
    zones := s.zones.map fun z => (z.1, { z.2 with asks := z.2.asks.filter fun a => !gone a.1 a.2.1 })
    launches := s.launches.map fun l => (l.1, { l.2 with queues := l.2.queues.map fun q => { q with
      pushers := q.pushers.filter fun w => !gone w.unit w.voice
      poppers := q.poppers.filter fun w => !gone w.unit w.voice } }) }

/-- The unit starts to fail: XCAUSE, XINFO and XPC of the reporting voice are set, and `UNIT_FAIL` does the rest (R440,
R441, R443, R458); the requests its voices wait with leave their semaphores and queues (R405, R409). A unit already failing,
being cancelled or ended keeps its state. -/
def State.failUnit (s : State) (u j : Nat) (pc : Option X) (cause info : X) : State :=
  match (s.unit u).status with
  | .failing => s
  | .cancelling => s
  | .ended => s
  | _ =>
    let v := s.voice u j
    let s1 := ((s.freeze u).abandon u fun _ => true).setVoice u j { v with xcause := cause, xinfo := info, xpc := pc.getD v.xpc }
    s1.setUnit u { s1.unit u with status := .failing, fault := some cause }

/-- A command put back among the unissued commands of its context, in cn order. -/
def insertCn (q : Cmd) : List Cmd → List Cmd
  | [] => [q]
  | k :: ks => if q.cn ≤ k.cn then q :: k :: ks else k :: insertCn q ks
/-- The engine of a context, by its key. -/
def engineOf (k : Nat) : Engine :=
  match k % 12 / 4 with
  | 0 => .matrix
  | 1 => .vector
  | _ => .copy
/-- A context stops at cycle `now` of its engine: a collective that has issued and moved no data returns to its queue unissued
(R449 step 2); the time it and an armed consort command have waited is kept (R268, R362); the loop buffer is filled again
(R123). -/
def Ctx.recall (c : Ctx) (now : Nat) : Ctx :=
  let back := c.flight.filter fun q => !q.group.isEmpty && q.data.isNone
  let rest := c.queue.map fun q => if q.con ≠ 0 ∧ q.group = [] ∧ q.armed = true then
    { q with waited := q.waited + (now - q.armedAt), armedAt := now } else q
  { c with
    st := { c.st with buf := none }
    flight := c.flight.filter fun q => q.group.isEmpty || q.data.isSome
    queue := back.foldl (fun l q => insertCn { q with phase := .queued, con := 0, waited := q.waited + (now - q.enter) } l) rest
    tags := back.foldl (fun m q => NMap.put m (q.group.headD 0) (NMap.getD m (q.group.headD 0) 1 - 1)) c.tags }
/-- A voice stops: its stall and its wait are abandoned, and issue again on start; a swap-out keeps the waits, and a sync
wait stays, each with the cycles it has lasted (R115, R117, R394, R449 step 1). A loop buffer is filled again (R123). -/
def Voice.stop (v : Voice) (cause now : Nat) : Voice :=
  let v1 := { v with ask := none, st := { v.st with buf := none } }
  match v.status with
  | .waiting w c =>
    if w = .sync ∨ cause = 0x41 then { v1 with status := .waiting w (now - c) } else { v1 with status := .running }
  | _ => v1
/-- The unit begins the stop sequence of R449 for class S cause `cause` with XINFO `info` (steps 1 to 3); it takes its place
among the stops (R110). -/
def State.stopUnit (s : State) (u cause info : Nat) : State :=
  match (s.unit u).status with
  | .resident =>
    let s1 := if cause = 0x41 then s.freeze u else (s.freeze u).abandon u fun _ => true
    let s2 := { s1 with
      voices := s1.voices.map fun (v : Nat × Voice) => if v.1 / 4 = u then (v.1, v.2.stop cause (s.unitCyc u)) else v
      ctxs := s1.ctxs.map fun (c : Nat × Ctx) =>
        if c.1 / 12 = u then (c.1, c.2.recall (s.eclk (s.unit u).place.die (s.home u) (engineOf c.1))) else c }
    ({ s2 with order := s.order + 1 } : State).setUnit u { s2.unit u with status := .stopping cause, sinfo := info, stopped := s.order }
  | _ => s

/-- Units of one job on a die that wait on a page (R215, R217). -/
def State.waiters (s : State) (die job page : Nat) : List Nat :=
  (s.units.filter fun c => decide (c.2.place.die = die) && decide (c.2.place.job = job) &&
    (match c.2.page, c.2.status with
      | some p, .suspended 0x40 => decide (p.1 = page)
      | some p, .stopping 0x40 => decide (p.1 = page)
      | _, _ => false)).map (·.1)

/-- The PC of a stream. -/
def State.pcOf (s : State) : Sel → X
  | .voice u j => (s.voice u j).st.pc
  | .ctx u e j => (s.ctx u e j).st.pc
/-- The issue in progress ends with its access still to be made: the page faults it was to make good stand again (R217). -/
def State.putBack (s : State) : State :=
  if s.resumed = [] then s
  else s.setUnit s.selUnit { s.unit s.selUnit with notes := (s.unit s.selUnit).notes ++ s.resumed }
/-- The fault-storm fault of a unit, raised for the stream that waits for the page (R217). -/
def State.storm (s : State) (u page : Nat) : Sel → State
  | .voice _ j => s.failUnit u j none (causeWord 0x13 0 none j) (BitVec.ofNat 64 page)
  | .ctx _ e j => s.failUnit u j none (causeWord 0x13 0 (some e) j) (BitVec.ofNat 64 page)
/-- The page fault of stream `sel` of unit `u` (R215, R217): suspension with one PFREQ for a page, or the fault-storm
fault for every team that waits on it. -/
def State.pageFault (s : State) (sel : Sel) (u : Nat) (info : Nat) : State :=
  let die := (s.unit u).place.die
  let job := (s.unit u).place.job
  let page := info / 4096 * 4096
  let k := jkey die job * 2 ^ 57 + page
  let pf := s.pfaults.getD k {}
  let n := if s.resumed.any fun x => decide (x.page = page) then pf.refault + 1 else pf.refault
  if 16 ≤ n then
    let s1 := { s with pfaults := s.pfaults.put k { pf with refault := 0 } }
    ((s1.waiters die job page).foldl (fun t w => t.storm w page (((t.unit w).page.map (·.2)).getD (.voice w 0))) s1).storm u page sel
  else
    let tag := if pf.outstanding then pf.tag else Config.freeChoice s.fresh % 2 ^ 32
    let s1 := { s with
      pfaults := s.pfaults.put k { outstanding := true, refault := n, tag := tag }
      xlatOut := if pf.outstanding then s.xlatOut
        else s.xlatOut ++ [xlatMsg 1 die (info % 4096) job page (s.job die job).gen n tag] }
    (s1.setUnit u { s1.unit u with
      page := some (page, sel)
      notes := ((s1.unit u).notes.filter fun x => decide (x ≠ ⟨page, sel, s.pcOf sel⟩)) ++ [⟨page, sel, s.pcOf sel⟩] }).stopUnit u 0x40 info

/-- XSW at handler entry (R445). -/
def xswOf (rep : Option Rep) (pend drop : Nat) : X :=
  BitVec.ofNat 64 ((match rep with
    | none => 0
    | some r => r.ix.toNat + r.cm.toNat * 64 + (r.sd.toNat * 64 + r.sa.toNat * 8 + r.sb.toNat) * 4096 + 2 ^ 21)
    + pend * 2 ^ 24 + drop * 2 ^ 30)

/-- A voice takes a class H trap (R444): XPC, XSW, XCAUSE and XINFO are written, loops move to their shadow, and the
handler at XHND is next, 4 control cycles later. -/
def State.enterHandler (s : State) (u j : Nat) (cause info : X) : State :=
  let v := s.voice u j
  let t := s.unit u
  let s1 := s.setVoice u j { v with
    xpc := v.st.pc
    xsw := xswOf v.st.rep t.events.length t.drop
    xcause := cause
    xinfo := info
    s0 := v.st.l0, s1 := v.st.l1, s2 := v.st.l2
    st := { v.st.clearFrom 0 with rep := none, pc := s.handler u, buf := none }
    hmode := true
    ask := none
    met := false, smet := v.met
    nextAt := (s.unitCore u).ctl.start (s.dcc t.place.die) + 4 * (s.unitCore u).ctl.div
    status := v.status.wake }
  (s1.setUnit u { s1.unit u with drop := 0 }).abandon u fun k => decide (k = j)

/-- A class H cause reported to voice `j`: the handler, or class F where XHND is zero or the voice is in handler mode
(R447). -/
def State.takeH (s : State) (u j : Nat) (eng : Option Engine) (vx : Nat) (t : Trap) : State :=
  let v := s.voice u j
  if v.hmode then
    s.failUnit u j (some v.st.pc) (causeWord 0x2A 0 eng vx) (BitVec.ofNat 64 (t.code + v.xcause.toNat % 256 * 2 ^ 32))
  else if s.handler u = 0 then
    s.failUnit u j (some v.st.pc) (causeWord t.code 0 eng vx) (BitVec.ofNat 64 t.info)
  else s.enterHandler u j (causeWord t.code 2 eng vx) (BitVec.ofNat 64 t.info)

/-- A class H cause raised by an engine joins the team's event queue, or is lost (R446). -/
def State.event (s : State) (u : Nat) (e : Engine) (j : Nat) (t : Trap) : State :=
  let un := s.unit u
  if un.events.length < 32 then
    s.setUnit u { un with
      events := un.events ++ [(causeWord t.code 2 (some e) j, BitVec.ofNat 64 t.info)], evAt := un.evAt ++ [s.dcc un.place.die] }
  else s.setUnit u { un with drop := min 255 (un.drop + 1) }

/-- The stream in issue takes a trap: the one description of taking a trap (R440, R442 to R447). -/
def State.takeTrap (s : State) (t : Trap) : State :=
  match s.sel with
  | .voice u j =>
    if t.cls = 0 then s.failUnit u j (some (s.voice u j).st.pc) (causeWord t.code 0 none j) (BitVec.ofNat 64 t.info)
    else if t.code = 0x40 then s.pageFault s.sel u t.info
    else if t.cls = 1 then s.stopUnit u t.code t.info
    else s.takeH u j none j t
  | .ctx u e j =>
    if t.cls = 0 then
      s.failUnit u j (some (s.ctx u e j).st.pc) (causeWord t.code 0 (some e) j) (BitVec.ofNat 64 t.info)
    else if t.code = 0x40 then s.pageFault s.sel u t.info
    else if t.cls = 1 then s.stopUnit u t.code t.info
    else s.event u e j t

/-- The word in issue has no effect but its trap (R15, R193). -/
def State.raiseTrap (s : State) (t : Trap) : State := { s.putBack.takeTrap t with stopTrap := some t }

/-- An outcome of a word that may trap: its state, or the trap it takes in `s`. -/
def State.finish (s : State) : Except Trap State → Host.Outcome State Fault Refusal
  | .ok t => .next t
  | .error t => .next (s.raiseTrap t)

/-- XINFO of a cause that names the instruction word, with a number in its low bits (R442). -/
def State.wordInfo (s : State) (n : Nat) : Nat := n + s.ir.toNat * 2 ^ 32
/-- The illegal-instruction fault raised in execution (R442). -/
def State.illegal (s : State) : Trap := ⟨0x01, s.wordInfo 0⟩

end Sys2Proof.Machine
end

