-- ==== Sys2Proof/Machine/Flags.lean ====
section
/-! DEFINITION. Conditions of compares and predicates, and the conversions whose flags reach FPFL (R72, R158, R159). -/
namespace Sys2Proof.Machine
open Sys2Proof

/-- The integer conditions of CMP, CMPI and VCMP on `w`-bit values (R158). -/
def intCond {w : Nat} (cc : BitVec 3) (a b : BitVec w) : Bool :=
  match cc.toNat with
  | 0 => a == b
  | 1 => a != b
  | 2 => a.slt b
  | 3 => !a.slt b
  | 4 => a.ult b
  | _ => !a.ult b

/-- The predicate functions of PLOG and MLOG (R159). -/
def logFn (f : BitVec 3) (a b : Bool) : Bool :=
  match f.toNat with
  | 0 => a && b
  | 1 => a || b
  | 2 => a != b
  | 3 => a && !b
  | 4 => a || !b
  | 5 => !(a && b)
  | 6 => !(a || b)
  | _ => a == b

/-- The precision bit D of a scalar floating-point word: binary32 or binary64 (R184). -/
def precFmt (p : BitVec 1) : FpFmt := if p = 1 then fp64 else fp32
/-- The operand of a scalar floating-point word in its precision (R181). -/
def precBits (p : BitVec 1) (v : X) : Nat := if p = 1 then v.toNat else v.toNat % 2 ^ 32

/-- The types of FCVT (R201): the value of a source register. -/
def cvtSource (t : BitVec 3) (v : X) : Val :=
  match t.toNat with
  | 0 => unpack fp32 (v.toNat % 2 ^ 32)
  | 1 => unpack fp64 v.toNat
  | 2 => unpack bf16 (v.toNat % 2 ^ 16)
  | 3 => unpack e4m3 (v.toNat % 2 ^ 8)
  | 4 => unpack e5m2 (v.toNat % 2 ^ 8)
  | 5 => .ofInt (sint 32 v.toNat)
  | 6 => .ofInt v.toInt
  | _ => .ofInt v.toNat

/-- The types of FCVT: a value converted into a destination register, and its flags (R201). A signalling NaN sets NV
whatever the destination. -/
def cvtDest (t : BitVec 3) (rm : Nat) (sat : Bool) (v : Val) : X × X :=
  match t.toNat with
  | 0 => let r := cvtFp fp32 rm sat v; (BitVec.ofNat 64 r.1, r.2)
  | 1 => let r := cvtFp fp64 rm sat v; (BitVec.ofNat 64 r.1, r.2)
  | 2 => let r := cvtFp bf16 rm sat v; (BitVec.ofNat 64 r.1, r.2)
  | 3 => let r := cvtFp e4m3 rm sat v; (BitVec.ofNat 64 r.1, r.2)
  | 4 => let r := cvtFp e5m2 rm sat v; (BitVec.ofNat 64 r.1, r.2)
  | 5 => let r := cvtInt (-2 ^ 31) (2 ^ 31 - 1) rm v; (BitVec.ofInt 64 r.1, r.2)
  | 6 => let r := cvtInt (-2 ^ 63) (2 ^ 63 - 1) rm v; (BitVec.ofInt 64 r.1, r.2)
  | _ => let r := cvtInt 0 (2 ^ 64 - 1) rm v; (BitVec.ofInt 64 r.1, r.2)

end Sys2Proof.Machine
end

