-- ==== Sys2Proof/Machine/Operands.lean ====
section
/-! DEFINITION. The operand forms: special registers, immediates, effective addresses, instruction fetch, the aperture,
and tensor coordinates. -/
namespace Sys2Proof.Machine
open Sys2Proof

/-- A signed immediate as a 64-bit value (R156). -/
def sext {n : Nat} (i : BitVec n) : X := i.signExtend 64
/-- A branch target: the unit's address plus the offset in units (R132, R161). -/
def target {n : Nat} (u : Nat) (pc : X) (o : BitVec n) : X := pc + sext o * BitVec.ofNat 64 u

/-! Special registers (R121) -/

/-- The bits of XSW that are not reserved: a reserved one reads as zero, whatever was written (R17, R445). -/
def xswRead (v : X) : X := v &&& 0x3FFF3FFFFF

/-- MFS: the value of a special register as the stream in issue sees it in its cycle, or none where it is not listed or not
seen (R121, R175). -/
def State.readSreg (s : State) (n : Nat) : Option X :=
  let u := s.selUnit
  let t := s.unit u
  let v : Option Voice := match s.sel with
    | .voice u j => some (s.voice u j)
    | .ctx _ _ _ => none
  match n with
  | 0x001 => some (BitVec.ofNat 64 s.cycleStart)
  | 0x002 => some (BitVec.ofNat 64 (s.tclkAt u s.cycleStart))
  | 0x003 => v.map fun _ => s.toff u
  | 0x010 => v.map (·.xpc)
  | 0x011 => v.map fun k => xswRead k.xsw
  | 0x012 => v.map (·.xcause)
  | 0x013 => v.map (·.xinfo)
  | 0x014 => v.map fun _ => t.sees 0x014 t.xhnd s.cycleStart
  | 0x020 => v.map fun _ => t.sees 0x020 (t.wthr.setWidth 64) s.cycleStart
  | 0x021 => some (s.stream.fmsel.setWidth 64)
  | 0x022 => v.map fun _ => s.stscNow.setWidth 64
  | 0x023 => some (t.sees 0x023 (t.pgnt.setWidth 64) s.cycleStart)
  | 0x024 => some (t.sees 0x024 t.fpfl s.cycleStart)
  | 0x025 => some (BitVec.ofNat 64 t.prio)
  | 0x026 => some (s.mhlNow.setWidth 64)
  | 0x030 => some (BitVec.ofNat 64 (t.place.core * 4 + t.place.slot0))
  | 0x031 => some (BitVec.ofNat 64 (t.place.stage * 65536 + t.place.inst))
  | 0x032 => some (BitVec.ofNat 64 t.place.core)
  | 0x033 => some (BitVec.ofNat 64 t.place.die)
  | 0x034 => some (BitVec.ofNat 64 (s.unitLaunch u).rid)
  | 0x035 => some (BitVec.ofNat 64 t.place.job)
  | 0x040 => some (s.stream.l0.lc.setWidth 64)
  | 0x041 => some (s.stream.l1.lc.setWidth 64)
  | 0x042 => some (s.stream.l2.lc.setWidth 64)
  | _ => none

/-- FMSEL of a stream set (R128, R176). -/
def Stream.setFmsel (st : Stream) (v : BitVec 8) : Stream := { st with fmsel := v }

/-- MTS: the state with special register `n` written, none where the access is refused (R121, R128, R176). The clamps and
refusals apply to the bits of the register's width. A team-scope register is seen by the cycles that begin after the writing one
(R177). -/
def State.writeSreg (s : State) (n : Nat) (v : X) : Option State :=
  let u := s.selUnit
  let t := s.unit u
  match n with
  | 0x010 => match s.sel with
    | .voice u j => if (s.voice u j).hmode then some (s.setVoice u j { s.voice u j with xpc := v }) else none
    | .ctx _ _ _ => none
  | 0x011 => match s.sel with
    | .voice u j => if (s.voice u j).hmode then some (s.setVoice u j { s.voice u j with xsw := v }) else none
    | .ctx _ _ _ => none
  | 0x014 => match s.sel with
    | .voice _ _ =>
      let r := s.regWrite 0x014 t.xhnd (v &&& ~~~15)
      some (s.setUnit u { t with xhnd := r.final, recent := t.recent.put 0x014 r })
    | .ctx _ _ _ => none
  | 0x020 => match s.sel with
    | .voice _ _ =>
      let r := s.regWrite 0x020 (t.wthr.setWidth 64) (if v.setWidth 32 < (256 : BitVec 32) then 256 else (v.setWidth 32 : BitVec 32).setWidth 64)
      some (s.setUnit u { t with wthr := r.final.setWidth 32, recent := t.recent.put 0x020 r })
    | .ctx _ _ _ => none
  | 0x021 => if (v.setWidth 8) &&& 0x0C = (0 : BitVec 8) then some (s.mapStream fun _ st => st.setFmsel (v.setWidth 8)) else none
  | 0x022 => match s.sel with
    | .voice _ _ =>
      let r := s.regWrite 0x022 (t.stsc.setWidth 64) (v &&& 7)
      if 6 ≤ (v.setWidth 3 : BitVec 3).toNat then none
      else some (s.setUnit u { t with stsc := r.final.setWidth 3, recent := t.recent.put 0x022 r })
    | .ctx _ _ _ => none
  | 0x024 =>
    let r := s.regWrite 0x024 t.fpfl (v &&& 0x7F)
    some (s.setUnit u { t with fpfl := r.final, recent := t.recent.put 0x024 r })
  | 0x026 =>
    let r := s.regWrite 0x026 (t.mhl.setWidth 64) (if 1024 < (v.setWidth 11 : BitVec 11).toNat then 1024 else v &&& 0x7FF)
    some (s.setUnit u { t with mhl := r.final.setWidth 11, recent := t.recent.put 0x026 r })
  | _ => none

/-- The row of the format table a stream uses (R128). -/
def Stream.row (st : Stream) : Nat :=
  let base := bits st.fmsel.toNat 4 4
  match bits st.fmsel.toNat 0 2 with
  | 0 => (st.l0.lc.toNat + base) % 16
  | 1 => (st.l1.lc.toNat + base) % 16
  | 2 => (st.l2.lc.toNat + base) % 16
  | _ => base

/-! The scratchpad allocation of a unit (R33, R224, R225) -/

def Place.lo (p : Place) : Nat := 65536 * p.sbase
def Place.hi (p : Place) : Nat := 65536 * (p.sbase + p.sunits)
/-- The range lies in the unit's allocation, guards included (R187, R222). -/
def Place.holds (p : Place) (a n : Nat) : Bool := decide (p.lo ≤ a) && decide (a + n ≤ p.hi)
/-- The byte lies in a guard granule of the allocation (R33). -/
def Place.guarded (p : Place) (a : Nat) : Bool :=
  (decide (p.lo ≤ a) && decide (a < p.lo + 256 * p.guards)) || (decide (p.hi - 256 * p.guards ≤ a) && decide (a < p.hi))

/-- The key of a scratchpad byte: physical core, then byte (R224). -/
def spKey (die p a : Nat) : Nat := pkey die p * 2 ^ 21 + a
/-- A scratchpad byte as unit `u` reads it: guarded and never written bytes are unspecified (R225, R228). -/
def State.spByte (s : State) (u a : Nat) : Byte :=
  let k := spKey (s.unit u).place.die (s.home u) a
  if (s.unit u).place.guarded a then Config.freeByte s.fresh (2 ^ 60 + k)
  else (s.sp.find k).getD (Config.freeByte s.fresh (2 ^ 60 + k))
def State.spBytes (s : State) (u a n : Nat) : List Byte := (List.range n).map fun i => s.spByte u (a + i)
/-- One byte written by unit `u`: discarded in a guard granule (R225). -/
def State.spPut (s : State) (u a : Nat) (b : Byte) : State :=
  if (s.unit u).place.guarded a then s
  else { s with sp := s.sp.put (spKey (s.unit u).place.die (s.home u) a) b }
def State.spPuts (s : State) (u a : Nat) : List Byte → State
  | [] => s
  | b :: t => (s.spPut u a b).spPuts u (a + 1) t
/-- The store of a voice to scratchpad byte `k` in the control cycle in progress (R191). -/
def State.spNow (s : State) (u k : Nat) : Option SpOld :=
  (s.unit u).spOld.find? fun x => decide (x.key = k) && decide (s.dcc (s.unit u).place.die < x.seenAt)
/-- A scratchpad byte as an LDS of unit `u` reads it: a store of its own control cycle has not reached it (R191). -/
def State.ldsByte (s : State) (u a : Nat) : Byte :=
  if (s.unit u).place.guarded a then s.spByte u a
  else match s.spNow u (spKey (s.unit u).place.die (s.home u) a) with
    | some x => x.old
    | none => s.spByte u a
def State.ldsBytes (s : State) (u a n : Nat) : List Byte := (List.range n).map fun i => s.ldsByte u (a + i)
/-- One byte stored by voice `j`: of the stores of one control cycle the highest voice's stands (R191). -/
def State.stsByte (s : State) (u j a : Nat) (b : Byte) : State :=
  let t := s.unit u
  let k := spKey t.place.die (s.home u) a
  let now := s.dcc t.place.die
  let live := t.spOld.filter fun x => decide (now < x.seenAt) && decide (x.key ≠ k)
  if t.place.guarded a then s
  else match s.spNow u k with
    | some x =>
      if j < x.voice then s
      else ({ s with sp := s.sp.put k b } : State).setUnit u { t with spOld := { x with voice := j } :: live }
    | none => ({ s with sp := s.sp.put k b } : State).setUnit u
        { t with spOld := ⟨k, s.spByte u a, (s.unitCore u).ctl.ends now, j⟩ :: live }
def State.stsBytes (s : State) (u j a : Nat) : List Byte → State
  | [] => s
  | b :: t => (s.stsByte u j a b).stsBytes u j (a + 1) t

/-- Bytes that reach the scratchpad of a unit while it is suspended, which its images do not hold (R111, R408, R450). -/
def State.keepLate (s : State) (u : Nat) (l : List (Nat × Byte)) : State :=
  if (s.unit u).away then
    s.setUnit u { s.unit u with
      spLate := (l.filter fun b => !(s.unit u).place.guarded b.1).foldl (fun m b => NMap.put m b.1 b.2) (s.unit u).spLate }
  else s

/-- A touch of a guard granule is recorded: the first is described, later ones are counted (R225). Agent 0 voice,
1 vector, 2 matrix, 3 copy. -/
def State.touch (s : State) (u agent : Nat) (wr : Bool) (a n : Nat) : State :=
  match ((List.range n).map (a + ·)).find? (s.unit u).place.guarded with
  | none => s
  | some g =>
    let t := s.unit u
    let info := match t.guard with
      | none => g + (if wr then 2 ^ 21 else 0) + agent * 2 ^ 22
      | some r => if bits r.info 24 8 = 255 then r.info else r.info + 2 ^ 24
    s.setUnit u { t with guard := some ⟨info⟩ }

/-! Tensors (R219, R220) -/

/-- Elements of format `code` per value, as ByteOf (R219): the byte of coordinate 0. -/
def byteOf (code c0 : Nat) : Nat := match codeBits code with
  | 32 => 4 * c0
  | 16 => 2 * c0
  | 4 => c0 / 2
  | _ => c0
/-- Bytes an element takes part of (R219, R220). -/
def elemBytes (code : Nat) : Nat := match codeBits code with
  | 32 => 4
  | 16 => 2
  | _ => 1
def Tensor.extent (t : Tensor) (i : Nat) : Nat := t.ext.getD i 1
def Tensor.stride (t : Tensor) (i : Nat) : Nat := t.str.getD (i - 1) 0
/-- The byte offset of an element in the plain view (R220). -/
def Tensor.offset (t : Tensor) (c : List Nat) : Nat :=
  byteOf t.fmt (c.getD 0 0) + c.getD 1 0 * t.stride 1 + c.getD 2 0 * t.stride 2 + c.getD 3 0 * t.stride 3
/-- The first dimension whose coordinate lies outside its extent (R220). -/
def Tensor.outside (t : Tensor) (c : List Nat) : Option Nat :=
  (List.range 4).find? fun i => decide (t.extent i ≤ c.getD i 0)
/-- The tensor's span in tiles (R220). -/
def Tensor.count (t : Tensor) : Nat :=
  cdiv (t.offset [t.extent 0 - 1, t.extent 1 - 1, t.extent 2 - 1, t.extent 3 - 1] + elemBytes t.fmt) 4096
def Tensor.aperLen (t : Tensor) : Nat := 4 * t.extent 0 * t.extent 1 * t.extent 2 * t.extent 3

/-- The tensor of a launch whose aperture holds `va` (R229). -/
def Launch.aperture (l : Launch) (va : Nat) : Option (Nat × Tensor) :=
  (l.tensors.zipIdx.map fun p => (p.2, p.1)).find? fun p =>
    decide (p.2.aper ≠ 0) && decide (p.2.aper ≤ va) && decide (va < p.2.aper + p.2.aperLen)

/-- The physical byte of offset `o` in copy 0 or 1 of a tensor (R221, R354). -/
def Tensor.bytePa (t : Tensor) (copy : Bool) (o : Nat) : Option Nat :=
  (t.tiles.find (o / 4096 + if copy then t.count else 0)).map (·.pa + o % 4096)
/-- The physical byte of offset `o` in its scale array (R221). -/
def Tensor.scalePa (t : Tensor) (o : Nat) : Option Nat :=
  (t.stiles.find ((t.scale % 4096 + o) / 4096)).map (·.pa + (t.scale % 4096 + o) % 4096)
/-- The coordinates of element number `e`, dimension 0 fastest (R229). -/
def Tensor.coords (t : Tensor) (e : Nat) : List Nat :=
  [e % t.extent 0, e / t.extent 0 % t.extent 1, e / (t.extent 0 * t.extent 1) % t.extent 2,
    e / (t.extent 0 * t.extent 1 * t.extent 2)]
/-- The row whose scales an element uses (R65). -/
def Tensor.scaleRow (t : Tensor) (c : List Nat) : Nat :=
  c.getD 1 0 + t.extent 1 * (c.getD 2 0 + t.extent 2 * c.getD 3 0)

/-- The bits of a tensor's element, its bytes read by `rd` from their virtual and physical addresses (R60, R219). -/
def Tensor.elemBy (t : Tensor) (rd : Nat → Option Nat → Byte) (copy : Bool) (c : List Nat) : Nat :=
  let o := t.offset c
  let v := leNat ((List.range (elemBytes t.fmt)).map fun i => rd (t.base + o + i) (t.bytePa copy (o + i)))
  if codeBits t.fmt = 4 then bits v (4 * (c.getD 0 0 % 2)) 4 else v
/-- Where the scale half-word of an element's block lies in the scale array (R65). -/
def Tensor.scaleOff (t : Tensor) (c : List Nat) : Nat := 2 * (t.scaleRow c * cdiv (t.extent 0) 16 + c.getD 0 0 / 16)
/-- The scale half-word of an element's block (R64, R65). -/
def Tensor.scaleBy (t : Tensor) (rd : Nat → Option Nat → Byte) (c : List Nat) : Nat :=
  let o := t.scaleOff c
  leNat [rd (t.scale + o) (t.scalePa o), rd (t.scale + o + 1) (t.scalePa (o + 1))]

/-! The work area of a launch (R43) -/

/-- The byte at `va`, physical `pa`, is one of the work area of a launch of the unit's job that the device still owns, whatever die
the unit is on and whatever page it reads it through: what the job reads there is unspecified (R22, R43, R78). -/
def State.inWork (s : State) (u va pa : Nat) : Bool :=
  s.launches.any fun l => decide (l.2.job = (s.unit u).place.job) && decide (l.2.status = .admitted) && !l.2.count.sent
    && (l.2.frames.contains (pa / 4096) || (decide (l.2.die = (s.unit u).place.die) && decide (l.2.work ≤ va)
      && decide (va < l.2.work + 65536 * l.2.wsize)))
/-- `n` bytes at `va`, physical `pa`, as a voice of the team reads them (R43, R375). -/
def State.readBytes (s : State) (u va pa n : Nat) : List Byte :=
  (List.range n).map fun i => if s.inWork u (va + i) (pa + i) then s.freeByte (pa + i) else s.teamByte u (pa + i)
/-- A byte an engine or an aperture reads for team `u`: the committed value (R385); an address with no tile, or in a work
area, reads as unspecified. -/
def State.engByte (s : State) (u va : Nat) (pa : Option Nat) : Byte :=
  match pa with
  | some a => if s.inWork u va a then s.freeByte a else s.seen (.team u) (s.unitKey u) a
  | none => s.freeByte (2 ^ 52)
def State.tensorElem (s : State) (u : Nat) (t : Tensor) (copy : Bool) (c : List Nat) : Nat := t.elemBy (s.engByte u) copy c
def State.tensorScale (s : State) (u : Nat) (t : Tensor) (c : List Nat) : Nat := t.scaleBy (s.engByte u) c

/-! Tiles looked up (R221, R222) -/

/-- Numbers of the 4 KiB tiles that `len` bytes from `lo` touch. -/
def tilesOf (lo len : Nat) : List Nat := if len = 0 then [] else List.range' (lo / 4096) ((lo + len - 1) / 4096 - lo / 4096 + 1)
def Tensor.tile (t : Tensor) (scale : Bool) (i : Nat) : Option Tile := (if scale then t.stiles else t.tiles).find i
/-- The address of tile `i` of a tensor's plain view or scale array. -/
def Tensor.tileVa (t : Tensor) (scale : Bool) (i : Nat) : Nat := (if scale then t.scale / 4096 * 4096 else t.base) + 4096 * i
/-- The tile permits the access: it is on no weight-window page and needs R; an engine's accesses need E too; a tensor with RDO set
takes no write (R211, R222). An aperture tile formed from a weight-window page is refused so too: log 69. -/
def Tensor.mayUse (t : Tensor) (acc : Access) (x : Tile) : Bool :=
  x.r && !x.ww && (decide (acc = .read) || x.e) && (decide (acc ≠ .engWrite) || (x.w && !t.rdo))
/-- A tensor of a unit's launch. -/
def State.tensorOf (s : State) (u tn : Nat) : Tensor := ((s.unitLaunch u).tensors[tn]?).getD {}
/-- Step 2 of R222: the tiles whose entries are valid permit the access. -/
def State.checkTiles (s : State) (u tn : Nat) (acc : Access) (l : List (Bool × Nat)) : Except Trap Unit :=
  let t := s.tensorOf u tn
  match l.find? fun k => match t.tile k.1 k.2 with
      | some x => x.ok && !t.mayUse acc x
      | none => false with
  | some k => .error ⟨0x0B, t.tileVa k.1 k.2⟩
  | none => .ok ()
/-- Tile `i` of a tensor's plain view or scale array is looked up (steps 2 and 4 of R222): the state, with an invalid entry
refilled, and the frame. -/
def State.lookTile (s : State) (u tn : Nat) (acc : Access) (scale : Bool) (i : Nat) : Except Trap (State × Nat) :=
  let p := (s.unit u).place
  let l := s.unitLaunch u
  let t := s.tensorOf u tn
  let va := t.tileVa scale i
  let take := fun (s1 : State) (x : Tile) =>
    if t.mayUse acc x then (.ok (s1, x.pa / 4096) : Except Trap (State × Nat)) else .error ⟨0x0B, va⟩
  match t.tile scale i with
  | some ⟨pa, r, w, true, e, ww⟩ => take s ⟨pa, r, w, true, e, ww⟩
  | _ =>
    match s.walk p.die p.job va with
    | .error .invalid => .error ⟨0x40, va + acc.code⟩
    | .error (.format n) => .error ⟨0x0C, va + n⟩
    | .ok lf =>
      if lf.permits acc then
        let x : Tile := ⟨lf.pa, lf.r, lf.w, true, lf.e, lf.ww⟩
        let t1 := if scale then { t with stiles := t.stiles.put i x } else { t with tiles := t.tiles.put i x }
        take (s.setLaunch p.launch { l with tensors := l.tensors.set tn t1 }) x
      else .error ⟨0x0B, va⟩
/-- Tiles are looked up one after another; the frames found join `fs`. -/
def State.lookTiles (s : State) (u tn : Nat) (acc : Access) : List (Bool × Nat) → List Nat → Except Trap (State × List Nat)
  | [], fs => .ok (s, fs)
  | k :: ks, fs =>
    match s.lookTile u tn acc k.1 k.2 with
    | .error t => .error t
    | .ok (s1, f) => s1.lookTiles u tn acc ks (f :: fs)

/-- The exponent of element `k` of a block with scale half-word `h`: E - 127 - μ, none for a NaN block (R64). -/
def blockExp (h k : Nat) : Option Int :=
  if h % 256 = 255 then none else some ((h % 256 : Int) - 127 - bits h (8 + k % 16 / 2) 1)

/-- One value of an aperture tile and its flags (R229). Beyond the last element, which an 8-byte LD of the last one reads where their
count is odd, the value is zero. DESIGN CHOICE, log 99. -/
def State.aperElem (s : State) (u : Nat) (t : Tensor) (e : Nat) : BitVec 32 × X :=
  if t.extent 0 * t.extent 1 * t.extent 2 * t.extent 3 ≤ e then (0, 0)
  else
    let c := t.coords e
    match blockExp (s.tensorScale u t c) (c.getD 0 0), readElem t.fmt (s.tensorElem u t t.vis c) with
    | none, (_, fl) => (0x7FC00000, flNV ||| fl)
    | some k, (.num neg m _ _, fl) =>
      let r := rne32 (if m = 0 then .zero false else .num neg m 1 k)
      (BitVec.ofNat 32 r.1, fl ||| r.2)
    | some _, (_, fl) => (0, fl)
/-- The tiles of the tensor and of its scale array that aperture tile `tile` is formed from (R229). -/
def Tensor.aperTiles (t : Tensor) (tile : Nat) : List (Bool × Nat) :=
  ((List.range 1024).flatMap fun i =>
    if t.extent 0 * t.extent 1 * t.extent 2 * t.extent 3 ≤ tile * 1024 + i then []
    else
      let c := t.coords (tile * 1024 + i)
      ((tilesOf (t.offset c + if t.vis then 4096 * t.count else 0) (elemBytes t.fmt)).map fun k => (false, k)) ++
        (tilesOf (t.scale % 4096 + t.scaleOff c) 2).map fun k => (true, k)).eraseDups
/-- An aperture tile as read now: 1,024 values and the flags of forming it (R229, R230). -/
def State.formTile (s : State) (u : Nat) (t : Tensor) (tile : Nat) : List (BitVec 32) × X :=
  let vs := (List.range 1024).map fun i => s.aperElem u t (tile * 1024 + i)
  (vs.map (·.1), vs.foldl (fun a v => a ||| v.2) 0)

/-! Instruction fetch (R112, R140, R141, R211, R375) -/

/-- Check 1 of R141: `n` bytes at `va` have a byte in a no-issue range of the unit's stage; a pair of length 0 is unused (R38,
R140). -/
def State.noIssue (s : State) (u va n : Nat) : Bool :=
  (s.unitStage u).nois.any fun r =>
    decide (0 < r.2) && decide (va < (s.unitStage u).image + r.1 + r.2) && decide ((s.unitStage u).image + r.1 < va + n)

/-- The physical address of code at `va`, which checks nothing but the translation (R206, R211, R229). -/
def State.codeAddr (s : State) (u va : Nat) : Except Trap Nat :=
  if 2 ^ 57 ≤ va then .error ⟨0x0A, va⟩
  else if ((s.unitLaunch u).aperture va).isSome then .error ⟨0x0B, va⟩
  else match s.translate u .fetch va with
    | .error t => .error t
    | .ok l => .ok l.pa
/-- The physical address an instruction fetch reads for issue (R140, R141). -/
def State.fetchAddr (s : State) (u va n : Nat) : Except Trap Nat :=
  if s.noIssue u va n then .error ⟨0x03, va⟩ else s.codeAddr u va

/-- The four words of a bundle, or one word, as the team reads them (R131, R375). -/
def State.words (s : State) (u va pa : Nat) (n : Nat) : List Word :=
  (List.range n).map fun k => BitVec.ofNat 32 (leNat (s.readBytes u (va + 4 * k) (pa + 4 * k) 4))
def sBit (w : Word) : Bool := bits w.toNat 30 1 = 1
/-- The S bits of a bundle, word 3 highest (R442). -/
def sBits (ws : List Word) : Nat := (ws.zipIdx.map fun p => if sBit p.1 then 2 ^ p.2 else 0).sum
/-- R113: the S bits agree. -/
def sAgree (ws : List Word) : Bool := decide (sBits ws = 0) || decide (sBits ws = 15)

/-- The stream named `sel`. -/
def State.streamOf (s : State) : Sel → Stream
  | .voice u j => (s.voice u j).st
  | .ctx u e j => (s.ctx u e j).st
/-- The stream named `sel` changes by `f`, and nothing else of its voice or context. -/
def State.mapSel (s : State) (sel : Sel) (f : Stream → Stream) : State :=
  match sel with
  | .voice u j => s.setVoice u j { s.voice u j with st := f (s.voice u j).st }
  | .ctx u e j => s.setCtx u e j { s.ctx u e j with st := f (s.ctx u e j).st }
def selUnitOf : Sel → Nat
  | .voice u _ => u
  | .ctx u _ _ => u

/-- One unit of a loop body joins the buffer, where its address translates; a fill raises no fault (R123, R140). -/
def State.fillUnit (s : State) (sel : Sel) (va : Nat) (m : NMap (List Word)) : State × NMap (List Word) :=
  match s.codeAddr (selUnitOf sel) va with
  | .error _ => (s, m)
  | .ok pa => (s.noteReads (selUnitOf sel) pa (selSize sel), m.put va (s.words (selUnitOf sel) va pa (selSize sel / 4)))
def State.fillUnits (s : State) (sel : Sel) (m : NMap (List Word)) : List Nat → State × NMap (List Word)
  | [] => (s, m)
  | va :: t => let r := s.fillUnit sel va m; r.1.fillUnits sel r.2 t
/-- Addresses of the units of the body of the outermost loop, 256 at most (R123, R133). -/
def Stream.bodyUnits (st : Stream) (size : Nat) : List Nat :=
  (List.range (min 256 ((st.l0.fin - st.l0.top).toNat / size + 1))).map fun k => (st.l0.top + BitVec.ofNat 64 (k * size)).toNat
/-- The loop buffer of a stream before it issues: filled from memory where a loop is active and it is not, empty where none is
(R123). -/
def State.fillLoop (s : State) (sel : Sel) : State :=
  let st := s.streamOf sel
  if st.l0.act = false then (if st.buf = none then s else s.mapSel sel fun x => { x with buf := none })
  else match st.buf with
    | some _ => s
    | none =>
      let r := s.fillUnits sel [] (st.bodyUnits (selSize sel))
      r.1.mapSel sel fun x => { x with buf := some r.2 }

/-- The words of the unit at `va` as a stream fetches them, and where they lie, none for its loop buffer (R112, R123, R140). -/
def State.fetchUnit (s : State) (sel : Sel) (va : X) : Except Trap (List Word × Option Nat) :=
  let u := selUnitOf sel
  let n := selSize sel
  let st := s.streamOf sel
  if s.noIssue u va.toNat n then .error ⟨0x03, va.toNat⟩
  else match if st.l0.act && st.inBody 0 va then (st.buf.getD []).find va.toNat else none with
    | some ws => .ok (ws, none)
    | none => match s.codeAddr u va.toNat with
      | .error t => .error t
      | .ok pa => .ok (s.words u va.toNat pa (n / 4), some pa)

/-- A word of a stream that passed its fetch: it, whether its bundle is a sync bundle, and where it lies in memory. -/
structure Fetched where
  word : Word
  sync : Bool
  pa : Option Nat
deriving DecidableEq, Repr

/-- The word a stream takes of the unit it has fetched, after checks 2 and 3 of R141 (R112, R113, R139). -/
def pickWord (sel : Sel) (va : Nat) (ws : List Word) (pa : Option Nat) : Except Trap Fetched :=
  match sel with
  | .voice _ j =>
    let w := ws.getD j 0
    if bits w.toNat 31 1 = 0 ∧ bits w.toNat 24 6 = 0x3F then .error ⟨0x03, va⟩
    else if sAgree ws = false then .error ⟨0x02, sBits ws⟩
    else .ok ⟨w, sBit w, pa⟩
  | .ctx _ _ _ => .ok ⟨ws.getD 0 0, false, pa⟩
/-- The word a stream would issue at `va` (R112, R113, R140). -/
def State.fetchFor (s : State) (sel : Sel) (va : X) : Except Trap Fetched :=
  match s.fetchUnit sel va with
  | .error t => .error t
  | .ok (ws, pa) => pickWord sel va.toNat ws pa
/-- The team has read the bytes of a fetched unit (R375). -/
def State.noteFetch (s : State) (u n : Nat) : Option Nat → State
  | none => s
  | some pa => s.noteReads u pa n

/-- Accumulator slots of the unit (R32). -/
def State.accCount (s : State) (u : Nat) : Nat := (s.unit u).place.slots.length

end Sys2Proof.Machine
end

