-- ==== Sys2Proof/Machine/Common.lean ====
section
/-! DEFINITION. The common control subset (07): one meaning for each instruction of the common half, in a voice and in an
engine context alike. -/
namespace Sys2Proof.Machine
open Sys2Proof

abbrev Out := Host.Outcome State Fault Refusal
/-- What an outcome leaves: its next state, else the state it began from. -/
def leaves (s : State) : Out → State
  | .next t => t
  | _ => s

/-- The word in issue writes one x register and moves on (R151). -/
def State.result (s : State) (d : BitVec 6) (f : Stream → X) : State :=
  s.mapStream fun u st => (st.setX d (f st)).advance u
/-- The word in issue writes one predicate and moves on. -/
def State.resultP (s : State) (p : BitVec 7) (f : Stream → Bool) : State :=
  s.mapStream fun u st => (st.setP p (f st)).advance u

/-- NOP (R178). -/
def execNop (_ : BitVec 1) (s : State) : Out := .next s.advance

/-! Register arithmetic (R155) -/

def execAdd (_ : BitVec 1) (d a b : BitVec 6) (s : State) : Out := .next (s.result d fun st => st.getX a + st.getX b)
def execSub (_ : BitVec 1) (d a b : BitVec 6) (s : State) : Out := .next (s.result d fun st => st.getX a - st.getX b)
def execAnd (_ : BitVec 1) (d a b : BitVec 6) (s : State) : Out := .next (s.result d fun st => st.getX a &&& st.getX b)
def execOr (_ : BitVec 1) (d a b : BitVec 6) (s : State) : Out := .next (s.result d fun st => st.getX a ||| st.getX b)
def execXor (_ : BitVec 1) (d a b : BitVec 6) (s : State) : Out := .next (s.result d fun st => st.getX a ^^^ st.getX b)
/-- A shift amount taken from a register (R152). -/
def shiftAmt (v : X) : Nat := v.toNat % 64
def execShl (_ : BitVec 1) (d a b : BitVec 6) (s : State) : Out :=
  .next (s.result d fun st => st.getX a <<< shiftAmt (st.getX b))
def execShr (_ : BitVec 1) (d a b : BitVec 6) (s : State) : Out :=
  .next (s.result d fun st => st.getX a >>> shiftAmt (st.getX b))
def execSra (_ : BitVec 1) (d a b : BitVec 6) (s : State) : Out :=
  .next (s.result d fun st => (st.getX a).sshiftRight (shiftAmt (st.getX b)))
def execMul (_ : BitVec 1) (d a b : BitVec 6) (s : State) : Out := .next (s.result d fun st => st.getX a * st.getX b)
/-- Bits 127:64 of the signed product (R155). -/
def mulHigh (a b : X) : X := BitVec.ofInt 64 (a.toInt * b.toInt / 2 ^ 64)
def execMulh (_ : BitVec 1) (d a b : BitVec 6) (s : State) : Out :=
  .next (s.result d fun st => mulHigh (st.getX a) (st.getX b))
def sMin (a b : X) : X := if b.slt a then b else a
def sMax (a b : X) : X := if a.slt b then b else a
def execMin (_ : BitVec 1) (d a b : BitVec 6) (s : State) : Out := .next (s.result d fun st => sMin (st.getX a) (st.getX b))
def execMax (_ : BitVec 1) (d a b : BitVec 6) (s : State) : Out := .next (s.result d fun st => sMax (st.getX a) (st.getX b))
def execAgen (_ : BitVec 1) (d a b : BitVec 6) (h : BitVec 2) (s : State) : Out :=
  .next (s.result d fun st => st.getX a + (st.getX b <<< h.toNat))

/-! Immediate forms (R156, R157) -/

def execAddi (_ : BitVec 1) (d a : BitVec 6) (i : BitVec 12) (s : State) : Out :=
  .next (s.result d fun st => st.getX a + sext i)
def execAndi (_ : BitVec 1) (d a : BitVec 6) (i : BitVec 12) (s : State) : Out :=
  .next (s.result d fun st => st.getX a &&& sext i)
def execOri (_ : BitVec 1) (d a : BitVec 6) (i : BitVec 12) (s : State) : Out :=
  .next (s.result d fun st => st.getX a ||| sext i)
def execXori (_ : BitVec 1) (d a : BitVec 6) (i : BitVec 12) (s : State) : Out :=
  .next (s.result d fun st => st.getX a ^^^ sext i)
def execShli (_ : BitVec 1) (d a h : BitVec 6) (s : State) : Out := .next (s.result d fun st => st.getX a <<< h.toNat)
def execShri (_ : BitVec 1) (d a h : BitVec 6) (s : State) : Out := .next (s.result d fun st => st.getX a >>> h.toNat)
def execSrai (_ : BitVec 1) (d a h : BitVec 6) (s : State) : Out :=
  .next (s.result d fun st => (st.getX a).sshiftRight h.toNat)
def execLui (_ : BitVec 1) (d : BitVec 6) (i : BitVec 18) (s : State) : Out :=
  .next (s.result d fun _ => (i.setWidth 64 : X) <<< 12)

/-! Compares, predicates, selection (R158 to R160) -/

def execCmp (_ : BitVec 1) (p : BitVec 7) (a b : BitVec 6) (c : BitVec 3) (s : State) : Out :=
  .next (s.resultP p fun st => intCond c (st.getX a) (st.getX b))
def execCmpi (_ : BitVec 1) (p : BitVec 7) (a i : BitVec 6) (c : BitVec 3) (s : State) : Out :=
  .next (s.resultP p fun st => intCond c (st.getX a) (sext i))
def execPlog (_ : BitVec 1) (d a b : BitVec 7) (f : BitVec 3) (s : State) : Out :=
  .next (s.resultP d fun st => logFn f (st.getP a) (st.getP b))
def execSel (_ : BitVec 1) (d a b p : BitVec 6) (s : State) : Out :=
  .next (s.result d fun st => if st.getP (p.setWidth 7) then st.getX a else st.getX b)

/-! Branches and calls (R161 to R164, R168) -/

def execBr (_ : BitVec 1) (o : BitVec 24) (s : State) : Out :=
  .next (s.mapStream fun u st => st.jump (target u st.pc o))
/-- `n` is the sense: the branch is taken when p equals it (R161). -/
def execBrp (_ : BitVec 1) (p : BitVec 7) (n : BitVec 1) (o : BitVec 16) (s : State) : Out :=
  .next (s.mapStream fun u st => if st.getP p = decide (n = 1) then st.jump (target u st.pc o) else st.advance u)
def execCall (_ : BitVec 1) (o : BitVec 24) (s : State) : Out :=
  .next (s.mapStream fun u st => (st.setX 31 (st.pc + BitVec.ofNat 64 u)).jump (target u st.pc o))
/-- A transfer to a register's value, which must be aligned to the issue unit (R163). -/
def State.jumpTo (s : State) (a : X) : Out :=
  if a.toNat % (selSize s.sel) ≠ 0 then .next (s.raiseTrap ⟨0x06, a.toNat⟩) else .next (s.mapStream fun _ st => st.jump a)
def execJr (_ : BitVec 1) (a : BitVec 6) (s : State) : Out := s.jumpTo (s.stream.getX a)
def execRet (_ : BitVec 1) (s : State) : Out := s.jumpTo (s.stream.getX 31)

/-! Loops (R165, R166, R169) -/

/-- CheckNesting of R166 for a LOOP at the stream's PC. -/
def Stream.nestBad (st : Stream) (l : Nat) (top fin : X) : Bool :=
  (st.lvl l).act || (decide (0 < l) && (!(st.lvl (l - 1)).act ||
    !(st.inBody (l - 1) st.pc && st.inBody (l - 1) top && st.inBody (l - 1) fin)))

/-- LOOP and LOOPX at level `l` over `len` units with count `n` (R165). -/
def State.enterLoop (s : State) (x : Bool) (l len n : Nat) : Out :=
  let u := (selSize s.sel)
  let st := s.stream
  let top := st.pc + BitVec.ofNat 64 u
  let fin := st.pc + BitVec.ofNat 64 (len * u)
  if 2 ^ 32 ≤ n then .next (s.raiseTrap ⟨0x07, n⟩)
  else if st.nestBad l top fin then .next (s.raiseTrap ⟨0x08, l⟩)
  else if n = 0 ∧ x = false then
    .next (s.mapStream fun u st => (st.setLvl l { st.lvl l with lc := 0 }).loopBack u fin 3)
  else .next (s.mapStream fun _ st => { st.setLvl l ⟨true, top, fin, n, 0⟩ with pc := top })

def execLoopImm (_ : BitVec 1) (l : BitVec 2) (n : BitVec 13) (e : BitVec 8) (s : State) : Out :=
  s.enterLoop false l.toNat (e.toNat + 1) n.toNat
def execLoopReg (_ : BitVec 1) (l : BitVec 2) (r : BitVec 6) (e : BitVec 8) (s : State) : Out :=
  s.enterLoop false l.toNat (e.toNat + 1) (s.stream.getX r).toNat
def execLoopxImm (_ : BitVec 1) (l : BitVec 2) (n : BitVec 13) (e : BitVec 8) (s : State) : Out :=
  s.enterLoop true l.toNat (e.toNat + 1) n.toNat
def execLoopxReg (_ : BitVec 1) (l : BitVec 2) (r : BitVec 6) (e : BitVec 8) (s : State) : Out :=
  s.enterLoop true l.toNat (e.toNat + 1) (s.stream.getX r).toNat

/-- LBRK (R169). -/
def execLbrk (_ : BitVec 1) (p : BitVec 7) (n : BitVec 1) (l : BitVec 2) (s : State) : Out :=
  if s.stream.getP p = decide (n = 1) then
    if (s.stream.lvl l.toNat).act then
      .next (s.mapStream fun u st => (st.clearFrom l.toNat).loopBack u (st.lvl l.toNat).fin 3)
    else .next (s.raiseTrap ⟨0x08, l.toNat⟩)
  else .next s.advance

/-! The repeat prefix (R171 to R173) -/

/-- REP is the last unit of an active loop body (R173). -/
def Stream.atLoopEnd (st : Stream) : Bool :=
  (List.range 3).any fun l => (st.lvl l).act && decide ((st.lvl l).fin = st.pc)

/-- R173: REP may not repeat the word that stands next. A word that fails its own checks is left to fail when it issues. -/
def State.repRefused (s : State) (f : Fetched) (c : BitVec 6) (sd sa sb : BitVec 3) : Bool :=
  match decodeWord (selKind s.sel) (s.accCount s.selUnit) f.word with
  | .error _ => false
  | .ok i => s.stream.atLoopEnd || f.sync || !repAllowed (selKind s.sel) (s.accCount s.selUnit) f.word i sd sa sb c.toNat

/-- REP: the next word is fetched and checked first; a failure of its own is reported at it, but a page fault on its fetch stops
the stream at the REP, which issues again (R171, R173; log 92). -/
def execRep (_ : BitVec 1) (c : BitVec 6) (d a b : BitVec 3) (s : State) : Out :=
  let go := fun (t : State) => t.mapStream fun u st => { st with pc := st.pc + BitVec.ofNat 64 u, rep := some ⟨0, c, d, a, b⟩ }
  let va := s.stream.pc + BitVec.ofNat 64 (selSize s.sel)
  match s.fetchUnit s.sel va with
  | .error t => if t.cls = 1 then .next (s.raiseTrap t) else .next (go s)
  | .ok (ws, pa) =>
    let s1 := s.noteFetch s.selUnit (selSize s.sel) pa
    match pickWord s.sel va.toNat ws pa with
    | .error _ => .next (go s1)
    | .ok f => if s.repRefused f c d a b then .next (s1.raiseTrap s.illegal) else .next (go s1)

/-! Special registers (R175, R176) -/

def execMfs (_ : BitVec 1) (d : BitVec 6) (i : BitVec 12) (s : State) : Out :=
  match s.readSreg i.toNat with
  | some v => .next (s.result d fun _ => v)
  | none => .next (s.raiseTrap s.illegal)
def execMts (_ : BitVec 1) (a : BitVec 6) (i : BitVec 12) (s : State) : Out :=
  match s.writeSreg i.toNat (s.stream.getX a) with
  | some t => .next t.advance
  | none => .next (s.raiseTrap s.illegal)

/-! HALT (R179, R180) -/

def VStatus.off : VStatus → Bool
  | .parked => true
  | .halted => true
  | _ => false
/-- With voice `j` parked, and the parks and unparks of its bundle made, every voice of the unit is parked (R116, R415). -/
def State.allOff (s : State) (u j : Nat) : Bool :=
  (List.range (s.unit u).place.voices).all fun k =>
    (decide (k = j) || s.parks.contains k || (s.voice u k).status.off) && !s.unparks.contains k
/-- A draining context with no command left is idle, in an engine cycle that ends at DCC `t` (R124, R180, R411). -/
def Ctx.settle (c : Ctx) (t : Nat) : Ctx :=
  if c.status = .draining ∧ c.queue = [] ∧ c.flight = [] then { c with status := .idle, idleAt := t } else c
/-- The end of an engine's cycle in progress on the core of a unit. -/
def State.engEnd (s : State) (u : Nat) (e : Engine) : Nat := (s.clkOf (.ctx u e 0)).ends (s.dcc (s.unit u).place.die)

/-- A voice parks or halts: the sync-stall counts of its team start again, and a sync bundle that waits issues in the next control
cycle at the earliest (R115). -/
def State.restartStall (s : State) (u : Nat) : State :=
  { s with voices := s.voices.map fun (v : Nat × Voice) =>
      if v.1 / 4 = u then
        match v.2.status with
        | .waiting .sync c => (v.1, { v.2 with stall := s.unitCyc u - c, nextAt := max v.2.nextAt s.cycleEnd })
        | _ => v
      else v }
/-- Voice `j` of the unit is off by a PARK or HALT of the control cycle in progress, or is voice `k`, which parks now (R415). -/
def State.parksNow (s : State) (u k j : Nat) : Bool :=
  decide (j = k) || ((s.voice u j).status.off && (s.voice u j).parkAt.any fun p => decide (s.dcc (s.unit u).place.die < p.1))
/-- Voice `j`'s PARK or HALT would leave every voice off: no park of its control cycle takes place, and the lowest of its parking
voices reports (R116, R415). -/
def State.allParked (s : State) (u j : Nat) : Out :=
  let ks := (List.range (s.unit u).place.voices).filter fun k => s.parksNow u j k
  let s1 := ks.foldl (fun t k => match (t.voice u k).parkAt with
    | some p => if k = j then t else t.setVoice u k { t.voice u k with st := p.2, status := .running, parkAt := none }
    | none => t) s
  .next (({ s1 with sel := .voice u (ks.headD j) } : State).raiseTrap ⟨0x05, 0⟩)
/-- Voice `j` is off from here on: `v` is it, and `st` its stream before (R115, R179, R415). -/
def State.turnOff (s : State) (u j : Nat) (v : Voice) (st : VStatus) : State :=
  (s.setVoice u j { v with status := st, parkAt := some (s.cycleEnd, (s.voice u j).st) }).restartStall u
def execHalt (_ : BitVec 1) (s : State) : Out :=
  match s.sel with
  | .voice u j => if s.allOff u j then s.allParked u j else .next (s.turnOff u j (s.voice u j) .halted)
  | .ctx u e j => .next (s.setCtx u e j (({ s.ctx u e j with status := .draining } : Ctx).settle (s.engEnd u e)))

end Sys2Proof.Machine
end

