-- ==== Sys2Proof/Machine/Control.lean ====
section
/-! DEFINITION. Control-core instructions (08): loads and stores, atomics, scalar floating point and bit operations. LDW
stands with the weight tier. -/
namespace Sys2Proof.Machine
open Sys2Proof

/-! Memory access (R187) -/

/-- Bytes of a width code (R187). -/
def widthOf (w : BitVec 2) : Nat := 2 ^ w.toNat
/-- The effective address of format PM (R187). -/
def effAddr (st : Stream) (a : BitVec 6) (w : BitVec 2) (o : BitVec 9) : X :=
  st.getX a + sext o * BitVec.ofNat 64 (widthOf w)
/-- Steps 1 and 2 of R187 for global memory. -/
def globalBad (ea size : Nat) : Option Trap :=
  if ea % size ≠ 0 then some ⟨0x09, ea⟩ else if 2 ^ 57 ≤ ea then some ⟨0x0A, ea⟩ else none
/-- Steps 1 to 4 of R187 for LD, ST, AMO, AMR and the operands checked as they are (R393); an address in an aperture is a
protection fault (R229). -/
def State.checkGlobal (s : State) (u : Nat) (acc : Access) (ea size : Nat) : Except Trap Leaf :=
  match globalBad ea size with
  | some t => .error t
  | none =>
    if ((s.unitLaunch u).aperture ea).isSome then .error ⟨0x0B, ea⟩
    else match s.translate u acc ea with
      | .error t => .error t
      | .ok l => if l.ww then .error ⟨0x0D, ea⟩ else .ok l
/-- Extension of a loaded value of `n` bytes (R188). -/
def extend (x : BitVec 1) (n : Nat) (v : Nat) : X := if x = 1 then BitVec.ofInt 64 (sint (8 * n) v) else BitVec.ofNat 64 v

/-- An LD that an aperture serves: the value, with its tile formed at the first read (R229, R230). Forming it uses no removed
translation (R218): a tile whose entry is invalid is looked up again as a voice's read. DEDUCED, log 69. -/
def State.aperLoad (s : State) (u ea size : Nat) (k : Nat) (t : Tensor) : Except Trap (State × Nat) :=
  let tile := (ea - t.aper) / 4096
  let read := fun (ws : List (BitVec 32)) => leAt (ws.flatMap fun w => leBytes w.toNat 4) ((ea - t.aper) % 4096) size
  match t.snap.find tile with
  | some ws => .ok (s, read ws)
  | none =>
    match s.lookTiles u k .read (t.aperTiles tile) [] with
    | .error e => .error e
    | .ok (s0, _) =>
      let t0 := s0.tensorOf u k
      let f := s0.formTile u t0 tile
      let l := s0.unitLaunch u
      let s1 := s0.setLaunch (s0.unit u).place.launch
        { l with tensors := l.tensors.set k { t0 with snap := t0.snap.put tile f.1 } }
      .ok (s1.raise f.2, read f.1)

/-- LD (R187, R188, R229, R375, R381). -/
def execLd (_ : BitVec 1) (d a : BitVec 6) (w : BitVec 2) (x : BitVec 1) (o : BitVec 9) (s : State) : Out :=
  let u := s.selUnit
  let ea := (effAddr s.stream a w o).toNat
  let size := widthOf w
  match globalBad ea size, (s.unitLaunch u).aperture ea with
  | none, some (k, t) =>
    match s.aperLoad u ea size k t with
    | .error e => .next (s.raiseTrap e)
    | .ok r => .next (r.1.result d fun _ => extend x size r.2)
  | _, _ =>
    match s.checkGlobal u .read ea size with
    | .error t => .next (s.raiseTrap t)
    | .ok l =>
      if s.versionFull u l.pa then .next (s.raiseTrap ⟨0x87, ea⟩)
      else .next ((s.noteReads u l.pa size).result d fun _ => extend x size (leNat (s.readBytes u ea l.pa size)))

/-- Stores of a version stand in the order of their control cycles, those of one cycle in voice order (R376). -/
def insertStore (w : SWrite) : List SWrite → List SWrite
  | [] => [w]
  | k :: ks => if w.seenAt < k.seenAt ∨ (w.seenAt = k.seenAt ∧ w.voice < k.voice) then w :: k :: ks else k :: insertStore w ks
/-- The bytes of a store of voice `j` join the open version with the scope STSC holds (R189, R376). -/
def State.storeBytes (s : State) (u j pa : Nat) (bs : List Byte) : State :=
  s.setUnit u { s.unit u with
    stores := (bs.zipIdx.map fun p => (⟨pa + p.2, p.1, s.stscNow.toNat, s.cycleEnd, j⟩ : SWrite)).foldl
      (fun l w => insertStore w l) (s.unit u).stores }
def State.selVoice (s : State) : Nat :=
  match s.sel with
  | .voice _ j => j
  | .ctx _ _ j => j

/-- ST (R187, R189, R381). -/
def execSt (_ : BitVec 1) (d a : BitVec 6) (w : BitVec 2) (o : BitVec 9) (s : State) : Out :=
  let u := s.selUnit
  let ea := (effAddr s.stream a w o).toNat
  match s.checkGlobal u .write ea (widthOf w) with
  | .error t => .next (s.raiseTrap t)
  | .ok l =>
    if s.versionFull u l.pa then .next (s.raiseTrap ⟨0x87, ea⟩)
    else .next (s.storeBytes u s.selVoice l.pa (leBytes (s.stream.getX d).toNat (widthOf w))).advance

/-- Steps 1, 2 and 5 of R187 for the scratchpad. -/
def State.spBad (s : State) (u ea size align : Nat) : Option Trap :=
  if ea % align ≠ 0 then some ⟨0x09, ea⟩
  else if 2 ^ 21 ≤ ea then some ⟨0x0A, ea⟩
  else if (s.unit u).place.holds ea size = false then some ⟨0x10, ea⟩
  else none

/-- LDS (R187, R190, R191, R225). -/
def execLds (_ : BitVec 1) (d a : BitVec 6) (w : BitVec 2) (x : BitVec 1) (o : BitVec 9) (s : State) : Out :=
  let u := s.selUnit
  let ea := (effAddr s.stream a w o).toNat
  let size := widthOf w
  match s.spBad u ea size size with
  | some t => .next (s.raiseTrap t)
  | none => .next ((s.touch u 0 false ea size).result d fun _ => extend x size (leNat (s.ldsBytes u ea size)))

/-- STS (R187, R190, R191, R225). -/
def execSts (_ : BitVec 1) (d a : BitVec 6) (w : BitVec 2) (o : BitVec 9) (s : State) : Out :=
  let u := s.selUnit
  let ea := (effAddr s.stream a w o).toNat
  let size := widthOf w
  match s.spBad u ea size size with
  | some t => .next (s.raiseTrap t)
  | none => .next ((s.touch u 0 true ea size).stsBytes u s.selVoice ea (leBytes (s.stream.getX d).toNat size)).advance

/-! Atomics (R194 to R196) -/

/-- The open version holds a store to one of `n` bytes at `pa` (step 6 of R187). -/
def State.overSpan (s : State) (u pa n : Nat) : Bool :=
  (s.unit u).stores.any fun w => decide (pa ≤ w.pa) && decide (w.pa < pa + n)
/-- Steps 1 to 6 of R187 for AMO, AMR and the operands checked as AMR (R393). -/
def State.checkAtomic (s : State) (u ea size align : Nat) : Except Trap Leaf :=
  if ea % align ≠ 0 then .error ⟨0x09, ea⟩
  else match s.checkGlobal u .atomic ea 1 with
    | .error t => .error t
    | .ok l => if s.overSpan u l.pa size then .error ⟨0x11, ea⟩ else .ok l
/-- `n` bytes at their home (R377). -/
def State.latestNat (s : State) (u pa n : Nat) : Nat := leNat ((List.range n).map fun i => s.latest (s.unitKey u) (pa + i))
/-- `n` bytes at `va`, physical `pa`, as an atomic of the job reads them at their home (R43, R377). -/
def State.homeNat (s : State) (u va pa n : Nat) : Nat :=
  leNat ((List.range n).map fun i => if s.inWork u (va + i) (pa + i) then s.freeByte (pa + i) else s.latest (s.unitKey u) (pa + i))

/-- The updates of AMO on `n`-bit values (R194). -/
def amoFn {n : Nat} (f : BitVec 3) (old x : BitVec n) : BitVec n :=
  match f.toNat with
  | 0 => old + x
  | 1 => if x.slt old then x else old
  | 2 => if old.slt x then x else old
  | 3 => old &&& x
  | 4 => old ||| x
  | 5 => old ^^^ x
  | 6 => if x.ult old then x else old
  | _ => if old.ult x then x else old

/-- AMO (R194, R383): performed when it issues. -/
def execAmo (_ w : BitVec 1) (a b : BitVec 6) (f c : BitVec 3) (s : State) : Out :=
  let u := s.selUnit
  let ea := (s.stream.getX a).toNat
  let n := if w = 1 then 8 else 4
  match s.checkAtomic u ea n n with
  | .error t => .next (s.raiseTrap t)
  | .ok l =>
    let old := s.homeNat u ea l.pa n
    let v := if w = 1 then (amoFn f (BitVec.ofNat 64 old) (s.stream.getX b)).toNat
      else (amoFn f (BitVec.ofNat 32 old) ((s.stream.getX b).setWidth 32)).toNat
    .next (s.atomicWrite u c.toNat l.pa (leBytes v n)).advance

/-- AMR (R195): the width and the new value of a sub-code, none where a compare fails. -/
def amrFn (f : BitVec 3) (old cmp x : Nat) : Option Nat :=
  match f.toNat with
  | 0 => some (x % 2 ^ 32)
  | 1 => some x
  | 2 => if old = cmp % 2 ^ 32 then some (x % 2 ^ 32) else none
  | 3 => if old = cmp then some x else none
  | 4 => some ((old + x) % 2 ^ 32)
  | _ => some ((old + x) % 2 ^ 64)

/-- A register whose data have not arrived (R186). -/
def State.setBusy (s : State) (d : BitVec 6) : State :=
  match s.sel with
  | .voice u j => if d = 0 then s else s.setVoice u j { s.voice u j with busy := d.toNat :: (s.voice u j).busy }
  | .ctx _ _ _ => s

/-- AMR (R195, R377): the old value reaches its register when its data arrive (R186). An AMR whose compare fails writes nothing,
and its line's watches fire as at any atomic there (R402). -/
def execAmr (_ : BitVec 1) (d a b : BitVec 6) (f c : BitVec 3) (s : State) : Out :=
  let u := s.selUnit
  let ea := (s.stream.getX a).toNat
  let n := if f.toNat % 2 = 1 then 8 else 4
  match s.checkAtomic u ea n n with
  | .error t => .next (s.raiseTrap t)
  | .ok l =>
    let old := s.homeNat u ea l.pa n
    let s1 := match amrFn f old (s.stream.getX d).toNat (s.stream.getX b).toNat with
      | some v => s.atomicWrite u c.toNat l.pa (leBytes v n)
      | none => s.fire (fun _ _ => true) [l.pa]
    .next ((s1.result d fun _ => BitVec.ofNat 64 old).setBusy d)

/-! Scalar floating point (R197 to R204) -/

/-- A scalar floating-point result and its flags (R73, R181). -/
def State.fpResult (s : State) (d : BitVec 6) (r : Nat × X) : State :=
  (s.raise r.2).result d fun _ => BitVec.ofNat 64 r.1

def execFadd (_ : BitVec 1) (d a b : BitVec 6) (r : BitVec 2) (p : BitVec 1) (s : State) : Out :=
  .next (s.fpResult d (fpAdd (precFmt p) r.toNat (precBits p (s.stream.getX a)) (precBits p (s.stream.getX b))))
def execFsub (_ : BitVec 1) (d a b : BitVec 6) (r : BitVec 2) (p : BitVec 1) (s : State) : Out :=
  .next (s.fpResult d (fpSub (precFmt p) r.toNat (precBits p (s.stream.getX a)) (precBits p (s.stream.getX b))))
def execFmul (_ : BitVec 1) (d a b : BitVec 6) (r : BitVec 2) (p : BitVec 1) (s : State) : Out :=
  .next (s.fpResult d (fpMul (precFmt p) r.toNat (precBits p (s.stream.getX a)) (precBits p (s.stream.getX b))))
/-- FFMA: xa × xb + xd (R197). -/
def execFfma (_ : BitVec 1) (d a b : BitVec 6) (r : BitVec 2) (p : BitVec 1) (s : State) : Out :=
  .next (s.fpResult d (fpFma (precFmt p) r.toNat (precBits p (s.stream.getX a)) (precBits p (s.stream.getX b))
    (precBits p (s.stream.getX d))))
def execFmin (_ : BitVec 1) (d a b : BitVec 6) (p : BitVec 1) (s : State) : Out :=
  .next (s.fpResult d (fpMinMax (precFmt p) false (precBits p (s.stream.getX a)) (precBits p (s.stream.getX b))))
def execFmax (_ : BitVec 1) (d a b : BitVec 6) (p : BitVec 1) (s : State) : Out :=
  .next (s.fpResult d (fpMinMax (precFmt p) true (precBits p (s.stream.getX a)) (precBits p (s.stream.getX b))))
/-- FSGN (R199): mode 0 .cpy, 1 .neg, 2 .xor. -/
def execFsgn (_ : BitVec 1) (d a b : BitVec 6) (m : BitVec 2) (p : BitVec 1) (s : State) : Out :=
  let f := precFmt p
  let x := precBits p (s.stream.getX a)
  let sb := fpSign f (precBits p (s.stream.getX b))
  .next (s.fpResult d (fpSetSign f (match m.toNat with
    | 0 => sb
    | 1 => !sb
    | _ => fpSign f x != sb) x))
def execFcmp (_ : BitVec 1) (d : BitVec 7) (a b : BitVec 6) (c : BitVec 3) (p : BitVec 1) (s : State) : Out :=
  let r := fpCmp (precFmt p) c.toNat (precBits p (s.stream.getX a)) (precBits p (s.stream.getX b))
  .next ((s.raise r.2).resultP d fun _ => r.1)
/-- FCVT (R201): `r` the mode, `t` SAT, `f` the source type, `g` the destination type. -/
def execFcvt (_ : BitVec 1) (d a : BitVec 6) (r : BitVec 2) (t : BitVec 1) (f g : BitVec 3) (s : State) : Out :=
  let v := cvtSource f (s.stream.getX a)
  let c := cvtDest g r.toNat (decide (t = 1)) v
  .next ((s.raise (c.2 ||| if isSig v then flNV else 0)).result d fun _ => c.1)
def execFsqs (_ : BitVec 1) (d a : BitVec 6) (s : State) : Out :=
  .next (s.fpResult d (seedRsqrt ((s.stream.getX a).toNat % 2 ^ 32)))
def execFrcs (_ : BitVec 1) (d a : BitVec 6) (s : State) : Out :=
  .next (s.fpResult d (seedRecip ((s.stream.getX a).toNat % 2 ^ 32)))
def execFcls (_ : BitVec 1) (d a : BitVec 6) (p : BitVec 1) (s : State) : Out :=
  .next (s.result d fun st => BitVec.ofNat 64 (2 ^ fpClass (precFmt p) (precBits p (st.getX a))))

/-! Bit operations (R205) -/

def popCount (v : X) : Nat := ((List.range 64).filter fun i => v.getLsbD i).length
def leadZeros (v : X) : Nat := if v = 0 then 64 else 63 - Nat.log2 v.toNat
def bitExtract (v : X) (pos w : Nat) : X := BitVec.ofNat 64 (v.toNat / 2 ^ pos % 2 ^ w)
def execPopc (_ : BitVec 1) (d a : BitVec 6) (s : State) : Out :=
  .next (s.result d fun st => BitVec.ofNat 64 (popCount (st.getX a)))
def execClz (_ : BitVec 1) (d a : BitVec 6) (s : State) : Out :=
  .next (s.result d fun st => BitVec.ofNat 64 (leadZeros (st.getX a)))
/-- BEXT: a field of `w` + 1 bits at xb<5:0>. -/
def execBext (_ : BitVec 1) (d a b w : BitVec 6) (s : State) : Out :=
  .next (s.result d fun st => bitExtract (st.getX a) (shiftAmt (st.getX b)) (w.toNat + 1))

end Sys2Proof.Machine
end

