-- ==== Sys2Proof/Machine/Work.lean ====
section
/-! DEFINITION. Units, stage queues and completion counters: what ends a unit, serves a queue, completes or cancels a level
(R27 to R30, R89 to R91, R408, R409, R412, R416, R458, R459). -/
namespace Sys2Proof.Machine
open Sys2Proof

/-! Commands of a context (R124 to R126) -/

/-- Journal entries a command takes (R126). -/
def Cmd.journal (c : Cmd) : Nat := 1 + cdiv c.regs.length 2
/-- Journal entries in use: of commands not complete, and of complete ones above the completion number (R126). -/
def Ctx.journalUsed (c : Ctx) : Nat :=
  ((c.queue ++ c.flight).map Cmd.journal).sum + (c.set.map (·.2)).sum
/-- The completion number moves past every completed command next to it (R126). -/
def Ctx.collapse (c : Ctx) : Nat → Ctx
  | 0 => c
  | n + 1 =>
    if (c.set.find (c.done + 1)).isSome then ({ c with done := c.done + 1, set := c.set.del (c.done + 1) }).collapse n else c
/-- Command `cn`, which took `j` journal entries, is complete (R126, R349). -/
def Ctx.complete (c : Ctx) (cn j : Nat) : Ctx :=
  ({ c with set := c.set.put cn j }).collapse (c.set.length + 1)
/-- What CPRQ reads of a command (R366). -/
def Cmd.report (q : Cmd) (done : Bool) : Nat :=
  (if done then 2 ^ 63 else 0) + (if q.missed then 2 ^ 62 else 0) + q.status * 2 ^ 58 + min (2 ^ 48 - 1) (q.landed.map (·.2)).sum
/-- Command `q` is complete: CPRQ reads of it what it reads of the last sixteen (R126, R366). -/
def Ctx.finish (c : Ctx) (q : Cmd) : Ctx :=
  ({ c with last := ((q.cn, q.report true) :: c.last).take 16 }).complete q.cn q.journal
/-- The head command leaves its queue, or loses its readiness, in cycle `n` of its engine with no issue: the boost stands (R105). -/
def Ctx.unready (c : Ctx) (n : Nat) : Ctx := if c.since.isSome then { c with gap := n + 1 } else c
/-- Unissued commands are discarded as complete with no effect, a pending MHOLD is cleared, decoding stops, in cycle `n` of the engine,
which ends at DCC `t` (R105, R412). -/
def Ctx.kill (c : Ctx) (n t : Nat) : Ctx :=
  let c0 := if c.queue = [] then c else c.unready n
  let k := c.queue.foldl Ctx.finish { c0 with queue := [] }
  ({ k with hold := none, stop := none, status := (if c.status = CtxStatus.idle then CtxStatus.idle else CtxStatus.draining) }).settle t

def engines : List Engine := [.matrix, .vector, .copy]
/-- Every context of a unit. -/
def State.ctxList (s : State) (u : Nat) : List Ctx :=
  engines.flatMap fun e => (List.range (s.unit u).place.voices).map fun j => s.ctx u e j
/-- A context has arrived in the control cycle in progress: it was idle before that cycle began (R411). -/
def State.ctxHere (s : State) (u : Nat) (c : Ctx) : Bool :=
  decide (c.status = .idle) && decide (c.idleAt ≤ (s.unitCore u).ctl.start (s.dcc (s.unit u).place.die))
/-- Every context of the unit has arrived (R411). -/
def State.arrived (s : State) (u : Nat) : Bool := (s.ctxList u).all fun c => s.ctxHere u c
/-- No command of the unit is issued and incomplete. -/
def State.drained (s : State) (u : Nat) : Bool := (s.ctxList u).all fun c => c.flight.isEmpty
def Instr.isWprg : Instr → Bool
  | .wprg _ _ _ _ _ _ => true
  | _ => false
/-- POPEN of a region falls when no WPRG to it that has begun is left, those that wait for replay included (R248). -/
def State.closeRegion (s : State) (k : Nat) : State :=
  if s.ctxs.any fun c => (c.2.queue ++ c.2.flight).any fun q => Instr.isWprg q.instr && decide (q.wbank.map (·.1) = some k) then s
  else match s.regions.find k with
    | some r => { s with regions := s.regions.put k { r with popen := false } }
    | none => s
/-- POPEN of every region falls where it should. -/
def State.closeRegions (s : State) : State := (s.regions.filter fun c => c.2.popen).foldl (fun t c => t.closeRegion c.1) s
/-- Every context of unit `u` is stopped as by EKILL. -/
def State.killAll (s : State) (u : Nat) : State :=
  ({ s with ctxs := s.ctxs.map fun c => if c.1 / 12 = u then (c.1, c.2.kill (s.eclk (s.unit u).place.die (s.home u) (engineOf c.1)) (s.engEnd u (engineOf c.1))) else c } : State).closeRegions

/-! Stage queues (R27 to R30, R408) -/

def TeamUnit.live (t : TeamUnit) : Bool := decide (t.status ≠ .ended)
/-- Live units of a stage of launch `l` (R29). -/
def State.stageUnits (s : State) (l stg : Nat) : List (Nat × TeamUnit) :=
  s.units.filter fun c => c.2.live && decide (c.2.place.launch = l) && decide (c.2.place.stage = stg)
/-- Stage queue `q` of launch `l` is open: it has not closed, and a stage that pushes it has a live unit, or one yet to be created
(R29). -/
def State.queueOpen (s : State) (l q : Nat) : Bool :=
  !(((s.launch l).queues[q]?).getD {}).closed && (s.launch l).stages.zipIdx.any fun p => decide (bits p.1.pushm q 1 = 1) &&
    (!(s.stageUnits l p.2).isEmpty || p.1.pend || (s.launch l).retries.any fun r => decide (r.stage = p.2))
def State.queue (s : State) (l q : Nat) : Queue := ((s.launch l).queues[q]?).getD {}
def State.setQueue (s : State) (l q : Nat) (x : Queue) : State :=
  s.setLaunch l { s.launch l with queues := (s.launch l).queues.set q x }
/-- The voice's waiting instruction completes: `v` goes to `d`, and the voice moves on. -/
def Voice.complete (w : Voice) (d : BitVec 6) (v : X) : Voice :=
  { w with st := (w.st.setX d v).advance 16, status := w.status.wake, met := false, won := none }
/-- A waiting instruction of voice `j` completes; of a team that is swapped out, once its frame has been read (R394, R453). -/
def State.finishWait (s : State) (u j : Nat) (d : BitVec 6) (v : X) : State :=
  let w := s.voice u j
  s.setVoice u j (if (s.unit u).away then { w with status := w.status.wake, won := some (d, v) } else w.complete d v)
/-- Waiting pops and pushes of a queue are served in order of arrival, as far as its entries and room go; pops of a closed
empty queue get the closed status (R408). -/
def State.serve (s : State) (l q : Nat) : Nat → State
  | 0 => s
  | n + 1 =>
    let x := s.queue l q
    match x.poppers, x.items, x.pushers with
    | w :: ws, it :: its, _ =>
      let s1 := s.setQueue l q { x with items := its, poppers := ws }
      ((((s1.touch w.unit 0 true w.addr it.length).stsBytes w.unit w.voice w.addr it).keepLate w.unit
        (it.zipIdx.map fun b => (w.addr + b.2, b.1))).finishWait w.unit w.voice w.d 0).serve l q n
    | [], its, w :: ws =>
      if its.length < x.qent then
        ((s.setQueue l q { x with items := its ++ [w.item], pushers := ws }).finishWait w.unit w.voice w.d 0).serve l q n
      else s
    | w :: ws, [], p :: ps =>
      ((s.setQueue l q { x with items := [p.item], poppers := w :: ws, pushers := ps }).finishWait p.unit p.voice p.d 0).serve l q n
    | w :: ws, [], [] =>
      if s.queueOpen l q then s
      else ((s.setQueue l q { x with poppers := ws }).finishWait w.unit w.voice w.d 1).serve l q n
    | [], _, [] => s
def State.serveQueue (s : State) (l q : Nat) : State :=
  s.serve l q (2 * ((s.queue l q).poppers.length + (s.queue l q).pushers.length) + 1)
/-- A queue that is no longer open closes for good (R29). -/
def State.closeQueue (s : State) (l q : Nat) : State :=
  if s.queueOpen l q then s else s.setQueue l q { s.queue l q with closed := true }
/-- Queues that are no longer open close, and answer their waiting pops (R29, R408). -/
def State.serveAll (s : State) (l : Nat) : State :=
  (List.range (s.launch l).queues.length).foldl (fun t q => (t.closeQueue l q).serveQueue l q) s

/-! Counters (R89, R90, R459) -/

/-- A counter leaves the open state once (R90). -/
def Counter.close (c : Counter) (st : CState) (when : Nat) : Counter :=
  if c.state = .opened then { c with state := st, when := when } else c
def Counter.isOpen (c : Counter) : Bool := decide (c.state = .opened)

/-- Entries left in the launch's queues are discarded and counted (R30, R91). -/
def Launch.discard (l : Launch) : Launch :=
  { l with
    count := { l.count with qdisc := l.count.qdisc + (l.queues.map fun q => q.items.length).sum }
    queues := l.queues.map fun q => { q with items := [], pushers := [], poppers := [] } }
def gkey (job n : Nat) : Nat := job * 65536 + n
/-- What befalls a launch is noted in the counters of its graph, phase and job (R92). -/
def State.noteAbove (s : State) (x : Launch) (f : Counter → Counter) : State :=
  let g := gkey x.job x.graph
  match s.graphs.find g with
  | none => s
  | some y =>
    let p := gkey x.job y.phase
    { s with
      graphs := s.graphs.put g { y with count := f y.count }
      phases := match s.phases.find p with
        | some z => s.phases.put p { z with count := f z.count }
        | none => s.phases
      hjobs := match s.hjobs.find x.job with
        | some h => s.hjobs.put x.job { h with count := f h.count }
        | none => s.hjobs }
/-- Entries discarded are counted (R92). -/
def Counter.lost (n : Nat) (c : Counter) : Counter := { c with qdisc := c.qdisc + n }
/-- The first unit that fails past RETRY sets FCAUSE and FUNIT (R92, R458). -/
def Counter.blame (cause unitid : Nat) (c : Counter) : Counter :=
  if c.fcause = 0 then { c with fcause := cause % 2 ^ 32, funit := unitid } else c
/-- The launch's counter becomes terminal (R90). -/
def State.closeLaunch (s : State) (l : Nat) (st : CState) : State :=
  let x := s.launch l
  if x.count.isOpen then
    (s.noteAbove x (Counter.lost (x.queues.map fun q => q.items.length).sum)).setLaunch l
      { x.discard with count := x.discard.count.close st (s.dcc x.die) }
  else s
/-- OUT of a launch falls by `n` (R89). -/
def State.outLess (s : State) (l n : Nat) : State :=
  let x := s.launch l
  s.setLaunch l { x with count := { x.count with out := x.count.out - n } }
/-- OUT of a launch falls by one; at zero it is complete, unless it was cancelled or has failed (R89, R90, R459). -/
def State.outDown (s : State) (l : Nat) : State :=
  let x := s.launch l
  let s1 := s.outLess l 1
  if x.count.out - 1 = 0 ∧ x.count.cancel = false ∧ x.failed = false then s1.closeLaunch l .complete else s1
/-- The launch may have further units: it is admitted, and neither over, cancelled nor failed (R90, R91, R458). -/
def Launch.runs (x : Launch) : Bool := decide (x.status = .admitted) && x.count.isOpen && !x.count.cancel && !x.failed

/-- The unit's streams and commands are on its core. -/
def TeamUnit.onCore (t : TeamUnit) : Bool :=
  match t.status with
  | .resident => true
  | .stopping _ => true
  | .failing => t.started && !t.away
  | .cancelling => t.started && !t.away
  | _ => false

/-! Divisors (R8, R422, R428) -/

/-- The reset divisor of a domain: control, vector, copy, matrix (R8). -/
def resetDiv (dom : Nat) : Nat := [2, 3, 3, 4].getD dom 4
def Core.clk (c : Core) (dom : Nat) : Clk :=
  match dom with
  | 0 => c.ctl
  | 1 => c.vec
  | 2 => c.cpy
  | _ => c.mat
/-- The divisor a team asks of a domain: that of its CLKD in progress, the latest of several, else the one recorded, else the
reset divisor (R394, R422). -/
def State.divAsked (s : State) (u dom : Nat) : Nat :=
  (((List.range 4).filterMap fun j => match (s.voice u j).ask with
    | some (.clock k v c) => if k = dom then some (c, v) else none
    | _ => none).foldl (fun (a : Option (Nat × Nat)) x => match a with
      | some b => if x.1 < b.1 then some b else some x
      | none => some x) none).elim ((s.unit u).clkd.getD dom (resetDiv dom)) (·.2)
/-- The divisor that the requests of a core's resident teams give a domain (R422). -/
def State.wantDiv (s : State) (die p dom : Nat) : Nat :=
  let on_ := s.units.filter fun c => (c.2.onCore || c.2.asserted) && decide (c.2.place.die = die) && decide (s.home c.1 = p)
  if on_.isEmpty then resetDiv dom else (on_.map fun c => s.divAsked c.1 dom).foldl max 2
/-- A change of the largest request of a domain of a core is noted: it switches no earlier than 480 cycles from now (R428). -/
def State.noteClocks (s : State) (d p : Nat) : State :=
  (List.range 4).foldl (fun t dom =>
    let c := t.core d p
    if t.wantDiv d p dom ≠ (c.clk dom).div ∧ (c.switch.find dom).isNone = true then
      t.setCore d p { c with switch := c.switch.put dom (t.dcc d + 480) } else t) s

/-- The VA of a unit's save area (R450). -/
def State.saveArea (s : State) (u : Nat) : Nat :=
  let p := (s.unit u).place
  let l := s.unitLaunch u
  let a := fun (g : Stage) => 1 + g.scr + g.acc + l.vlog
  l.work + 65536 * (((l.stages.take p.stage).map fun g => g.umax * a g).sum + p.save * a (s.unitStage u))
/-- Bytes at a VA of the unit's job, at their physical addresses; pages that no longer translate are left out. -/
def State.placeVa (s : State) (u va : Nat) (bs : List Byte) : List (Nat × Byte) :=
  let p := (s.unit u).place
  (List.range (cdiv bs.length 4096)).flatMap fun k =>
    match s.walk p.die p.job (va + 4096 * k) with
    | .ok l => if l.ww then [] else (((bs.drop (4096 * k)).take 4096).zipIdx.map fun b => (l.pa + b.2, b.1))
    | .error _ => []
/-- FSTATE of a unit's frame: 0 when it is created, 3 when it has ended (R451). -/
def State.markFrame (s : State) (u fstate : Nat) : State := s.landSys (s.unitKey u) (s.placeVa u (s.saveArea u + 2) [BitVec.ofNat 8 fstate])

/-- A unit is over: its frame says so, and its resources, grant, watches, pins and waits are released (R416, R458). -/
def State.releaseUnit (s : State) (u : Nat) : State :=
  let t := s.unit u
  let s1 := ((s.killAll u).abandon u fun _ => true).setUnit u
    { t.grant 0 with status := .ended, stores := [], reads := [], yreq := none, breath := none, clkd := [], asserted := false, page := none, notes := [] }
  let s2 := { s1 with
    voices := s1.voices.map fun (v : Nat × Voice) =>
      if v.1 / 4 = u then (v.1, { v.2 with watch := none, ask := none, status := VStatus.halted }) else v
    ctxs := s1.ctxs.map fun (c : Nat × Ctx) => if c.1 / 12 = u then (c.1, { c.2 with pref := [] }) else c }
  (s2.markFrame u 3).noteClocks t.place.die (s.home u)
/-- A unit is over, and queues it leaves closed answer their waiting pops (R29). -/
def State.endUnit (s : State) (u : Nat) : State := (s.releaseUnit u).serveAll (s.unit u).place.launch

/-! Cancelling (R91) -/

/-- A unit of a cancelled launch stops: its open version and its unissued commands are discarded. -/
def State.cancelUnit (s : State) (u : Nat) : State :=
  let s1 := ((((s.freeze u).dropVersion u).killAll u).abandon u fun _ => true)
  s1.setUnit u { s1.unit u with status := .cancelling }
/-- Live units of a launch. -/
def State.launchUnits (s : State) (l : Nat) : List Nat :=
  (s.units.filter fun c => c.2.live && decide (c.2.place.launch = l)).map (·.1)
/-- A launch is cancelled: at once while it waits, else when its units have stopped (`CANCEL_COMPLETE`). -/
def State.cancelLaunch (s : State) (l : Nat) : State :=
  let x := s.launch l
  if x.count.isOpen = false ∨ x.count.cancel = true then s
  else
    let s1 := s.setLaunch l { x with
      count := { x.count with cancel := true, out := x.count.out - x.retries.length }, retries := []
      stages := x.stages.map fun g => { g with pend := false } }
    match x.status with
    | .waiting => s1.closeLaunch l .cancelled
    | .admitted => (s1.launchUnits l).foldl (fun t u => t.cancelUnit u) s1
/-- The launches that satisfy `f`, by key. -/
def State.launchesWhere (s : State) (f : Launch → Bool) : List Nat := (s.launches.filter fun c => f c.2).map (·.1)

/-- The state a graph, phase or job takes when its OUT is 0 (R90). -/
def Counter.verdict (c : Counter) : CState :=
  if c.cancel then .cancelled else if c.fails ≠ 0 then .failed else .complete
/-- OUT falls by one, FAILS rises for a child that is not complete (R459). -/
def Counter.child (c : Counter) (ok : Bool) : Counter :=
  { c with out := c.out - 1, fails := if ok then c.fails else c.fails + 1 }

/-- The job's counter after a phase of it became terminal, or after JOBCLOSE or a cancel (R89, R90). -/
def State.settleJob (s : State) (job now : Nat) : State :=
  match s.hjobs.find job with
  | none => s
  | some h =>
    let pending := s.phases.any fun p => decide (p.1 / 65536 = job) && p.2.count.isOpen
    if h.count.isOpen && (h.closed || h.count.cancel) && decide (h.count.out = 0 ∨ h.count.cancel) && !pending then
      { s with hjobs := s.hjobs.put job { h with count := h.count.close h.count.verdict now } }
    else s
/-- A phase whose OUT is 0 becomes terminal and is reported to its job (R90, R459). -/
def State.settlePhase (s : State) (job ph now : Nat) : State :=
  match s.phases.find (gkey job ph) with
  | none => s
  | some p =>
    if p.count.isOpen && decide (p.count.out = 0) then
      let st := p.count.verdict
      let s1 := { s with phases := s.phases.put (gkey job ph) { p with count := { p.count.close st now with told := true } } }
      let s2 := match s1.hjobs.find job with
        | none => s1
        | some h =>
          let c := if h.closed then h.count.child (decide (st = CState.complete))
            else { h.count with fails := if st = CState.complete then h.count.fails else h.count.fails + 1 }
          { s1 with hjobs := s1.hjobs.put job { h with count := c } }
      s2.settleJob job now
    else s
/-- A graph whose OUT is 0 becomes terminal and is reported to its phase (R90, R459). -/
def State.settleGraph (s : State) (job g now : Nat) : State :=
  match s.graphs.find (gkey job g) with
  | none => s
  | some x =>
    if x.count.isOpen && decide (x.count.out = 0) then
      let st := x.count.verdict
      let s1 := { s with graphs := s.graphs.put (gkey job g) { x with count := { x.count.close st now with told := true } } }
      let s2 := match s1.phases.find (gkey job x.phase) with
        | none => s1
        | some p => { s1 with phases := s1.phases.put (gkey job x.phase) { p with count := p.count.child (decide (st = CState.complete)) } }
      s2.settlePhase job x.phase now
    else s

/-- A launch's terminal state reaches the host processor die (R459): its graph counts it; where it is not complete, waiting
launches that name it as a predecessor are cancelled (R37, R90). -/
def State.reportLaunch (s : State) (l : Nat) : State :=
  let x := s.launch l
  if x.count.isOpen ∨ x.count.told then s
  else
    let ok := decide (x.count.state = .complete)
    let s1 := s.setLaunch l { x with count := { x.count with told := true } }
    let s2 := match s1.graphs.find (gkey x.job x.graph) with
      | none => s1
      | some g => { s1 with graphs := s1.graphs.put (gkey x.job x.graph) { g with count := g.count.child ok } }
    let s3 := if ok then s2 else
      (s2.launchesWhere fun y => decide (y.job = x.job) && decide (y.graph = x.graph) && decide (y.status = .waiting)
        && y.count.isOpen && y.pred.contains x.node).foldl (fun t k => t.cancelLaunch k) s2
    s3.settleGraph x.job x.graph (s3.dcc 12)

/-- A graph is cancelled with its launches; those that have not arrived leave its OUT at once (R90, R91). -/
def State.cancelGraph (s : State) (job g now : Nat) : State :=
  match s.graphs.find (gkey job g) with
  | none => s
  | some x =>
    if x.count.isOpen = false ∨ x.count.cancel then s
    else
      let missing := x.nlaunch - x.nodes.length
      let c := { x.count with cancel := true, out := x.count.out - missing, fails := x.count.fails + missing }
      let s1 := { s with graphs := s.graphs.put (gkey job g) { x with count := c } }
      let s2 := (s1.launchesWhere fun y => decide (y.job = job) && decide (y.graph = g)).foldl (fun t k => t.cancelLaunch k) s1
      s2.settleGraph job g now
/-- Graph numbers of a phase. -/
def State.graphsOf (s : State) (job ph : Nat) : List Nat :=
  (s.graphs.filter fun c => decide (c.1 / 65536 = job) && decide (c.2.phase = ph)).map fun c => c.1 % 65536
/-- A phase is cancelled with its graphs (R90, R91). -/
def State.cancelPhase (s : State) (job ph now : Nat) : State :=
  match s.phases.find (gkey job ph) with
  | none => s
  | some p =>
    if p.count.isOpen = false ∨ p.count.cancel then s
    else
      let missing := p.ngraph - p.defined
      let c := { p.count with cancel := true, out := p.count.out - missing, fails := p.count.fails + missing }
      let s1 := { s with phases := s.phases.put (gkey job ph) { p with count := c } }
      let s2 := (s1.graphsOf job ph).foldl (fun t g => t.cancelGraph job g now) s1
      s2.settlePhase job ph now
/-- A job is cancelled with its phases (R90, R91). -/
def State.cancelJob (s : State) (job now : Nat) : State :=
  match s.hjobs.find job with
  | none => s
  | some h =>
    if h.count.isOpen = false ∨ h.count.cancel then s
    else
      let s1 := { s with hjobs := s.hjobs.put job { h with count := { h.count with cancel := true } } }
      let ps := (s1.phases.filter fun c => decide (c.1 / 65536 = job)).map fun c => c.1 % 65536
      (ps.foldl (fun t ph => t.cancelPhase job ph now) s1).settleJob job now

/-- The counter of a level of a job: 0 launch, 1 graph, 2 phase, 3 job (R89, R417). -/
def State.counter (s : State) (job level id : Nat) : Option Counter :=
  match level with
  | 0 => ((s.launches.map (·.2)).filter fun l => decide (l.job = job) && decide (l.id = id % 2 ^ 32)).getLast?.map (·.count)
  | 1 => (s.graphs.find (gkey job (id % 65536))).map (·.count)
  | 2 => (s.phases.find (gkey job (id % 65536))).map (·.count)
  | _ => (s.hjobs.find job).map (·.count)
/-- A level of a job is cancelled (R91). -/
def State.cancelLevel (s : State) (job level id now : Nat) : State :=
  match level with
  | 0 => (s.launchesWhere fun l => decide (l.job = job) && decide (l.id = id % 2 ^ 32)).foldl (fun t k => t.cancelLaunch k) s
  | 1 => s.cancelGraph job (id % 65536) now
  | 2 => s.cancelPhase job (id % 65536) now
  | _ => s.cancelJob job now
/-- The word of a counter (R89). -/
def Counter.word (c : Counter) : X :=
  BitVec.ofNat 64 ((match c.state with
    | .opened => 0
    | .complete => 1
    | .failed => 2
    | .cancelled => 3
    | .rejected => 4) * 2 ^ 60 + c.fails % 2 ^ 28 * 2 ^ 32 + c.out % 2 ^ 32)

end Sys2Proof.Machine
end

