-- ==== Sys2Proof/Machine/Sync.lean ====
section
/-! DEFINITION. Synchronisation, power and system instructions (16). A wait leaves the PC where it is, and its word issues
again on the voice's next turn; a request that another agent answers is completed by that agent. -/
namespace Sys2Proof.Machine
open Sys2Proof

def State.me (s : State) : Voice := s.voice s.selUnit s.selVoice
def State.setMe (s : State) (v : Voice) : State := s.setVoice s.selUnit s.selVoice v
/-- The voice waits (R116, R394); a wait already under way keeps its beginning. -/
def State.waitOn (s : State) (w : Wait) : State :=
  match s.me.status with
  | .waiting w' c => if w' = w then s else s.setMe { s.me with status := .waiting w (if w' = .sync then s.unitCyc s.selUnit else c) }
  | _ => s.setMe { s.me with status := .waiting w (s.unitCyc s.selUnit) }
/-- The address that the voice's wait has translated (R218). -/
def State.waitAt (s : State) (va : Nat) : State := s.setMe { s.me with waitVa := va }
/-- The voice stalls until another agent answers: it is Running, and no longer waits at its sync bundle (R394). -/
def State.stallOn (s : State) (a : Ask) : State := s.setMe { s.me with ask := some a, status := s.me.status.wake }

/-! Span boundaries (R225, R372, R395) -/

/-- The guard-granule report that a boundary instruction owes first (R225, R447). -/
def State.owed (s : State) : Option Trap :=
  match (s.unit s.selUnit).guard with
  | some g => if s.me.hmode then none else some ⟨0x84, g.info⟩
  | none => none
/-- The owed report is made; it does not stop a bundle (R193, R225). -/
def State.report (s : State) (t : Trap) : State :=
  (s.setUnit s.selUnit { s.unit s.selUnit with guard := none }).takeTrap t
/-- A migration request stops the unit at a boundary (R109): the request of that cause is over (R106). -/
def State.stopMove (s : State) (u : Nat) : State :=
  match (s.unitCore u).mig, (s.unit u).status with
  | some _, .resident =>
    let s1 := s.stopUnit u 0x43 (((s.unitCore u).mig).getD 0)
    let y := match (s1.unit u).yreq with
      | some (2, _) => none
      | y => y
    s1.setUnit u { s1.unit u with yreq := y, moved := true }
  | _, _ => s
/-- The commit at a boundary of scope `S`: the boundaries of one bundle are one, at the broadest of their scopes (R395). -/
def State.closeSpan (s : State) (S : Nat) : Except Trap State := s.commit s.selUnit (max S s.bscope)
/-- A boundary of scope `S` by the voice in issue, whose word then moves on (R372, R395). -/
def State.boundary (s : State) (S : Nat) : Out :=
  match s.closeSpan S with
  | .error t => .next (s.raiseTrap t)
  | .ok t => .next (t.advance.stopMove s.selUnit)

/-- SPAN (R395). -/
def execSpan (_ : BitVec 1) (c : BitVec 3) (s : State) : Out :=
  match s.owed with
  | some t => .next (s.report t)
  | none => s.boundary c.toNat

/-- The operand of MON and CFLUSH, checked as an LD of one byte (R393): the number of its line. An address in an aperture passes,
as an LD there does (R229), and holds no line that anything writes. -/
def State.checkRead (s : State) (u ea : Nat) : Except Trap Nat :=
  if ea < 2 ^ 57 ∧ ((s.unitLaunch u).aperture ea).isSome = true then .ok (2 ^ 52 + ea / 128)
  else match s.checkGlobal u .read ea 1 with
    | .error t => .error t
    | .ok l => .ok (l.pa / 128)

/-- FENCE (R382, R396). -/
def execFence (_ : BitVec 1) (c : BitVec 3) (s : State) : Out := .next (s.widen s.selUnit c.toNat).advance

/-- CFLUSH (R393, R397). -/
def execCflush (_ : BitVec 1) (a : BitVec 6) (c : BitVec 3) (s : State) : Out :=
  if a = 0 then .next (s.widen s.selUnit c.toNat).advance
  else match s.checkRead s.selUnit (s.stream.getX a).toNat with
    | .error t => .next (s.raiseTrap t)
    | .ok n => .next (s.widenAt s.selUnit c.toNat fun pa => decide (pa / 128 = n)).advance

/-! Barriers (R398 to R401) -/

/-- A barrier's fields (R398). -/
structure Barrier where
  pend : Nat
  arr : Nat
  fin : Bool
  ovr : Bool
  parties : Nat
  scope : Nat
  gen : Nat
deriving DecidableEq, Repr

def Barrier.ofNat (v : Nat) : Barrier :=
  ⟨bits v 0 48, bits v 48 12, bits v 60 1 = 1, bits v 61 1 = 1, bits v 64 12, bits v 76 3, bits v 80 48⟩
def Barrier.toNat (b : Barrier) : Nat :=
  b.pend + b.arr * 2 ^ 48 + (if b.fin then 2 ^ 60 else 0) + (if b.ovr then 2 ^ 61 else 0)
    + b.parties * 2 ^ 64 + b.scope * 2 ^ 76 + b.gen * 2 ^ 80
/-- DONE is set by the change that first makes ARR = PARTIES and PEND = 0 (R398). -/
def Barrier.check (b : Barrier) : Barrier := if b.arr = b.parties ∧ b.pend = 0 then { b with fin := true } else b
def State.barrier (s : State) (u pa : Nat) : Barrier := .ofNat (s.latestNat u pa 16)
/-- A change to a barrier at its home, released at a scope (R398). -/
def State.putBarrier (s : State) (u scope pa : Nat) (b : Barrier) : State := s.atomicWrite u (min scope 5) pa (leBytes b.toNat 16)
/-- A decrement of `n` bytes by a copy engine of unit `u` (R347, R398). -/
def Barrier.decrement (b : Barrier) (n : Nat) : Barrier :=
  if b.fin then { b with ovr := true }
  else if b.pend < n then { b with pend := 0, ovr := true }.check
  else { b with pend := b.pend - n }.check

/-- What a decrement of the barrier at `pa` by unit `u` releases is noted (R398). -/
def State.noteRelease (s : State) (u pa : Nat) : State :=
  { s with barRel := s.barRel.put pa (s.barRel.getD pa [] ++ (s.narrow.filter fun w => decide (w.unit = u)).map fun w => (u, w.pa)) }
/-- The barrier at `pa` is complete: every byte that a decrement of its current GEN released is visible at scope `S` (R398). -/
def State.releaseAll (s : State) (pa S : Nat) : State :=
  let l := s.barRel.getD pa []
  (l.map (·.1)).eraseDups.foldl (fun t u => t.widenAt u S fun a => l.contains (u, a)) { s with barRel := s.barRel.del pa }
/-- Progress records of copy commands at a barrier, and what its last GEN released, are discarded (R347, R398, R399). -/
def State.dropProgress (s : State) (pa : Nat) : State :=
  let drop := fun (q : Cmd) => if q.sync = some pa then { q with counted := 0 } else q
  { s with
    barRel := s.barRel.del pa
    ctxs := s.ctxs.map fun c => (c.1, { c.2 with queue := c.2.queue.map drop, flight := c.2.flight.map drop }) }

/-- BARI (R399): a release at its scope (R398). -/
def execBari (_ : BitVec 1) (a b : BitVec 6) (c : BitVec 3) (s : State) : Out :=
  let u := s.selUnit
  let v := (s.stream.getX b).toNat
  match s.checkAtomic u (s.stream.getX a).toNat 16 16 with
  | .error t => .next (s.raiseTrap t)
  | .ok l =>
    if bits v 0 12 = 0 ∨ bits v 60 4 ≠ 0 then .next (s.raiseTrap ⟨0x21, v⟩)
    else
      let n : Barrier := ⟨bits v 12 48, 0, false, false, bits v 0 12, c.toNat, ((s.barrier u l.pa).gen + 1) % 2 ^ 48⟩
      .next (((s.dropProgress l.pa).widen u c.toNat).putBarrier u c.toNat l.pa n).advance

/-- BARA (R393, R400): the arrival that completes the barrier releases what its decrements have (R398). -/
def execBara (_ : BitVec 1) (a : BitVec 6) (s : State) : Out :=
  let u := s.selUnit
  let ea := (s.stream.getX a).toNat
  match s.checkAtomic u ea 16 16 with
  | .error t => .next (s.raiseTrap t)
  | .ok l =>
    match s.owed with
    | some t => .next (s.report t)
    | none =>
      match s.closeSpan (s.barrier u l.pa).scope with
      | .error t => .next (s.raiseTrap t)
      | .ok s1 =>
        let b := s1.barrier u l.pa
        if b.arr = b.parties then .next ((s1.putBarrier u b.scope l.pa { b with ovr := true }).takeTrap ⟨0x22, ea⟩)
        else
          let b1 := ({ b with arr := b.arr + 1 } : Barrier).check
          let s2 := if !b.fin && b1.fin then s1.releaseAll l.pa b.scope else s1
          .next (((s2.putBarrier u b.scope l.pa b1).advance).stopMove u)

/-- BARW (R393, R401): once it waits, only the barrier ends its wait. -/
def execBarw (_ : BitVec 1) (a : BitVec 6) (s : State) : Out :=
  let u := s.selUnit
  match s.me.status with
  | .waiting (.barrier p g) _ =>
    if (s.barrier u p).fin ∨ g ≠ (s.barrier u p).gen then s.boundary (s.barrier u p).scope else .next s
  | _ =>
    match s.checkAtomic u (s.stream.getX a).toNat 16 16 with
    | .error t => .next (s.raiseTrap t)
    | .ok l =>
      match s.owed with
      | some t => .next (s.report t)
      | none =>
        let b := s.barrier u l.pa
        if b.fin then s.boundary b.scope else .next ((s.waitOn (.barrier l.pa b.gen)).waitAt (s.stream.getX a).toNat)

/-! Monitor and wait (R402, R403) -/

/-- MON (R393, R402). -/
def execMon (_ : BitVec 1) (a : BitVec 6) (s : State) : Out :=
  let ea := (s.stream.getX a).toNat
  match s.checkRead s.selUnit ea with
  | .error t => .next (s.raiseTrap t)
  | .ok n => .next (s.setMe { s.me with watch := some ⟨n, ea, false⟩ }).advance

/-- MWAIT (R403). -/
def execMwait (_ : BitVec 1) (d a : BitVec 6) (s : State) : Out :=
  let due : Option Nat := if a = 0 then none else some (s.stream.getX a).toNat
  match s.me.watch with
  | none => .next (s.result d fun _ => 2)
  | some w =>
    if w.fired then .next ((s.setMe { s.me with watch := some { w with fired := false } }).result d fun _ => 0)
    else match due with
      | some t => if t ≤ s.dcc (s.unit s.selUnit).place.die then .next (s.result d fun _ => 1) else .next (s.waitOn (.mwait due))
      | none => .next (s.waitOn (.mwait due))

/-! Semaphores (R404 to R406) -/

/-- The count of a semaphore, at its home (R404). -/
def State.semCount (s : State) (u pa : Nat) : Int := sint 64 (s.latestNat u pa 8)
def State.putSem (s : State) (u scope pa : Nat) (v : Int) : State := s.atomicWrite u scope pa (leBytes (uint 64 v) 8)
/-- The home grants the waiters of a semaphore in order of arrival (R405). -/
def State.grantSem (s : State) (pa : Nat) : Nat → State
  | 0 => s
  | n + 1 =>
    match s.semq.find? fun r => decide (r.pa = pa) with
    | none => s
    | some r =>
      let c := s.semCount r.unit pa
      if (r.n : Int) ≤ c then
        ((({ s with semq := s.semq.erase r } : State).putSem r.unit r.scope pa (c - r.n)).finishWait r.unit r.voice 0 0).grantSem pa n
      else s
def State.grantAll (s : State) (pa : Nat) : State := s.grantSem pa s.semq.length

/-- SEMW (R404, R405). -/
def execSemw (_ : BitVec 1) (a b : BitVec 6) (c : BitVec 3) (s : State) : Out :=
  let u := s.selUnit
  let ea := (s.stream.getX a).toNat
  let n := (s.stream.getX b).toNat
  match s.checkAtomic u ea 8 8 with
  | .error t => .next (s.raiseTrap t)
  | .ok l =>
    if 2 ^ 32 ≤ n then .next (s.raiseTrap ⟨0x23, ea⟩)
    else if n = 0 then .next s.advance
    else if s.semq.any fun r => decide (r.unit = u) && decide (r.voice = s.selVoice) then .next s
    else
      let s1 := (s.waitOn (.semaphore l.pa)).waitAt ea
      .next (({ s1 with semq := s1.semq ++ [⟨l.pa, u, s.selVoice, n, c.toNat⟩] } : State).grantAll l.pa)

/-- SEMP (R404, R406). -/
def execSemp (_ : BitVec 1) (a b : BitVec 6) (c : BitVec 3) (s : State) : Out :=
  let u := s.selUnit
  let ea := (s.stream.getX a).toNat
  let n := (s.stream.getX b).toNat
  match s.checkAtomic u ea 8 8 with
  | .error t => .next (s.raiseTrap t)
  | .ok l =>
    if 2 ^ 32 ≤ n then .next (s.raiseTrap ⟨0x23, ea⟩)
    else if 2 ^ 63 ≤ s.semCount u l.pa + n then .next (s.raiseTrap ⟨0x24, ea⟩)
    else .next ((((s.widen u c.toNat).putSem u c.toNat l.pa (s.semCount u l.pa + n)).advance).grantAll l.pa)

/-! Stage queues (R407, R408) -/

/-- The checks of a queue instruction: the queue and its permission (R407), then the scratchpad operand (R393). -/
def State.queueCheck (s : State) (push : Bool) (a b : BitVec 6) : Except Trap Nat :=
  let u := s.selUnit
  let v := (s.stream.getX b).toNat
  let q := v % 32
  let mask := if push then (s.unitStage u).pushm else (s.unitStage u).popm
  if 32 ≤ v ∨ (s.unitLaunch u).queues.length ≤ q ∨ bits mask q 1 = 0 then .error ⟨0x25, v⟩
  else
    let ea := (s.stream.getX a).toNat
    match s.spBad u ea (s.queue (s.unit u).place.launch q).qsize 8 with
    | some t => .error t
    | none => .ok q

/-- The voice already waits at a queue. -/
def Voice.queued (v : Voice) : Bool :=
  match v.status with
  | .waiting (.push _) _ => true
  | .waiting (.pop _) _ => true
  | _ => false
/-- A push: the entry joins the tail, or the voice waits; `try_` returns 3 instead of waiting (R408). -/
def State.push (s : State) (try_ : Bool) (d a b : BitVec 6) : Out :=
  let u := s.selUnit
  match s.queueCheck true a b with
  | .error t => .next (s.raiseTrap t)
  | .ok q =>
    let l := (s.unit u).place.launch
    let x := s.queue l q
    let ea := (s.stream.getX a).toNat
    if s.me.queued then .next s
    else if x.items.length < x.qent ∧ x.pushers = [] then
      let s1 := ((s.touch u 0 false ea x.qsize).widen u 3).setQueue l q { x with items := x.items ++ [s.ldsBytes u ea x.qsize] }
      .next ((s1.result d fun _ => 0).serveQueue l q)
    else if try_ then .next (s.result d fun _ => 3)
    else
      let s1 := ((s.touch u 0 false ea x.qsize).widen u 3).waitOn (.push q)
      .next (s1.setQueue l q { x with pushers := x.pushers ++ [⟨u, s.selVoice, ea, d, s.ldsBytes u ea x.qsize, s.dcc (s.unit u).place.die⟩] })
/-- A pop: the head entry is delivered, or a status, or the voice waits (R408). -/
def State.pop (s : State) (try_ : Bool) (d a b : BitVec 6) : Out :=
  let u := s.selUnit
  match s.queueCheck false a b with
  | .error t => .next (s.raiseTrap t)
  | .ok q =>
    let l := (s.unit u).place.launch
    let x := s.queue l q
    let ea := (s.stream.getX a).toNat
    if s.me.queued then .next s
    else if x.items = [] ∧ s.queueOpen l q = false then .next (s.result d fun _ => 1)
    else if (s.unit u).withdrawn ∧ (s.unitStage u).inq = q then .next (s.result d fun _ => 2)
    else match x.items with
      | it :: its =>
        let s1 := ((s.setQueue l q { x with items := its }).touch u 0 true ea x.qsize).stsBytes u s.selVoice ea it
        .next ((s1.result d fun _ => 0).serveQueue l q)
      | [] =>
        if try_ then .next (s.result d fun _ => 3)
        else .next ((s.waitOn (.pop q)).setQueue l q { x with poppers := x.poppers ++ [⟨u, s.selVoice, ea, d, [], s.dcc (s.unit u).place.die⟩] })

def execQpush (_ : BitVec 1) (d a b : BitVec 6) (s : State) : Out := s.push false d a b
def execQpop (_ : BitVec 1) (d a b : BitVec 6) (s : State) : Out := s.pop false d a b
def execQtryPop (_ : BitVec 1) (d a b : BitVec 6) (s : State) : Out := s.pop true d a b
def execQtryPush (_ : BitVec 1) (d a b : BitVec 6) (s : State) : Out := s.push true d a b

/-! Engines (R410 to R412) -/

/-- A context starts at `pc` with x1 and x2 of the voice (R410). -/
def State.startCtx (s : State) (e : Engine) (r : BitVec 6) : State :=
  if r = 0 then s
  else
    let u := s.selUnit
    let c := s.ctx u e s.selVoice
    let v := s.stream
    s.setCtx u e s.selVoice { c with
      status := .running
      st := { ((c.st.clearFrom 0).setX 1 (v.getX 1)).setX 2 (v.getX 2) with pc := v.getX r, rep := none, buf := none } }
/-- The context a FORK field names is busy. -/
def State.forkBusy (s : State) (e : Engine) (r : BitVec 6) : Bool :=
  decide (r ≠ 0) && decide ((s.ctx s.selUnit e s.selVoice).status ≠ .idle)
/-- FORK (R410): `c` copy, `m` matrix, `v` vector entry. -/
def execFork (_ : BitVec 1) (c m v : BitVec 6) (s : State) : Out :=
  match ([m, v, c].filter fun r => decide (r ≠ 0) && decide ((s.stream.getX r).toNat % 4 ≠ 0)) with
  | r :: _ => .next (s.raiseTrap ⟨0x06, (s.stream.getX r).toNat⟩)
  | [] =>
    let busy := (if s.forkBusy .matrix m then 1 else 0) + (if s.forkBusy .vector v then 2 else 0)
      + (if s.forkBusy .copy c then 4 else 0)
    if busy ≠ 0 then .next (s.raiseTrap ⟨0x26, busy⟩)
    else .next (((s.startCtx .matrix m).startCtx .vector v).startCtx .copy c).advance

/-- The engines an RDV or EKILL mask names (R391). -/
def maskEngines (e : BitVec 3) : List Engine := engines.filter fun x => bits e.toNat x.code 1 = 1
/-- RDV (R411). -/
def execRdv (_ : BitVec 1) (e : BitVec 3) (s : State) : Out :=
  if (maskEngines e).all fun x => s.ctxHere s.selUnit (s.ctx s.selUnit x s.selVoice) then .next s.advance
  else .next (s.waitOn (.rdv e.toNat))
/-- EKILL (R412). -/
def execEkill (_ : BitVec 1) (e : BitVec 3) (s : State) : Out :=
  .next (((maskEngines e).foldl (fun t x => t.setCtx s.selUnit x s.selVoice ((t.ctx s.selUnit x s.selVoice).kill
    (s.eclk (s.unit s.selUnit).place.die (s.home s.selUnit) x) (s.engEnd s.selUnit x))) s).closeRegions).advance

/-! Work (R413 to R418) -/

/-- A YIELD in this control cycle honours a request with deadline `D`: the cycle in which DCC first reaches D is this one or a
later one (R107). -/
def State.honours (s : State) (u D : Nat) : Bool := decide ((s.unitCore u).ctl.start (s.dcc (s.unit u).place.die) ≤ D)
/-- YIELD (R107, R109, R413): a boundary, at which a request is honoured, or a migration stops the unit. -/
def execYield (_ : BitVec 1) (s : State) : Out :=
  let u := s.selUnit
  match s.owed with
  | some t => .next (s.report t)
  | none =>
    match s.closeSpan s.stscNow.toNat with
    | .error t => .next (s.raiseTrap t)
    | .ok s1 =>
      match (s.unit u).yreq with
      | some (c, D) =>
        if s.honours u D then
          let s2 := s1.advance.stopUnit u 0x44 c
          .next (s2.setUnit u { s2.unit u with yreq := none, slept := if c = 1 then some D else none, moved := decide (c = 2) || (s.unitCore u).mig.isSome })
        else .next (s1.advance.stopMove u)
      | none => .next (s1.advance.stopMove u)

/-- Voice `j` was unparked in the control cycle in progress: a PARK of its own in that cycle applied before (R415). -/
def State.unparkedNow (s : State) (u j : Nat) : Bool :=
  (s.unit u).unparks.any fun p => decide (p.1 = j) && decide (s.dcc (s.unit u).place.die < p.2)
/-- PARK (R415). -/
def execPark (_ : BitVec 1) (s : State) : Out :=
  let u := s.selUnit
  if s.unparkedNow u s.selVoice then .next s.advance
  else if s.allOff u s.selVoice then s.allParked u s.selVoice
  else .next (s.turnOff u s.selVoice s.advance.me .parked)
/-- PARK.un k (R415): the voice issues in the next control cycle at the earliest. -/
def execParkUn (_ : BitVec 1) (k : BitVec 2) (s : State) : Out :=
  let u := s.selUnit
  if (s.unit u).place.voices ≤ k.toNat then .next (s.raiseTrap s.illegal)
  else
    let s1 := s.advance
    let v := s1.voice u k.toNat
    let s2 := if v.status = .parked then s1.setVoice u k.toNat { v with status := .running, nextAt := max v.nextAt s.cycleEnd } else s1
    .next (s2.setUnit u { s2.unit u with
      unparks := (k.toNat, s.cycleEnd) :: (s2.unit u).unparks.filter fun p => decide (s.dcc (s.unit u).place.die < p.2) })

/-- Every other voice of the unit stops for good, its waiting instruction removed (R416). -/
def State.stopOthers (s : State) (u j : Nat) : State :=
  let s1 := { s with voices := s.voices.map fun (v : Nat × Voice) =>
    if v.1 / 4 = u ∧ v.1 % 4 ≠ j then (v.1, { v.2 with status := VStatus.halted, ask := none }) else v }
  s1.abandon u fun k => decide (k ≠ j)
/-- CNCL (R417): the voice stalls until `HOLDING_DIE_ANSWER`. -/
def execCncl (_ : BitVec 1) (d a : BitVec 6) (l : BitVec 2) (s : State) : Out :=
  .next (s.stallOn (.cancel l.toNat (s.stream.getX a).toNat d))
/-- CMPLR (R418): the voice stalls until `HOLDING_DIE_ANSWER`. -/
def execCmplr (_ : BitVec 1) (d a : BitVec 6) (l : BitVec 2) (s : State) : Out :=
  .next (s.stallOn (.read l.toNat (s.stream.getX a).toNat d))
/-- What the units of a terminal launch committed is visible to whoever reads its counter, at system scope (R93, R418). -/
def State.openStores (s : State) (job level id : Nat) : State :=
  if level ≠ 0 ∨ ((s.counter job 0 id).any fun c => !c.isOpen) = false then s
  else
    let ls := s.launchesWhere fun l => decide (l.job = job) && decide (l.id = id % 2 ^ 32)
    ((s.units.filter fun c => ls.contains c.2.place.launch).map (·.1)).foldl (fun t k => t.widen k 5) s
/-- The answer of the die that holds a counter reaches a stalled voice (R417, R418). -/
def execHoldingDieAnswer (u j : Nat) (s : State) : Out :=
  let v := s.voice u j
  let job := (s.unit u).place.job
  match (s.unit u).status, v.ask with
  | .resident, some (.cancel level id d) =>
    let r : X := match s.counter job level id with
      | none => 2
      | some c => if c.isOpen then 0 else 1
    let s1 := (s.setVoice u j { v with ask := none }).finishWait u j d r
    .next (if r = 0 then s1.cancelLevel job level id (s.dcc 12) else s1)
  | .resident, some (.read level id d) =>
    .next (((s.openStores job level id).setVoice u j { v with ask := none }).finishWait u j d (((s.counter job level id).map Counter.word).getD 0))
  | _, _ => .next s

/-! Power and clocks (R420 to R422) -/

/-- BRTH (R420): `a` onset, `b` length, `n` intensity. -/
def execBrth (_ : BitVec 1) (a b : BitVec 6) (n : BitVec 4) (s : State) : Out :=
  let u := s.selUnit
  let on_ := (s.stream.getX a).toNat
  let len := (s.stream.getX b).toNat
  if 2 ^ 20 ≤ on_ then .next (s.raiseTrap ⟨0x27, on_⟩)
  else if len = 0 ∨ 2 ^ 24 < len then .next (s.raiseTrap ⟨0x27, len⟩)
  else
    let w : Option Breath := if n = 0 then none else some { onset := s.tclkAt u s.cycleStart + max on_ 64, len := len, int := n.toNat }
    .next (s.setUnit u { s.unit u with breath := w }).advance
def zkey (d p : Nat) : Nat := d * 8 + p / 12
/-- The word in issue sets PGNT of its team: cycles that begin later see it (R121). -/
def State.putGrant (s : State) (u v : Nat) : State :=
  let t := s.unit u
  let r := s.regWrite 0x023 (t.pgnt.setWidth 64) (BitVec.ofNat 64 v)
  s.setUnit u { t with pgnt := r.final.setWidth 4, recent := t.recent.put 0x023 r }
def State.zoneOf (s : State) (d p : Nat) : Zone := s.zones.getD (zkey d p) {}
/-- ACQP (R421): a request above the level held joins its zone's queue (R425). -/
def execAcqp (_ : BitVec 1) (a : BitVec 6) (s : State) : Out :=
  let u := s.selUnit
  let v := (s.stream.getX a).toNat
  if v = 0 ∨ 15 < v then .next (s.raiseTrap ⟨0x27, v⟩)
  else if v ≤ (s.unit u).pgnt.toNat then .next (s.putGrant u v).advance
  else
    let d := (s.unit u).place.die
    let z := s.zoneOf d (s.home u)
    .next (({ s with zones := s.zones.put (zkey d (s.home u)) { z with asks := z.asks ++ [(u, s.selVoice, v)] } } : State).stallOn (.power v))
/-- RELP (R421). -/
def execRelp (_ : BitVec 1) (s : State) : Out :=
  .next (s.putGrant s.selUnit 0).advance

/-- CLKD (R394, R422): where the divisor must change the voice stalls until `CLOCK_SWITCH`, which records the request; one
that is stopped before has asked for nothing. -/
def execClkd (_ : BitVec 1) (a : BitVec 6) (l : BitVec 2) (s : State) : Out :=
  let u := s.selUnit
  let v := (s.stream.getX a).toNat
  if v < 2 ∨ 16 < v then .next (s.raiseTrap ⟨0x28, v⟩)
  else
    let p := (s.unit u).place
    let s1 := s.stallOn (.clock l.toNat v (s.dcc p.die))
    if s1.wantDiv p.die (s.home u) l.toNat = ((s.unitCore u).clk l.toNat).div then
      .next ((s.setUnit u { s.unit u with clkd := (s.unit u).clkd.put l.toNat v }).noteClocks p.die (s.home u)).advance
    else .next (s1.noteClocks p.die (s.home u))

/-! System (R414, R423, R424) -/

/-- The team's breath window is open now (R414, R420). -/
def State.breathing (s : State) (u : Nat) : Bool :=
  match (s.unit u).breath with
  | some b => decide (b.onset ≤ s.tclk u) && decide (s.tclk u < b.onset + b.len)
  | none => false
/-- PROBE (R414). -/
def State.probe (s : State) (w : Nat) : X :=
  let u := s.selUnit
  let t := s.unit u
  let D := (t.yreq.map (·.2)).getD 0
  BitVec.ofNat 64 (match w with
    | 0 => (t.yreq.map (·.1)).getD 0 + (if t.guard.isSome then 4 else 0) + (if s.breathing u then 8 else 0)
    | 1 => D
    | _ => if t.yreq.isSome then D - s.cycleStart else 0)
def execProbe (_ : BitVec 1) (d : BitVec 6) (w : BitVec 3) (s : State) : Out :=
  .next (s.result d fun _ => s.probe w.toNat)

/-- TRAP (R423, R444, R447): the handler is entered with XPC at the next bundle. -/
def execTrap (_ : BitVec 1) (i : BitVec 18) (s : State) : Out :=
  if s.me.hmode ∨ s.handler s.selUnit = 0 then .next (s.raiseTrap ⟨0x80, i.toNat⟩)
  else .next (s.advance.takeTrap ⟨0x80, i.toNat⟩)

/-- The repeat state of a saved status word (R445). -/
def xswRep (v : X) : Option Rep :=
  let n := v.toNat
  if bits n 21 1 = 0 then none
  else some ⟨BitVec.ofNat 6 n, BitVec.ofNat 6 (n / 64), BitVec.ofNat 3 (n / 2 ^ 18), BitVec.ofNat 3 (n / 2 ^ 15), BitVec.ofNat 3 (n / 2 ^ 12)⟩
/-- R448: the saved status may not be restored. -/
def xswBad (v : X) : Bool :=
  let n := v.toNat
  decide (bits n 38 26 ≠ 0) || decide (bits n 22 2 ≠ 0) || decide (bits n 21 1 = 0 ∧ bits n 0 21 ≠ 0)
    || decide (bits n 21 1 = 1 ∧ bits n 6 6 < bits n 0 6)
/-- TRET (R448): the one description of returning from a trap; the target issues 3 control cycles later. -/
def execTret (_ : BitVec 1) (s : State) : Out :=
  let v := s.me
  if v.hmode = false then .next (s.raiseTrap s.illegal)
  else if xswBad v.xsw then .next (s.raiseTrap ⟨0x29, v.xsw.toNat⟩)
  else if v.xpc.toNat % 16 ≠ 0 then .next (s.raiseTrap ⟨0x06, v.xpc.toNat⟩)
  else .next (s.setMe { v with
    st := { v.st with l0 := v.s0, l1 := v.s1, l2 := v.s2, rep := xswRep v.xsw, pc := v.xpc, buf := none }
    hmode := false
    met := v.smet
    nextAt := s.cycleStart + 3 * (s.unitCore s.selUnit).ctl.div
    status := v.status.wake })

end Sys2Proof.Machine
end

