-- ==== Sys2Proof/Machine/Weight.lean ====
section
/-! DEFINITION. The weight tier: regions, weight addresses, reads of cells, and LDW (R206, R231 to R253, R192). -/
namespace Sys2Proof.Machine
open Sys2Proof

def rkey (die name : Nat) : Nat := die * 2 ^ 64 + name
/-- A weight address: die, physical core, offset (R206). -/
def waOf (die core off : Nat) : Nat := die * 2 ^ 36 + core * 2 ^ 29 + off
def waDie (wa : Nat) : Nat := bits wa 36 4
def waCore (wa : Nat) : Nat := bits wa 29 7
def waOff (wa : Nat) : Nat := bits wa 0 29
/-- Bank of an offset: deck × 4 + bus (R231). -/
def bankOf (off : Nat) : Nat := bits off 25 4 * 4 + bits off 9 2
/-- Row of an offset within its bank (R231). -/
def rowOf (off : Nat) : Nat := (bits off 11 14 * 512 + bits off 0 9) / 1024
/-- A row of the tier by number: die, core, bank, row (R231). -/
def rowKey (wa : Nat) : Nat := ((waDie wa * 128 + waCore wa) * 64 + bankOf (waOff wa)) * 8192 + rowOf (waOff wa)
def bankKey (wa : Nat) : Nat := rowKey wa / 8192

/-- Bytes of a weight tile and its stride, by format code (R237). -/
def tileBytes (fmt : Nat) : Nat := 320 * codeBits fmt
def tileStride (fmt : Nat) : Nat := cdiv (tileBytes fmt) 512 * 512
/-- K-steps of a region (R237). -/
def Region.steps (r : Region) : Nat := cdiv r.kext 16
def Region.groups (r : Region) : Nat := cdiv r.next 160
/-- Home core of column group `g` (R237). -/
def Region.homeOf (r : Region) (g : Nat) : Nat := (r.core0 + g * r.cstep) % 96
/-- The column group homed on a physical core. -/
def Region.groupAt (r : Region) (core : Nat) : Option Nat := (List.range r.groups).find? fun g => decide (r.homeOf g = core)
def Region.off (r : Region) (bank : Bool) : Nat := if bank then r.off1 else r.off0
def Region.soff (r : Region) (bank : Bool) : Nat := if bank then r.soff1 else r.soff0
def Region.tileLen (r : Region) : Nat := tileStride r.fmt * r.steps
def Region.scaleLen (r : Region) : Nat := if r.sm = 1 then 320 * r.steps else 0
/-- Where an offset of a home core lies in the region: its bank, whether in the scale area, and the place from the area's
base (R192, R237). -/
def Region.locate (r : Region) (off : Nat) : Option (Bool × Bool × Nat) :=
  let banks := if r.pair then [false, true] else [false]
  banks.findSome? fun b =>
    if r.off b ≤ off ∧ off < r.off b + r.tileLen then some (b, false, off - r.off b)
    else if r.soff b ≤ off ∧ off < r.soff b + r.scaleLen then some (b, true, off - r.soff b)
    else none
/-- The bank active on a core: the directory's, but the old one where a begun swap has not landed (R244). -/
def Region.actOn (r : Region) (core : Nat) : Bool := if r.pending.contains core then !r.act else r.act
/-- The generation current on a core (R244, R296). -/
def Region.genOn (r : Region) (core : Nat) : Nat := if r.pending.contains core then r.gen - 1 else r.gen

/-- A job owns a region: OWNK is its key identity (R238). -/
def State.owns (s : State) (die job : Nat) (r : Region) : Bool :=
  match s.keys.find (jkey die job) with
  | some k => decide (k.keyid = r.ownk)
  | none => false
/-- The region a table entry names, where the entry is present (R238). -/
def State.present (s : State) (die job : Nat) (e : RegEntry) : Option (Nat × Region) :=
  match s.regions.find (rkey e.die e.name) with
  | none => none
  | some r => if s.owns die job r || (r.shr && !e.prog) then some (rkey e.die e.name, r) else none
/-- The region at an index of a job's weight region table (R238). -/
def State.tableRegion (s : State) (die job idx : Nat) : Option (Nat × RegEntry × Region) :=
  match ((s.job die job).table)[idx]? with
  | none => none
  | some e => (s.present die job e).map fun p => (p.1, e, p.2)
/-- The bindings in use of a unit's stage: table index, MRG (R39). -/
def State.bindings (s : State) (u : Nat) : List (Nat × Bool) :=
  ((s.unitStage u).bind.filter fun b => decide (bits b 15 1 = 1)).map fun b => (b % 4096, decide (bits b 13 1 = 1))
/-- A region bound by the unit's stage that holds the weight address: key, region, MRG, and the place (R34, R206). -/
def State.boundAt (s : State) (u wa : Nat) : Option (Nat × Region × Bool × Bool × Bool × Nat) :=
  let p := (s.unit u).place
  (s.bindings u).findSome? fun b =>
    match s.tableRegion p.die p.job b.1 with
    | none => none
    | some (k, e, r) =>
      if e.die = waDie wa ∧ (r.groupAt (waCore wa)).isSome then
        (r.locate (waOff wa)).map fun l => (k, r, b.2, l.1, l.2.1, l.2.2)
      else none

/-- Stored cells of the tier, decrypted (R226). -/
def State.cell (s : State) (wa : Nat) : Byte := s.wt.getD wa 0
/-- The first poisoned codeword in `n` bytes of a region at a weight address (R250 to R252). -/
def State.poisonAt (s : State) (r : Region) (wa n : Nat) : Option Nat :=
  ((List.range n).map (wa + ·)).find? fun a =>
    r.dmg || (s.unusable.find (bankKey a)).isSome || (s.wpoison.find (a / 64)).isSome
/-- The address of a place in a region's area of a bank. -/
def Region.addr (r : Region) (die core : Nat) (bank scale : Bool) (o : Nat) : Nat :=
  waOf die core ((if scale then r.soff bank else r.off bank) + o)
/-- A cell as a job reads it: unspecified unless it owns the region (R227, R228). -/
def State.ownCell (s : State) (die job : Nat) (r : Region) (wa : Nat) : Byte :=
  if s.owns die job r then s.cell wa else Config.freeByte s.fresh (2 ^ 61 + wa)

/-- The page of an LDW and the weight address it names (R187 steps 1 to 4, R211). -/
def State.checkWindow (s : State) (u ea size : Nat) : Except Trap Nat :=
  match globalBad ea size with
  | some t => .error t
  | none =>
    if ((s.unitLaunch u).aperture ea).isSome then .error ⟨0x0B, ea⟩
    else match s.translate u .ldw ea with
      | .error t => .error t
      | .ok l => if l.ww then .ok (l.pa % 2 ^ 40) else .error ⟨0x0D, ea⟩

/-- LDW (R187, R192): the XINFO of its weight-poison fault is the weight address of the codeword, as R442 lists it, where R187 names EA
(log 101); the value reaches its register when its data arrive (R186). -/
def execLdw (_ : BitVec 1) (d a : BitVec 6) (w : BitVec 2) (x : BitVec 1) (o : BitVec 9) (s : State) : Out :=
  let u := s.selUnit
  let p := (s.unit u).place
  let ea := (effAddr s.stream a w o).toNat
  let size := widthOf w
  match s.checkWindow u ea size with
  | .error t => .next (s.raiseTrap t)
  | .ok wa =>
    match s.boundAt u wa with
    | none => .next (s.raiseTrap ⟨0x0E, ea⟩)
    | some (_, r, _, _, sc, off) =>
      let at_ := r.addr (waDie wa) (waCore wa) (r.actOn (waCore wa)) sc off
      match s.poisonAt r at_ size with
      | some c => .next (s.raiseTrap ⟨0x0F, c / 64 * 64⟩)
      | none =>
        let v := leNat ((List.range size).map fun i => s.ownCell p.die p.job r (at_ + i))
        .next ((s.result d fun _ => extend x size v).setBusy d)

/-- A REMEAS of the region at `k` is in progress (R466). -/
def State.measuring (s : State) (k : Nat) : Bool :=
  ((s.drones.getD (k / 2 ^ 64) {}).busy.map (·.1)).any fun l => l.any fun m => decide (m.name = k % 2 ^ 64)
/-- Incomplete commands of a die's matrix engines that read bank `bank` of region `k` (R245). -/
def State.bankReaders (s : State) (k : Nat) (bank : Bool) : Bool :=
  s.ctxs.any fun c => (c.2.queue ++ c.2.flight).any fun q => q.reads.contains (k, bank)
/-- The bank that is not active is released (R245). -/
def State.released (s : State) (k : Nat) (r : Region) : Bool := r.pending.isEmpty && !s.bankReaders k (!r.act)

end Sys2Proof.Machine
end

