-- ==== Sys2Proof/Machine/Engines.lean ====
section
/-! DEFINITION. What the three engines share: format entries, submission and its checks, the page-lock table, the range
checker, readiness and arbitration, completion (R48 to R51, R104, R105, R124 to R127, R220 to R223). -/
namespace Sys2Proof.Machine
open Sys2Proof

/-! Format entries (R48 to R51) -/

def entCode (e : Word) : Nat := bits e.toNat 0 4
def entSm (e : Word) : Nat := bits e.toNat 4 1
def entRm (e : Word) : Nat := bits e.toNat 5 2
def entSat (e : Word) : Bool := bits e.toNat 7 1 = 1
def entTsi (e : Word) : Nat := bits e.toNat 8 8
/-- R49: an entry MFMT refuses. -/
def entryBad (e : Word) : Bool :=
  decide (bits e.toNat 16 16 ≠ 0) || decide (6 < entCode e) || (decide (entSm e = 1) && decide (entCode e ≠ 5 ∧ entCode e ≠ 6))
    || (decide (entSm e = 0) && decide (entCode e = 6))
/-- R50: a tensor scale must be finite. -/
def scaleBad (v : BitVec 32) : Bool := decide (bits v.toNat 23 8 = 255)

/-- The entry of slot `k` in the row the stream in issue uses (R51, R128). -/
def State.entryOf (s : State) (k : Nat) : Word :=
  let ix := s.stream.row * 4 + k
  ((s.unit s.selUnit).sees (0x200 + ix) (((s.unit s.selUnit).ftab.getD ix 0).setWidth 64) s.cycleStart).setWidth 32
/-- The tensor scale an entry indexes (R50, R51). -/
def State.scaleOf (s : State) (u : Nat) (e : Word) : BitVec 32 :=
  ((s.unit u).sees (0x300 + entTsi e) (((s.unit u).tstab.getD (entTsi e) 0x3F800000).setWidth 64) s.cycleStart).setWidth 32

/-! Which words stop or wait (R281, R299, R365, R366) -/

/-- A command that issues once every earlier command of its context has completed (R299, R356, R365). -/
def Instr.afterAll : Instr → Bool
  | .msync _ _ _ => true
  | .csig _ _ => true
  | .cfnc _ => true
  | .pub _ _ _ _ _ _ => true
  | _ => false
/-- A command whose status MSTAT reports (R300). -/
def Instr.arrayWork : Instr → Bool
  | .mma _ _ _ _ _ _ _ _ _ _ => true
  | .mmag _ _ _ _ _ _ _ => true
  | .mtrq _ _ => true
  | .mprefW _ _ => true
  | _ => false
/-- The x register a queued command writes at its completion (R281, R300). -/
def Instr.lateReg : Instr → Option Nat
  | .mstat a => some a.toNat
  | _ => none
/-- An MMA whose M bit takes a pending MHOLD (R297). -/
def Instr.takesHold : Instr → Bool
  | .mma _ _ _ _ _ _ m _ _ _ => decide (m = 1)
  | _ => false
/-- Registers that commands of a context still have to write (R281). -/
def Ctx.owing (c : Ctx) : List Nat := (c.queue ++ c.flight).filterMap fun q => Instr.lateReg q.instr

/-! Submission (R125, R126, R222, R223) -/

/-- The context in issue, where the stream in issue is one. -/
def State.myCtx (s : State) : Ctx :=
  match s.sel with
  | .ctx u e j => s.ctx u e j
  | .voice _ _ => {}
/-- The queue and the journal have room for a command that names `n` registers (R125, R126). -/
def State.room (s : State) (n : Nat) : Bool :=
  decide (s.myCtx.queue.length < 16) &&
    decide (s.myCtx.journalUsed + 1 + cdiv n 2 ≤ (s.unit s.selUnit).place.jent)

/-- Frames pinned by the commands of a die, one entry for each pin (R222, R223). -/
def State.pinned (s : State) (die : Nat) : List Nat :=
  s.ctxs.flatMap fun c => if (s.unit (c.1 / 12)).place.die = die then (c.2.queue ++ c.2.flight).flatMap (·.pins) else []
/-- The page-lock table has no room for these pins (R223). -/
def State.pltFull (s : State) (die : Nat) (fs : List Nat) : Bool :=
  decide (32768 < (s.pinned die ++ fs).eraseDups.length) ||
    fs.any fun f => decide (65535 ≤ ((s.pinned die).filter fun g => decide (g = f)).length)

/-- Page `i` of a plain global range from `va` as an engine uses it: its frame, or the trap (R207, R211, R222, R350). -/
def State.lookPage (s : State) (u : Nat) (acc : Access) (va i : Nat) : Except Trap Nat :=
  if 2 ^ 57 ≤ i * 4096 then .error ⟨0x0A, max va (i * 4096)⟩
  else if ((s.unitLaunch u).aperture (i * 4096)).isSome then .error ⟨0x0B, max va (i * 4096)⟩
  else match s.translate u acc (max va (i * 4096)) with
    | .error t => .error t
    | .ok l => .ok (l.pa / 4096)
/-- The first fault of a list of look-ups that is no page fault (steps 1 and 2 of R222); else its first page fault (step 4). -/
def firstFault (l : List Trap) : Option Trap := (l.find? fun t => decide (t.code ≠ 0x40)).or l.head?
/-- The faults of a plain global range, in address order. -/
def State.pageFaults (s : State) (u : Nat) (wr : Bool) (va n : Nat) : List Trap :=
  (tilesOf va n).filterMap fun i => match s.lookPage u (if wr then .engWrite else .engRead) va i with
    | .error t => some t
    | .ok _ => none
/-- A plain global range of `n` bytes as an engine uses it: its pages with their frames, or the trap (R222). -/
def State.lookPages (s : State) (u : Nat) (wr : Bool) (va n : Nat) : Except Trap (List (Nat × Nat)) :=
  match firstFault (s.pageFaults u wr va n) with
  | some t => .error t
  | none => .ok ((tilesOf va n).reverse.filterMap fun i =>
      match s.lookPage u (if wr then .engWrite else .engRead) va i with
      | .ok f => some (i, f)
      | .error _ => none)

/-- A scratchpad range an engine command declares lies in the allocation (step 3 of R222). -/
def State.spClaim (s : State) (u lo n : Nat) : Option Trap :=
  if (s.unit u).place.holds lo n then none else some ⟨0x10, lo⟩

/-- The first byte of a unit's journal area (R33). -/
def Place.journalAt (p : Place) : Nat := p.hi - 256 * p.guards - 48 * p.voices * p.jent
/-- Entry `i` of the journal ring of context `j` of an engine (R33, R126); the rings stand by engine, then by voice. DESIGN
CHOICE, log 68. -/
def Place.journalEntry (p : Place) (e : Engine) (j i : Nat) : Nat := p.journalAt + 16 * ((e.code * p.voices + j) * p.jent + i % p.jent)
/-- The sixteen-byte entries of a command: its header, then its register values in pairs (R126). -/
def Cmd.journalEntries (q : Cmd) : List (List Byte) :=
  (leBytes q.cn 4 ++ leBytes q.word.toNat 4 ++ leBytes q.fent.toNat 4 ++ leBytes q.tsv.toNat 4) ::
    (List.range (cdiv q.regs.length 2)).map fun k => leBytes (q.regs.getD (2 * k) 0).toNat 8 ++ leBytes (q.regs.getD (2 * k + 1) 0).toNat 8
def State.putEntries (s : State) (u : Nat) (e : Engine) (j i : Nat) : List (List Byte) → State
  | [] => s
  | b :: t => (s.spPuts u ((s.unit u).place.journalEntry e j i) b).putEntries u e j (i + 1) t
/-- The journal entries of a command are written at the head of its context's ring (R125, R126). -/
def State.journal (s : State) (u : Nat) (e : Engine) (j : Nat) (q : Cmd) : State :=
  let s1 := s.putEntries u e j (s.ctx u e j).jpos q.journalEntries
  s1.setCtx u e j { s1.ctx u e j with jpos := ((s.ctx u e j).jpos + q.journal) % (s.unit u).place.jent }
/-- Within one cycle commands enter in the order copy, vector, matrix (R127). -/
def engineRank : Engine → Nat
  | .copy => 0
  | .vector => 1
  | .matrix => 2
/-- The place in the entry order of a command that enters in the cycle in progress: by cycle, engine, voice slot (R127). -/
def State.entryNow (s : State) (u : Nat) (e : Engine) (j : Nat) : Nat :=
  s.cycleStart * 2 ^ 16 + engineRank e * 4 + ((s.unit u).place.slot0 + j) % 4
/-- A checked command enters its queue with its journal entries, and receives its cn and its place in the entry order (R125,
R126, R127, R222, R223). -/
def State.enqueue (s : State) (c : Cmd) : State :=
  match s.sel with
  | .ctx u e j =>
    let x := s.ctx u e j
    let n := s.entryNow u e j
    let c1 := { c with cn := x.nextCn, word := s.iw, raw := s.ir, entry := n, born := n, stsc := s.stscNow, pins := c.pins.eraseDups }
    let s1 := s.journal u e j c1
    let s2 := s1.setCtx u e j { s1.ctx u e j with
      nextCn := x.nextCn + 1, queue := x.queue ++ [c1], hold := if Instr.takesHold c.instr then none else x.hold }
    if c.con = 0 then s2 else s2.setUnit u { s2.unit u with consorts := c.con }
  | .voice _ _ => s
/-- A decode-time instruction takes a cn, writes its header and is complete (R281). -/
def State.instant (s : State) : State :=
  match s.sel with
  | .ctx u e j =>
    let x := s.ctx u e j
    let s1 := s.journal u e j { cn := x.nextCn, word := s.iw, instr := .mnop 0, regs := [] }
    s1.setCtx u e j (({ s1.ctx u e j with nextCn := x.nextCn + 1, last := ((x.nextCn, 2 ^ 63) :: x.last).take 16 }).complete x.nextCn 1)
  | .voice _ _ => s

/-! Which units are on a core, and the range checker (R127) -/

def State.unitOn (s : State) (d p u : Nat) : Bool :=
  match s.units.find u with
  | none => false
  | some t => t.onCore && decide (t.place.die = d) && decide (s.home u = p)
/-- Commands of the engines of a core that are not complete. -/
def State.cmdsOn (s : State) (d p : Nat) : List Cmd :=
  s.ctxs.flatMap fun c => if s.unitOn d p (c.1 / 12) then c.2.queue ++ c.2.flight else []

def Claim.meets (a b : Claim) : Bool :=
  decide (a.space = b.space) && (a.wr || b.wr) && decide (a.lo < b.lo + b.len) && decide (b.lo < a.lo + a.len)
/-- The range checker holds nothing against a command: no overlapping one that entered before it, and none that has issued already
(R127). -/
def State.clear (s : State) (d p : Nat) (c : Cmd) : Bool :=
  !(s.cmdsOn d p).any fun q => (decide (q.entry < c.entry) || decide (q.phase = .issued ∧ c.entry < q.entry)) && q.claims.any fun a => c.claims.any fun b => a.meets b

/-! Readiness and arbitration (R104, R105) -/

/-- The head command of a context could issue but for the engine itself (R104, R299, R300). -/
def State.isReady (s : State) (d p : Nat) (c : Ctx) (q : Cmd) : Bool :=
  s.clear d p q && (!Instr.afterAll q.instr || decide (q.cn ≤ c.done + 1)) &&
    match q.instr with
    | .mstat _ => !c.flight.any fun k => Instr.arrayWork k.instr
    | _ => true
/-- A context has a ready command from cycle `r` of its engine on: a run of such cycles goes on, or a new one begins and the
steps of the one before it stand (R105). -/
def Ctx.readyFrom (c : Ctx) (r : Nat) : Ctx :=
  match c.since with
  | none => { c with since := some r }
  | some a => if r ≤ c.gap then c else { c with since := some r, boost := c.boost + (c.gap - a) / 256 }
/-- The head command of a context is marked armed (R263), and ready with its cycle (R104), or ready no more where one of its cycle
has entered before it (R127); `late` is 1 in the cycle of a matrix command's completion (R302). -/
def State.markHead (s : State) (d p late : Nat) (e : Engine) (c : Ctx) : Ctx :=
  match c.queue with
  | [] => c
  | q :: qs =>
    let q1 := if q.armed then q else { q with armed := true, armedAt := s.free d p }
    if q1.readyAt.isSome && !s.clear d p q then { c.unready (s.eclk d p e) with queue := { q1 with readyAt := none } :: qs }
    else if q1.readyAt.isNone && s.isReady d p c q then
      let r := s.eclk d p e + if e = .matrix then late else 0
      { c.readyFrom r with queue := { q1 with readyAt := some r } :: qs }
    else { c with queue := q1 :: qs }
/-- Readiness on a core is brought up to date. -/
def State.refresh (s : State) (d p late : Nat) : State :=
  { s with ctxs := s.ctxs.map fun (c : Nat × Ctx) =>
      if s.unitOn d p (c.1 / 12) then (c.1, s.markHead d p late (engineOf c.1) c.2) else c }
def State.refreshUnit (s : State) (u late : Nat) : State := s.refresh (s.unit u).place.die (s.home u) late

/-- A word of an engine's private map is submitted: it decodes once its context has room for it and its `n` registers, and
passes its checks (R125, R126, R222). -/
def State.engineWord (s : State) (e : Engine) (n : Nat) (r : Except Trap (State × Cmd)) (k : State → Cmd → Out) : Out :=
  match s.sel with
  | .voice _ _ => .next (s.raiseTrap s.illegal)
  | .ctx _ e' _ =>
    if e' ≠ e then .next (s.raiseTrap s.illegal)
    else if s.room n = false then .next s
    else match r with
      | .error t => .next (s.raiseTrap t)
      | .ok (s1, c) => k s1 c
/-- A decode-time instruction takes effect and completes as it decodes (R281). -/
def State.decodeTime (s : State) (e : Engine) (r : Except Trap State) : Out :=
  match s.sel with
  | .voice _ _ => .next (s.raiseTrap s.illegal)
  | .ctx _ e' _ =>
    if e' ≠ e then .next (s.raiseTrap s.illegal)
    else if s.room 0 = false then .next s
    else match r with
      | .error t => .next (s.raiseTrap t)
      | .ok s1 => .next s1.instant.advance
/-- The check of order `n` of a command's words failed: the cause with its XINFO (R442). -/
def State.fieldTrap (s : State) (code n : Nat) : Trap := ⟨code, s.wordInfo n⟩
def require (b : Bool) (t : Trap) : Except Trap Unit := if b then .ok () else .error t

/-- The last steps of submission: the tile limit, room in the page-lock table, the queue (R222, R223). -/
def State.submit (s : State) (c : Cmd) : Out :=
  let n := c.pins.eraseDups.length
  if 4096 < n then .next (s.raiseTrap ⟨0x16, n⟩)
  else if s.pltFull (s.unit s.selUnit).place.die c.pins.eraseDups then .next s
  else .next ((s.enqueue c).advance.refreshUnit s.selUnit 0)

/-- The key of R104 by which an engine chooses: effective priority, readiness, voice slot. -/
structure Rank where
  prio : Nat
  ready : Nat
  slot : Nat
deriving DecidableEq, Repr

def Rank.before (a b : Rank) : Bool :=
  decide (a.prio < b.prio) || (decide (a.prio = b.prio) &&
    (decide (a.ready < b.ready) || (decide (a.ready = b.ready) && decide (a.slot < b.slot))))
/-- The choice of R104 among ranked candidates: the first that none is before. -/
def pickRank {α : Type} : List (Rank × α) → Option α
  | l => (l.find? fun a => l.all fun b => !b.1.before a.1).map (·.2)
/-- The rank of a ready command of context `j` of unit `u`: its boost counts the cycles in which the context had a ready
command and did not issue (R104, R105). -/
def State.rank (s : State) (u : Nat) (e : Engine) (j ready : Nat) : Rank :=
  let c := s.ctx u e j
  ⟨(s.unit u).prio - (c.boost + (s.eclk (s.unit u).place.die (s.home u) e - max (c.since.getD ready) c.issuedAt) / 256), ready,
    (s.unit u).place.slot0 + j⟩

/-- The context may decode: it runs, nothing stops it, its queue has room, and its engine is not being reset (R125, R299,
R364, R454). -/
def State.decodes (s : State) (u : Nat) (e : Engine) (j : Nat) : Bool :=
  decide ((s.ctx u e j).status = .running) && (s.ctx u e j).stop.isNone
    && decide ((s.ctx u e j).queue.length < 16) && ((s.unitCore u).reset.find e.code).isNone
/-- No context of the core may yet enter a command before `q` in the cycle in which `q` entered (R127). -/
def State.settled (s : State) (d p u : Nat) (e : Engine) (j : Nat) (q : Cmd) : Bool :=
  let now := s.dcc d
  decide (q.entry / 2 ^ 16 ≠ (s.clkOf (.ctx u e j)).start now)
    || (q.stamp.isSome && decide ((s.clkOf (.ctx u e j)).ends now = now + 1))
    || !s.ctxs.any fun c =>
      let v := c.1 / 12
      let f := engineOf c.1
      s.unitOn d p v && decide ((s.unit v).status = .resident) && decide (c.2.nextAt ≤ now) && s.decodes v f (c.1 % 4)
        && decide ((s.clkOf (.ctx v f (c.1 % 4))).start now * 2 ^ 16 + engineRank f * 4 + ((s.unit v).place.slot0 + c.1 % 4) % 4 < q.entry)
/-- Contexts of engine `e` on a core, of resident units, with their head commands where those are ready (R104). -/
def State.heads (s : State) (d p : Nat) (e : Engine) : List (Nat × Nat × Ctx × Cmd) :=
  s.ctxs.filterMap fun (c : Nat × Ctx) =>
    if engineOf c.1 = e ∧ s.unitOn d p (c.1 / 12) = true ∧ (s.unit (c.1 / 12)).status = .resident then
      match c.2.queue with
      | [] => none
      | q :: _ => match q.readyAt with
        | none => none
        | some r => if r ≤ s.eclk d p e ∧ s.settled d p (c.1 / 12) e (c.1 % 4) q = true then some (c.1 / 12, c.1 % 4, c.2, q) else none
    else none
/-- The engine may issue: it is not being reset and the core is not held (R240, R454). -/
def State.engineOn (s : State) (d p : Nat) (e : Engine) : Bool := !s.holding d p && ((s.core d p).reset.find e.code).isNone
/-- The engine has made no choice in this cycle of its own yet (R104). -/
def State.mayChoose (s : State) (d p : Nat) (e : Engine) : Bool := decide ((s.core d p).chose.getD e.code 0 ≤ s.ecyc d p e)
/-- The engine makes its choice of this cycle. -/
def State.choose (s : State) (d p : Nat) (e : Engine) : State :=
  s.setCore d p { s.core d p with chose := (s.core d p).chose.put e.code (s.ecyc d p e + 1) }

/-- The head command leaves its queue: `q` is issued, and its context's boost counts from the next cycle (R104, R105). -/
def State.toFlight (s : State) (u : Nat) (e : Engine) (j : Nat) (q : Cmd) : State :=
  let c := s.ctx u e j
  s.setCtx u e j { c with
    queue := c.queue.filter fun k => decide (k.cn ≠ q.cn), flight := c.flight ++ [q]
    issuedAt := s.eclk (s.unit u).place.die (s.home u) e + 1, boost := 0, since := none, gap := 0 }
/-- Command `cn` of a context. -/
def Ctx.cmd (c : Ctx) (cn : Nat) : Option Cmd := (c.queue ++ c.flight).find? fun q => decide (q.cn = cn)
/-- A command of a context changes. -/
def Ctx.setCmd (c : Ctx) (q : Cmd) : Ctx :=
  { c with queue := c.queue.map fun k => if k.cn = q.cn then q else k
           flight := c.flight.map fun k => if k.cn = q.cn then q else k }

/-- Command `q` is complete (R126, R366): its pins and journal entries are released. -/
def State.completeCmd (s : State) (u : Nat) (e : Engine) (j : Nat) (q : Cmd) : State :=
  let c := s.ctx u e j
  let c0 := if c.queue.any fun k => decide (k.cn = q.cn) then c.unready (s.eclk (s.unit u).place.die (s.home u) e) else c
  let c1 := { c0 with
    queue := c.queue.filter fun k => decide (k.cn ≠ q.cn)
    flight := c.flight.filter fun k => decide (k.cn ≠ q.cn)
    stop := if c.stop = some q.cn then none else c.stop }
  (s.setCtx u e j ((c1.finish q).settle (s.engEnd u e))).refreshUnit u (if e = .matrix then 1 else 0)

/-- The guard granules a command touched are recorded at its completion (R225). -/
def State.touchCmd (s : State) (u agent : Nat) (q : Cmd) : State :=
  match q.claims.find? fun a => decide (a.space = 0) && (List.range a.len).any fun i => (s.unit u).place.guarded (a.lo + i) with
  | none => s
  | some a => s.touch u agent a.wr a.lo a.len
/-- Bytes that engine commands of unit `u` write to global memory at a scope: visible in one act of the coherence order
(R371, R386), with the watches and aperture tiles they set off (R230, R402). -/
def State.engineWrite (s : State) (u scope : Nat) (l : List (Nat × Byte)) : State :=
  let pas := l.map (·.1)
  ((s.land u scope (s.unitKey u) l).dropSnaps pas).fire (fun k _ => s.reachesUnit u scope k) pas
/-- A class F cause of an engine command fails its unit (R440, R443). -/
def State.failCmd (s : State) (u : Nat) (e : Engine) (j : Nat) (t : Trap) : State :=
  s.failUnit u j none (causeWord t.code 0 (some e) j) (BitVec.ofNat 64 t.info)

/-! Accumulator slots (R98, R120, R224) -/

/-- The key of slot `z` of a unit: its physical slot on its core. -/
def State.slotKey (s : State) (u z : Nat) : Nat :=
  pkey (s.unit u).place.die (s.home u) * 16 + (s.unit u).place.slots.getD z 0
def accKey (slot row col : Nat) : Nat := (slot * 96 + row) * 160 + col
/-- A word of a slot; one that nothing has written is unspecified (R118). -/
def State.accWord (s : State) (slot row col : Nat) : BitVec 32 :=
  match s.acc.find (accKey slot row col) with
  | some v => v
  | none => BitVec.ofNat 32 (leNat ((List.range 4).map fun i => Config.freeByte s.fresh (2 ^ 62 + accKey slot row col * 4 + i)))
def State.putAcc (s : State) : List (Nat × BitVec 32) → State
  | [] => s
  | (k, v) :: t => ({ s with acc := s.acc.put k v } : State).putAcc t
def State.lanOf (s : State) (slot : Nat) : Lan := s.lan.getD slot {}
def State.dscOf (s : State) (slot : Nat) : BitVec 32 := s.dsc.getD slot 0x3F800000
/-- LAN of a slot names a command (R120, R261). -/
def State.setLan (s : State) (slot u j : Nat) (q : Cmd) : State :=
  { s with lan := s.lan.put slot ⟨(s.unit u).place.slot0 + j, q.cn, q.born⟩ }
/-- A replayed command is skipped for a slot whose LAN names it or one that entered after it (R261). -/
def State.skipped (s : State) (slot u j : Nat) (q : Cmd) : Bool :=
  q.replay && (decide (s.lanOf slot = ⟨(s.unit u).place.slot0 + j, q.cn, q.born⟩) || decide (q.born < (s.lanOf slot).entry))
def slotClaim (slot : Nat) (wr : Bool) : Claim := ⟨1, slot, 1, wr⟩

/-! Completion objects (R299, R365, R398, R455) -/

/-- The key of a context at a completion object (R455). -/
def objKey (ctx pa : Nat) : Nat := ctx * 2 ^ 52 + pa
/-- The object's home has applied a replayed command's increment already (R349, R455). -/
def State.counted (s : State) (ctx pa : Nat) (q : Cmd) : Bool := q.replay && (s.applied.getD (objKey ctx pa) []).contains q.cn
/-- The object's home has applied the increment of a command of a context (R455). -/
def State.noteApplied (s : State) (ctx pa cn : Nat) : State :=
  { s with applied := s.applied.put (objKey ctx pa) (cn :: s.applied.getD (objKey ctx pa) []) }
/-- A completion object at `pa` rises by one for command `q`, with release at a scope (R299, R365, R388). -/
def State.countObject (s : State) (u scope pa : Nat) : State :=
  let s1 := s.widen u scope
  s1.homeWrite u scope pa (leBytes (s1.latestNat u pa 8 + 1) 8)

end Sys2Proof.Machine
end

