-- ==== Sys2Proof/Machine/Array.lean ====
section
/-! DEFINITION. The arithmetic of the array (R66 to R71, R259, R262, R285): operand blocks, the sum of each format, drains
and the requantising transposer. -/
namespace Sys2Proof.Machine
open Sys2Proof

/-- One K-block of an operand: its sixteen codes, none beyond the operand's extents (R65, R237), and its scale half-word
(R64). -/
structure KBlock where
  codes : List (Option Nat)
  scale : Nat := 0
deriving DecidableEq, Repr

/-- No element of the block lies inside the extents (R237). -/
def KBlock.void (b : KBlock) : Bool := b.codes.all (·.isNone)
/-- The integer of an element: RB8, I8 or B4 (R60, R61). -/
def intCode (code : Nat) : Option Nat → Int
  | none => 0
  | some c => if code = 5 then (decodeRB8 c).1 else if code = 4 then sint 8 c else sint 4 c
/-- Elements whose code is not canonical (R61). -/
def KBlock.ncs (b : KBlock) : Nat := (b.codes.filter fun c => match c with
  | none => false
  | some v => decide ((decodeRB8 v).2 ≠ 0)).length
/-- The exact sum of the products of two blocks. -/
def dotInt (code : Nat) (a b : KBlock) : Int :=
  ((a.codes.zip b.codes).map fun p => intCode code p.1 * intCode code p.2).foldl (· + ·) 0
/-- μ of element `k` of a block (R64). -/
def mu (h k : Nat) : Nat := bits h (8 + k / 2) 1
/-- The sum of the products of two nested blocks, doubled twice less their μ (R67). -/
def dotNested (code : Nat) (a b : KBlock) : Int :=
  ((a.codes.zip b.codes).zipIdx.map fun p =>
    intCode code p.1.1 * intCode code p.1.2 * (2 ^ (2 - mu a.scale p.2 - mu b.scale p.2) : Nat)).foldl (· + ·) 0

/-- A nested block pair joins an FP32 accumulator (R67). The half-word of a block of B without an element counts for
nothing (R237); a NaN block of A beside it is still a NaN block. DEDUCED, log 66. -/
def addNested (code : Nat) (acc : Nat × X) (p : KBlock × KBlock) : Nat × X :=
  let ea := p.1.scale % 256
  let eb := p.2.scale % 256
  let r := if ea = 255 ∨ (p.2.void = false ∧ eb = 255) then (canonNaN fp32, flNV)
    else
      let t := dotNested code p.1 p.2
      if t = 0 then acc32 acc.1 (.zero false) else acc32 acc.1 (.dyadic t ((ea : Int) + eb - 256))
  (r.1, acc.2 ||| r.2)
/-- The value of a floating-point element, zero beyond the extents. -/
def fpCode (code : Nat) : Option Nat → Val
  | none => .zero false
  | some c => (readElem code c).1
/-- The exact sum of a block of floating-point products and its flags (R70). -/
def blockSum (code : Nat) (a b : KBlock) : Val × X :=
  let ps := (a.codes.zip b.codes).map fun p => mulVal (fpCode code p.1) (fpCode code p.2)
  let s := sumVals 0 (ps.map (·.1))
  (if s.1.isNum0 then .zero false else s.1, ps.foldl (fun f p => f ||| p.2) s.2)
/-- A floating-point block pair joins an FP32 accumulator (R70). -/
def addFloat (code : Nat) (acc : Nat × X) (p : KBlock × KBlock) : Nat × X :=
  let b := blockSum code p.1 p.2
  let r := acc32 acc.1 b.1
  (r.1, acc.2 ||| b.2 ||| r.2)
/-- Up to 512 elements of a tensor-mode RB8 command join the accumulator at a conversion point (R68). -/
def addResidue (acc : Nat × X) (ps : List (KBlock × KBlock)) : Nat × X :=
  let t := (ps.map fun p => dotInt 5 p.1 p.2).foldl (· + ·) 0
  let r := acc32 acc.1 (.ofInt t)
  (r.1, acc.2 ||| r.2)
/-- The conversion points of R68: after every 512 elements, and at the end. -/
def residueRun : Nat → Nat × X → List (KBlock × KBlock) → Nat × X
  | 0, acc, _ => acc
  | n + 1, acc, ps => if ps.isEmpty then acc else residueRun n (addResidue acc (ps.take 32)) (ps.drop 32)
/-- The products of an I8 command join an int32 accumulator, saturating (R69). -/
def addI8 (acc : Nat) (ps : List (KBlock × KBlock)) : Nat × X :=
  let t := sint 32 acc + (ps.map fun p => dotInt 4 p.1 p.2).foldl (· + ·) 0
  let r := cvtInt (-2 ^ 31) (2 ^ 31 - 1) 0 (.ofInt t)
  (uint 32 r.1, r.2)
/-- Row of A times column of B over all K-steps, added to an accumulator word (R66 to R70, R285). -/
def dotRun (code sm acc : Nat) (ps : List (KBlock × KBlock)) : Nat × X :=
  if code = 4 then addI8 acc ps
  else if sm = 1 then ps.foldl (addNested code) (acc, 0)
  else if code = 5 then residueRun (ps.length + 1) (acc, 0) ps
  else ps.foldl (addFloat code) (acc, 0)

/-- A product of FP32 words, rounded to nearest (R71, R289). -/
def mul32 (a b : Nat) : Nat × X :=
  let p := mulVal (unpack fp32 a) (unpack fp32 b)
  let r := rne32 p.1
  (r.1, p.2 ||| r.2)

/-! The A operand (R276, R277) -/

structure AOp where
  tensor : Bool
  sscl : Nat
  sstr : Nat
  saddr : Nat
  tn : Nat
  c0 : Nat
  c1 : Nat
  c2 : Nat
  c3 : Nat
  ncm : Nat
  rcm : Nat
  steps : Nat
  row0 : Nat
  cnt : Nat
deriving DecidableEq, Repr

/-- The location word `l` and the shape word `w`. -/
def AOp.of (l w : X) : AOp :=
  let a := l.toNat
  let b := w.toNat
  { tensor := bits a 63 1 = 1, sscl := bits a 42 21, sstr := bits a 21 21, saddr := bits a 0 21
    tn := bits a 0 8, c1 := bits a 8 24, c2 := bits a 32 24, c0 := bits b 32 24, c3 := bits b 56 8
    ncm := bits b 30 2, rcm := bits b 28 2, steps := bits b 16 12 + 1, row0 := bits b 9 7, cnt := bits b 0 9 }
/-- The location word's own range and zero checks (R276, check 1 of R280). -/
def aWordBad (nested : Bool) (l w : X) : Bool :=
  let a := AOp.of l w
  if a.tensor then decide (bits l.toNat 56 7 ≠ 0) || decide (a.c0 % 16 ≠ 0)
  else decide (a.sscl % 2 ≠ 0) || (!nested && decide (a.sscl ≠ 0)) || decide (a.sstr % 16 ≠ 0) || decide (a.saddr % 16 ≠ 0)
    || decide (bits w.toNat 32 32 ≠ 0)

/-- Rc and Nc of a consort (R266), and the grid place of a unit in it. -/
def AOp.rc (a : AOp) : Nat := a.rcm + 1
def AOp.nc (a : AOp) : Nat := a.ncm + 1
def AOp.gridRow (a : AOp) (inst : Nat) : Nat := inst % 16 / a.nc
def AOp.gridCol (a : AOp) (inst : Nat) : Nat := inst % 16 % a.nc
/-- Rows a consort member computes (R267). -/
def AOp.memberRows (a : AOp) (inst : Nat) : Nat := min 96 (a.cnt - 96 * a.gridRow inst)

/-- Bytes of a row of A of `n` elements. -/
def rowBytes (code n : Nat) : Nat := codeBits code * n / 8
/-- A code of width `codeBits code` among bytes that begin with its own. -/
def pickCode (code k v : Nat) : Nat := if codeBits code = 4 then bits v (4 * (k % 2)) 4 else v % 2 ^ codeBits code
/-- Block `st` of row `i` of an A operand (R276): `t` its tensor and the copy it reads, where it is one, its bytes read by `rd`.
An element of a tensor whose FMT has another width than `code` lies where FMT places it. DESIGN CHOICE, log 70. -/
def State.aBlock (s : State) (u : Nat) (a : AOp) (t : Tensor) (copy : Bool) (rd : Nat → Option Nat → Byte) (code sm i st : Nat) :
    KBlock :=
  if a.tensor then
    { codes := (List.range 16).map fun k =>
        let c := [a.c0 + 16 * st + k, a.c1 + i, a.c2, a.c3]
        if t.extent 0 ≤ a.c0 + 16 * st + k then none
        else some (pickCode code 0 (t.elemBy rd copy c))
      scale := if sm = 1 then t.scaleBy rd [a.c0 + 16 * st, a.c1 + i, a.c2, a.c3] else 0 }
  else
    { codes := (List.range 16).map fun k =>
        let e := 16 * st + k
        some (pickCode code e (leNat (s.spBytes u (a.saddr + i * a.sstr + byteOf code e) (elemBytes code))))
      scale := if sm = 1 then leNat (s.spBytes u (a.sscl + 2 * (i * a.steps + st)) 2) else 0 }

/-! The B operand (R237) -/

/-- A column group of a region from K-step `s0` on, in one bank. -/
structure BOp where
  key : Nat
  region : Region
  die : Nat
  group : Nat
  s0 : Nat
  bank : Bool
deriving DecidableEq, Repr

def BOp.tileAddr (b : BOp) (st : Nat) : Nat :=
  b.region.addr b.die (b.region.homeOf b.group) b.bank false (tileStride b.region.fmt * (b.s0 + st))
def BOp.scaleAddr (b : BOp) (st : Nat) : Nat :=
  b.region.addr b.die (b.region.homeOf b.group) b.bank true (320 * (b.s0 + st))
/-- Block of column `j` in K-step `st` (R237): codes outside KEXT and NEXT count for nothing. -/
def State.bBlock (s : State) (b : BOp) (st j : Nat) : KBlock :=
  let code := b.region.fmt
  { codes := (List.range 16).map fun i =>
      if b.region.kext ≤ 16 * (b.s0 + st) + i ∨ b.region.next ≤ 160 * b.group + j then none
      else
        let o := b.tileAddr st + byteOf code (16 * j + i)
        some (pickCode code i (leNat ((List.range (elemBytes code)).map fun k => s.cell (o + k))))
    scale := if b.region.sm = 1 then leNat [s.cell (b.scaleAddr st + 2 * j), s.cell (b.scaleAddr st + 2 * j + 1)] else 0 }
/-- A codeword of the region that reads as poison (R250 to R252). -/
def State.cwBad (s : State) (r : Region) (a : Nat) : Bool :=
  r.dmg || (s.unusable.find (bankKey a)).isSome || (s.wpoison.find (a / 64)).isSome
/-- The first poisoned codeword of the tiles and scale blocks of `n` K-steps (R252). -/
def State.bPoison (s : State) (b : BOp) (n : Nat) : Option Nat :=
  (List.range n).findSome? fun st =>
    let tile := (List.range (tileBytes b.region.fmt / 64)).map fun i => b.tileAddr st + 64 * i
    let scale := if b.region.sm = 1 then (List.range 5).map fun i => b.scaleAddr st + 64 * i else []
    (tile ++ scale).find? (s.cwBad b.region)

/-- Codes packed into bytes: a byte for each, or B4 nibbles in pairs (R60). -/
def packCodes (code : Nat) (vs : List Int) : List Byte :=
  if code = 6 then (List.range (vs.length / 2)).map fun k => BitVec.ofNat 8 (uint 4 (vs.getD (2 * k) 0) + 16 * uint 4 (vs.getD (2 * k + 1) 0))
  else vs.map fun v => BitVec.ofNat 8 (encodeRB8 v)

/-! Products (R285) -/

/-- What a product leaves: slot words, flags, elements saturated, codes not canonical (R273, R300). -/
structure Product where
  words : List (Nat × BitVec 32) := []
  flags : X := 0
  sat : Nat := 0
  ncs : Nat := 0
deriving DecidableEq, Repr

def Product.join (a b : Product) : Product :=
  ⟨a.words ++ b.words, a.flags ||| b.flags, a.sat + b.sat, a.ncs + b.ncs⟩
/-- The accumulator word a row starts from: zero, or the slot's word, times the decay scalar under D (R285, R289). -/
def startAcc (z d : Bool) (w dsc : BitVec 32) : Nat × X :=
  if z then (0, 0) else if d then mul32 w.toNat dsc.toNat else (w.toNat, 0)
/-- Rows `r0` to `r0 + m - 1` of a slot: rows `a0` on of A times the column group (R285). `au` is the unit whose storage
holds A; `rd` reads the bytes of a tensor. -/
def State.product (s : State) (slot au : Nat) (a : AOp) (t : Tensor) (copy : Bool) (rd : Nat → Option Nat → Byte) (b : BOp)
    (code sm : Nat) (z d : Bool) (a0 m r0 : Nat) : Product :=
  let as := (List.range m).map fun i => (List.range a.steps).map fun st => s.aBlock au a t copy rd code sm (a0 + i) st
  let bs := (List.range 160).map fun n => (List.range a.steps).map fun st => s.bBlock b st n
  let out := as.zipIdx.flatMap fun x => bs.zipIdx.map fun y =>
    let w := startAcc z d (s.accWord slot (r0 + x.2) y.2) (s.dscOf slot)
    let r := dotRun code sm w.1 (x.1.zip y.1)
    (accKey slot (r0 + x.2) y.2, r.1, w.2 ||| r.2)
  let nc := if code = 5 then (as.map fun l => (l.map KBlock.ncs).sum).sum + (bs.map fun l => (l.map KBlock.ncs).sum).sum else 0
  { words := out.map fun o => (o.1, BitVec.ofNat 32 o.2.1)
    flags := out.foldl (fun f o => f ||| o.2.2) (if nc = 0 then 0 else flNC)
    sat := (out.filter fun o => decide (o.2.2 &&& flSAT ≠ 0)).length
    ncs := nc }

/-! The requantising transposer (R298) -/

/-- The exact value of a source element as a multiple of 2^-128, none in a NaN block (R64). -/
def mtrqValue (code : Nat) (b : KBlock) (i : Nat) : Option Int :=
  match b.codes.getD i none with
  | none => some 0
  | some c => match blockExp b.scale i with
    | none => none
    | some e => some (intCode code (some c) * (2 ^ (e + 128).toNat : Nat))
/-- A magnitude `a`, in units of 2^-U, is at most Q × 2^x. -/
def within (U a q : Nat) (x : Int) : Bool := decide (a ≤ q * 2 ^ (x + U).toNat)
/-- The least x at or above -127 with `a` at most Q × 2^x, or 127 where none below has it (R298). -/
def leastExp (U a q : Nat) : Int :=
  match (List.range 255).find? fun (k : Nat) => within U a q ((k : Int) - 127) with
  | some k => (k : Int) - 127
  | none => 127
/-- One output element: v × 2^(μ - x) rounded to an integer in mode `rm`, held to Q; and its flags (R298). `v` counts in
units of 2^-U. -/
def quantElem (U rm q : Nat) (x : Int) (m : Nat) (v : Int) : Int × X :=
  let r := roundAt rm (decide (v < 0)) v.natAbs 1 (-(U : Int)) (x - m)
  let k := min r.1 q
  let exact : Bool := decide (k * 2 ^ (x - m + U).toNat = v.natAbs)
  (if v < 0 then -(k : Int) else k, (if q < r.1 then flSAT else 0) ||| (if exact then 0 else flNX))
/-- A quantised block: scale half-word, codes as integers, flags, elements saturated. -/
structure QBlock where
  scale : Nat
  codes : List Int
  flags : X
  sat : Nat
deriving DecidableEq, Repr
/-- One block of sixteen values, none among them where it is a NaN block (R298, R333). -/
def quantBlock (U rm q : Nat) (vs : List (Option Int)) : QBlock :=
  if vs.any (·.isNone) then ⟨255, vs.map fun _ => 0, flNV, 0⟩
  else
    let v := vs.map fun o => o.getD 0
    let a := (v.map Int.natAbs).foldl max 0
    if a = 0 then ⟨127, v.map fun _ => 0, 0, 0⟩
    else
      let x := leastExp U a q
      let m := fun (p : Nat) => if within U (max (v.getD (2 * p) 0).natAbs (v.getD (2 * p + 1) 0).natAbs) q (x - 1) then 1 else 0
      let es := v.zipIdx.map fun e => quantElem U rm q x (m (e.2 / 2)) e.1
      ⟨(x + 127).toNat + 256 * ((List.range 8).map fun p => m p * 2 ^ p).sum, es.map (·.1), es.foldl (fun f e => f ||| e.2) 0,
        (es.filter fun e => decide (e.2 &&& flSAT ≠ 0)).length⟩

end Sys2Proof.Machine
end

