-- ==== Sys2Proof/Machine/Matrix.lean ====
section
/-! DEFINITION. Matrix instructions (12): what each does when it decodes. Queued ones are checked and enter their queue;
`Engine.lean` issues and completes them. -/
namespace Sys2Proof.Machine
open Sys2Proof

/-! Draw levels (R419) -/

/-- F and Mf of a format. -/
def drawRow (code sm : Nat) : Nat × Nat :=
  match code with
  | 1 => (10, 20)
  | 2 => (11, 20)
  | 3 => (11, 20)
  | 4 => (12, 40)
  | 5 => if sm = 1 then (13, 45) else (12, 40)
  | _ => (15, 58)
def drawLevel (code sm rows : Nat) : Nat :=
  let r := drawRow code sm
  cdiv (r.1 * min rows r.2) r.2
/-- A command above the team's grant is turned away with an engine event, and the context decodes on (R419). -/
def State.submitDrawn (s s1 : State) (c : Cmd) : Out :=
  if 1 ≤ (s.unit s.selUnit).pgnt.toNat ∧ (s.unit s.selUnit).pgnt.toNat < c.level then
    let s2 := s.takeTrap ⟨0x83, s.wordInfo c.level⟩
    .next (match s.sel with
      | .ctx u e j => if Instr.takesHold c.instr then (s2.setCtx u e j { s2.ctx u e j with hold := none }).advance else s2.advance
      | .voice _ _ => s2)
  else s1.submit c

/-! Operands (R275 to R279) -/

def fieldBad (s : State) (n : Nat) : Trap := s.fieldTrap 0x17 n
/-- The row word: rows and first row, where it is well formed (R279). -/
def rowWord (v : X) : Option (Nat × Nat) :=
  let n := bits v.toNat 8 7
  let r := bits v.toNat 0 7
  if bits v.toNat 15 49 = 0 ∧ bits v.toNat 7 1 = 0 ∧ 1 ≤ n ∧ r + n ≤ 96 then some (n, r) else none
/-- The scratchpad word: stride and address, where it is well formed for rows of `need` bytes (R279). -/
def spWord (v : X) (need : Nat) : Option (Nat × Nat) :=
  let st := bits v.toNat 21 21
  let a := bits v.toNat 0 21
  if bits v.toNat 42 22 = 0 ∧ st % 16 = 0 ∧ a % 16 = 0 ∧ need ≤ st then some (st, a) else none
/-- Claims on `n` rows of `len` bytes in the scratchpad (R127). -/
def rowClaims (a stride len n : Nat) (wr : Bool) : List Claim := (List.range n).map fun i => ⟨0, a + i * stride, len, wr⟩
/-- Every scratchpad range a command declares lies in the allocation (step 3 of R222). -/
def State.checkClaims (s : State) (u : Nat) (cs : List Claim) : Except Trap Unit :=
  match cs.findSome? fun c => if c.space = 0 then s.spClaim u c.lo c.len else none with
  | some t => .error t
  | none => .ok ()

/-- The column group and K-step whose bank-0 first tile has weight address `wa`, of a region the stage binds on the
team's die, with the binding's MRG (R239, R278, R280). -/
def State.firstTile (s : State) (u wa : Nat) : Option (BOp × Bool) :=
  if waDie wa ≠ (s.unit u).place.die then none
  else match s.boundAt u wa with
    | some (k, r, mrg, false, false, off) =>
      if off % tileStride r.fmt = 0 then
        (r.groupAt (waCore wa)).map fun g => (⟨k, r, waDie wa, g, off / tileStride r.fmt, false⟩, mrg)
      else none
    | _ => none
/-- Check 3 of R280 for `n` K-steps and `nc` column groups. -/
def BOp.fits (b : BOp) (n nc : Nat) : Bool := decide (b.s0 + n ≤ b.region.steps) && decide (b.group + nc - 1 < b.region.groups)

/-- A tensor's ranges in its plain view and scale array that an A operand of `m` rows reads: offset, length (R276). -/
def AOp.ranges (a : AOp) (t : Tensor) (m : Nat) : List (Nat × Nat) :=
  let n := min (16 * a.steps) (t.extent 0 - a.c0)
  (List.range m).map fun i => (t.offset [a.c0, a.c1 + i, a.c2, a.c3], cdiv (codeBits t.fmt * n) 8)
def AOp.scaleRanges (a : AOp) (t : Tensor) (m : Nat) : List (Nat × Nat) :=
  (List.range m).map fun i =>
    (2 * (t.scaleRow [a.c0, a.c1 + i, a.c2, a.c3] * cdiv (t.extent 0) 16 + a.c0 / 16), 2 * a.steps)
/-- Lines of 128 bytes, by VA, that ranges from `base` touch. -/
def linesOf (base : Nat) (rs : List (Nat × Nat)) : List Nat :=
  (rs.flatMap fun r => if r.2 = 0 then [] else
    List.range' ((base + r.1) / 128) ((base + r.1 + r.2 - 1) / 128 - (base + r.1) / 128 + 1)).eraseDups
/-- Bytes of the copy a tensor's engine reads use, counted from BASE (R354). -/
def Tensor.copyBase (t : Tensor) (copy : Bool) : Nat := if copy then 4096 * t.count else 0
/-- The line of global memory that VA line `ln` of a tensor operand lies on (R221). -/
def Tensor.linePa (t : Tensor) (ln : Nat) : Option Nat :=
  let va := ln * 128
  let inScale := (t.stiles.find ((va - t.scale / 4096 * 4096) / 4096)).map fun x => (x.pa + va % 4096) / 128
  match t.tiles.find ((va - t.base) / 4096) with
  | some x => if t.base ≤ va then some ((x.pa + va % 4096) / 128) else inScale
  | none => inScale
/-- The lines of a tensor A operand of `m` rows (R258, R264). -/
def AOp.lines (a : AOp) (t : Tensor) (copy : Bool) (sm m : Nat) : List Nat :=
  ((linesOf (t.base + t.copyBase copy) (a.ranges t m) ++ if sm = 1 then linesOf t.scale (a.scaleRanges t m) else []).filterMap
    t.linePa).eraseDups
/-- The tiles of a tensor A operand of `m` rows, and of its scale array (R220, R222). -/
def AOp.tiles (a : AOp) (t : Tensor) (copy : Bool) (sm m : Nat) : List (Bool × Nat) :=
  (((a.ranges t m).flatMap fun r => tilesOf (t.copyBase copy + r.1) r.2).eraseDups.map fun i => (false, i)) ++
    if sm = 1 then ((a.scaleRanges t m).flatMap fun r => tilesOf (t.scale % 4096 + r.1) r.2).eraseDups.map fun i => (true, i) else []

/-- What an operand check leaves: the state with tile entries refilled, claims, pinned frames, lines, the copy chosen, the
tensor as translated, and the tensor written. -/
structure Operand where
  state : State
  claims : List Claim := []
  pins : List Nat := []
  lines : List Nat := []
  copy : Bool := false
  tens : Tensor := {}
  wten : Option Nat := none

/-- The dimension of a tensor A operand that leaves its extent (R220): of a nested operand the elements of the last block past
the extent count as zero (R65). DEDUCED, log 48. -/
def AOp.outside (a : AOp) (t : Tensor) (sm m : Nat) : Option Nat :=
  t.outside [a.c0 + 16 * a.steps - (if sm = 1 then 16 else 1), a.c1 + (m - 1), a.c2, a.c3]
/-- Check 5 of R280 for an A operand of `m` rows beside the scratchpad ranges `cs0` (steps 1 to 4 of R222). A nested operand
whose tensor names no scale array reads it from address 0: R219 asks for one and names no fault. DESIGN CHOICE, log 71. -/
def State.checkA (s : State) (u : Nat) (a : AOp) (code sm m : Nat) (cs0 : List Claim) : Except Trap Operand := do
  if a.tensor then
    match ((s.unitLaunch u).tensors)[a.tn]? with
    | none => .error ⟨0x14, a.tn⟩
    | some t =>
      match a.outside t sm m with
      | some d => .error ⟨0x15, a.tn + 256 * d⟩
      | none =>
        let copy := t.shd && t.vis
        let tiles := a.tiles t copy sm m
        s.checkTiles u a.tn .engRead tiles
        s.checkClaims u cs0
        let (s1, fs) ← s.lookTiles u a.tn .engRead tiles []
        .ok { state := s1, claims := cs0, pins := fs, lines := a.lines (s1.tensorOf u a.tn) copy sm m, copy := copy
              tens := s1.tensorOf u a.tn }
  else
    let cs := cs0 ++ (rowClaims a.saddr a.sstr (rowBytes code (16 * a.steps)) m false
      ++ if sm = 1 then [(⟨0, a.sscl, 2 * m * a.steps, false⟩ : Claim)] else [])
    s.checkClaims u cs
    .ok { state := s, claims := cs }

/-- Formats the array multiplies (R254): all but FP32. -/
def arrayCode (code : Nat) : Bool := decide (1 ≤ code) && decide (code ≤ 6)

/-! MMA and MMAG (R284 to R286) -/

/-- The shape word of an MMA outside its range: CNT, ROW0, and RCM and NCM (R277). -/
def mmaShapeBad (a : AOp) (consort : Bool) (inst : Nat) : Bool :=
  decide (a.cnt = 0) || decide (95 < a.row0) ||
    if consort then decide (a.rc * a.nc < 2) || decide (96 * a.rc < a.cnt) || decide (96 < a.row0 + a.memberRows inst)
    else decide (a.rcm ≠ 0) || decide (a.ncm ≠ 0) || decide (96 < a.cnt) || decide (96 < a.row0 + a.cnt)

/-- The submission checks of MMA and what it declares (R280, R285). -/
def State.prepMma (s : State) (i : Instr) (z : BitVec 4) (a w : BitVec 6) (acc d m t c : Bool) (f : Nat) :
    Except Trap (State × Cmd) := do
  let u := s.selUnit
  let x := s.stream
  let un := s.unit u
  let e := s.entryOf f
  let o := AOp.of (x.getX a) (x.getX (a + 1))
  let wa := (x.getX w).toNat
  let code := entCode e
  let sm := entSm e
  require (!aWordBad (decide (sm = 1)) (x.getX a) (x.getX (a + 1)) && !mmaShapeBad o c un.place.inst && decide (wa < 2 ^ 40)) (fieldBad s 1)
  require (arrayCode code && !(d && decide (code = 4))) (fieldBad s 2)
  match s.firstTile u wa with
  | none => .error ⟨0x0E, wa⟩
  | some (b, mrg) =>
    require (decide (b.region.fmt = code) && decide (b.region.sm = sm)) (fieldBad s 2)
    require (b.fits o.steps (if c then o.nc else 1)) ⟨0x0E, wa⟩
    require (!c || (s.unitLaunch u).cons) ⟨0x1B, 0⟩
    let rows := if c then o.memberRows un.place.inst else o.cnt
    let op ← s.checkA u o code sm rows []
    require (!t || decide (op.lines.length ≤ 1024)) ⟨0x1C, op.lines.length⟩
    let slot := s.slotKey u z.toNat
    let limit := (s.myCtx.hold).getD s.mhlNow.toNat
    .ok (op.state, { cn := 0, word := s.iw, instr := i, regs := [x.getX a, x.getX (a + 1), x.getX w, x.getX (w + 1)]
                     fent := e, tsv := s.scaleOf u e, claims := op.claims ++ slotClaim slot true :: (if acc then [slotClaim slot false] else [])
                     pins := op.pins, lines := op.lines, tens := op.tens, vis := if o.tensor then [(o.tn, op.copy)] else []
                     stamp := if t then some (x.getX (w + 1)).toNat else none
                     level := drawLevel code sm rows, con := if c then un.consorts + 1 else 0
                     hlimit := if m && !t && !c && decide (o.cnt ≤ 24) && mrg && !b.region.nomrg then some limit else none })

/-- MMA (R285): `p` Z, `q` A, `d` D, `m` M, `t` T, `c` C, `f` the format slot. -/
def execMma (z : BitVec 4) (a w : BitVec 6) (p q d m t c : BitVec 1) (f : BitVec 2) (s : State) : Out :=
  s.engineWord .matrix 4
    (s.prepMma (.mma z a w p q d m t c f) z a w (decide (q = 1)) (decide (d = 1)) (decide (m = 1)) (decide (t = 1)) (decide (c = 1)) f.toNat)
    s.submitDrawn

/-- Of the `m` rows an MMAG may come to use, those from row 0 on that its A operand has (R220, R222, R286). -/
def State.rowsIn (s : State) (u : Nat) (a : AOp) (code sm m : Nat) : Nat :=
  if a.tensor then min m (((s.unitLaunch u).tensors[a.tn]?.getD {}).extent 1 - a.c1)
  else ((List.range m).takeWhile fun i =>
    (s.unit u).place.holds (a.saddr + i * a.sstr) (rowBytes code (16 * a.steps)) &&
      (decide (sm = 0) || (s.unit u).place.holds (a.sscl + 2 * i * a.steps) (2 * a.steps))).length
/-- The submission checks of MMAG and what it declares (R280, R286): every row of A that its groups may name. -/
def State.prepMmag (s : State) (i : Instr) (z : BitVec 4) (a w : BitVec 6) (acc t : Bool) (f : Nat) : Except Trap (State × Cmd) := do
  let u := s.selUnit
  let x := s.stream
  let e := s.entryOf f
  let o := AOp.of (x.getX a) (x.getX (a + 1))
  let tab := (x.getX w).toNat
  let code := entCode e
  let sm := entSm e
  require (!aWordBad (decide (sm = 1)) (x.getX a) (x.getX (a + 1)) && decide (1 ≤ o.cnt) && decide (o.cnt ≤ 16) && decide (o.row0 ≤ 95)
    && decide (o.rcm = 0) && decide (o.ncm = 0) && decide (tab / 2 ^ 21 = 0) && decide (tab % 16 = 0)) (fieldBad s 1)
  require (arrayCode code) (fieldBad s 2)
  let op ← s.checkA u o code sm (max 1 (s.rowsIn u o code sm (96 - o.row0))) [⟨0, tab, 8 * o.cnt, false⟩]
  require (!t || decide (op.lines.length ≤ 1024)) ⟨0x1C, op.lines.length⟩
  let slot := s.slotKey u z.toNat
  .ok (op.state, { cn := 0, word := s.iw, instr := i, regs := [x.getX a, x.getX (a + 1), x.getX w, x.getX (w + 1)]
                   fent := e, tsv := s.scaleOf u e
                   claims := op.claims ++ slotClaim slot true :: (if acc then [slotClaim slot false] else [])
                   pins := op.pins, lines := op.lines, tens := op.tens, vis := if o.tensor then [(o.tn, op.copy)] else []
                   stamp := if t then some (x.getX (w + 1)).toNat else none, level := (drawRow code sm).1 })

/-- MMAG (R286): `p` Z, `q` A, `t` T. -/
def execMmag (z : BitVec 4) (a w : BitVec 6) (p q t : BitVec 1) (f : BitVec 2) (s : State) : Out :=
  s.engineWord .matrix 4 (s.prepMmag (.mmag z a w p q t f) z a w (decide (q = 1)) (decide (t = 1)) f.toNat) s.submitDrawn

/-! Format table and selector (R287, R288) -/

/-- An entry of the format table or of the tensor-scale table is written: decodes that begin after the cycle see it, and of several
writes of a cycle the highest voice's stands (R287). -/
def State.putFormat (s : State) (ix : Nat) (v : Word) : State :=
  let t := s.unit s.selUnit
  let r := s.regWrite (0x200 + ix) ((t.ftab.getD ix 0).setWidth 64) (v.setWidth 64)
  s.setUnit s.selUnit { t with ftab := t.ftab.put ix (r.final.setWidth 32), recent := t.recent.put (0x200 + ix) r }
def State.putScale (s : State) (ix : Nat) (v : BitVec 32) : State :=
  let t := s.unit s.selUnit
  let r := s.regWrite (0x300 + ix) ((t.tstab.getD ix 0x3F800000).setWidth 64) (v.setWidth 64)
  s.setUnit s.selUnit { t with tstab := t.tstab.put ix (r.final.setWidth 32), recent := t.recent.put (0x300 + ix) r }
/-- MFMT (R287): row `r`, slot `k`. -/
def execMfmt (b : BitVec 6) (r : BitVec 4) (k : BitVec 2) (s : State) : Out :=
  let v : Word := (s.stream.getX b).setWidth 32
  let ix := r.toNat * 4 + k.toNat
  s.decodeTime .matrix (if entryBad v then .error ⟨0x1D, v.toNat + ix * 2 ^ 32⟩
    else .ok (s.putFormat ix v))
/-- MFMT.ts (R287). -/
def execMfmtTs (a b : BitVec 6) (s : State) : Out :=
  let v : BitVec 32 := (s.stream.getX b).setWidth 32
  let ix := (s.stream.getX a).toNat
  s.decodeTime .matrix (if 256 ≤ ix then .error (fieldBad s 1)
    else if scaleBad v then .error ⟨0x1D, v.toNat + ix * 2 ^ 32⟩
    else .ok (s.putScale ix v))
/-- MFSEL (R288): `b` BASE, `k` SEL. -/
def execMfsel (b : BitVec 4) (k : BitVec 2) (s : State) : Out :=
  s.decodeTime .matrix (.ok (s.mapStream fun _ st => st.setFmsel (BitVec.ofNat 8 (b.toNat * 16 + k.toNat))))

/-! Accumulator moves (R289 to R292) -/

/-- A command that names rows of a slot, and perhaps rows of the scratchpad and a format entry (R126). -/
def State.prepRows (s : State) (i : Instr) (regs : List X) (claims : List Claim) (e : Option Word) : Except Trap (State × Cmd) := do
  s.checkClaims s.selUnit claims
  .ok (s, { cn := 0, word := s.iw, instr := i, regs := regs, claims := claims, fent := e.getD 0, tsv := (e.map (s.scaleOf s.selUnit)).getD 0 })

/-- MZERO (R290). -/
def execMzero (z : BitVec 4) (b : BitVec 6) (s : State) : Out :=
  let v := s.stream.getX b
  s.engineWord .matrix 1 (match rowWord v with
    | none => .error (fieldBad s 1)
    | some _ => s.prepRows (.mzero z b) [v] [slotClaim (s.slotKey s.selUnit z.toNat) true] none) State.submit
/-- MDCY (R289). -/
def execMdcy (z : BitVec 4) (a b : BitVec 6) (s : State) : Out :=
  let v := s.stream.getX b
  s.engineWord .matrix 2 (match rowWord v with
    | none => .error (fieldBad s 1)
    | some _ => if scaleBad ((s.stream.getX a).setWidth 32) then .error (fieldBad s 1)
      else s.prepRows (.mdcy z a b) [s.stream.getX a, v]
        [slotClaim (s.slotKey s.selUnit z.toNat) true, slotClaim (s.slotKey s.selUnit z.toNat) false] none) State.submit
/-- MDCY.set (R289). -/
def execMdcySet (z : BitVec 4) (a : BitVec 6) (s : State) : Out :=
  s.engineWord .matrix 1 (if scaleBad ((s.stream.getX a).setWidth 32) then .error (fieldBad s 1)
    else s.prepRows (.mdcySet z a) [s.stream.getX a]
      [slotClaim (s.slotKey s.selUnit z.toNat) true, slotClaim (s.slotKey s.selUnit z.toNat) false] none) State.submit
/-- MDRN (R292): `c` CLR, `i` I, `f` the format slot. -/
def execMdrn (z : BitVec 4) (a b : BitVec 6) (c i : BitVec 1) (f : BitVec 2) (s : State) : Out :=
  let e := s.entryOf f.toNat
  let len := 160 * elemBytes (entCode e)
  s.engineWord .matrix 2 (match rowWord (s.stream.getX b), spWord (s.stream.getX a) len with
    | some (n, _), some (st, ad) =>
      if entCode e = 6 ∨ entSm e = 1 then .error (fieldBad s 2)
      else s.prepRows (.mdrn z a b c i f) [s.stream.getX a, s.stream.getX b]
        (rowClaims ad st len n true ++ slotClaim (s.slotKey s.selUnit z.toNat) false ::
          (if c = 1 then [slotClaim (s.slotKey s.selUnit z.toNat) true] else [])) (some e)
    | _, _ => .error (fieldBad s 1)) State.submit
/-- MLDZ (R291). -/
def execMldz (z : BitVec 4) (a b : BitVec 6) (s : State) : Out :=
  s.engineWord .matrix 2 (match rowWord (s.stream.getX b), spWord (s.stream.getX a) 640 with
    | some (n, _), some (st, ad) =>
      s.prepRows (.mldz z a b) [s.stream.getX a, s.stream.getX b]
        (rowClaims ad st 640 n false ++ [slotClaim (s.slotKey s.selUnit z.toNat) true]) none
    | _, _ => .error (fieldBad s 1)) State.submit

/-! Prefetch and unpin (R293, R294) -/

/-- A tensor A operand of MPREF or MUNP: its M, S and coordinate fields are used. -/
def State.prepPref (s : State) (i : Instr) (a : BitVec 6) : Except Trap (State × Cmd) := do
  let u := s.selUnit
  let l := s.stream.getX a
  let h := s.stream.getX (a + 1)
  let o := AOp.of l h
  require (o.tensor && !aWordBad false l h && decide (1 ≤ o.cnt) && decide (o.cnt ≤ 96) && decide (o.rcm = 0) && decide (o.ncm = 0)) (fieldBad s 1)
  let sm := if (((s.unitLaunch u).tensors)[o.tn]?.getD {}).scale = 0 then 0 else 1
  let op ← s.checkA u o 4 sm o.cnt []
  .ok (op.state, { cn := 0, word := s.iw, instr := i, regs := [l, h], pins := op.pins, lines := op.lines, tens := op.tens, vis := [(o.tn, op.copy)] })
/-- MPREF (R293). -/
def execMpref (a : BitVec 6) (s : State) : Out := s.engineWord .matrix 2 (s.prepPref (.mpref a) a) State.submit
/-- MPREF.w (R293). -/
def execMprefW (a b : BitVec 6) (s : State) : Out :=
  let wa := (s.stream.getX a).toNat
  let v := (s.stream.getX b).toNat
  s.engineWord .matrix 2 (if 2 ^ 40 ≤ wa ∨ 2 ^ 12 ≤ v then .error (fieldBad s 1)
    else match s.firstTile s.selUnit wa with
      | none => .error ⟨0x0E, wa⟩
      | some (o, _) =>
        if o.fits (v + 1) 1 then
          .ok (s, { cn := 0, word := s.iw, instr := .mprefW a b, regs := [s.stream.getX a, s.stream.getX b]
                    level := drawLevel o.region.fmt o.region.sm 4 })
        else .error ⟨0x0E, wa⟩) s.submitDrawn
/-- MUNP (R294). -/
def execMunp (a : BitVec 6) (s : State) : Out :=
  s.engineWord .matrix (if a = 0 then 0 else 2)
    (if a = 0 then .ok (s, { cn := 0, word := s.iw, instr := .munp a, regs := [] }) else s.prepPref (.munp a) a) State.submit

/-! Banks and swaps (R295, R296) -/

/-- Binding `n` of the unit's stage, where it is in use: its table index (R39). -/
def State.binding (s : State) (u n : Nat) : Option Nat :=
  match ((s.unitStage u).bind)[n]? with
  | some b => if bits b 15 1 = 1 then some (b % 4096) else none
  | none => none
/-- MSWP (R295): it takes no arbitration slot; `SWAP_BEGIN` runs it at its stamp. XINFO of its weight-region fault is the table
index: DESIGN CHOICE, log 109. -/
def execMswp (b : BitVec 6) (n : BitVec 3) (s : State) : Out :=
  let p := (s.unit s.selUnit).place
  s.engineWord .matrix 1 (match s.binding s.selUnit n.toNat with
    | none => .error (fieldBad s 1)
    | some ix => match s.tableRegion p.die p.job ix with
      | none => .error ⟨0x0E, ix⟩
      | some (_, e, r) =>
        if e.prog = false then .error ⟨0x0E, ix⟩
        else if r.pair = false then .error ⟨0x1E, ix⟩
        else .ok (s, { cn := 0, word := s.iw, instr := .mswp b n, regs := [s.stream.getX b], stamp := some (s.stream.getX b).toNat }))
    State.submit
/-- The word MBNK writes (R296). -/
def State.bankWord (s : State) (core k : Nat) (r : Region) : X :=
  BitVec.ofNat 64 (r.genOn core % 2 ^ 48 * 65536 + (if s.released k r then 64 else 0) + (if r.nomrg then 32 else 0)
    + (if r.shr then 16 else 0) + (if r.popen then 8 else 0) + (if r.dmg then 4 else 0) + (if r.pair then 2 else 0)
    + (if r.actOn core then 1 else 0))
/-- MBNK (R296). A binding whose region is not present takes the weight-region fault: DESIGN CHOICE, log 109. -/
def execMbnk (a : BitVec 6) (n : BitVec 3) (s : State) : Out :=
  let u := s.selUnit
  let p := (s.unit u).place
  s.decodeTime .matrix (match s.binding u n.toNat with
    | none => .error (fieldBad s 1)
    | some ix => match s.tableRegion p.die p.job ix with
      | none => .error ⟨0x0E, ix⟩
      | some (k, _, r) => .ok (s.mapStream fun _ st => st.setX a (s.bankWord (s.home u) k r)))

/-! Merge control (R297) -/

/-- Open groups of a core with a member that satisfies `f` close (R271, R297). -/
def State.closeGroups (s : State) (d p : Nat) (f : MGroup → Bool) : State :=
  s.setCore d p { s.core d p with groups := (s.core d p).groups.map fun g => if f g then { g with closed := true } else g }
/-- MHOLD (R297). -/
def execMhold (b : BitVec 6) (s : State) : Out :=
  s.decodeTime .matrix (.ok (match s.sel with
    | .ctx u e j => s.setCtx u e j { s.ctx u e j with hold := some (min (s.stream.getX b).toNat 1024) }
    | .voice _ _ => s))
/-- MHOLD.rel (R297). -/
def execMholdRel (s : State) : Out :=
  s.decodeTime .matrix (.ok (match s.sel with
    | .ctx u _ j => s.closeGroups (s.unit u).place.die (s.home u) fun g => g.members.any fun m => decide (m.1 = u ∧ m.2.1 = j)
    | .voice _ _ => s))

/-! MTRQ, synchronisation, status (R298 to R301) -/

/-- The output word of MTRQ: SADDR, SSCL, S (R298). -/
def mtrqOut (v : X) : Nat × Nat × Nat := (bits v.toNat 0 21, bits v.toNat 21 21, bits v.toNat 42 12 + 1)
/-- MTRQ (R298). -/
def execMtrq (a b : BitVec 6) (s : State) : Out :=
  let wa := (s.stream.getX a).toNat
  let o := mtrqOut (s.stream.getX b)
  s.engineWord .matrix 2
    (if 2 ^ 40 ≤ wa ∨ bits (s.stream.getX b).toNat 54 10 ≠ 0 ∨ o.1 % 16 ≠ 0 ∨ o.2.1 % 2 ≠ 0 then .error (fieldBad s 1)
    else match s.firstTile s.selUnit wa with
      | none => .error ⟨0x0E, wa⟩
      | some (b', _) =>
        if b'.region.sm ≠ 1 then .error (fieldBad s 2)
        else if b'.fits o.2.2 1 = false then .error ⟨0x0E, wa⟩
        else do
          let cs : List Claim := [⟨0, o.1, rowBytes b'.region.fmt 160 * 16 * o.2.2, true⟩, ⟨0, o.2.1, 320 * o.2.2, true⟩]
          s.checkClaims s.selUnit cs
          .ok (s, { cn := 0, word := s.iw, instr := .mtrq a b, regs := [s.stream.getX a, s.stream.getX b], claims := cs
                    level := drawLevel b'.region.fmt 1 4 })) s.submitDrawn
/-- The completion object of MSYNC or CSIG: its physical address and pins, or the trap (R299, R365). -/
def State.objectAt (s : State) (u va : Nat) (bad : Trap) : Except Trap (Nat × List Nat) := do
  require (decide (va % 8 = 0)) bad
  require (decide (va < 2 ^ 57)) ⟨0x0A, va⟩
  require (((s.unitLaunch u).aperture va).isNone) ⟨0x0B, va⟩
  match s.translate u .engWrite va with
  | .error t => .error t
  | .ok l => .ok (l.pa, [l.pa / 4096])
/-- MSYNC (R299): `w` stops the context's decoding until it completes. -/
def execMsync (a : BitVec 6) (w : BitVec 1) (c : BitVec 3) (s : State) : Out :=
  let stopAt := fun (o : Out) => match o, s.sel with
    | .next t, .ctx u e j =>
      if w = 1 ∧ (t.ctx u e j).nextCn ≠ (s.ctx u e j).nextCn then
        (.next (t.setCtx u e j { t.ctx u e j with stop := some (s.ctx u e j).nextCn }) : Out)
      else .next t
    | o, _ => o
  stopAt (s.engineWord .matrix (if a = 0 then 0 else 1)
    (if a = 0 then .ok (s, { cn := 0, word := s.iw, instr := .msync a w c, regs := [] })
    else do
      let (pa, fs) ← s.objectAt s.selUnit (s.stream.getX a).toNat (fieldBad s 1)
      .ok (s, { cn := 0, word := s.iw, instr := .msync a w c, regs := [s.stream.getX a], sync := some pa, pins := fs,
                   pages := fs.map fun f => ((s.stream.getX a).toNat / 4096, f) }))
    State.submit)
/-- MSTAT (R300). -/
def execMstat (a : BitVec 6) (s : State) : Out :=
  s.engineWord .matrix 1 (.ok (s, { cn := 0, word := s.iw, instr := .mstat a, regs := [s.stream.getX a] })) State.submit
/-- MNOP (R301). -/
def execMnop (n : BitVec 8) (s : State) : Out :=
  if n = 0 then s.decodeTime .matrix (.ok s)
  else s.engineWord .matrix 0 (.ok (s, { cn := 0, word := s.iw, instr := .mnop n, regs := [] })) State.submit

end Sys2Proof.Machine
end

