-- ==== Sys2Proof/Machine/Engine.lean ====
section
/-! DEFINITION. The matrix engine at work (11): issue, stamps, merging, consorts, completion, swaps and holds. -/
namespace Sys2Proof.Machine
open Sys2Proof

/-! Durations (R254, R256, R426) -/

/-- Rows per matrix cycle and tile beats per K-step (R254). -/
def rowRate (code : Nat) : Nat := match code with
  | 1 => 1
  | 2 => 2
  | 3 => 2
  | 6 => 8
  | _ => 4
def tileBeats (code : Nat) : Nat := match code with
  | 1 => 10
  | 6 => 3
  | _ => 5
/-- w(s) of R256. -/
def stepBeats (code sm steps st : Nat) : Nat :=
  2 * tileBeats code + if sm = 1 ∧ st % 8 = 0 then 2 * cdiv (320 * min 8 (steps - st)) 512 else 0
/-- D of R256 with array time `a` in each step. -/
def spanD (code sm steps a : Nat) : Nat := ((List.range steps).map fun st => max a (stepBeats code sm steps st)).sum
/-- The array time of a step stretched to a cap (R426). -/
def stretch (a level cap : Nat) : Nat := if cap < level then cdiv (a * level) cap else a

/-- κ of R426. -/
def State.cap (s : State) (d p : Nat) (declared : Bool) : Nat :=
  if !declared || (s.zoneOf d p).fallback then 4 else if (s.zoneOf d p).hot then 8 else 15
/-- A team declares a draw level when its command enters the array (R419, R420). -/
def State.declares (s : State) (u level : Nat) : Bool :=
  decide (level ≤ 4) || decide (level ≤ (s.unit u).pgnt.toNat) ||
    (s.breathing u && match (s.unit u).breath with
      | some b => decide (level ≤ b.int)
      | none => false)

/-- The A operand of a matrix command. -/
def Cmd.aop (q : Cmd) : AOp := AOp.of (q.regs.getD 0 0) (q.regs.getD 1 0)
def Cmd.weight (q : Cmd) : Nat := (q.regs.getD 2 0).toNat
/-- The weight word of MTRQ and MPREF.w. -/
def Cmd.weight0 (q : Cmd) : Nat := (q.regs.getD 0 0).toNat
/-- Rows of an MMA of unit `u` (R267). -/
def State.rowsOf (s : State) (u : Nat) (q : Cmd) : Nat :=
  if q.con = 0 then q.aop.cnt else q.aop.memberRows (s.unit u).place.inst
/-- Format code and scale mode of a command. -/
def Cmd.code (q : Cmd) : Nat := entCode q.fent
def Cmd.sm (q : Cmd) : Nat := entSm q.fent

/-- The commands that use the array (R302). -/
def Instr.usesArray : Instr → Bool
  | .mnop _ => true
  | i => Instr.arrayWork i
/-- The commands that use neither array, port nor TFU (R302). -/
def Instr.usesNone : Instr → Bool
  | .mdcySet _ _ => true
  | .mswp _ _ => true
  | .msync _ _ _ => true
  | .mstat _ => true
  | .munp _ => true
  | _ => false
def Instr.isMmag : Instr → Bool
  | .mmag _ _ _ _ _ _ _ => true
  | _ => false
/-- Cycles of the accumulator port and the cycles from issue to completion (R302). -/
def Cmd.port (q : Cmd) : Option (Nat × Nat) :=
  let n := fun (k : Nat) => ((rowWord (q.regs.getD k 0)).map (·.1)).getD 0
  match q.instr with
  | .mzero _ _ => some (cdiv (n 0) 8, cdiv (n 0) 8 + 4)
  | .mdcy _ _ _ => some (cdiv (n 1) 8, cdiv (n 1) 8 + 8)
  | .mldz _ _ _ => some (cdiv (n 1) 4, cdiv (n 1) 4 + 12)
  | .mdrn _ _ _ _ _ _ => some (cdiv (n 1) 4, cdiv (n 1) 4 + 16)
  | _ => none

/-- The regions that a command entering the array reads, each with its bank (R244, R245): a replay keeps the banks it first
read. -/
def State.banksRead (s : State) (u : Nat) (q : Cmd) : List (Nat × Bool) :=
  if q.reads ≠ [] then q.reads
  else
    let was : List Nat := match q.instr with
      | .mma _ _ _ _ _ _ _ _ _ _ => [q.weight]
      | .mmag _ _ _ _ _ _ _ => ((q.table.getD []).filter fun g => decide (0 < g.1)).map (·.2)
      | .mtrq _ _ => [q.weight0]
      | .mprefW _ _ => [q.weight0]
      | _ => []
    (was.filterMap fun a => (s.firstTile u a).map fun b => (b.1.key, b.1.region.actOn (s.home u))).eraseDups
/-- The B operand of a command in the array, in the bank of its region that the command reads (R244, R278). -/
def State.bOf (s : State) (u wa shift : Nat) (q : Cmd) : Option BOp :=
  (s.firstTile u wa).map fun b =>
    { b.1 with group := b.1.group + shift, bank := ((q.reads.find? fun k => decide (k.1 = b.1.key)).map (·.2)).getD b.1.bank }

/-- K-steps that run back to back with one array time `a` in each: B operand, format, steps (R256, R286). -/
structure Run where
  b : Option BOp
  code : Nat
  sm : Nat
  steps : Nat
  a : Nat
/-- c(s) of each step (R256). -/
def Run.costs (x : Run) : List Nat := (List.range x.steps).map fun st => max x.a (stepBeats x.code x.sm x.steps st)
def Run.span (x : Run) : Nat := spanD x.code x.sm x.steps x.a
/-- The runs of a command of unit `u` with `rows` rows at draw level `level` (R256, R286, R293, R298). -/
def State.runsOf (s : State) (u rows level : Nat) (declared : Bool) (q : Cmd) : List Run :=
  let cap := s.cap (s.unit u).place.die (s.home u) declared
  let a := fun (m : Nat) => stretch (cdiv m (rowRate q.code)) level cap
  let shift := if q.con = 0 then 0 else q.aop.gridCol (s.unit u).place.inst
  match q.instr with
  | .mma _ _ _ _ _ _ _ _ _ _ => [⟨s.bOf u q.weight shift q, q.code, q.sm, q.aop.steps, a rows⟩]
  | .mmag _ _ _ _ _ _ _ => ((q.table.getD []).filter fun g => decide (0 < g.1)).map fun g =>
      ⟨s.bOf u g.2 0 q, q.code, q.sm, q.aop.steps, a g.1⟩
  | .mtrq _ _ => match s.bOf u q.weight0 0 q with
    | some b => [⟨some b, b.region.fmt, b.region.sm, (mtrqOut (q.regs.getD 1 0)).2.2, 16⟩]
    | none => []
  | .mprefW _ _ => match s.bOf u q.weight0 0 q with
    | some b => [⟨some b, b.region.fmt, b.region.sm, (q.regs.getD 1 0).toNat + 1, 0⟩]
    | none => []
  | _ => []
/-- D of a command of unit `u` that enters the array with `rows` rows at draw level `level` (R256, R286, R293, R298, R301). -/
def State.duration (s : State) (u rows level : Nat) (declared : Bool) (q : Cmd) : Nat :=
  match q.instr with
  | .mnop n => n.toNat
  | _ => ((s.runsOf u rows level declared q).map Run.span).sum
/-- Cycles from the command boundary to completion (R256, R293, R298, R301). -/
def Cmd.tail (q : Cmd) : Nat :=
  match q.instr with
  | .mma _ _ _ _ _ _ _ _ _ _ => if q.code = 5 ∧ q.sm = 0 then 38 else 34
  | .mmag _ _ _ _ _ _ _ => if q.code = 5 ∧ q.sm = 0 ∧ (q.table.getD []).any (fun g => decide (0 < g.1)) = true then 38 else 34
  | .mtrq _ _ => 40
  | .mprefW _ _ => 28
  | _ => 0

/-! Entering the array (R256, R263 to R265) -/

/-- The stamps of armed timed array commands at the heads of the contexts of a core's resident units, in the core's unheld cycles, as
TCLK has stood since each unit started (R122, R263, R265). -/
def State.stamps (s : State) (d p : Nat) : List Nat :=
  s.ctxs.filterMap fun (c : Nat × Ctx) =>
    let u := c.1 / 12
    if engineOf c.1 = .matrix ∧ s.unitOn d p u = true ∧ (s.unit u).status = .resident then
      match c.2.queue with
      | q :: _ => match q.stamp with
        | some v => if q.armed && Instr.usesArray q.instr && decide ((s.unit u).tclk ≤ v) then some ((s.unit u).tbase + (v - (s.unit u).tclk)) else none
        | none => none
      | [] => none
    else none
/-- R265: a boundary `D` cycles from now falls after no armed stamp. -/
def State.fitsStamps (s : State) (d p D : Nat) : Bool := (s.stamps d p).all fun v => decide (v < s.free d p) || decide (s.free d p + D ≤ v)
/-- The array is at a command boundary (R257). -/
def State.atBoundary (s : State) (d p : Nat) : Bool := decide ((s.core d p).bound ≤ s.free d p)
/-! Lines pinned for the tile fetch unit (R258, R293) -/

/-- Lines that MPREF holds pinned on a core. -/
def State.prefLines (s : State) (d p : Nat) : List Nat :=
  (s.ctxs.flatMap fun c => if s.unitOn d p (c.1 / 12) then c.2.pref else []).eraseDups
/-- Line pairs, virtual and in memory, of a tensor that ranges from `base` touch. -/
def Tensor.linePairs (t : Tensor) (base : Nat) (rs : List (Nat × Nat)) : List (Nat × Nat) :=
  (linesOf base rs).filterMap fun l => (t.linePa l).map fun x => (l, x)
/-- The lines that K-step `st` of rows `a0` to `a0 + m - 1` of a tensor A operand reads (R258, R276). -/
def AOp.stepLines (a : AOp) (t : Tensor) (copy : Bool) (sm a0 m st : Nat) : List (Nat × Nat) :=
  let c := a.c0 + 16 * st
  let rows := (List.range m).map fun i => [c, a.c1 + a0 + i, a.c2, a.c3]
  let n := min 16 (t.extent 0 - c)
  (t.linePairs (t.base + t.copyBase copy) (rows.map fun x => (t.offset x, cdiv (codeBits t.fmt * n) 8)) ++
    if sm = 1 then t.linePairs t.scale (rows.map fun x => (t.scaleOff x, 2)) else []).eraseDups
def Cmd.copyOf (q : Cmd) (tn : Nat) : Bool := ((q.vis.find? fun v => decide (v.1 = tn)).map (·.2)).getD false
/-- The lines of K-step `g` of a command of unit `u`, its groups counted on (R258, R286). -/
def State.linesAt (s : State) (u : Nat) (q : Cmd) (g : Nat) : List (Nat × Nat) :=
  let o := q.aop
  let rows : Nat × Nat := match q.instr with
    | .mmag _ _ _ _ _ _ _ =>
      let gs := (q.table.getD []).filter fun x => decide (0 < x.1)
      (((gs.take (g / o.steps)).map (·.1)).sum, (gs.getD (g / o.steps) (0, 0)).1)
    | _ => (0, s.rowsOf u q)
  o.stepLines q.tens (q.copyOf o.tn) q.sm rows.1 rows.2 (g % o.steps)
/-- A command in the array whose A operand its own tile fetch unit reads: of a consort the members at the head of a row
(R258, R267). -/
def State.fetches (s : State) (u : Nat) (q : Cmd) : Bool :=
  decide (q.phase = .issued) && q.aop.tensor && (decide (q.con = 0) || decide (q.aop.gridCol (s.unit u).place.inst = 0)) &&
    match q.instr with
    | .mma _ _ _ _ _ _ _ _ _ _ => true
    | .mmag _ _ _ _ _ _ _ => true
    | _ => false
/-- The unheld matrix cycle in which K-step `g` begins to be computed (R256), after the pauses so far (R258). -/
def Cmd.stepAt (q : Cmd) (g : Nat) : Nat := q.enter + q.shift + 28 + q.starts.getD g 0
/-- The cycle from which the tile fetch unit reads the lines of K-step `g`: a step ahead of the array (R258). -/
def Cmd.readAt (q : Cmd) (g : Nat) : Nat := if g = 0 then q.enter else q.stepAt (g - 1)
/-- Commands of the matrix engine of a core in flight: unit, context, command. -/
def State.inFlight (s : State) (d p : Nat) : List (Nat × Nat × Cmd) :=
  s.ctxs.flatMap fun (c : Nat × Ctx) =>
    if engineOf c.1 = .matrix ∧ s.unitOn d p (c.1 / 12) = true then c.2.flight.map fun q => (c.1 / 12, c.1 % 4, q) else []
/-- Steps of a command in the array whose lines have been pinned: those read, or all where it entered so (R258, R264). -/
def Cmd.stepsPinned (q : Cmd) : Nat := if q.pinned then max q.tstep (q.starts.length - 1) else q.tstep
/-- Lines pinned on a core: those of MPREF, and of steps pinned whose computing is not over (R258). -/
def State.pinnedLines (s : State) (d p : Nat) : List Nat :=
  (s.prefLines d p ++ (s.inFlight d p).flatMap fun m =>
    if s.fetches m.1 m.2.2 then
      ((List.range m.2.2.stepsPinned).filter fun g => decide (s.free d p < m.2.2.stepAt (g + 1))).flatMap fun g => (s.linesAt m.1 m.2.2 g).map (·.2)
    else []).eraseDups

/-- Lines can all be pinned beside those that are (R258, R264). -/
def State.roomFor (s : State) (d p : Nat) (ls : List Nat) : Bool :=
  decide ((s.pinnedLines d p ++ ls.filter fun l => !(s.pinnedLines d p).contains l).length ≤ 1024)
/-- The lines are pinned in this attempt: they are already, or the tile fetch unit has had the time (R258, R264; log 75). -/
def State.linesHeld (s : State) (d p : Nat) (ls : List Nat) : Bool :=
  ls.all (fun l => (s.pinnedLines d p).contains l) || (s.roomFor d p ls && Config.linesPinned s.fresh)

/-! Beats (R231, R232, R240, R242, R253) -/

/-- Rows plus columns between two cores of a die (R242). -/
def coreHops (a b : Nat) : Nat := (a / 12 - b / 12) + (b / 12 - a / 12) + ((a % 12 - b % 12) + (b % 12 - a % 12))
/-- The beats of step `st` of a run that starts `off` cycles after entry: the cycle of each, and its address (R256). The scale
beats cover the scale blocks from the one of the step on, aligned down to a beat. DEDUCED, log 73. -/
def Run.stepBeats (x : Run) (b : BOp) (off st : Nat) : List (Nat × Nat) :=
  let t := tileBeats x.code
  let n := if x.sm = 1 ∧ st % 8 = 0 then cdiv (320 * min 8 (x.steps - st)) 512 else 0
  ((List.range t).map fun k => (off + 2 * k, b.tileAddr st + 512 * k)) ++
    (List.range n).map fun k => (off + 2 * (t + k), b.scaleAddr st / 512 * 512 + 512 * k)
/-- The first cycle of each step of runs that follow one another, and their end. -/
def startsOf (rs : List Run) : List Nat := (rs.flatMap Run.costs).foldl (fun l c => l ++ [l.getLastD 0 + c]) [0]
/-- The beats of runs that follow one another (R256). -/
def beatsOf (off : Nat) : List Run → List Beat
  | [] => []
  | x :: xs =>
    (match x.b with
      | none => []
      | some b => (x.costs.foldl (fun (a : List Beat × Nat × Nat) c =>
          (a.1 ++ (x.stepBeats b a.2.1 a.2.2).map fun k => ⟨k.1, k.2, b.key, 0, false, false⟩, a.2.1 + c, a.2.2 + 1)) ([], off, 0)).1)
    ++ beatsOf (off + x.span) xs
/-- The remap cache of a bank after a read of a row, and the hold of a miss (R240): 32 entries, which of them a new one drops is
free (log 72). -/
def State.cacheRow (s : State) (row : Nat) : State × Nat :=
  let k := row / 8192
  let c := s.rcache.getD k []
  if (s.remap.find row).isNone ∨ c.contains row = true then (s, 0)
  else
    let c1 := if c.length < 32 then c else c.eraseIdx (Config.freeChoice s.fresh % 32)
    ({ s with rcache := s.rcache.put k (row :: c1), fresh := s.fresh + 1 }, 4)
/-- The vertical bus a beat at a weight address takes, and the hold of a bank behind a retired one (R231, R253). -/
def State.beatBus (s : State) (a : Nat) : Nat × Nat :=
  let b := bits a 9 2
  if (s.core (waDie a) (waCore a)).buses.contains b then ((b + 1) % 4, 6) else (b, 0)
/-- A beat reads no cells: its region is damaged, or its bank unusable (R252). -/
def State.dead (s : State) (x : Beat) : Bool :=
  ((s.regions.find x.region).any fun r => r.dmg) || (s.unusable.find (bankKey x.addr)).isSome
/-- A beat of core `p` issues in its slot: what its address makes it hold the core is due with its data (R232, R240, R242). A
remote beat takes a bus of the core whose tier it reads (log 73). A beat of a damaged region or an unusable bank, which reads no
cells, adds no hold (R252), and the model lets it take no bus slot either (log 95). -/
def State.issueBeat (s : State) (d p : Nat) (x : Beat) : State :=
  if s.dead x then s
  else
    let r := s.cacheRow (rowKey x.addr)
    let c := r.1.core d p
    let b := r.1.beatBus x.addr
    let bus := waCore x.addr * 4 + b.1
    let slot := x.slot + c.busOff
    let wait := match c.busAt.find bus with
      | some k => 8 - (slot - k)
      | none => 0
    let far := if waCore x.addr = p then 0 else 4 + 2 * coreHops (waCore x.addr) p
    r.1.setCore d p { c with
      busOff := c.busOff + wait, busAt := c.busAt.put bus (slot + wait)
      due := c.due ++ [{ x with slot := x.slot + 28, hold := r.2 + b.2 + wait + far }] }
/-- The beats of a core whose slots have come issue, in order (R232). -/
def State.issueBeats (s : State) (d p : Nat) : State :=
  let c := s.core d p
  (c.beats.filter fun x => decide (x.slot ≤ s.free d p)).foldl (fun t x => t.issueBeat d p x)
    (s.setCore d p { c with beats := c.beats.filter fun x => decide (s.free d p < x.slot) })

/-- A command enters the array now, in a group of `memb` members or alone (R256); a timed one does at its stamp, with its lines
pinned (R264). -/
def State.enter (s : State) (D memb : Nat) (starts : List Nat) (m : Nat × Nat × Cmd) : State :=
  let d := (s.unit m.1).place.die
  let p := s.home m.1
  let q := m.2.2
  let n := s.free d p
  let q1 := { q with
    phase := .issued, enter := n, dur := D, fin := n + D + q.tail, memb := memb, holdc := 0, reads := s.banksRead m.1 q
    starts := starts, abuf := [], tstep := 0, shift := 0, gone := false, pinned := q.stamp.isSome }
  let s1 := s.toFlight m.1 .matrix m.2.1 q1
  let c := s1.ctx m.1 .matrix m.2.1
  s1.setCtx m.1 .matrix m.2.1 { c with flight := (c.flight.filter fun k => decide (k.cn ≠ q.cn)) ++ [q1] }
def State.enterAll (s : State) (D memb : Nat) (starts : List Nat) : List (Nat × Nat × Cmd) → State
  | [] => s
  | m :: ms => (s.enter D memb starts m).enterAll D memb starts ms
/-- An undeclared command or group is counted for a job and its die (R92, R426, R439). -/
def State.burst (s : State) (u : Nat) : State :=
  let p := (s.unit u).place
  let s1 := match s.hjobs.find p.job with
    | some h => { s with hjobs := s.hjobs.put p.job { h with bursts := h.bursts + 1 } }
    | none => s
  s1.setDie p.die { s1.die p.die with counters := (s1.die p.die).counters.put 6 ((s1.die p.die).counters.getD 6 0 + 1) }
/-- Members enter the array of core `p` together: its boundary moves to E + D, and the beats of `rs` follow (R232, R256). -/
def State.runArray (s : State) (d p D memb : Nat) (rs : List Run) (ms : List (Nat × Nat × Cmd)) (declared : Bool) : State :=
  let s0 := s.enterAll D memb (startsOf rs) ms
  let k := s0.core d p
  let s2 := (s0.setCore d p { k with beats := k.beats ++ beatsOf (s0.free d p) rs, bound := s0.free d p + D }).issueBeats d p
  let s3 := if declared then s2 else match ms with
    | m :: _ => s2.burst m.1
    | [] => s2
  s3.refresh d p 0

/-- A class H cause of a command joins the team's event queue, and the command is complete with no effect (R264, R268,
R286). -/
def State.missCmd (s : State) (u j code : Nat) (q : Cmd) : State :=
  let s1 := s.event u .matrix j ⟨code, q.cn⟩
  let s2 := if Instr.arrayWork q.instr then
    s1.setCtx u .matrix j { s1.ctx u .matrix j with mstat := BitVec.ofNat 64 (q.cn % 256 * 2 ^ 56 + 2 ^ 54) } else s1
  s2.completeCmd u .matrix j q

/-! The group table of MMAG (R286) -/

/-- A ready MMAG reads its table: entries, a fault, or a ragged overrun. Of the entries that fail, the lowest reports, its weight
word before its fields that must match, and a group of no rows is checked as the others are: DESIGN CHOICE, log 110. -/
def State.readTable (s : State) (u j : Nat) (q : Cmd) : State :=
  let o := q.aop
  let bs := s.spBytes u (q.regs.getD 2 0).toNat (8 * o.cnt)
  let es := (List.range o.cnt).map fun g => leAt bs (8 * g) 8
  let gs := es.map fun e => (bits e 40 7, bits e 0 40)
  let rows := (gs.map (·.1)).sum
  let bad := gs.find? fun g => match s.firstTile u g.2 with
    | none => true
    | some (b, _) => !b.fits o.steps 1 || decide (b.region.fmt ≠ q.code) || decide (b.region.sm ≠ q.sm)
  let fail := fun (t : Trap) => (s.failCmd u .matrix j t).completeCmd u .matrix j q
  if es.any fun e => decide (bits e 47 17 ≠ 0) then fail ⟨0x17, 1 + q.raw.toNat * 2 ^ 32⟩
  else match bad with
    | some g => match s.firstTile u g.2 with
      | some (b, _) => if b.fits o.steps 1 then fail ⟨0x17, 2 + q.raw.toNat * 2 ^ 32⟩ else fail ⟨0x0E, g.2⟩
      | none => fail ⟨0x0E, g.2⟩
    | none =>
      if 96 < o.row0 + rows then s.missCmd u j 0x85 q
      else
        let fit := s.rowsIn u o q.code q.sm (96 - o.row0)
        if fit < rows then fail (if o.tensor then ⟨0x15, o.tn + 256⟩ else ⟨0x10, o.saddr + fit * o.sstr⟩)
        else s.setCtx u .matrix j ((s.ctx u .matrix j).setCmd { q with table := some gs })

/-! The merge buffer (R269 to R272) -/

def MGroup.isFor (g : MGroup) (q : Cmd) (gen : Nat) : Bool :=
  decide (g.wa = q.weight) && decide (g.steps = q.aop.steps) && decide (g.code = q.code) && decide (g.sm = q.sm) && decide (g.gen = gen)
/-- The open group is one that a candidate of unit `u` matches (R269, R270). -/
def State.matches (s : State) (p u : Nat) (q : Cmd) (b : BOp) (g : MGroup) : Bool :=
  !g.closed && g.isFor q (b.region.genOn p) && (b.region.shr || g.jobs.all fun x => decide (x = (s.unit u).place.job))
def MGroup.room (g : MGroup) (rows : Nat) : Bool := decide (g.rows + rows ≤ 96) && decide (g.members.length < 16)
/-- A ready candidate closes every matching group it does not fit (R271). -/
def State.closeFull (s : State) (d p u : Nat) (q : Cmd) : State :=
  match s.firstTile u q.weight with
  | none => s
  | some (b, _) => s.closeGroups d p fun g => s.matches p u q b g && !g.room q.aop.cnt
/-- A ready merge candidate with hold limit `h`: the state after it joins or opens a group, none where it runs as an
ordinary command (R269, R270). -/
def State.join (s : State) (d p u j : Nat) (q : Cmd) (h : Nat) : Option State :=
  match s.firstTile u q.weight with
  | none => none
  | some (b, _) =>
    let k := s.core d p
    let job := (s.unit u).place.job
    let n := s.free d p
    let rows := q.aop.cnt
    let held := { q with phase := .held, memb := 1 }
    match k.groups.find? fun g => s.matches p u q b g && g.room rows with
    | some g =>
      let g1 := { g with
        members := g.members ++ [(u, j, q.cn)], rows := g.rows + rows, deadline := min g.deadline (n + h)
        closed := decide (96 ≤ g.rows + rows) || decide (h = 0), prio := min g.prio (s.unit u).prio
        slot := min g.slot ((s.unit u).place.slot0 + j), jobs := g.jobs ++ [job] }
      some ((s.setCore d p { k with groups := k.groups.map fun x => if x = g then g1 else x }).toFlight u .matrix j held |>.refresh d p 0)
    | none =>
      if h = 0 ∨ 4 ≤ (k.groups.filter fun g => !g.closed).length then none
      else
        let g : MGroup := ⟨q.weight, q.aop.steps, q.code, q.sm, b.region.genOn p, b.key, [(u, j, q.cn)], rows, n + h, false,
          (s.unit u).prio, q.readyAt.getD n, (s.unit u).place.slot0 + j, [job]⟩
        some ((s.setCore d p { k with groups := k.groups ++ [g] }).toFlight u .matrix j held |>.refresh d p 0)

/-- The members of a group with their commands, in the order in which they joined. -/
def State.membersOf (s : State) (g : MGroup) : List (Nat × Nat × Cmd) :=
  g.members.filterMap fun m => ((s.ctx m.1 .matrix m.2.1).cmd m.2.2).map fun q => (m.1, m.2.1, q)

/-! Consorts (R266 to R268) -/

/-- The units of a consort, with their grid places in order (R266). -/
def State.consortUnits (s : State) (u : Nat) (a : AOp) : List (Option Nat) :=
  let p := (s.unit u).place
  (List.range (a.rc * a.nc)).map fun k =>
    ((s.units.find? fun c => c.2.live && decide (c.2.place.launch = p.launch) && decide (c.2.place.stage = p.stage)
      && decide (c.2.place.inst = 16 * (p.inst / 16) + k)).map (·.1))
/-- The armed `n`-th consort command of a unit, at the head of one of its contexts. -/
def State.consortHead (s : State) (u n : Nat) : Option (Nat × Cmd) :=
  (List.range 4).findSome? fun j => match (s.ctx u .matrix j).queue with
    | q :: _ => if q.con = n ∧ q.armed = true then some (j, q) else none
    | [] => none
/-- The members of the operation of a consort command that are armed. -/
def State.consortArmed (s : State) (u : Nat) (q : Cmd) : List (Nat × Nat × Cmd) :=
  (s.consortUnits u q.aop).filterMap fun m => match m with
    | none => none
    | some k => (s.consortHead k q.con).map fun h => (k, h.1, h.2)
/-- The operation breaks: a member is not live, or members disagree on shape, region, S or format, or their matrix divisors
differ (R268). -/
def State.consortBad (s : State) (u : Nat) (q : Cmd) : Bool :=
  (s.consortUnits u q.aop).any (·.isNone) ||
    (s.consortArmed u q).any fun m =>
      decide (m.2.2.aop.ncm ≠ q.aop.ncm) || decide (m.2.2.aop.rcm ≠ q.aop.rcm) || decide (m.2.2.aop.steps ≠ q.aop.steps)
        || decide ((s.firstTile m.1 m.2.2.weight).map (fun b => b.1.key) ≠ (s.firstTile u q.weight).map (fun b => b.1.key))
        || decide (m.2.2.code ≠ q.code) || decide (m.2.2.sm ≠ q.sm) || decide ((s.unitCore m.1).mat.div ≠ (s.unitCore u).mat.div)
/-- Every armed member takes the consort-broken trap (R268). -/
def State.breakConsort (s : State) (u : Nat) (q : Cmd) : State :=
  (s.consortArmed u q).foldl (fun t m => t.missCmd m.1 m.2.1 0x86 m.2.2) s
/-- A timed command is ready at its stamp but for arbitration (R264). -/
def State.stampReady (s : State) (d p : Nat) (q : Cmd) : Bool :=
  s.atBoundary d p && (q.lines.isEmpty || s.linesHeld d p q.lines) && match q.readyAt with
    | some r => decide (r ≤ s.free d p)
    | none => false
/-- Timed commands of a core whose stamps are now and that are ready, ranked (R104). -/
def State.stamped (s : State) (d p : Nat) : List (Rank × (Nat × Nat)) :=
  (s.heads d p .matrix).filterMap fun h =>
    if h.2.2.2.stamp = some (s.tclk h.1) ∧ Instr.usesArray h.2.2.2.instr = true ∧ s.stampReady d p h.2.2.2 = true then
      some (s.rank h.1 .matrix h.2.1 (h.2.2.2.readyAt.getD 0), (h.1, h.2.1)) else none
/-- Open groups that a ready array command of smaller PRIO closes (R271). -/
def State.closeByPrio (s : State) (d p : Nat) : State :=
  let hs := s.heads d p .matrix
  s.closeGroups d p fun g => hs.any fun h => Instr.usesArray h.2.2.2.instr && decide ((s.unit h.1).prio < g.prio)
/-- Every member is armed and otherwise ready, at a boundary of its core that the stamps there allow, and its engine has its choice
of this cycle to make (R104, R265, R268). -/
def State.consortReady (s : State) (u : Nat) (q : Cmd) (D : Nat) : Bool :=
  decide ((s.consortArmed u q).length = q.aop.rc * q.aop.nc) &&
    (s.consortArmed u q).all fun m =>
      let d := (s.unit m.1).place.die
      let p := s.home m.1
      decide ((s.unit m.1).status = .resident) && s.engineOn d p .matrix && s.mayChoose d p .matrix && (s.stamped d p).isEmpty
        && s.atBoundary d p && s.fitsStamps d p D
        && match m.2.2.readyAt with
          | some r => decide (r ≤ s.free d p)
          | none => false
/-- The runs of a member of a consort operation. -/
def State.memberRuns (s : State) (m : Nat × Nat × Cmd) : List Run :=
  s.runsOf m.1 (s.rowsOf m.1 m.2.2) m.2.2.level (s.declares m.1 m.2.2.level) { m.2.2 with reads := s.banksRead m.1 m.2.2 }
/-- The array time of a consort operation's steps: the longest of its members' (R268). -/
def State.consortA (s : State) (u : Nat) (q : Cmd) : Nat :=
  ((s.consortArmed u q).flatMap fun m => (s.memberRuns m).map (·.a)).foldl max 0
/-- D of a consort operation (R268). -/
def State.consortD (s : State) (u : Nat) (q : Cmd) : Nat := spanD q.code q.sm q.aop.steps (s.consortA u q)
/-- Every member enters the array of its core with array time `a` in each step: it is that engine's choice of the cycle, and closes
the groups there that it goes before (R104, R268, R271). -/
def State.runConsort (s : State) (D a : Nat) : List (Nat × Nat × Cmd) → State
  | [] => s
  | m :: ms =>
    let d := (s.unit m.1).place.die
    let p := s.home m.1
    (((s.closeByPrio d p).choose d p .matrix).runArray d p D 0 ((s.memberRuns m).map fun x => { x with a := a }) [m]
      (s.declares m.1 m.2.2.level)).runConsort D a ms

/-! Issue (R104, R302) -/

/-- What the engine may choose: a command, or a closed group (R271). -/
inductive Pick where
  | cmd (u j : Nat) (q : Cmd)
  | group (g : MGroup)

/-- Draw level and duration of a group (R271, R419). -/
def MGroup.level (g : MGroup) : Nat := drawLevel g.code g.sm g.rows
def State.groupDeclared (s : State) (g : MGroup) : Bool := g.members.any fun m => s.declares m.1 (g.level)
def State.groupA (s : State) (d p : Nat) (g : MGroup) : Nat :=
  stretch (cdiv g.rows (rowRate g.code)) (g.level) (s.cap d p (s.groupDeclared g))
def State.groupD (s : State) (d p : Nat) (g : MGroup) : Nat := spanD g.code g.sm g.steps (s.groupA d p g)
/-- The run of a group: its members share B (R270). -/
def State.groupRun (s : State) (d p : Nat) (g : MGroup) : Run :=
  ⟨(s.membersOf g).head?.bind fun m => s.bOf m.1 g.wa 0 { m.2.2 with reads := s.banksRead m.1 m.2.2 }, g.code, g.sm, g.steps, s.groupA d p g⟩
/-- The runs of a command that enters the array alone. -/
def State.cmdRuns (s : State) (u : Nat) (q : Cmd) : List Run :=
  s.runsOf u (s.rowsOf u q) q.level (s.declares u q.level) { q with reads := s.banksRead u q }
/-- A command enters the array alone (R256). -/
def State.runAlone (s : State) (d p u j : Nat) (q : Cmd) : State :=
  s.runArray d p (s.duration u (s.rowsOf u q) q.level (s.declares u q.level) q) 0 (s.cmdRuns u q) [(u, j, q)] (s.declares u q.level)
/-- An array command writes its results back in this cycle, ahead of commands of the port (R302). -/
def State.writesBack (s : State) (d p : Nat) : Bool :=
  (s.inFlight d p).any fun m => decide (m.2.2.phase = .issued) && Instr.arrayWork m.2.2.instr && decide (m.2.2.fin = s.free d p)

/-- What a command needs of the engine is free, and R265 lets it enter. -/
def State.mayIssue (s : State) (d p u : Nat) (q : Cmd) : Bool :=
  if q.stamp.isSome then false
  else if Instr.usesArray q.instr then
    if q.con ≠ 0 then s.consortReady u q (s.consortD u q)
    else s.atBoundary d p && s.fitsStamps d p (s.duration u (s.rowsOf u q) q.level (s.declares u q.level) q)
  else match q.port with
    | some _ => decide ((s.core d p).port ≤ s.free d p) && !s.writesBack d p
    | none => true
/-- Ranked choices of the matrix engine (R104, R271). -/
def State.matrixPicks (s : State) (d p : Nat) : List (Rank × Pick) :=
  ((s.heads d p .matrix).filterMap fun h =>
    if s.mayIssue d p h.1 h.2.2.2 then some (s.rank h.1 .matrix h.2.1 (h.2.2.2.readyAt.getD 0), Pick.cmd h.1 h.2.1 h.2.2.2) else none)
  ++ ((s.core d p).groups.filterMap fun g =>
    if g.closed && s.atBoundary d p && s.fitsStamps d p (s.groupD d p g) then some (⟨g.prio, g.readyAt, g.slot⟩, Pick.group g) else none)
/-- A consort operation is the choice of every member's core: nothing that an engine could take there ranks before its member
(R104, R268). -/
def State.consortWins (s : State) (u : Nat) (q : Cmd) : Bool :=
  (s.consortArmed u q).all fun m =>
    let r := s.rank m.1 .matrix m.2.1 (m.2.2.readyAt.getD 0)
    (s.matrixPicks (s.unit m.1).place.die (s.home m.1)).all fun x => !x.1.before r
/-- The choices of which the engine takes the first: a consort operation is one where every member's engine takes it (R104, R268). -/
def State.matrixChoices (s : State) (d p : Nat) : List (Rank × Pick) :=
  (s.matrixPicks d p).filter fun x => match x.2 with
    | .cmd u _ q => decide (q.con = 0) || s.consortWins u q
    | .group _ => true

/-- An MSYNC that names no object: it completes as it issues (R299). -/
def Cmd.bareSync (q : Cmd) : Bool :=
  match q.instr with
  | .msync _ _ _ => q.sync.isNone
  | _ => false
/-- A command of the port, or of no resource, issues (R302). -/
def State.runPort (s : State) (d p u j : Nat) (q : Cmd) : State :=
  let n := s.free d p
  let t := q.port.getD (0, if Instr.usesNone q.instr && decide (q.sync = none) && !q.bareSync then 1 else 0)
  let q1 := { q with phase := .issued, enter := n, fin := n + t.2 }
  let s1 := s.toFlight u .matrix j q1
  if q.bareSync then s1.completeCmd u .matrix j q1
  else (if q.port.isSome then s1.setCore d p { s1.core d p with port := n + t.1 } else s1).refresh d p 0

/-- The choice of the matrix engine is issued. -/
def State.runPick (s : State) (d p : Nat) : Pick → State
  | .group g =>
    let s1 := s.setCore d p { s.core d p with groups := (s.core d p).groups.filter fun x => decide (x ≠ g) }
    s1.runArray d p (s.groupD d p g) g.members.length [s.groupRun d p g] (s.membersOf g) (s.groupDeclared g)
  | .cmd u j q =>
    if Instr.usesArray q.instr then
      if q.con ≠ 0 then s.runConsort (s.consortD u q) (s.consortA u q) (s.consortArmed u q) else s.runAlone d p u j q
    else s.runPort d p u j q

/-- One decision of the matrix engine of a core: a table read, a command that needs no arbitration, a join, a broken
consort, or the one choice of its cycle, which a timed command on its stamp goes before (R104). Groups that a smaller PRIO closes
(R271) close before a candidate may join one, and a candidate that found no group tries again at each decision until it issues: DESIGN
CHOICE, log 108. -/
def State.matrixIssue (s0 : State) (d p : Nat) : State :=
  let s := (s0.heads d p .matrix).foldl (fun t h => if h.2.2.2.hlimit.isSome then t.closeFull d p h.1 h.2.2.2 else t) (s0.closeByPrio d p)
  let hs := s.heads d p .matrix
  match hs.find? fun h => Instr.isMmag h.2.2.2.instr && h.2.2.2.table.isNone with
  | some h => s.readTable h.1 h.2.1 h.2.2.2
  | none =>
    match hs.find? fun h => Instr.usesNone h.2.2.2.instr && decide (h.2.2.2.stamp = none) with
    | some h => s.runPort d p h.1 h.2.1 h.2.2.2
    | none =>
      match hs.find? fun h => decide (h.2.2.2.con ≠ 0) && s.consortBad h.1 h.2.2.2 with
      | some h => s.breakConsort h.1 h.2.2.2
      | none =>
        match hs.findSome? fun h => match h.2.2.2.hlimit with
            | some l => s.join d p h.1 h.2.1 h.2.2.2 l
            | none => none with
        | some s1 => s1
        | none =>
          if s.mayChoose d p .matrix = false ∨ s.stamped d p ≠ [] then s
          else match pickRank (s.matrixChoices d p) with
          | some x => (s.choose d p .matrix).runPick d p x
          | none => s

/-- MERGE_GROUP_CLOSE (R271): group number `g` of a core, whose deadline has come, closes. -/
def execMergeGroupClose (die core g : Nat) (s : State) : Out :=
  match ((s.core die core).groups)[g]? with
  | some x =>
    if x.closed = false ∧ x.deadline ≤ s.free die core then .next (s.closeGroups die core fun y => decide (y = x)) else .next s
  | none => .next s

/-- CONSORT_TIMEOUT (R268): a consort command that has waited 2^20 resident matrix cycles breaks its operation. -/
def execConsortTimeout (u j : Nat) (s : State) : Out :=
  match (s.ctx u .matrix j).queue with
  | q :: _ =>
    if q.con ≠ 0 ∧ q.armed = true ∧ (s.unit u).status = .resident ∧
        2 ^ 20 ≤ q.waited + (s.free (s.unit u).place.die (s.home u) - q.armedAt) then
      .next (s.breakConsort u q)
    else .next s
  | [] => .next s

/-- TIMED_COMMAND_STAMP (R263, R264): an armed timed command enters the array when TCLK is its stamp, or misses. A ready MMAG reads
its table first, and is then over where the table fails it (R286). -/
def execTimedCommandStamp (u j : Nat) (s0 : State) : Out :=
  let d := (s0.unit u).place.die
  let p := s0.home u
  let s1 := s0.closeByPrio d p
  let now := fun (q : Cmd) => Instr.usesArray q.instr && q.armed && decide ((s1.unit u).status = .resident) && s1.engineOn d p .matrix
    && q.stamp.any fun v => decide (v ≤ s1.tclk u)
  let s := match (s1.ctx u .matrix j).queue with
    | q :: _ => if now q && (Instr.isMmag q.instr && (q.table.isNone && q.readyAt.isSome)) then s1.readTable u j q else s1
    | [] => s1
  match (s.ctx u .matrix j).queue with
  | q :: _ =>
    match q.stamp with
    | some v =>
      if Instr.usesArray q.instr = false ∨ q.armed = false ∨ (s.unit u).status ≠ .resident ∨ s.engineOn d p .matrix = false
          ∨ s.tclk u < v then .next s
      else if ((s1.ctx u .matrix j).queue.head?).any (fun k => decide (k.cn ≠ q.cn)) = true then .next s
      else if s.tclk u = v ∧ s.mayChoose d p .matrix = true ∧ pickRank (s.stamped d p) = some (u, j) then
        .next ((s.choose d p .matrix).runAlone d p u j q)
      else .next (s.missCmd u j 0x82 q)
    | none => .next s
  | [] => .next s

/-! Completion (R256, R259 to R261, R273, R274) -/

/-- The groups of rows of an MMA or MMAG: B operand, first row of A, rows, first slot row (R267, R285, R286). -/
def State.parts (s : State) (u : Nat) (q : Cmd) : List (BOp × Nat × Nat × Nat) :=
  match q.instr with
  | .mma _ _ _ _ _ _ _ _ _ _ =>
    let shift := if q.con = 0 then 0 else q.aop.gridCol (s.unit u).place.inst
    ((s.bOf u q.weight shift q).map fun b => [(b, 0, s.rowsOf u q, q.aop.row0)]).getD []
  | .mmag _ _ _ _ _ _ _ =>
    ((q.table.getD []).foldl (fun (acc : List (BOp × Nat × Nat × Nat) × Nat) g =>
      (match s.bOf u g.2 0 q with
        | some b => if g.1 = 0 then acc.1 else acc.1 ++ [(b, acc.2, g.1, q.aop.row0 + acc.2)]
        | none => acc.1, acc.2 + g.1)) ([], 0)).1
  | _ => []
/-- Z and D of a command. -/
def Cmd.zd (q : Cmd) : Bool × Bool :=
  match q.instr with
  | .mma _ _ _ p _ d _ _ _ _ => (decide (p = 1), decide (d = 1))
  | .mmag _ _ _ p _ _ _ => (decide (p = 1), false)
  | _ => (true, false)
def Instr.slotField : Instr → Nat
  | .mma z _ _ _ _ _ _ _ _ _ => z.toNat
  | .mmag z _ _ _ _ _ _ => z.toNat
  | .mzero z _ => z.toNat
  | .mdcy z _ _ => z.toNat
  | .mdcySet z _ => z.toNat
  | .mdrn z _ _ _ _ _ => z.toNat
  | .mldz z _ _ => z.toNat
  | _ => 0
/-- The unit and the command whose A rows a member uses: in a consort those of the member at the head of its row, whose engine may
have been reset since (R267, R454). None where that command is over. -/
def State.aSource (s : State) (u : Nat) (q : Cmd) : Option (Nat × Cmd) :=
  if q.con = 0 then some (u, q)
  else match (s.consortUnits u q.aop).getD (q.aop.gridRow (s.unit u).place.inst * q.aop.nc) none with
    | none => none
    | some k => ((List.range 4).findSome? fun j =>
        ((s.ctx k .matrix j).flight ++ (s.ctx k .matrix j).queue).find? fun c => decide (c.con = q.con)).map fun c => (k, c)
/-- A byte of a tensor A operand as its tile fetch unit read it (R259). -/
def State.fetched (s : State) (q : Cmd) (_ : Nat) : Option Nat → Byte
  | none => s.freeByte (2 ^ 52)
  | some pa => match q.abuf.find (pa / 128) with
    | some l => l.getD (pa % 128) 0
    | none => s.freeByte pa
/-- A tensor of free bytes: the A rows of a consort's row whose head is gone (R267; log 95). -/
def freeRows (code : Nat) : Tensor := { ext := [2 ^ 24, 2 ^ 24, 1, 1], str := [1, 2 ^ 24, 0, 0], fmt := code }
/-- What an MMA or MMAG leaves (R285, R286). -/
def State.productOf (s : State) (u : Nat) (q : Cmd) : Product :=
  let slot := s.slotKey u (Instr.slotField q.instr)
  (s.parts u q).foldl (fun acc g => acc.join (match s.aSource u q with
    | some src => s.product slot src.1 src.2.aop src.2.tens (src.2.copyOf src.2.aop.tn) (s.fetched src.2) g.1 q.code q.sm q.zd.1 q.zd.2
        g.2.1 g.2.2.1 g.2.2.2
    | none => s.product slot u { q.aop with tensor := true } (freeRows q.code) false (fun va _ => s.freeByte va) g.1 q.code q.sm q.zd.1
        q.zd.2 g.2.1 g.2.2.1 g.2.2.2)) {}
/-- The status word of MSTAT (R300). -/
def Cmd.statusWord (q : Cmd) (sat ncs : Nat) : X :=
  BitVec.ofNat 64 (q.cn % 256 * 2 ^ 56 + (if q.memb = 0 then 0 else 2 ^ 53 + (q.memb - 1) * 2 ^ 48) + min 65535 q.holdc * 2 ^ 32
    + min 65535 sat * 65536 + min 65535 ncs)
def State.setMstat (s : State) (u j : Nat) (v : X) : State :=
  s.setCtx u .matrix j { s.ctx u .matrix j with mstat := v }
/-- A merged member counts for its job (R92, R273). -/
def State.countMerged (s : State) (u : Nat) (q : Cmd) : State :=
  if q.memb = 0 then s
  else match s.hjobs.find (s.unit u).place.job with
    | some h => { s with hjobs := s.hjobs.put (s.unit u).place.job { h with merged := h.merged + 1 } }
    | none => s

/-- The results of an MMA or MMAG as of state `s0`, or the fault of a poisoned tile, or nothing where it was removed (R252, R259,
R260, R273, R274). -/
def State.landProduct (s s0 : State) (u j : Nat) (q : Cmd) : State :=
  let slot := s0.slotKey u (Instr.slotField q.instr)
  if s0.skipped slot u j q then s
  else if q.gone then s.countMerged u q
  else match (s0.parts u q).findSome? fun g => s0.bPoison g.1 q.aop.steps with
  | some a => (s.failCmd u .matrix j ⟨0x0F, a⟩).countMerged u q
  | none =>
      let r := s0.productOf u q
      ((((s.putAcc r.words).setLan slot u j q).raiseAt u r.flags).setMstat u j (q.statusWord r.sat r.ncs)).countMerged u q

/-- The words of some rows of a slot. -/
def rowKeys (slot r0 n : Nat) : List (Nat × Nat × Nat) :=
  (List.range n).flatMap fun i => (List.range 160).map fun j => (accKey slot (r0 + i) j, i, j)
/-- MZERO, MDCY, MLDZ: new words of the rows named (R289 to R291). -/
def State.landRows (s : State) (u j : Nat) (q : Cmd) : State :=
  let slot := s.slotKey u (Instr.slotField q.instr)
  if s.skipped slot u j q then s
  else match q.instr with
  | .mzero _ _ => match rowWord (q.regs.getD 0 0) with
    | some (n, r) => (s.putAcc ((rowKeys slot r n).map fun k => (k.1, 0))).setLan slot u j q
    | none => s
  | .mdcy _ _ _ => match rowWord (q.regs.getD 1 0) with
    | some (n, r) =>
      let w : Nat := (q.regs.getD 0 0).toNat % 2 ^ 32
      let o := (rowKeys slot r n).map fun k => (k.1, mul32 (s.accWord slot (r + k.2.1) k.2.2).toNat w)
      ((s.putAcc (o.map fun k => (k.1, BitVec.ofNat 32 k.2.1))).setLan slot u j q).raiseAt u (o.foldl (fun f k => f ||| k.2.2) 0)
    | none => s
  | .mldz _ _ _ => match rowWord (q.regs.getD 1 0), spWord (q.regs.getD 0 0) 640 with
    | some (n, r), some (st, a) =>
      (s.putAcc ((rowKeys slot r n).map fun k => (k.1, BitVec.ofNat 32 (leNat (s.spBytes u (a + k.2.1 * st + 4 * k.2.2) 4))))).setLan slot u j q
    | _, _ => s
  | _ => s
/-- One element of a drain (R71, R292). An integer 0 has the sign of a positive number. DEDUCED, log 84. -/
def drainElem (e : Word) (scale : BitVec 32) (int : Bool) (w : BitVec 32) : Nat × X :=
  let a : Val := if int then .ofInt w.toInt else unpack fp32 w.toNat
  let p := mulVal a (unpack fp32 scale.toNat)
  let u := rne32 p.1
  let o := cvt (entCode e) (entRm e) (entSat e) (unpack fp32 u.1)
  (o.1, p.2 ||| u.2 ||| o.2)
/-- MDRN (R292): the scratchpad bytes and, with CLR, the cleared rows and LAN in one act. -/
def State.landDrain (s : State) (u j : Nat) (q : Cmd) : State :=
  match q.instr with
  | .mdrn z _ _ c i _ =>
    let slot := s.slotKey u z.toNat
    let size := elemBytes q.code
    match rowWord (q.regs.getD 1 0), spWord (q.regs.getD 0 0) (160 * size) with
    | some (n, r), some (st, a) =>
      if c = 1 ∧ s.skipped slot u j q = true then s
      else
        let o := (rowKeys slot r n).map fun k => (a + k.2.1 * st + size * k.2.2, drainElem q.fent q.tsv (decide (i = 1)) (s.accWord slot (r + k.2.1) k.2.2))
        let s1 := (o.foldl (fun t k => t.spPuts u k.1 (leBytes k.2.1 size)) s).raiseAt u (o.foldl (fun f k => f ||| k.2.2) 0)
        if c = 1 then (s1.putAcc ((rowKeys slot r n).map fun k => (k.1, 0))).setLan slot u j q else s1
    | _, _ => s
  | _ => s
/-- MTRQ (R298). -/
def State.landMtrq (s : State) (u j : Nat) (q : Cmd) : State :=
  let o := mtrqOut (q.regs.getD 1 0)
  match s.bOf u q.weight0 0 q with
  | none => s
  | some b =>
    match s.bPoison b o.2.2 with
    | some a => s.failCmd u .matrix j ⟨0x0F, a⟩
    | none =>
      let code := b.region.fmt
      let lim := if code = 6 then 7 else 69
      let cols := (List.range o.2.2).map fun st => (List.range 160).map fun n => s.bBlock b st n
      let rows := (List.range (16 * o.2.2)).map fun k => (List.range 10).map fun jb =>
        quantBlock 128 0 lim ((List.range 16).map fun t => mtrqValue code ((cols.getD (k / 16) []).getD (16 * jb + t) ⟨[], 0⟩) (k % 16))
      let ncs := if code = 5 then (cols.map fun l => (l.map KBlock.ncs).sum).sum else 0
      let fl := rows.foldl (fun f r => r.foldl (fun g x => g ||| x.flags) f) (if ncs = 0 then 0 else flNC)
      let sat := (rows.map fun r => (r.map fun x => x.sat).sum).sum
      let s1 := rows.zipIdx.foldl (fun (t : State) r =>
        (t.spPuts u (o.1 + rowBytes code 160 * r.2) (packCodes code (r.1.flatMap fun x => x.codes))).spPuts u (o.2.1 + 20 * r.2)
          (r.1.flatMap fun x => leBytes x.scale 2)) s
      (s1.raiseAt u fl).setMstat u j (q.statusWord sat ncs)

/-- What a completing matrix command does, by its kind; a product is that of state `s0`. -/
def State.landMatrix (s s0 : State) (u j : Nat) (q : Cmd) : State :=
  match q.instr with
  | .mma _ _ _ _ _ _ _ _ _ _ => s.landProduct s0 u j q
  | .mmag _ _ _ _ _ _ _ => s.landProduct s0 u j q
  | .mzero _ _ => s.landRows u j q
  | .mdcy _ _ _ => s.landRows u j q
  | .mldz _ _ _ => s.landRows u j q
  | .mdcySet z _ => { s with dsc := s.dsc.put (s.slotKey u z.toNat) ((q.regs.getD 0 0).setWidth 32) }
  | .mdrn _ _ _ _ _ _ => s.landDrain u j q
  | .mpref _ =>
    let c := s.ctx u .matrix j
    let held := s.pinnedLines (s.unit u).place.die (s.home u)
    let news := (q.lines.filter fun l => !held.contains l).take (1024 - held.length)
    s.setCtx u .matrix j { c with
      pref := c.pref ++ (q.lines.filter fun l => !c.pref.contains l && (held.contains l || news.contains l)) }
  | .mprefW _ _ => s.setMstat u j (q.statusWord 0 0)
  | .munp a =>
    let c := s.ctx u .matrix j
    s.setCtx u .matrix j { c with pref := if a = 0 then [] else c.pref.filter fun l => !q.lines.contains l }
  | .mtrq _ _ => s.landMtrq u j q
  | .msync _ _ c => match q.sync with
    | some pa => if s.counted (ckey u .matrix j) pa q then s else
      (s.countObject u c.toNat pa).noteApplied (ckey u .matrix j) pa q.cn
    | none => s
  | .mstat a =>
    let c := s.ctx u .matrix j
    s.setCtx u .matrix j { c with st := c.st.setX a c.mstat }
  | _ => s
/-- The command with the scratchpad ranges it accessed: a consort member that does not head its row has not read its A rows (R267). -/
def State.accessed (s : State) (u : Nat) (q : Cmd) : Cmd :=
  if q.con = 0 ∨ q.aop.gridCol (s.unit u).place.inst = 0 then q else { q with claims := q.claims.filter fun c => c.wr }
/-- One matrix command completes (R126, R225, R260). -/
def State.matrixDone (s s0 : State) (u j : Nat) (q : Cmd) : State :=
  let s1 := s.landMatrix s0 u j q
  (s1.touchCmd u 2 (s1.accessed u q)).completeCmd u .matrix j q
/-- The members of the group or consort operation that `q` runs in: those of its core that entered the array with it, or those
of its operation (R267, R273). -/
def State.together (s : State) (u j : Nat) (q : Cmd) : List (Nat × Nat × Cmd) :=
  if q.con ≠ 0 then
    (s.consortUnits u q.aop).flatMap fun m => match m with
      | none => []
      | some k => (List.range 4).flatMap fun i =>
          ((s.ctx k .matrix i).flight.filter fun c => decide (c.phase = .issued) && decide (c.con = q.con)).map fun c => (k, i, c)
  else if q.memb = 0 then [(u, j, q)]
  else (s.inFlight (s.unit u).place.die (s.home u)).filter fun m =>
    decide (m.2.2.phase = .issued) && decide (0 < m.2.2.memb) && decide (m.2.2.enter = q.enter)
/-- Members complete together: each writes what its operands gave in state `s0` (R260, R273). -/
def State.finishTogether (s s0 : State) : List (Nat × Nat × Cmd) → State
  | [] => s
  | m :: ms => (s.matrixDone s0 m.1 m.2.1 m.2.2).finishTogether s0 ms
/-- MATRIX_COMMAND_COMPLETE (R256, R302): at its completion cycle a command writes its results in one act, the members of a
group together. -/
def execMatrixCommandComplete (u j cn : Nat) (s : State) : Out :=
  let d := (s.unit u).place.die
  let p := s.home u
  match (s.ctx u .matrix j).flight.find? fun q => decide (q.cn = cn) with
  | some q =>
    if q.phase = .issued ∧ q.fin ≤ s.free d p ∧ (s.unit u).onCore = true ∧ ((s.core d p).reset.find 0).isNone = true then
      .next (s.finishTogether s (s.together u j q))
    else .next s
  | none => .next s

/-! Swaps (R244, R245, R295) -/

/-- SWAP_BEGIN (R244, R295, R466): at its stamp an armed MSWP swaps its region's banks, or misses. -/
def execSwapBegin (u j : Nat) (s : State) : Out :=
  let pl := (s.unit u).place
  match (s.ctx u .matrix j).queue with
  | q :: _ =>
    match q.instr, q.stamp with
    | .mswp _ n, some v =>
      if q.armed = false ∨ (s.unit u).status ≠ .resident ∨ s.engineOn pl.die (s.home u) .matrix = false ∨ s.tclk u < v then .next s
      else match (s.binding u n.toNat).bind fun ix => s.tableRegion pl.die pl.job ix with
        | some (k, _, r) =>
          if s.tclk u = v ∧ s.released k r = true ∧ r.popen = false ∧ s.measuring k = false then
            let homes := (List.range r.groups).map r.homeOf
            let r1 := { r with gen := r.gen + 1, act := !r.act, pending := homes, signalled := [] }
            .next (((({ s with regions := s.regions.put k r1 } : State).toFlight u .matrix j q).completeCmd u .matrix j q))
          else .next (s.missCmd u j 0x82 q)
        | none => .next (s.missCmd u j 0x82 q)
    | _, _ => .next s
  | [] => .next s
/-- SWAP_SIGNAL_ARRIVAL (R244): groups keyed to the region at the old GEN close. -/
def execSwapSignalArrival (die core : Nat) (region : Nat) (s : State) : Out :=
  let k := rkey die region
  match s.regions.find k with
  | some r =>
    if r.pending.contains core && !r.signalled.contains core then
      let s1 := { s with regions := s.regions.put k { r with signalled := core :: r.signalled } }
      .next (s1.closeGroups die core fun g => decide (g.region = k) && decide (g.gen < r.gen))
    else .next s
  | none => .next s
/-- A group of a region at an older generation waits on a core (R244). -/
def State.oldGroups (s : State) (d p k gen : Nat) : Bool :=
  (s.core d p).groups.any fun g => decide (g.region = k) && decide (g.gen < gen)
/-- SWAP_LAND (R244): at a command boundary with no group of the old GEN left. -/
def execSwapLand (die core : Nat) (region : Nat) (s : State) : Out :=
  let k := rkey die region
  match s.regions.find k with
  | some r =>
    if r.pending.contains core && (r.signalled.contains core && (s.atBoundary die core && !s.oldGroups die core k r.gen)) then
      .next { s with regions := s.regions.put k { r with pending := r.pending.filter fun c => decide (c ≠ core) } }
    else .next s
  | none => .next s

/-! Global hold (R240, R241) -/

/-- The core is held `n` matrix cycles more: holds follow one another (R240). -/
def State.holdCore (s : State) (d p n : Nat) : State :=
  let c := s.core d p
  let c1 := if s.holding d p then { c with holdLen := c.holdLen + n }
    else { c.settleHold (s.dcc d) with holdDcc := c.mat.start (s.dcc d), holdAt := s.mcyc d p, holdLen := n }
  let count := fun (q : Cmd) => if q.phase = .issued ∧ s.free d p < q.enter + q.shift + q.dur then { q with holdc := q.holdc + n } else q
  let cs := s.ctxs.map fun (x : Nat × Ctx) =>
    if engineOf x.1 = .matrix ∧ s.unitOn d p (x.1 / 12) = true then (x.1, { x.2 with flight := x.2.flight.map count }) else x
  { s.setCore d p c1 with ctxs := cs }
/-- Commands in the array of a core now. -/
def State.inArray (s : State) (d p : Nat) : List (Nat × Cmd) :=
  s.ctxs.flatMap fun (c : Nat × Ctx) =>
    if engineOf c.1 = .matrix ∧ s.unitOn d p (c.1 / 12) = true then
      (c.2.flight.filter fun q => decide (q.phase = .issued) && Instr.arrayWork q.instr && decide (s.free d p < q.enter + q.shift + q.dur + 28)).map fun q => (c.1 / 12, q)
    else []
/-- The cores of the members of the consort commands in a core's array. -/
def State.consortCores (s : State) (c : Nat × Nat) : List (Nat × Nat) :=
  (s.inArray c.1 c.2).flatMap fun m => if m.2.con = 0 then [] else
    (s.consortUnits m.1 m.2.aop).filterMap fun x => x.map fun k => ((s.unit k).place.die, s.home k)
/-- Cores, those held with each of them, and so on, for `n` rounds. -/
def State.heldFrom (s : State) : Nat → List (Nat × Nat) → List (Nat × Nat)
  | 0, l => l
  | n + 1, l =>
    let l1 := (l ++ l.flatMap s.consortCores).eraseDups
    if l1.length = l.length then l else s.heldFrom n l1
/-- The cores that a hold on a core holds: its own, those of every member of the consort commands in its array, and those that a hold
on one of them holds (R241). -/
def State.heldWith (s : State) (d p : Nat) : List (Nat × Nat) := s.heldFrom Config.cores [(d, p)]
/-- A hold of `n` matrix cycles begins on a core, and with it on its consorts' cores (R240, R241). -/
def State.hold (s : State) (d p n : Nat) : State := (s.heldWith d p).foldl (fun t c => t.holdCore c.1 c.2 n) s
/-- The data of beats of a core are late: the holds due by this matrix cycle begin (R240). -/
def State.holdDue (s : State) (d p : Nat) : State :=
  let c := s.core d p
  let n := ((c.due.filter fun x => decide (x.slot ≤ s.free d p)).map (·.hold)).sum
  let s1 := s.setCore d p { c with
    due := (c.due.filter fun x => decide (s.free d p ≤ x.slot)).map fun x => if x.slot = s.free d p then { x with hold := 0 } else x }
  if n = 0 then s1 else s1.hold d p n
/-- The beat whose data are due in a core in this matrix cycle and hold the codeword at weight address ÷ 64, of cells that are read at
all (R232, R252). -/
def State.beatDue (s : State) (d p cw : Nat) : Option Beat :=
  (s.core d p).due.find? fun x => decide (x.slot = s.free d p) && decide (x.addr / 512 = cw / 8) && !s.dead x
/-- A beat of a core that is due changes. -/
def State.setDue (s : State) (d p : Nat) (x y : Beat) : State :=
  s.setCore d p { s.core d p with due := (s.core d p).due.map fun z => if z = x then y else z }

/-! A matrix cycle of a core (R240, R258, R259, R263) -/

/-- The tile fetch unit reads lines of K-step `g` that it has not read: each as committed at this moment (R259). -/
def State.fetchLines (s : State) (u : Nat) (m : NMap (List Byte)) : List (Nat × Nat) → NMap (List Byte)
  | [] => m
  | l :: ls => s.fetchLines u (if (m.find l.2).isSome then m
      else m.put l.2 ((List.range 128).map fun i => s.engByte u (l.1 * 128 + i) (some (l.2 * 128 + i)))) ls
/-- The members that consume the A rows a command reads: itself, or the members of its grid row (R267). -/
def State.rowMembers (s : State) (u j : Nat) (q : Cmd) : List (Nat × Nat × Cmd) :=
  if q.con = 0 then [(u, j, q)]
  else (s.together u j q).filter fun m => decide (q.aop.gridRow (s.unit m.1).place.inst = q.aop.gridRow (s.unit u).place.inst)
/-- A poisoned line is found: the commands that consume it take the fault and are removed (R259, R274). -/
def State.dropMembers (s : State) (va : Nat) : List (Nat × Nat × Cmd) → State
  | [] => s
  | m :: ms =>
    ((s.setCtx m.1 .matrix m.2.1 ((s.ctx m.1 .matrix m.2.1).setCmd { m.2.2 with gone := true })).failCmd m.1 .matrix m.2.1 ⟨0x12, va⟩).dropMembers va ms
/-- The lines of K-step `g` of a command are read and pinned. -/
def State.readStep (s : State) (u j : Nat) (q : Cmd) (g : Nat) : State :=
  let ls := s.linesAt u q g
  let q1 := { q with abuf := s.fetchLines u q.abuf ls, tstep := g + 1 }
  let s1 := s.setCtx u .matrix j ((s.ctx u .matrix j).setCmd q1)
  match ls.find? fun l => (q.abuf.find l.2).isNone && s.poisoned (l.2 * 128) with
  | some l => s1.dropMembers (l.1 * 128) (s1.rowMembers u j q1)
  | none => s1
/-- A pause of one matrix cycle of a command on its core: it, and every command behind it, come a cycle later (R258). -/
def State.pauseOn (s : State) (d p enter : Nat) : State :=
  let c := s.core d p
  let later := fun (q : Cmd) => if q.phase = .issued ∧ Instr.usesArray q.instr = true ∧ enter ≤ q.enter then
    { q with shift := q.shift + 1, fin := q.fin + 1 } else q
  { s.setCore d p { c with bound := c.bound + 1, beats := c.beats.map fun x => { x with slot := x.slot + 1 } } with
    ctxs := s.ctxs.map fun (x : Nat × Ctx) =>
      if engineOf x.1 = .matrix ∧ s.unitOn d p (x.1 / 12) = true then (x.1, { x.2 with flight := x.2.flight.map later }) else x }
def State.pause (s : State) (u j : Nat) (q : Cmd) : State :=
  if q.con = 0 then s.pauseOn (s.unit u).place.die (s.home u) q.enter
  else (s.together u j q).foldl (fun t m => t.pauseOn (t.unit m.1).place.die (t.home m.1) m.2.2.enter) s
/-- The tile fetch unit of a core at work for one command in this matrix cycle: the next K-step's lines are read when their time
has come and they can be pinned; a step that would begin without them pauses (R258). -/
def State.tfu (s : State) (d p : Nat) (m : Nat × Nat × Nat) : State :=
  match (s.ctx m.1 .matrix m.2.1).flight.find? fun q => decide (q.cn = m.2.2) with
  | none => s
  | some q =>
    let g := q.tstep
    if s.fetches m.1 q = false ∨ q.starts.length ≤ g + 1 ∨ s.free d p < q.readAt g then s
    else
      let s1 : State := { s with fresh := s.fresh + 1 }
      if s.linesHeld d p ((s.linesAt m.1 q g).map (·.2)) then s1.readStep m.1 m.2.1 q g
      else if q.stepAt g ≤ s.free d p then s1.pause m.1 m.2.1 q
      else s1
/-- What a matrix cycle of a core begins with: holds due, else groups whose deadline has come, its tile fetch unit, and the beats
whose slots have come (R232, R240, R258, R271). -/
def State.matrixCycle (s : State) (d p : Nat) : State :=
  let s0 := s.holdDue d p
  if s0.holding d p then s0
  else
    let s1 := s0.closeGroups d p fun g => decide (g.deadline ≤ s0.free d p)
    (((s1.inFlight d p).map fun m => (m.1, m.2.1, m.2.2.cn)).foldl (fun t m => t.tfu d p m) s1).issueBeats d p
/-- The armed timed commands of a core whose stamp is this matrix cycle's TCLK (R263). -/
def State.atStamp (s : State) (d p : Nat) : List (Nat × Nat) :=
  s.ctxs.filterMap fun (c : Nat × Ctx) =>
    let u := c.1 / 12
    if engineOf c.1 = .matrix ∧ s.unitOn d p u = true ∧ (s.unit u).status = .resident then
      match c.2.queue with
      | q :: _ => if q.armed = true ∧ q.stamp = some (s.tclk u) then some (u, c.1 % 4) else none
      | [] => none
    else none
/-- A core has work that a matrix cycle may not pass over. -/
def State.timedCore (s : State) (d p : Nat) : Bool :=
  !(s.core d p).due.isEmpty || !(s.core d p).beats.isEmpty || (s.core d p).groups.any (fun g => !g.closed) || (s.inFlight d p).any (fun m => s.fetches m.1 m.2.2) ||
    s.ctxs.any fun c => decide (engineOf c.1 = .matrix) && s.unitOn d p (c.1 / 12) && match c.2.queue with
      | q :: _ => q.armed && q.stamp.isSome
      | [] => false

end Sys2Proof.Machine
end

