-- ==== Sys2Proof/Machine/Tile.lean ====
section
/-! DEFINITION. Tiles, shapes, masks, and the element arithmetic of the vector engine (R303 to R306, R320 to R336). -/
namespace Sys2Proof.Machine
open Sys2Proof

/-! Shape, tile registers, masks (R119, R303 to R306) -/

/-- nr, nc and sz of a VSH value (R119, R303). -/
structure Shape where
  nr : Nat
  nc : Nat
  sz : Nat
deriving DecidableEq, Repr

def Shape.of (v : BitVec 32) : Shape := ⟨bits v.toNat 0 6 + 1, bits v.toNat 8 6 + 1, 2 ^ bits v.toNat 16 2⟩
def Shape.elems (h : Shape) : Nat := h.nr * h.nc
/-- R316: a value VSHP refuses. -/
def vshBad (v : X) : Bool :=
  let n := v.toNat
  decide (bits n 18 46 ≠ 0) || decide (bits n 14 2 ≠ 0) || decide (bits n 6 2 ≠ 0) || decide (bits n 16 2 = 3)
    || decide (4096 < (bits n 0 6 + 1) * (bits n 8 6 + 1) * 2 ^ bits n 16 2)

def tileKey (u r k : Nat) : Nat := (u * 32 + r) * 4096 + k
def maskKey (u m : Nat) : Nat := u * 8 + m
/-- A byte of a tile register; one that nothing has written is unspecified (R306). -/
def State.tileByte (s : State) (u r k : Nat) : Byte :=
  (s.tiles.find (tileKey u r k)).getD (Config.freeByte s.fresh (2 ^ 63 + tileKey u r k))
/-- `n` bytes of a tile register from byte `k`, as an unsigned number (R13). -/
def State.tileNat (s : State) (u r k n : Nat) : Nat := leNat ((List.range n).map fun i => s.tileByte u r (k + i))
/-- Element `e` of size `sz` (R303). -/
def State.elem (s : State) (u : Nat) (r : BitVec 5) (sz e : Nat) : Nat := s.tileNat u r.toNat (sz * e) sz
/-- Element `e` of a tile in a format (R60, R303). -/
def State.codeElem (s : State) (u : Nat) (r : BitVec 5) (code e : Nat) : Nat :=
  pickCode code e (s.tileNat u r.toNat (byteOf code e) (elemBytes code))
def State.putTile (s : State) (u r k : Nat) : List Byte → State
  | [] => s
  | b :: t => ({ s with tiles := s.tiles.put (tileKey u r k) b } : State).putTile u r (k + 1) t
def State.putElem (s : State) (u : Nat) (r : BitVec 5) (sz e v : Nat) : State := s.putTile u r.toNat (sz * e) (leBytes v sz)

/-- A mask register: all ones until a command writes it (R306). -/
def State.mask (s : State) (u : Nat) (m : BitVec 5) : BitVec 1024 := s.masks.getD (maskKey u m.toNat) (BitVec.allOnes 1024)
/-- Bit `e` of a mask. -/
def State.maskBit (s : State) (u : Nat) (m : BitVec 5) (e : Nat) : Bool := (s.mask u m).getLsbD e
/-- Element `e` is active (R305). -/
def State.active (s : State) (u : Nat) (m : BitVec 5) (en : BitVec 1) (e : Nat) : Bool := decide (en = 0) || s.maskBit u m e
/-- A value with bits 0 to n - 1 replaced (R304). -/
def lowBits (old : BitVec 1024) (n : Nat) (f : Nat → Bool) : BitVec 1024 :=
  BitVec.ofNat 1024 (((List.range n).map fun e => if f e then 2 ^ e else 0).sum + old.toNat / 2 ^ n * 2 ^ n)
def State.putMask (s : State) (u : Nat) (m : BitVec 5) (v : BitVec 1024) : State :=
  { s with masks := s.masks.put (maskKey u m.toNat) v }

/-- Results of size `sz` for the elements of a shape: active ones get theirs, others stay or become zero (R305). -/
def State.mapElems (s : State) (u : Nat) (d : BitVec 5) (sz n : Nat) (act : Nat → Bool) (z : BitVec 1) (f : Nat → Nat × X) : State :=
  let o := (List.range n).filterMap fun e =>
    if act e then some (e, f e) else if z = 1 then some (e, (0, 0)) else none
  (o.foldl (fun t x => t.putElem u d sz x.1 x.2.1) s).raiseAt u (o.foldl (fun a x => a ||| x.2.2) 0)

/-! Integer and residue elements (R322, R323) -/

/-- VADD, VSUB and VMUL on `w`-bit elements: the wrapped result, or the clamped one with SAT under SA (R322). -/
def intResult (w : Nat) (sa : Bool) (v : Int) : Nat × X :=
  if sa then
    let hi : Int := 2 ^ (w - 1) - 1
    let lo : Int := -2 ^ (w - 1)
    if hi < v then (uint w hi, flSAT) else if v < lo then (uint w lo, flSAT) else (uint w v, 0)
  else (uint w v, 0)
/-- The channels of an RA32 word: modulus, lowest bit, width (R62). -/
def channels : List (Nat × Nat × Nat) := [(255, 0, 8), (256, 8, 8), (257, 16, 9)]
/-- An RA32 operand with NC where it is not canonical; it then reads as zero (R62, R323). -/
def canonRA32 (w : Nat) : Nat × X := if (decodeRA32 w).2 = 0 then (w, 0) else (0, flNC)
/-- R323, channel by channel. -/
def residueOp (op : Int → Int → Int) (a b : Nat) : Nat × X :=
  let x := canonRA32 a
  let y := canonRA32 b
  ((channels.map fun c => (op (bits x.1 c.2.1 c.2.2) (bits y.1 c.2.1 c.2.2) % (c.1 : Int)).toNat * 2 ^ c.2.1).sum, x.2 ||| y.2)
/-- VADD, VSUB and VMUL (R322, R323). -/
def addSub (op : Int → Int → Int) (sz : Nat) (r sa : BitVec 1) (a b : Nat) : Nat × X :=
  if r = 1 then residueOp op a b else intResult (8 * sz) (decide (sa = 1)) (op (sint (8 * sz) a) (sint (8 * sz) b))
/-- VMIN (`mx` false) and VMAX (R322). -/
def intMinMax (mx : Bool) (sz : Nat) (u : BitVec 1) (a b : Nat) : Nat × X :=
  let less : Bool := if u = 1 then decide (a < b) else decide (sint (8 * sz) a < sint (8 * sz) b)
  (if less != mx then a else b, 0)
/-- VSHL, VSHR and VSRA, kinds 0, 1 and 2 (R155, R322). -/
def shiftOp (kind sz a b : Nat) : Nat × X :=
  let k := b % (8 * sz)
  (match kind with
    | 0 => a * 2 ^ k % 2 ^ (8 * sz)
    | 1 => a / 2 ^ k
    | _ => uint (8 * sz) (sint (8 * sz) a / (2 ^ k : Nat)), 0)
/-- VCMP's conditions on elements of size `sz` (R158, R324). -/
def elemCond (cc : BitVec 3) (sz a b : Nat) : Bool :=
  match cc.toNat with
  | 0 => decide (a = b)
  | 1 => decide (a ≠ b)
  | 2 => decide (sint (8 * sz) a < sint (8 * sz) b)
  | 3 => decide (sint (8 * sz) b ≤ sint (8 * sz) a)
  | 4 => decide (a < b)
  | _ => decide (b ≤ a)

/-! Reductions and scans (R329, R330) -/

/-- The group operation `op` over elements of size `sz`: value and flags. -/
def groupOp (op sz : Nat) (l : List Nat) : Nat × X :=
  let w := 8 * sz
  match op with
  | 0 =>
    if l.isEmpty then (0, 0)
    else
      let v := sumVals 0 (l.map (unpack fp32))
      let r := rne32 v.1
      (r.1, v.2 ||| r.2)
  | 3 => (uint w ((l.map fun (x : Nat) => (x : Int)).foldl (· + ·) 0), 0)
  | 4 => (l.foldl (fun a b => (intMinMax true sz 0 a b).1) (2 ^ (w - 1)), 0)
  | 5 => (l.foldl (fun a b => (intMinMax false sz 0 a b).1) (2 ^ (w - 1) - 1), 0)
  | _ =>
    let mx : Bool := op = 1
    let fl := if l.any fun x => isSig (unpack fp32 x) then flNV else 0
    let ns := l.filter fun x => !isNaN (unpack fp32 x)
    (if l.isEmpty then infBits fp32 mx
      else match ns with
        | [] => canonNaN fp32
        | a :: t => t.foldl (fun x y => (fpMinMax fp32 mx x y).1) a, fl)
/-- The operation is one of the FP32 ones (R329). -/
def fpGroup (op : BitVec 3) : Bool := decide (op.toNat < 3)

/-! Conversions (R332 to R335) -/

/-- v ÷ s, exact, for a finite scale s (R333). -/
def divVal (v s : Val) : Val :=
  match v, s with
  | .nan g, _ => .nan g
  | .inf a, s => .inf (a != s.negative)
  | .num a n d e, .num b m c g =>
    if m = 0 then (if n = 0 then .nan false else .inf (a != b)) else .num (a != b) (n * c) (d * m) (e - g)
  | .num _ _ _ _, _ => .nan false
/-- An FP32 value as a multiple of 2^-149, none for a NaN or an infinity (R333). -/
def quantValue (b : Nat) : Option Int :=
  match unpack fp32 b with
  | .num s n d e => some (scaledInt (-149) (.num s n d e))
  | _ => none
/-- Q of a nested format (R333). -/
def quantLimit (code : Nat) : Nat := if code = 6 then 7 else 69
/-- VDQN of one element: `h` the scale half-word of its block where nested, `k` its place in the row (R334). A
code of a NaN block is read as any other, for its NC (R61; log 83). -/
def dequant (e : Word) (tsv : BitVec 32) (h k v : Nat) : Nat × X :=
  if entSm e = 1 ∧ blockExp h k = none then (0x7FC00000, flNV ||| (readElem (entCode e) v).2)
  else match readElem (entCode e) v with
    | (.num neg m _ _, fl) =>
      if fl ≠ 0 then (0, fl)
      else if entSm e = 1 then rne32 (if m = 0 then .zero false else .num neg m 1 ((blockExp h k).getD 0))
      else
        let p := mulVal (.num neg m 1 0) (unpack fp32 tsv.toNat)
        let r := rne32 p.1
        (r.1, p.2 ||| r.2)
    | (_, fl) => (0, fl)
/-- VRNS (R335). -/
def toResidue (f : BitVec 1) (b : Nat) : Nat × X :=
  let clamp := fun (v : Int) (fl : X) =>
    if 8388479 < v then (encodeRA32 8388479, fl ||| flSAT) else if v < -8388479 then (encodeRA32 (-8388479), fl ||| flSAT)
    else (encodeRA32 v, fl)
  if f = 0 then clamp (sint 32 b) 0
  else match unpack fp32 b with
    | .nan _ => (encodeRA32 0, flNV)
    | .inf s => (encodeRA32 (if s then -8388479 else 8388479), flSAT)
    | .num s n d e =>
      let r := roundInt 0 s n d e
      clamp r.1 (if r.2 then flNX else 0)
/-- VCRT (R335). -/
def fromResidue (f : BitVec 1) (b : Nat) : Nat × X :=
  match decodeRA32 b with
  | (none, _) => if f = 1 then (0x7FC00000, flNV) else (2 ^ 31, flSAT)
  | (some v, fl) => (if f = 1 then (rne32 (.ofInt v)).1 else uint 32 v, fl)

/-! Accumulator words (R336) -/

/-- VACW: the new slot word (R66, R69, R336). -/
def accUpdate (i add : BitVec 1) (old v : Nat) : Nat × X :=
  if add = 0 then (v, 0)
  else if i = 1 then
    let r := cvtInt (-2 ^ 31) (2 ^ 31 - 1) 0 (.ofInt (sint 32 old + sint 32 v))
    (uint 32 r.1, r.2)
  else acc32 old (unpack fp32 v)

end Sys2Proof.Machine
end

