-- ==== Sys2Proof/Machine/Vector.lean ====
section
/-! DEFINITION. Vector instructions (13): what each does when it decodes, the issue of the vector engine, and completion. -/
namespace Sys2Proof.Machine
open Sys2Proof

/-! Submission (R307, R308, R315) -/

/-- What a vector word names: x operands, tiles and masks it reads and writes (R308). -/
structure VForm where
  xs : List (BitVec 5) := []
  rt : List (BitVec 5) := []
  wt : List (BitVec 5) := []
  rm : List (BitVec 5) := []
  wm : List (BitVec 5) := []
deriving DecidableEq, Repr

/-- The mask of a form with ME (R305). -/
def maskUse (m : BitVec 5) (e : BitVec 1) : List (BitVec 5) := if e = 1 then [m] else []
def tileClaim (u : Nat) (wr : Bool) (r : BitVec 5) : Claim := ⟨2, u * 32 + r.toNat, 1, wr⟩
def maskClaim (u : Nat) (wr : Bool) (r : BitVec 5) : Claim := ⟨3, u * 8 + r.toNat, 1, wr⟩
def VForm.claims (f : VForm) (u : Nat) : List Claim :=
  f.rt.map (tileClaim u false) ++ f.wt.map (tileClaim u true) ++ f.rm.map (maskClaim u false) ++ f.wm.map (maskClaim u true)
/-- The form uses a mask (R304). -/
def VForm.masked (f : VForm) : Bool := !f.rm.isEmpty || !f.wm.isEmpty
/-- The value of an x operand. -/
def State.vx (s : State) (r : BitVec 5) : X := s.stream.getX (r.setWidth 6)
/-- The shape a command resolves (R307). -/
def State.shape (s : State) : Shape := .of s.vshNow

/-- A queued vector word: checks 1 and 2 of R315, what check 3 leaves, and its entry with the format entries it resolves;
`size` is the widest element it reads or writes. Of the two entries of a VCVT the header of the journal holds the source's, the first
resolved. DESIGN CHOICE, log 98. -/
def State.vectorWord (s : State) (i : Instr) (f : VForm) (fields : Bool) (size : Nat) (shape : Bool) (ents : List (BitVec 2))
    (op : Except Trap Operand) : Out :=
  let u := s.selUnit
  let h := s.shape
  let es := ents.map fun k => s.entryOf k.toNat
  s.engineWord .vector (f.xs.length + 1) (do
    require fields (s.fieldTrap 0x18 1)
    require (shape && decide (h.elems * size ≤ 4096) && (!f.masked || decide (h.elems ≤ 1024))) (s.fieldTrap 0x19 2)
    let o ← op
    .ok (o.state, { cn := 0, word := s.iw, instr := i, regs := f.xs.map s.vx ++ [s.vshNow.setWidth 64]
                    fent := es.headD 0, tsv := (es.head?.map (s.scaleOf u)).getD 0, fents := (es.drop 1).map fun e => (e, s.scaleOf u e)
                    vsh := s.vshNow, claims := o.claims ++ f.claims u, pins := o.pins, tens := o.tens
                    wten := o.wten
                    vis := (f.xs.take 1).map fun r => (bits (s.vx r).toNat 0 8, o.copy) })) State.submit
/-- A word whose operands are tiles and masks alone. -/
def State.tileWord (s : State) (i : Instr) (f : VForm) (size : Nat) (shape : Bool) : Out :=
  s.vectorWord i f true size shape [] (.ok { state := s })
/-- The element size is 4 (R321). -/
def State.four (s : State) : Bool := decide (s.shape.sz = 4)

/-- VSHP (R316). -/
def execVshp (a : BitVec 5) (s : State) : Out :=
  s.decodeTime .vector (if vshBad (s.vx a) then .error (s.fieldTrap 0x19 1)
    else
      let t := s.unit s.selUnit
      let r := s.regWrite 0x100 (t.vsh.setWidth 64) (s.vx a)
      .ok (s.setUnit s.selUnit { t with vsh := r.final.setWidth 32, recent := t.recent.put 0x100 r }))

/-! Loads and stores (R317 to R319) -/

/-- The tile address and coordinate words (R317). -/
structure VAddr where
  tensor : Bool
  sstr : Nat
  saddr : Nat
  tn : Nat
  c0 : Nat
  c1 : Nat
  c2 : Nat
  c3 : Nat
deriving DecidableEq, Repr

def VAddr.of (a b : X) : VAddr :=
  { tensor := bits a.toNat 63 1 = 1, sstr := bits a.toNat 21 21, saddr := bits a.toNat 0 21, tn := bits a.toNat 0 8
    c1 := bits a.toNat 8 24, c2 := bits a.toNat 32 24, c0 := bits b.toNat 0 24, c3 := bits b.toNat 24 8 }
/-- Check 1 of R315 on them. -/
def vaddrOk (h : Shape) (store : Bool) (a b : X) : Bool :=
  let v := VAddr.of a b
  if v.tensor then decide (bits a.toNat 56 7 = 0) && decide (bits b.toNat 32 32 = 0)
  else decide (bits a.toNat 42 21 = 0) && decide (b = 0) && decide (v.sstr % h.sz = 0) && decide (v.saddr % h.sz = 0)
    && (!store || decide (h.nc * h.sz ≤ v.sstr))
/-- The tensor's element size is sz, and it is no B4 tensor (R317). -/
def State.vtensorOk (s : State) (v : VAddr) : Bool :=
  !v.tensor || match ((s.unitLaunch s.selUnit).tensors)[v.tn]? with
    | none => true
    | some t => decide (t.fmt ≠ 6) && decide (elemBytes t.fmt = s.shape.sz)
/-- The tensor offset of element (i, j) in the copy it uses (R220, R354). -/
def VAddr.offset (v : VAddr) (t : Tensor) (copy : Bool) (i j : Nat) : Nat :=
  t.copyBase copy + t.offset [v.c0 + j, v.c1 + i, v.c2, v.c3]
/-- Check 3 of R315 for VLD and VST (R220, R222). -/
def State.checkTile (s : State) (v : VAddr) (store : Bool) : Except Trap Operand := do
  let u := s.selUnit
  let h := s.shape
  if v.tensor then
    match ((s.unitLaunch u).tensors)[v.tn]? with
    | none => .error ⟨0x14, v.tn⟩
    | some t =>
      match t.outside [v.c0 + h.nc - 1, v.c1 + h.nr - 1, v.c2, v.c3] with
      | some d => .error ⟨0x15, v.tn + 256 * d⟩
      | none =>
        let copy := t.shd && (t.vis != store)
        let acc : Access := if store then .engWrite else .engRead
        let tiles := ((List.range h.nr).flatMap fun i => tilesOf (v.offset t copy i 0) (h.nc * h.sz)).eraseDups.map fun i => (false, i)
        s.checkTiles u v.tn acc tiles
        let (s1, fs) ← s.lookTiles u v.tn acc tiles []
        .ok { state := s1, pins := fs, copy := copy, tens := s1.tensorOf u v.tn
              wten := if store then some v.tn else none }
  else
    let cs := rowClaims v.saddr v.sstr (h.nc * h.sz) h.nr store
    s.checkClaims u cs
    .ok { state := s, claims := cs }
/-- VLD (R317, R318). -/
def execVld (d a b m : BitVec 5) (z e : BitVec 1) (s : State) : Out :=
  let v := VAddr.of (s.vx a) (s.vx b)
  s.vectorWord (.vld d a b m z e) { xs := [a, b], wt := [d], rm := maskUse m e } (vaddrOk s.shape false (s.vx a) (s.vx b)) s.shape.sz
    (s.vtensorOk v) [] (s.checkTile v false)
/-- VST (R317, R318): `r` the source tile. -/
def execVst (r a b m : BitVec 5) (e : BitVec 1) (s : State) : Out :=
  let v := VAddr.of (s.vx a) (s.vx b)
  s.vectorWord (.vst r a b m e) { xs := [a, b], rt := [r], rm := maskUse m e } (vaddrOk s.shape true (s.vx a) (s.vx b)) s.shape.sz
    (s.vtensorOk v) [] (s.checkTile v true)
/-- VLDG and VSTG declare the whole allocation (R319). -/
def State.wholeSp (s : State) (wr : Bool) : Operand :=
  let p := (s.unit s.selUnit).place
  { state := s, claims := [⟨0, p.lo, p.hi - p.lo, wr⟩] }
/-- VLDG (R319). -/
def execVldg (d a b m : BitVec 5) (z e : BitVec 1) (s : State) : Out :=
  s.vectorWord (.vldg d a b m z e) { xs := [a], rt := [b], wt := [d], rm := maskUse m e } (decide ((s.vx a).toNat < 2 ^ 21)) 4
    (decide (s.shape.elems * s.shape.sz ≤ 4096)) [] (.ok (s.wholeSp false))
/-- VSTG (R319): `r` the source tile. -/
def execVstg (r a b m : BitVec 5) (e : BitVec 1) (s : State) : Out :=
  s.vectorWord (.vstg r a b m e) { xs := [a], rt := [r, b], rm := maskUse m e } (decide ((s.vx a).toNat < 2 ^ 21)) 4
    (decide (s.shape.elems * s.shape.sz ≤ 4096)) [] (.ok (s.wholeSp true))

/-! Moves (R320) -/

/-- VMOV (R320). -/
def execVmov (d a m : BitVec 5) (z e : BitVec 1) (s : State) : Out :=
  s.tileWord (.vmov d a m z e) { rt := [a], wt := [d], rm := maskUse m e } s.shape.sz true
/-- VSPLAT (R320). -/
def execVsplat (d a m : BitVec 5) (z e : BitVec 1) (s : State) : Out :=
  s.tileWord (.vsplat d a m z e) { xs := [a], wt := [d], rm := maskUse m e } s.shape.sz true
/-- VIOTA (R320). -/
def execViota (d m : BitVec 5) (k : BitVec 2) (z e : BitVec 1) (s : State) : Out :=
  s.tileWord (.viota d m k z e) { wt := [d], rm := maskUse m e } s.shape.sz true

/-! Floating-point arithmetic (R321) -/

/-- VFADD (R321). -/
def execVfadd (d a b m : BitVec 5) (r : BitVec 2) (z e : BitVec 1) (s : State) : Out :=
  s.tileWord (.vfadd d a b m r z e) { rt := [a, b], wt := [d], rm := maskUse m e } 4 s.four
/-- VFSUB (R321). -/
def execVfsub (d a b m : BitVec 5) (r : BitVec 2) (z e : BitVec 1) (s : State) : Out :=
  s.tileWord (.vfsub d a b m r z e) { rt := [a, b], wt := [d], rm := maskUse m e } 4 s.four
/-- VFMUL (R321). -/
def execVfmul (d a b m : BitVec 5) (r : BitVec 2) (z e : BitVec 1) (s : State) : Out :=
  s.tileWord (.vfmul d a b m r z e) { rt := [a, b], wt := [d], rm := maskUse m e } 4 s.four
/-- VFFMA (R321). -/
def execVffma (d a b c : BitVec 5) (r : BitVec 2) (s : State) : Out :=
  s.tileWord (.vffma d a b c r) { rt := [a, b, c], wt := [d] } 4 s.four
/-- VFMIN (R321). -/
def execVfmin (d a b m : BitVec 5) (z e : BitVec 1) (s : State) : Out :=
  s.tileWord (.vfmin d a b m z e) { rt := [a, b], wt := [d], rm := maskUse m e } 4 s.four
/-- VFMAX (R321). -/
def execVfmax (d a b m : BitVec 5) (z e : BitVec 1) (s : State) : Out :=
  s.tileWord (.vfmax d a b m z e) { rt := [a, b], wt := [d], rm := maskUse m e } 4 s.four
/-- VFABS (R321). -/
def execVfabs (d a m : BitVec 5) (z e : BitVec 1) (s : State) : Out :=
  s.tileWord (.vfabs d a m z e) { rt := [a], wt := [d], rm := maskUse m e } 4 s.four
/-- VFNEG (R321). -/
def execVfneg (d a m : BitVec 5) (z e : BitVec 1) (s : State) : Out :=
  s.tileWord (.vfneg d a m z e) { rt := [a], wt := [d], rm := maskUse m e } 4 s.four

/-! Integer, bitwise and residue arithmetic (R322, R323) -/

/-- VADD (R322, R323). -/
def execVadd (d a b m : BitVec 5) (r sa z e : BitVec 1) (s : State) : Out :=
  s.vectorWord (.vadd d a b m r sa z e) { rt := [a, b], wt := [d], rm := maskUse m e } (!decide (r = 1 ∧ sa = 1)) s.shape.sz
    (decide (r = 0) || s.four) [] (.ok { state := s })
/-- VSUB (R322, R323). -/
def execVsub (d a b m : BitVec 5) (r sa z e : BitVec 1) (s : State) : Out :=
  s.vectorWord (.vsub d a b m r sa z e) { rt := [a, b], wt := [d], rm := maskUse m e } (!decide (r = 1 ∧ sa = 1)) s.shape.sz
    (decide (r = 0) || s.four) [] (.ok { state := s })
/-- VMUL (R322, R323). -/
def execVmul (d a b m : BitVec 5) (r z e : BitVec 1) (s : State) : Out :=
  s.tileWord (.vmul d a b m r z e) { rt := [a, b], wt := [d], rm := maskUse m e } s.shape.sz (decide (r = 0) || s.four)
/-- VMIN (R322). -/
def execVmin (d a b m : BitVec 5) (u z e : BitVec 1) (s : State) : Out :=
  s.tileWord (.vmin d a b m u z e) { rt := [a, b], wt := [d], rm := maskUse m e } s.shape.sz true
/-- VMAX (R322). -/
def execVmax (d a b m : BitVec 5) (u z e : BitVec 1) (s : State) : Out :=
  s.tileWord (.vmax d a b m u z e) { rt := [a, b], wt := [d], rm := maskUse m e } s.shape.sz true
/-- VAND (R322). -/
def execVand (d a b m : BitVec 5) (z e : BitVec 1) (s : State) : Out :=
  s.tileWord (.vand d a b m z e) { rt := [a, b], wt := [d], rm := maskUse m e } s.shape.sz true
/-- VOR (R322). -/
def execVor (d a b m : BitVec 5) (z e : BitVec 1) (s : State) : Out :=
  s.tileWord (.vor d a b m z e) { rt := [a, b], wt := [d], rm := maskUse m e } s.shape.sz true
/-- VXOR (R322). -/
def execVxor (d a b m : BitVec 5) (z e : BitVec 1) (s : State) : Out :=
  s.tileWord (.vxor d a b m z e) { rt := [a, b], wt := [d], rm := maskUse m e } s.shape.sz true
/-- VSHL (R322). -/
def execVshl (d a b m : BitVec 5) (z e : BitVec 1) (s : State) : Out :=
  s.tileWord (.vshl d a b m z e) { rt := [a, b], wt := [d], rm := maskUse m e } s.shape.sz true
/-- VSHR (R322). -/
def execVshr (d a b m : BitVec 5) (z e : BitVec 1) (s : State) : Out :=
  s.tileWord (.vshr d a b m z e) { rt := [a, b], wt := [d], rm := maskUse m e } s.shape.sz true
/-- VSRA (R322). -/
def execVsra (d a b m : BitVec 5) (z e : BitVec 1) (s : State) : Out :=
  s.tileWord (.vsra d a b m z e) { rt := [a, b], wt := [d], rm := maskUse m e } s.shape.sz true

/-! Compares, selection and mask logic (R324, R325) -/

/-- VFCMP (R324). -/
def execVfcmp (d a b m : BitVec 5) (e : BitVec 1) (c : BitVec 3) (s : State) : Out :=
  s.tileWord (.vfcmp d a b m e c) { rt := [a, b], rm := maskUse m e, wm := [d] } 4 s.four
/-- VCMP (R324). -/
def execVcmp (d a b m : BitVec 5) (e : BitVec 1) (c : BitVec 3) (s : State) : Out :=
  s.tileWord (.vcmp d a b m e c) { rt := [a, b], rm := maskUse m e, wm := [d] } s.shape.sz true
/-- VSEL (R325). -/
def execVsel (d a b m : BitVec 5) (s : State) : Out :=
  s.tileWord (.vsel d a b m) { rt := [a, b], wt := [d], rm := [m] } s.shape.sz true
/-- MLOG (R304, R325). -/
def execMlog (d a b : BitVec 5) (f : BitVec 3) (s : State) : Out :=
  s.tileWord (.mlog d a b f) { rm := [a, b], wm := [d] } 1 true

/-! Special functions (R326 to R328) -/

/-- VRSQS (R326). -/
def execVrsqs (d a m : BitVec 5) (z e : BitVec 1) (s : State) : Out :=
  s.tileWord (.vrsqs d a m z e) { rt := [a], wt := [d], rm := maskUse m e } 4 s.four
/-- VRCPS (R326). -/
def execVrcps (d a m : BitVec 5) (z e : BitVec 1) (s : State) : Out :=
  s.tileWord (.vrcps d a m z e) { rt := [a], wt := [d], rm := maskUse m e } 4 s.four
/-- VEXS (R303, R327). -/
def execVexs (d a m : BitVec 5) (z e : BitVec 1) (s : State) : Out :=
  s.tileWord (.vexs d a m z e) { rt := [a], wt := [d], rm := maskUse m e } 4 true
/-- VLGS (R303, R328). -/
def execVlgs (d a m : BitVec 5) (z e : BitVec 1) (s : State) : Out :=
  s.tileWord (.vlgs d a m z e) { rt := [a], wt := [d], rm := maskUse m e } 4 true

/-! Reductions, scans, layout (R329 to R331) -/

/-- VRED (R329). -/
def execVred (d a : BitVec 5) (x : BitVec 2) (o : BitVec 3) (m : BitVec 5) (e : BitVec 1) (s : State) : Out :=
  s.tileWord (.vred d a x o m e) { rt := [a], wt := [d], rm := maskUse m e } s.shape.sz (!fpGroup o || s.four)
/-- VSCAN (R330). -/
def execVscan (d a : BitVec 5) (x y : BitVec 1) (o : BitVec 3) (h : BitVec 5) (s : State) : Out :=
  s.tileWord (.vscan d a x y o h) { rt := [a], wt := [d], rm := [h] } s.shape.sz (!fpGroup o || s.four)
/-- VTRN (R331). -/
def execVtrn (d a : BitVec 5) (s : State) : Out :=
  s.tileWord (.vtrn d a) { rt := [a], wt := [d] } s.shape.sz true
/-- VROT (R331). -/
def execVrot (d a b : BitVec 5) (x : BitVec 1) (s : State) : Out :=
  s.tileWord (.vrot d a b x) { xs := [b], rt := [a], wt := [d] } s.shape.sz true
/-- VPERM (R331). -/
def execVperm (d a b : BitVec 5) (x : BitVec 1) (s : State) : Out :=
  s.tileWord (.vperm d a b x) { rt := [a, b], wt := [d] } s.shape.sz true

/-! Conversions (R332 to R335) -/

/-- VCVT (R332): `k` the source slot, `f` the destination slot. -/
def execVcvt (d a : BitVec 5) (k : BitVec 2) (m : BitVec 5) (f : BitVec 2) (z e : BitVec 1) (s : State) : Out :=
  let src := s.entryOf k.toNat
  let dst := s.entryOf f.toNat
  let ok := fun (x : Word) => decide (entCode x ≠ 6) && decide (entSm x = 0)
  s.vectorWord (.vcvt d a k m f z e) { rt := [a], wt := [d], rm := maskUse m e } (ok src && ok dst)
    (max (elemBytes (entCode src)) (elemBytes (entCode dst))) true [k, f] (.ok { state := s })
/-- The entry of VQNT and VDQN is nested, or I8 or RB8 in tensor mode (R333, R334). -/
def quantCode (e : Word) : Bool := decide (entSm e = 1) || decide (entCode e = 4) || decide (entCode e = 5)
/-- VQNT (R333). -/
def execVqnt (d a b : BitVec 5) (f : BitVec 2) (s : State) : Out :=
  let e := s.entryOf f.toNat
  let nested := decide (entSm e = 1)
  s.vectorWord (.vqnt d a b f) { rt := [a], wt := d :: (if nested then [b] else []) } (quantCode e && (nested || decide (b = 0))) 4
    (!nested || decide (s.shape.nc % 16 = 0)) [f] (.ok { state := s })
/-- VDQN (R334). In tensor mode any vb is accepted and has no effect: DESIGN CHOICE, log 112. -/
def execVdqn (d a b : BitVec 5) (f : BitVec 2) (s : State) : Out :=
  let e := s.entryOf f.toNat
  let nested := decide (entSm e = 1)
  s.vectorWord (.vdqn d a b f) { rt := a :: (if nested then [b] else []), wt := [d] } (quantCode e) 4
    (!nested || decide (s.shape.nc % 16 = 0)) [f] (.ok { state := s })
/-- VRNS (R335). -/
def execVrns (d a m : BitVec 5) (f z e : BitVec 1) (s : State) : Out :=
  s.tileWord (.vrns d a m f z e) { rt := [a], wt := [d], rm := maskUse m e } 4 true
/-- VCRT (R335). -/
def execVcrt (d a m : BitVec 5) (f z e : BitVec 1) (s : State) : Out :=
  s.tileWord (.vcrt d a m f z e) { rt := [a], wt := [d], rm := maskUse m e } 4 true

/-! Accumulator access (R336) -/

/-- ROW0 and COL0 of a position word. -/
def posRow (v : X) : Nat := bits v.toNat 0 7
def posCol (v : X) : Nat := bits v.toNat 8 8
def posOk (v : X) : Bool := decide (bits v.toNat 16 48 = 0) && decide (bits v.toNat 7 1 = 0)
/-- Check 3 of R315 for a window of the slot, with its claims. -/
def State.checkWin (s : State) (z : BitVec 5) (v : X) (rd wr : Bool) : Except Trap Operand := do
  require (decide (posRow v + s.shape.nr ≤ 96) && decide (posCol v + s.shape.nc ≤ 160)) (s.fieldTrap 0x18 3)
  let k := s.slotKey s.selUnit z.toNat
  .ok { state := s, claims := (if rd then [slotClaim k false] else []) ++ if wr then [slotClaim k true] else [] }
/-- VACR (R336). -/
def execVacr (d z b : BitVec 5) (s : State) : Out :=
  s.vectorWord (.vacr d z b) { xs := [b], wt := [d] } (posOk (s.vx b)) 4 s.four [] (s.checkWin z (s.vx b) true false)
/-- VACW (R336): `i` I, `n` ADD, `r` the source tile. -/
def execVacw (r z b m : BitVec 5) (i n e : BitVec 1) (s : State) : Out :=
  s.vectorWord (.vacw r z b m i n e) { xs := [b], rt := [r], rm := maskUse m e } (posOk (s.vx b)) 4 s.four []
    (s.checkWin z (s.vx b) (decide (n = 1)) true)

/-! Issue (R104, R309, R311) -/

/-- Occupancy and L of a command over `E` elements whose widest tile has `B` bytes (R311). -/
def Instr.vtime (i : Instr) (E B : Nat) : Nat × Nat :=
  match i with
  | .mlog _ _ _ _ => (1, 2)
  | .vfadd _ _ _ _ _ _ _ => (cdiv E 128, 6)
  | .vfsub _ _ _ _ _ _ _ => (cdiv E 128, 6)
  | .vfmul _ _ _ _ _ _ _ => (cdiv E 128, 6)
  | .vffma _ _ _ _ _ => (cdiv E 128, 6)
  | .vfmin _ _ _ _ _ _ => (cdiv E 128, 6)
  | .vfmax _ _ _ _ _ _ => (cdiv E 128, 6)
  | .vrsqs _ _ _ _ _ => (cdiv E 128, 10)
  | .vrcps _ _ _ _ _ => (cdiv E 128, 10)
  | .vexs _ _ _ _ _ => (cdiv E 128, 10)
  | .vlgs _ _ _ _ _ => (cdiv E 128, 10)
  | .vred _ _ _ _ _ _ => (cdiv E 128, 16)
  | .vscan _ _ _ _ _ _ => (cdiv E 128, 16)
  | .vtrn _ _ => (cdiv B 256, 6)
  | .vrot _ _ _ _ => (cdiv B 256, 6)
  | .vperm _ _ _ _ => (cdiv B 256, 6)
  | .vcvt _ _ _ _ _ _ _ => (cdiv E 128, 8)
  | .vrns _ _ _ _ _ _ => (cdiv E 128, 8)
  | .vcrt _ _ _ _ _ _ => (cdiv E 128, 8)
  | .vqnt _ _ _ _ => (cdiv E 64, 12)
  | .vdqn _ _ _ _ => (cdiv E 64, 12)
  | .vld _ _ _ _ _ _ => (cdiv B 256, 12)
  | .vst _ _ _ _ _ => (cdiv B 256, 12)
  | .vldg _ _ _ _ _ _ => (cdiv B 256, 12)
  | .vstg _ _ _ _ _ => (cdiv B 256, 12)
  | .vacr _ _ _ => (cdiv E 64, 10)
  | .vacw _ _ _ _ _ _ _ => (cdiv E 64, 10)
  | _ => (cdiv B 512, 4)
/-- Bytes of the widest tile of a command (R311). -/
def Cmd.width (q : Cmd) : Nat :=
  let h := Shape.of q.vsh
  h.elems * match q.instr with
    | .vldg _ _ _ _ _ _ => 4
    | .vstg _ _ _ _ _ => 4
    | _ => h.sz
/-! Completion (R309, R318 to R336) -/

def Cmd.x (q : Cmd) (k : Nat) : X := q.regs.getD k 0
/-- Address of element (i, j) in the scratchpad (R317). -/
def VAddr.spAt (v : VAddr) (h : Shape) (i j : Nat) : Nat := v.saddr + i * v.sstr + h.sz * j
/-- The physical bytes of a tensor element (R221, R317). -/
def VAddr.pas (v : VAddr) (t : Tensor) (copy : Bool) (h : Shape) (e : Nat) : List Nat :=
  let o := t.offset [v.c0 + e % h.nc, v.c1 + e / h.nc, v.c2, v.c3]
  (List.range h.sz).filterMap fun k => t.bytePa copy (o + k)
/-- The lines that the active elements of a tensor VLD lie in and that it has not read, virtual and in memory (R311, R318). -/
def State.vldLeft (s : State) (u : Nat) (q : Cmd) : List (Nat × Nat) :=
  match q.instr with
  | .vld _ _ _ m _ e =>
    let h := Shape.of q.vsh
    let v := VAddr.of (q.x 0) (q.x 1)
    let copy := q.copyOf v.tn
    if v.tensor then
      (((List.range h.elems).filter (s.active u m e)).flatMap fun k => (v.pas q.tens copy h k).zipIdx.map fun b =>
        ((q.tens.base + v.offset q.tens copy (k / h.nc) (k % h.nc) + b.2) / 128, b.1 / 128)).eraseDups.filter fun l => (q.abuf.find l.2).isNone
    else []
  | _ => []
/-- One line of a tensor VLD is read, which one is free: as committed at this moment. A line that L2 cannot correct is kept with no
bytes landed. With the last, the command completes 12 cycles on, and the engine is free (R259, R311, R318). -/
def State.readLine (s : State) (u j : Nat) (q : Cmd) (ls : List (Nat × Nat)) : State :=
  let d := (s.unit u).place.die
  let p := s.home u
  let l := ls.getD (Config.freeChoice s.fresh % ls.length) (0, 0)
  let n := s.eclk d p .vector
  let last := decide (ls.length = 1)
  let q1 := { q with
    abuf := s.fetchLines u q.abuf [l], landed := if s.poisoned (l.2 * 128) then q.landed.put l.1 0 else q.landed
    fin := if last then n + 12 else q.fin }
  let s1 := ({ s with fresh := s.fresh + 1 } : State).setCtx u .vector j ((s.ctx u .vector j).setCmd q1)
  if last then s1.setCore d p { s1.core d p with vnext := n + 1 } else s1
/-- The first active element on a line found poisoned: the VA of the line (R318). -/
def State.tilePoison (s : State) (u : Nat) (q : Cmd) (v : VAddr) (m : BitVec 5) (e : BitVec 1) : Option Nat :=
  let h := Shape.of q.vsh
  ((List.range h.elems).filter (s.active u m e)).findSome? fun k =>
    let va := q.tens.base + v.offset q.tens (q.copyOf v.tn) (k / h.nc) (k % h.nc)
    (List.range h.sz).findSome? fun b => if q.landed.find ((va + b) / 128) = some 0 then some ((va + b) / 128 * 128) else none
/-- Guard granules among the addressed elements are recorded (R225, R318, R319). -/
def State.touchFirst (s : State) (u : Nat) (wr : Bool) (size : Nat) (as : List Nat) : State :=
  match as.find? fun a => (List.range size).any fun k => (s.unit u).place.guarded (a + k) with
  | some a => s.touch u 1 wr a size
  | none => s
def State.landVld (s : State) (u : Nat) (q : Cmd) (d m : BitVec 5) (z e : BitVec 1) : Except Trap State :=
  let h := Shape.of q.vsh
  let v := VAddr.of (q.x 0) (q.x 1)
  let act := s.active u m e
  if v.tensor then
    let t := q.tens
    match s.tilePoison u q v m e with
    | some va => .error ⟨0x12, va⟩
    | none => .ok (s.mapElems u d h.sz h.elems act z fun k => (leNat ((v.pas t (q.copyOf v.tn) h k).map fun a => s.fetched q 0 (some a)), 0))
  else
    let at_ := fun (k : Nat) => v.spAt h (k / h.nc) (k % h.nc)
    .ok ((s.mapElems u d h.sz h.elems act z fun k => (leNat (s.spBytes u (at_ k) h.sz), 0)).touchFirst u false h.sz
      (((List.range h.elems).filter act).map at_))
/-- The bytes of global memory that a tensor VST writes (R317, R318). -/
def State.vstBytes (s : State) (u : Nat) (q : Cmd) (r m : BitVec 5) (e : BitVec 1) : List (Nat × Byte) :=
  let h := Shape.of q.vsh
  let v := VAddr.of (q.x 0) (q.x 1)
  ((List.range h.elems).filter (s.active u m e)).flatMap fun k =>
    (v.pas q.tens (q.copyOf v.tn) h k).zip (leBytes (s.elem u r h.sz k) h.sz)
/-- The pieces of a VST that have not landed: its lines of global memory (R309, R346). -/
def State.vstLeft (s : State) (u : Nat) (q : Cmd) : List Nat :=
  match q.instr with
  | .vst r _ _ m e => if (VAddr.of (q.x 0) (q.x 1)).tensor then
      ((s.vstBytes u q r m e).map fun b => b.1 / 128).eraseDups.filter fun l => (q.landed.find l).isNone else []
  | _ => []
/-- One piece of a VST lands, which one is free (R309, R318, R386); with the last, the command completes 12 cycles on, and the
engine is free (R311). -/
def State.landLine (s : State) (u j : Nat) (q : Cmd) (ls : List Nat) : State :=
  match q.instr with
  | .vst r _ _ m e =>
    let d := (s.unit u).place.die
    let p := s.home u
    let l := ls.getD (Config.freeChoice s.fresh % ls.length) 0
    let n := s.eclk d p .vector
    let last := decide (ls.length = 1)
    let s1 := ({ s with fresh := s.fresh + 1 } : State).engineWrite u q.stsc.toNat ((s.vstBytes u q r m e).filter fun b => decide (b.1 / 128 = l))
    let q1 := { q with landed := q.landed.put l 128, fin := if last then n + 12 else q.fin }
    let s2 := s1.setCtx u .vector j ((s1.ctx u .vector j).setCmd q1)
    if last then s2.setCore d p { s2.core d p with vnext := n + 1 } else s2
  | _ => s
/-- A VST that completes: in the scratchpad its bytes are written now (R318). -/
def State.landVst (s : State) (u : Nat) (q : Cmd) (r m : BitVec 5) (e : BitVec 1) : State :=
  let h := Shape.of q.vsh
  let v := VAddr.of (q.x 0) (q.x 1)
  let es := (List.range h.elems).filter (s.active u m e)
  if v.tensor then s
  else
    let at_ := fun (k : Nat) => v.spAt h (k / h.nc) (k % h.nc)
    (es.foldl (fun t k => t.spPuts u (at_ k) (leBytes (s.elem u r h.sz k) h.sz)) s).touchFirst u true h.sz (es.map at_)
/-- The addresses of VLDG and VSTG: element and byte, or the lowest element out of bounds (R319). -/
def State.gather (s : State) (u : Nat) (q : Cmd) (b m : BitVec 5) (e : BitVec 1) : Except Trap (List (Nat × Nat)) :=
  let h := Shape.of q.vsh
  let l := ((List.range h.elems).filter (s.active u m e)).map fun k => (k, (q.x 0).toNat + h.sz * s.elem u b 4 k)
  match l.find? fun p => !(s.unit u).place.holds p.2 h.sz with
  | some p => .error ⟨0x20, p.1⟩
  | none => .ok l
def State.landVldg (s : State) (u : Nat) (q : Cmd) (d b m : BitVec 5) (z e : BitVec 1) : Except Trap State := do
  let h := Shape.of q.vsh
  let l ← s.gather u q b m e
  .ok ((s.mapElems u d h.sz h.elems (s.active u m e) z fun k => (leNat (s.spBytes u ((l.find? fun p => p.1 == k).getD (0, 0)).2 h.sz), 0)).touchFirst
    u false h.sz (l.map (·.2)))
def State.landVstg (s : State) (u : Nat) (q : Cmd) (r b m : BitVec 5) (e : BitVec 1) : Except Trap State := do
  let h := Shape.of q.vsh
  let l ← s.gather u q b m e
  .ok ((l.foldl (fun t p => t.spPuts u p.2 (leBytes (s.elem u r h.sz p.1) h.sz)) s).touchFirst u true h.sz (l.map (·.2)))
/-- VFCMP and VCMP (R304, R324). -/
def State.landCmp (s : State) (u n : Nat) (d m : BitVec 5) (e : BitVec 1) (f : Nat → Bool × X) : State :=
  let act := s.active u m e
  (s.putMask u d (lowBits (s.mask u d) n fun k => act k && (f k).1)).raiseAt u
    (((List.range n).filter act).foldl (fun a k => a ||| (f k).2) 0)
/-- VRED (R329). -/
def State.landRed (s : State) (u : Nat) (h : Shape) (d a : BitVec 5) (x : BitVec 2) (o : BitVec 3) (act : Nat → Bool) : State :=
  let el := fun (es : List Nat) => groupOp o.toNat h.sz ((es.filter act).map fun e => s.elem u a h.sz e)
  let rs := match x.toNat with
    | 0 => (List.range h.nr).map fun i => (i * h.nc, el ((List.range h.nc).map fun j => i * h.nc + j))
    | 1 => (List.range h.nc).map fun j => (j, el ((List.range h.nr).map fun i => i * h.nc + j))
    | _ => [(0, el (List.range h.elems))]
  (rs.foldl (fun t r => t.putElem u d h.sz r.1 r.2.1) s).raiseAt u (rs.foldl (fun f r => f ||| r.2.2) 0)
/-- The head of the segment of element `e` (R330). -/
def headOf (head : Nat → Bool) : Nat → Nat
  | 0 => 0
  | e + 1 => if head (e + 1) then e + 1 else headOf head e
/-- VSCAN (R330): `x` EX, `y` AX. -/
def State.landScan (s : State) (u : Nat) (h : Shape) (d a : BitVec 5) (x y : BitVec 1) (o : BitVec 3) (m : BitVec 5) : State :=
  let head := fun (e : Nat) => s.maskBit u m e || (decide (y = 0) && decide (e % h.nc = 0))
  s.mapElems u d h.sz h.elems (fun _ => true) 0 fun e =>
    let b := headOf head e
    groupOp o.toNat h.sz ((List.range' b (e - b + if x = 1 then 0 else 1)).map fun k => s.elem u a h.sz k)
/-- VQNT (R333). Scale half-words are written after the codes, where vb is vd: DESIGN CHOICE, log 111. -/
def State.landQnt (s : State) (u : Nat) (q : Cmd) (d a b : BitVec 5) : State :=
  let h := Shape.of q.vsh
  let code := q.code
  if q.sm = 1 then
    let bs := (List.range (h.elems / 16)).map fun k => quantBlock 149 (entRm q.fent) (quantLimit code)
      ((List.range 16).map fun t => quantValue (s.elem u a 4 (16 * k + t)))
    ((s.putTile u d.toNat 0 (packCodes code (bs.flatMap fun x => x.codes))).putTile u b.toNat 0
      (bs.flatMap fun x => leBytes x.scale 2)).raiseAt u (bs.foldl (fun f x => f ||| x.flags) 0)
  else s.mapElems u d 1 h.elems (fun _ => true) 0 fun e =>
    cvt code (entRm q.fent) true (divVal (unpack fp32 (s.elem u a 4 e)) (unpack fp32 q.tsv.toNat))
/-- VDQN (R334). -/
def State.landDqn (s : State) (u : Nat) (q : Cmd) (d a b : BitVec 5) : State :=
  s.mapElems u d 4 (Shape.of q.vsh).elems (fun _ => true) 0 fun e =>
    dequant q.fent q.tsv (s.elem u b 2 (e / 16)) (e % 16) (s.codeElem u a q.code e)
/-- VCVT (R332). -/
def State.landCvt (s : State) (u : Nat) (q : Cmd) (d a m : BitVec 5) (z e : BitVec 1) : State :=
  let dst := (q.fents.headD (0, 0)).1
  s.mapElems u d (elemBytes (entCode dst)) (Shape.of q.vsh).elems (s.active u m e) z fun k =>
    let v := readElem q.code (s.codeElem u a q.code k)
    let r := cvt (entCode dst) (entRm dst) (entSat dst) v.1
    (r.1, v.2 ||| r.2)
/-- VACR and VACW (R336). -/
def State.landAcr (s : State) (u : Nat) (q : Cmd) (d z : BitVec 5) : State :=
  let h := Shape.of q.vsh
  s.mapElems u d 4 h.elems (fun _ => true) 0 fun e =>
    ((s.accWord (s.slotKey u z.toNat) (posRow (q.x 0) + e / h.nc) (posCol (q.x 0) + e % h.nc)).toNat, 0)
def State.landAcw (s : State) (u : Nat) (q : Cmd) (r z m : BitVec 5) (i n e : BitVec 1) : State :=
  let h := Shape.of q.vsh
  let slot := s.slotKey u z.toNat
  let o := ((List.range h.elems).filter (s.active u m e)).map fun k =>
    let row := posRow (q.x 0) + k / h.nc
    let col := posCol (q.x 0) + k % h.nc
    (accKey slot row col, accUpdate i n (s.accWord slot row col).toNat (s.elem u r 4 k))
  (s.putAcc (o.map fun p => (p.1, BitVec.ofNat 32 p.2.1))).raiseAt u (o.foldl (fun f p => f ||| p.2.2) 0)

/-- What a completing vector command leaves, or the fault it takes (R309). -/
def State.landVector (s : State) (u : Nat) (q : Cmd) : Except Trap State :=
  let h := Shape.of q.vsh
  let n := h.elems
  let el := fun (r : BitVec 5) (k : Nat) => s.elem u r h.sz k
  let f4 := fun (r : BitVec 5) (k : Nat) => s.elem u r 4 k
  let put := fun (sz : Nat) (d m : BitVec 5) (z e : BitVec 1) (f : Nat → Nat × X) =>
    (.ok (s.mapElems u d sz n (s.active u m e) z f) : Except Trap State)
  let all : Nat → Bool := fun _ => true
  match q.instr with
  | .vld d _ _ m z e => s.landVld u q d m z e
  | .vst r _ _ m e => .ok (s.landVst u q r m e)
  | .vldg d _ b m z e => s.landVldg u q d b m z e
  | .vstg r _ b m e => s.landVstg u q r b m e
  | .vmov d a m z e => put h.sz d m z e fun k => (el a k, 0)
  | .vsplat d _ m z e => put h.sz d m z e fun _ => ((q.x 0).toNat % 2 ^ (8 * h.sz), 0)
  | .viota d m kind z e => put h.sz d m z e fun k =>
    ((match kind.toNat with | 0 => k | 1 => k / h.nc | _ => k % h.nc) % 2 ^ (8 * h.sz), 0)
  | .vfadd d a b m r z e => put 4 d m z e fun k => fpAdd fp32 r.toNat (f4 a k) (f4 b k)
  | .vfsub d a b m r z e => put 4 d m z e fun k => fpSub fp32 r.toNat (f4 a k) (f4 b k)
  | .vfmul d a b m r z e => put 4 d m z e fun k => fpMul fp32 r.toNat (f4 a k) (f4 b k)
  | .vffma d a b c r => .ok (s.mapElems u d 4 n all 0 fun k => fpFma fp32 r.toNat (f4 a k) (f4 b k) (f4 c k))
  | .vfmin d a b m z e => put 4 d m z e fun k => fpMinMax fp32 false (f4 a k) (f4 b k)
  | .vfmax d a b m z e => put 4 d m z e fun k => fpMinMax fp32 true (f4 a k) (f4 b k)
  | .vfabs d a m z e => put 4 d m z e fun k => fpSetSign fp32 false (f4 a k)
  | .vfneg d a m z e => put 4 d m z e fun k => fpSetSign fp32 (!fpSign fp32 (f4 a k)) (f4 a k)
  | .vadd d a b m r sa z e => put h.sz d m z e fun k => addSub (· + ·) h.sz r sa (el a k) (el b k)
  | .vsub d a b m r sa z e => put h.sz d m z e fun k => addSub (· - ·) h.sz r sa (el a k) (el b k)
  | .vmul d a b m r z e => put h.sz d m z e fun k => addSub (· * ·) h.sz r 0 (el a k) (el b k)
  | .vmin d a b m x z e => put h.sz d m z e fun k => intMinMax false h.sz x (el a k) (el b k)
  | .vmax d a b m x z e => put h.sz d m z e fun k => intMinMax true h.sz x (el a k) (el b k)
  | .vand d a b m z e => put h.sz d m z e fun k => (el a k &&& el b k, 0)
  | .vor d a b m z e => put h.sz d m z e fun k => (el a k ||| el b k, 0)
  | .vxor d a b m z e => put h.sz d m z e fun k => (el a k ^^^ el b k, 0)
  | .vshl d a b m z e => put h.sz d m z e fun k => shiftOp 0 h.sz (el a k) (el b k)
  | .vshr d a b m z e => put h.sz d m z e fun k => shiftOp 1 h.sz (el a k) (el b k)
  | .vsra d a b m z e => put h.sz d m z e fun k => shiftOp 2 h.sz (el a k) (el b k)
  | .vfcmp d a b m e c => .ok (s.landCmp u n d m e fun k => fpCmp fp32 c.toNat (f4 a k) (f4 b k))
  | .vcmp d a b m e c => .ok (s.landCmp u n d m e fun k => (elemCond c h.sz (el a k) (el b k), 0))
  | .vsel d a b m => .ok (s.mapElems u d h.sz n all 0 fun k => (if s.maskBit u m k then el a k else el b k, 0))
  | .mlog d a b f => .ok (s.putMask u d (lowBits 0 1024 fun k => logFn f (s.maskBit u a k) (s.maskBit u b k)))
  | .vrsqs d a m z e => put 4 d m z e fun k => seedRsqrt (f4 a k)
  | .vrcps d a m z e => put 4 d m z e fun k => seedRecip (f4 a k)
  | .vexs d a m z e => put 4 d m z e fun k => seedExp2 (f4 a k)
  | .vlgs d a m z e => put 4 d m z e fun k => seedLog2 (f4 a k)
  | .vred d a x o m e => .ok (s.landRed u h d a x o (s.active u m e))
  | .vscan d a x y o m => .ok (s.landScan u h d a x y o m)
  | .vtrn d a => .ok (s.mapElems u d h.sz n all 0 fun k => (el a (k % h.nr * h.nc + k / h.nr), 0))
  | .vrot d a _ x => .ok (s.mapElems u d h.sz n all 0 fun k =>
    let v := (q.x 0).toNat
    (if x = 0 then el a (k / h.nc * h.nc + (k % h.nc + h.nc - v % h.nc) % h.nc)
      else el a ((k / h.nc + h.nr - v % h.nr) % h.nr * h.nc + k % h.nc), 0))
  | .vperm d a b x => .ok (s.mapElems u d h.sz n all 0 fun k =>
    (if x = 0 then el a (k / h.nc * h.nc + el b k % h.nc) else el a (el b k % h.nr * h.nc + k % h.nc), 0))
  | .vcvt d a _ m _ z e => .ok (s.landCvt u q d a m z e)
  | .vqnt d a b _ => .ok (s.landQnt u q d a b)
  | .vdqn d a b _ => .ok (s.landDqn u q d a b)
  | .vrns d a m f z e => put 4 d m z e fun k => toResidue f (f4 a k)
  | .vcrt d a m f z e => put 4 d m z e fun k => fromResidue f (f4 a k)
  | .vacr d z _ => .ok (s.landAcr u q d z)
  | .vacw r z _ m i n e => .ok (s.landAcw u q r z m i n e)
  | _ => .ok s

/-- A command has lines of a tensor to move (R311). -/
def State.owesLines (s : State) (u : Nat) (q : Cmd) : Bool := !(s.vldLeft u q).isEmpty || !(s.vstLeft u q).isEmpty
/-- A tensor VLD or VST is still moving its lines: the engine is occupied (R311). -/
def State.moving (s : State) (d p : Nat) : Bool :=
  s.ctxs.any fun c => decide (engineOf c.1 = .vector) && s.unitOn d p (c.1 / 12) && c.2.flight.any fun q => s.owesLines (c.1 / 12) q
/-- The vector engine of a core takes its next command (R104, R311). -/
def State.vectorIssue (s : State) (d p : Nat) : State :=
  let n := s.eclk d p .vector
  if n < (s.core d p).vnext ∨ s.mayChoose d p .vector = false ∨ s.moving d p = true then s
  else match pickRank ((s.heads d p .vector).map fun h => (s.rank h.1 .vector h.2.1 (h.2.2.2.readyAt.getD 0), h)) with
    | none => s
    | some h =>
      let q := h.2.2.2
      let t := if s.owesLines h.1 q then (1, 0) else Instr.vtime q.instr (Shape.of q.vsh).elems q.width
      let s1 := (s.choose d p .vector).toFlight h.1 .vector h.2.1 { q with phase := .issued, enter := n, fin := n + max 1 t.1 + t.2 }
      (s1.setCore d p { s1.core d p with vnext := n + max 1 t.1 }).refresh d p 0

/-- VECTOR_COMMAND_COMPLETE (R309, R311): the oldest issued command of a context, when its time has come, writes its results
in one act; a fault leaves it without effect (R318, R319). A tensor VLD reads its lines first and a tensor VST lands its pieces, one at
a time. -/
def execVectorCommandComplete (u j : Nat) (s : State) : Out :=
  let d := (s.unit u).place.die
  let p := s.home u
  match (s.ctx u .vector j).flight with
  | [] => .next s
  | q :: _ =>
    if q.fin ≤ s.eclk d p .vector ∧ (s.unit u).onCore = true ∧ ((s.core d p).reset.find 1).isNone = true then
      match s.vldLeft u q with
      | l :: ls => .next (s.readLine u j q (l :: ls))
      | [] => match s.vstLeft u q with
      | [] => .next (match s.landVector u q with
        | .ok t => t.completeCmd u .vector j q
        | .error t => (s.failCmd u .vector j t).completeCmd u .vector j q)
      | l :: ls => .next (s.landLine u j q (l :: ls))
    else .next s

end Sys2Proof.Machine
end

