-- ==== Sys2Proof/Machine/Copy.lean ====
section
/-! DEFINITION. Copy instructions (14): what each does when it decodes - checks, promise, queue - and CWAIT and CPRQ. -/
namespace Sys2Proof.Machine
open Sys2Proof

/-! Promises (R344, R363) -/

/-- Mesh distance of two dies (R5). -/
def dieHops (a b : Nat) : Nat := (max (a / 4) (b / 4) - min (a / 4) (b / 4)) + (max (a % 4) (b % 4) - min (a % 4) (b % 4))
/-- W and L of one end of a transfer. -/
abbrev CopyEnd := Nat × Nat
def endSp : CopyEnd := (128, 16)
def endNone : CopyEnd := (128, 16)
def endWvfy : CopyEnd := (32, 200)
def endWdig : CopyEnd := (8, 200)
def endWprg : CopyEnd := (2, 2000)
/-- The end of a page frame as a core of `die` reaches it. -/
def endOf (die frame : Nat) : CopyEnd :=
  let d := frame / 2 ^ 36
  if d = 15 then (16, 2000) else if d = die then (32, 480) else (32, 600 + 100 * dieHops die d)
/-- The smallest W and the largest L of some ends. -/
def joinEnds (l : List CopyEnd) : CopyEnd := l.foldl (fun a b => (min a.1 b.1, max a.2 b.2)) endNone
/-- Copy cycles of `B` bytes over some ends. -/
def copyCycles (l : List CopyEnd) (B : Nat) : Nat := (joinEnds l).2 + cdiv B (joinEnds l).1
/-- The promise of a command of the context in issue that takes `cc` copy cycles. -/
def State.promiseOf (s : State) (cc : Nat) : Nat :=
  let k := s.unitCore s.selUnit
  max (s.tclk s.selUnit) s.myCtx.promise + cdiv (5 * cc * k.cpy.div) (4 * k.mat.div)

/-! Operand words (R339, R340) -/

/-- SP, and the address, of a location word. -/
def locSp (w : X) : Bool := bits w.toNat 63 1 = 1
def locAddr (w : X) : Nat := if locSp w then bits w.toNat 0 21 else bits w.toNat 0 57
/-- Fields that must be zero are zero. -/
def locOk (w : X) : Bool := decide (bits w.toNat 57 6 = 0) && (!locSp w || decide (bits w.toNat 21 36 = 0))
/-- A tensor word: tensor number, c1, c2. -/
def tnOf (w : X) : Nat := bits w.toNat 0 8
def tc1Of (w : X) : Nat := bits w.toNat 8 24
def tc2Of (w : X) : Nat := bits w.toNat 32 24
def tensorWordOk (w : X) : Bool := decide (bits w.toNat 63 1 = 1) && decide (bits w.toNat 56 7 = 0)
/-- A scratchpad word: SSTR and SADDR. -/
def sstrOf (w : X) : Nat := bits w.toNat 21 21
def saddrOf (w : X) : Nat := bits w.toNat 0 21
def spWordOk (w : X) : Bool := decide (bits w.toNat 42 22 = 0)

/-! Operands as checked at submission (R222, R343) -/

/-- What a copy command's operands leave: byte count, ends, the copy cycles where they are not of R344; and the faults found:
those of steps 1 and 2 of R222, those of its step 4, and those of orders 3 and 4 of R343. -/
structure CopyOp where
  state : State
  hard : List Trap := []
  soft : List Trap := []
  late : List Trap := []
  claims : List Claim := []
  pins : List Nat := []
  pages : List (Nat × Nat) := []
  tens : Tensor := {}
  vis : List (Nat × Bool) := []
  wten : Option Nat := none
  group : List Nat := []
  ends : List CopyEnd := []
  count : Nat := 0
  cc : Option Nat := none

def copyBad (s : State) (n : Nat) : Trap := s.fieldTrap 0x1A n
/-- Faults of look-ups of plain pages, those that are no page fault before the others (R222). -/
def hardOf (l : List Trap) : List Trap := l.filter fun t => decide (t.code ≠ 0x40)
def softOf (l : List Trap) : List Trap := l.filter fun t => decide (t.code = 0x40)
/-- The pages of a linear global operand of `n` rows, and the faults of looking them up. -/
def State.lookRows (s : State) (wr : Bool) (a stride len n : Nat) : List (Nat × Nat) × List Trap :=
  let rows := (List.range n).map fun i => a + i * stride
  (rows.flatMap fun b => (s.lookPages s.selUnit wr b len).toOption.getD [], rows.flatMap fun b => s.pageFaults s.selUnit wr b len)
/-- A location operand of `n` rows: global rows are looked up here, scratchpad rows give claims. -/
def State.location (s : State) (wr : Bool) (w : X) (stride len n : Nat) : CopyOp :=
  let die := (s.unit s.selUnit).place.die
  if locSp w then { state := s, claims := rowClaims (locAddr w) stride len n wr, ends := [endSp] }
  else
    let r := s.lookRows wr (locAddr w) stride len n
    { state := s, hard := hardOf r.2, soft := softOf r.2, pins := r.1.map (·.2), pages := r.1, ends := r.1.map fun p => endOf die p.2 }
/-- Two operands of one command; the first keeps its byte count and tensor. -/
def CopyOp.join (a b : CopyOp) : CopyOp :=
  { a with
    state := b.state, hard := a.hard ++ b.hard, soft := a.soft ++ b.soft, claims := a.claims ++ b.claims
    pins := a.pins ++ b.pins, pages := a.pages ++ b.pages, ends := a.ends ++ b.ends }
/-- An operand that fails at once (steps 1 and 2 of R222). -/
def State.badOp (s : State) (t : Trap) : CopyOp := { state := s, hard := [t] }
/-- Tiles of a tensor looked up for a read or a write in the copy it uses (R354). -/
def State.tensorTiles (s : State) (tn : Nat) (t : Tensor) (wr copy : Bool) (rs : List (Nat × Nat)) : CopyOp :=
  let u := s.selUnit
  let acc : Access := if wr then .engWrite else .engRead
  let ts := (rs.flatMap fun r => tilesOf (t.copyBase copy + r.1) r.2).eraseDups.map fun i => (false, i)
  match s.checkTiles u tn acc ts with
  | .error e => s.badOp e
  | .ok _ => match s.lookTiles u tn acc ts [] with
    | .error e => { state := s, soft := [e] }
    | .ok (s1, fs) => { state := s1, pins := fs, ends := fs.map (endOf (s.unit u).place.die), tens := s1.tensorOf u tn
                        vis := [(tn, copy)], wten := if wr then some tn else none }
/-- The tensor `tn` of the unit's launch (R220). -/
def State.theTensor (s : State) (tn : Nat) : Except Trap Tensor :=
  match ((s.unitLaunch s.selUnit).tensors)[tn]? with
  | some t => .ok t
  | none => .error ⟨0x14, tn⟩
/-- What an operand gives on that tensor (step 1 of R222). -/
def State.onTensor (s : State) (tn : Nat) (f : Tensor → CopyOp) : CopyOp :=
  match s.theTensor tn with
  | .ok t => f t
  | .error e => s.badOp e
/-- The sync address of a command of kind `k`: its physical address and pins, and the fault of its look-up (R340). -/
def State.syncAt (s : State) (k : BitVec 2) (v : X) : Option Nat × List Nat × List Trap :=
  if k = 0 then (none, [], [])
  else match s.objectAt s.selUnit v.toNat (copyBad s 1) with
    | .ok p => (some p.1, p.2, [])
    | .error t => (none, [], [t])
/-- The order of R343 from check 2 on: steps 1 to 4 of R222 over every operand and the sync address, whose frames are `fs`, its tile
limit, then checks 3 and 4. -/
def CopyOp.checked (o : CopyOp) (u : Nat) (fs : List Nat) (y : List Trap) : Except Trap CopyOp := do
  match (o.hard ++ hardOf y).head? with
  | some t => .error t
  | none =>
    o.state.checkClaims u o.claims
    let n := (o.pins ++ fs).eraseDups.length
    match ((o.soft ++ softOf y).head?.or (if 4096 < n then some ⟨0x16, n⟩ else none)).or o.late.head? with
    | some t => .error t
    | none => .ok o

/-- What the words of a copy form name: x[a], x[a+1], x[b], x[b+1] (R338). -/
structure CopyRegs where
  a : X
  a' : X
  b : X
  b' : X

def State.copyRegs (s : State) (a b : BitVec 6) : CopyRegs :=
  ⟨s.stream.getX a, s.stream.getX (a + 1), s.stream.getX b, s.stream.getX (b + 1)⟩
def CopyRegs.list (r : CopyRegs) : List X := [r.a, r.a', r.b, r.b']

/-- A queued copy command of a data form: its checks, promise and entry (R338, R343, R344). `ok` is check 1 on the operand
words; `op` finds what checks 2 to 4 need but for the sync address. -/
def State.copyWord (s : State) (i : Instr) (d : BitVec 6) (r : CopyRegs) (k : BitVec 2) (ok : Bool) (op : CopyOp) : Out :=
  let P := fun (o : CopyOp) => s.promiseOf (o.cc.getD (copyCycles o.ends o.count))
  s.engineWord .copy 4 (do
    require (ok && (decide (k = 0) || decide (r.b'.toNat % 8 = 0))) (copyBad s 1)
    let y := s.syncAt k r.b'
    let o ← op.checked s.selUnit y.2.1 y.2.2
    .ok (o.state, { cn := 0, word := s.iw, instr := i, regs := r.list, claims := o.claims, pins := o.pins ++ y.2.1
                    sync := y.1, pages := o.pages ++ y.2.1.map fun f => (r.b'.toNat / 4096, f), tens := o.tens, vis := o.vis, wten := o.wten, group := o.group
                    promise := some (P o) }))
    fun s1 c =>
      match s1.submit c, s.sel with
      | .next t, .ctx u e j =>
        if (t.ctx u e j).nextCn = (s.ctx u e j).nextCn then .next t
        else
          let x := t.ctx u e j
          let p := c.promise.getD 0
          .next (t.setCtx u e j { x with promise := p, st := x.st.setX d (BitVec.ofNat 64 p) })
      | o, _ => o

/-! Linear, 2-D and tensor copies (R350 to R353) -/

/-- B of CPY and WPRG. -/
def linearCount (w : X) : Nat := bits w.toNat 0 25
def linearOk (w : X) : Bool := decide (bits w.toNat 25 39 = 0) && decide (1 ≤ linearCount w) && decide (linearCount w ≤ 2 ^ 24)
/-- Source and destination of a linear transfer of `n` rows of `len` bytes. -/
def State.linear (s : State) (r : CopyRegs) (ss ds len n : Nat) : CopyOp :=
  { (s.location false r.a ss len n).join (s.location true r.a' ds len n) with count := len * n }
/-- Check 1 of R343 on the words of CPY. -/
def cpyOk (r : CopyRegs) : Bool := locOk r.a && locOk r.a' && linearOk r.b
/-- CPY (R350). -/
def execCpy (d a b : BitVec 6) (c : BitVec 3) (n : BitVec 1) (k : BitVec 2) (s : State) : Out :=
  let r := s.copyRegs a b
  s.copyWord (.cpy d a b c n k) d r k (cpyOk r) (s.linear r 0 0 (linearCount r.b) 1)

/-- The size word of CPY2: C, R, SS, DS in bytes (R351). -/
def rowLen (w : X) : Nat := bits w.toNat 0 16 + 1
def rowCount (w : X) : Nat := bits w.toNat 16 12 + 1
def srcStride (w : X) : Nat := 16 * bits w.toNat 28 18
def dstStride (w : X) : Nat := 16 * bits w.toNat 46 18
/-- Check 1 of R343 on the words of CPY2. -/
def cpy2Ok (r : CopyRegs) : Bool := locOk r.a && locOk r.a' && (decide (dstStride r.b ≠ 0) || decide (rowCount r.b = 1))
/-- CPY2 (R351). -/
def execCpy2 (d a b : BitVec 6) (c : BitVec 3) (n : BitVec 1) (k : BitVec 2) (s : State) : Out :=
  let r := s.copyRegs a b
  s.copyWord (.cpy2 d a b c n k) d r k (cpy2Ok r) (s.linear r (srcStride r.b) (dstStride r.b) (rowLen r.b) (rowCount r.b))

/-- The box word of CPYT (R352). -/
structure Box where
  dir : Bool
  rows : Nat
  width : Nat
  c3 : Nat
  c0 : Nat
deriving DecidableEq, Repr

def Box.of (w : X) : Box :=
  ⟨bits w.toNat 63 1 = 1, bits w.toNat 44 12 + 1, bits w.toNat 32 12 + 1, bits w.toNat 24 8, bits w.toNat 0 24⟩
/-- Bytes of a row of `n` elements of a tensor. -/
def Tensor.rowLen (t : Tensor) (n : Nat) : Nat := codeBits t.fmt * n / 8
/-- Check 1 of R343 on a box of tensor `t`. -/
def Box.ok (x : Box) (t : Tensor) (sw : X) : Bool :=
  (decide (t.fmt ≠ 6) || (decide (x.c0 % 2 = 0) && decide (x.width % 2 = 0))) && (!x.dir || decide (t.rowLen x.width ≤ sstrOf sw))
/-- Check 1 of R343 on the words of CPYT. -/
def State.cpytOk (s : State) (r : CopyRegs) : Bool :=
  tensorWordOk r.a && spWordOk r.a' && decide (bits r.b.toNat 56 7 = 0) && match s.theTensor (tnOf r.a) with
    | .ok t => (Box.of r.b).ok t r.a'
    | .error _ => true
/-- The operands of CPYT. -/
def State.cpytOp (s : State) (r : CopyRegs) : CopyOp :=
  let x := Box.of r.b
  let tn := tnOf r.a
  s.onTensor tn fun t =>
  match t.outside [x.c0 + x.width - 1, tc1Of r.a + x.rows - 1, tc2Of r.a, x.c3] with
  | some e => s.badOp ⟨0x15, tn + 256 * e⟩
  | none =>
    let len := t.rowLen x.width
    let o := s.tensorTiles tn t x.dir (t.shd && (t.vis != x.dir))
      ((List.range x.rows).map fun i => (t.offset [x.c0, tc1Of r.a + i, tc2Of r.a, x.c3], len))
    { o with count := len * x.rows, claims := rowClaims (saddrOf r.a') (sstrOf r.a') len x.rows (!x.dir), ends := endSp :: o.ends }
/-- CPYT (R352). -/
def execCpyt (d a b : BitVec 6) (c : BitVec 3) (n : BitVec 1) (k : BitVec 2) (s : State) : Out :=
  let r := s.copyRegs a b
  s.copyWord (.cpyt d a b c n k) d r k (s.cpytOk r) (s.cpytOp r)

/-- The index word of GTH and SCT: row width, rows, address of the list (R353). -/
def idxWidth (w : X) : Nat := bits w.toNat 33 12 + 1
def idxRows (w : X) : Nat := bits w.toNat 21 12 + 1
def idxAddr (w : X) : Nat := bits w.toNat 0 21
/-- GTH and SCT: the whole span is looked up. -/
def State.gatherOp (s : State) (r : CopyRegs) (scatter : Bool) : CopyOp :=
  let tn := tnOf r.a
  s.onTensor tn fun t =>
  match t.outside [idxWidth r.b - 1, 0, tc2Of r.a, 0] with
  | some e => s.badOp ⟨0x15, tn + 256 * e⟩
  | none =>
    let len := cdiv (codeBits t.fmt * idxWidth r.b) 8
    let o := s.tensorTiles tn t scatter (t.shd && (t.vis != scatter)) [(0, 4096 * t.count)]
    { o with
      count := len * idxRows r.b, ends := endSp :: o.ends
      claims := (⟨0, idxAddr r.b, 4 * idxRows r.b, false⟩ : Claim) :: rowClaims (saddrOf r.a') (sstrOf r.a') len (idxRows r.b) (!scatter) }
def gatherOk (r : CopyRegs) : Bool :=
  tensorWordOk r.a && spWordOk r.a' && decide (bits r.b.toNat 45 19 = 0) && decide (idxAddr r.b % 4 = 0)
/-- GTH (R353). -/
def execGth (d a b : BitVec 6) (c : BitVec 3) (n : BitVec 1) (k : BitVec 2) (s : State) : Out :=
  let r := s.copyRegs a b
  s.copyWord (.gth d a b c n k) d r k (gatherOk r) (s.gatherOp r false)
/-- SCT (R353). -/
def execSct (d a b : BitVec 6) (c : BitVec 3) (n : BitVec 1) (k : BitVec 2) (s : State) : Out :=
  let r := s.copyRegs a b
  s.copyWord (.sct d a b c n k) d r k (gatherOk r) (s.gatherOp r true)

/-! Shadowed tensors (R355, R356) -/

/-- The tensor is shadowed, or there is none of that number, which check 2 finds. -/
def State.shadowOk (s : State) (tn : Nat) : Bool :=
  match s.theTensor tn with
  | .ok t => t.shd
  | .error _ => true
/-- The operands of CPYS: both copies of the tensor; within one die they have no end (R344), but host memory is on none. -/
def State.cpysOp (s : State) (tn : Nat) : CopyOp :=
  s.onTensor tn fun t =>
  let x := s.tensorTiles tn t false t.vis [(0, 4096 * t.count)]
  let y := x.state.tensorTiles tn t true (!t.vis) [(0, 4096 * t.count)]
  let es := x.pins ++ y.pins
  let one := decide (es.headD 0 / 2 ^ 36 < 15) && es.all fun f => decide (f / 2 ^ 36 = es.headD 0 / 2 ^ 36)
  { y with hard := x.hard ++ y.hard, soft := x.soft ++ y.soft, pins := es, vis := x.vis, count := 4096 * t.count
           ends := if one then [endNone] else x.ends ++ y.ends }
/-- CPYS (R355). -/
def execCpys (d a b : BitVec 6) (c : BitVec 3) (n : BitVec 1) (k : BitVec 2) (s : State) : Out :=
  let r := s.copyRegs a b
  s.copyWord (.cpys d a b c n k) d r k (s.shadowOk (tnOf r.a)) (s.cpysOp (tnOf r.a))
/-- The operands of PUB. -/
def State.pubOp (s : State) (tn : Nat) : CopyOp := s.onTensor tn fun _ => { state := s, vis := [(tn, false)], ends := [endNone] }
/-- PUB (R356). -/
def execPub (d a b : BitVec 6) (c : BitVec 3) (n : BitVec 1) (k : BitVec 2) (s : State) : Out :=
  let r := s.copyRegs a b
  s.copyWord (.pub d a b c n k) d r k (s.shadowOk (tnOf r.a)) (s.pubOp (tnOf r.a))

/-! Weight commands (R357 to R359) -/

/-- `n` bytes from offset `a` lie in the tile and scale areas of bank 0: in one of them, or in both where they adjoin (R357). -/
def Region.areaHolds (r : Region) (a n : Nat) : Bool :=
  let t0 := r.off0
  let t1 := r.off0 + r.tileLen
  let c0 := r.soff0
  let c1 := r.soff0 + r.scaleLen
  (decide (t0 ≤ a) && decide (a + n ≤ t1)) || (decide (c0 ≤ a) && decide (a + n ≤ c1))
    || (decide (t1 = c0) && decide (t0 ≤ a) && decide (a + n ≤ c1)) || (decide (c1 = t0) && decide (c0 ≤ a) && decide (a + n ≤ t1))
/-- The table index, key and region of a weight address in bank-0 form, on the team's die, in a region whose entry satisfies `ok`
(R237, R238). -/
def State.weightRange (s : State) (u wa : Nat) (ok : Nat → RegEntry → Bool) : Option (Nat × Nat × Region) :=
  let p := (s.unit u).place
  if waDie wa ≠ p.die then none
  else (List.range (s.job p.die p.job).table.length).findSome? fun ix =>
    match s.tableRegion p.die p.job ix with
    | some (k, e, r) =>
      if ok ix e ∧ e.die = p.die ∧ (r.groupAt (waCore wa)).isSome then
        match r.locate (waOff wa) with
        | some (false, _, _) => some (ix, k, r)
        | _ => none
      else none
    | none => none
/-- A live launch binds the region (R243). -/
def State.bindsRegion (s : State) (l : Launch) (k : Nat) : Bool :=
  decide (l.status = .admitted) && l.count.isOpen &&
    l.stages.any fun g => g.bind.any fun b => decide (bits b 15 1 = 1) &&
      match s.tableRegion l.die l.job (b % 4096) with
      | some (k', _, _) => decide (k' = k)
      | none => false
/-- A live launch on the die binds the region (R243). -/
def State.liveBinds (s : State) (die k : Nat) : Bool := s.launches.any fun l => decide (l.2.die = die) && s.bindsRegion l.2 k
/-- A live launch of any die binds the region (R239, R465). -/
def State.boundLive (s : State) (k : Nat) : Bool := s.launches.any fun l => s.bindsRegion l.2 k
/-- Check 3 of R343 on a range of `n` bytes of a region: it stays in its areas, and `free` holds of the region. -/
def weightLate (x : Option (Nat × Nat × Region)) (wa n : Nat) (free : Nat → Region → Bool) : List Trap :=
  match x with
  | none => [⟨0x0E, wa⟩]
  | some (ix, key, g) => if g.areaHolds (waOff wa) n = false then [⟨0x0E, wa⟩] else if free key g then [] else [⟨0x1E, ix⟩]
/-- Check 1 of R343 on the words of WPRG. -/
def wprgOk (r : CopyRegs) : Bool :=
  locOk r.a && linearOk r.b && decide (r.a'.toNat < 2 ^ 40) && decide (r.a'.toNat % 64 = 0) && decide (linearCount r.b % 64 = 0)
/-- The operands of WPRG. -/
def State.wprgOp (s : State) (r : CopyRegs) : CopyOp :=
  let u := s.selUnit
  let wa := r.a'.toNat
  let B := linearCount r.b
  let o := s.location false r.a 0 B 1
  { o with
    count := B, ends := endWprg :: o.ends
    late := weightLate (s.weightRange u wa fun _ e => e.prog) wa B fun key g => g.pair || !s.liveBinds (s.unit u).place.die key }
/-- WPRG (R357). -/
def execWprg (d a b : BitVec 6) (c : BitVec 3) (n : BitVec 1) (k : BitVec 2) (s : State) : Out :=
  let r := s.copyRegs a b
  s.copyWord (.wprg d a b c n k) d r k (wprgOk r) (s.wprgOp r)
/-- The size word of WVFY: SH, RES (R358). -/
def wvfySh (w : X) : Bool := bits w.toNat 32 1 = 1
def wvfyRes (w : X) : Nat := bits w.toNat 33 21
/-- Check 1 of R343 on the words of WVFY. -/
def wvfyOk (r : CopyRegs) : Bool :=
  locOk r.a && decide (r.a'.toNat < 2 ^ 40) && decide (linearCount r.b % 64 = 0) && decide (bits r.b.toNat 25 7 = 0)
    && decide (bits r.b.toNat 54 10 = 0) && decide (wvfyRes r.b % 16 = 0)
/-- The operands of WVFY. -/
def State.wvfyOp (s : State) (r : CopyRegs) : CopyOp :=
  let u := s.selUnit
  let wa := r.a'.toNat
  let B := linearCount r.b
  let o := s.location false r.a 0 B 1
  { o with
    count := B, ends := endWvfy :: o.ends, claims := o.claims ++ [⟨0, wvfyRes r.b, 16, true⟩]
    late := weightLate (s.weightRange u wa fun ix e => e.prog || (!wvfySh r.b && (s.bindings u).any fun x => decide (x.1 = ix))) wa B
      fun _ g => !wvfySh r.b || g.pair }
/-- WVFY (R358). -/
def execWvfy (d a b : BitVec 6) (c : BitVec 3) (n : BitVec 1) (k : BitVec 2) (s : State) : Out :=
  let r := s.copyRegs a b
  s.copyWord (.wvfy d a b c n k) d r k (wvfyOk r) (s.wvfyOp r)
/-- The bytes WDIG covers, bank by bank: weight addresses (R359). -/
def Region.digestAddrs (r : Region) (die : Nat) (bank : Bool) : List Nat :=
  (List.range r.groups).flatMap fun g => (List.range r.steps).flatMap fun st =>
    ((List.range (tileBytes r.fmt)).map fun i => r.addr die (r.homeOf g) bank false (tileStride r.fmt * st + i))
      ++ if r.sm = 1 then (List.range 320).map fun i => r.addr die (r.homeOf g) bank true (320 * st + i) else []
def Region.digestCount (r : Region) : Nat := r.groups * r.steps * (tileBytes r.fmt + if r.sm = 1 then 320 else 0)
/-- Check 1 of R343 on the words of WDIG. -/
def wdigOk (r : CopyRegs) : Bool :=
  decide (bits r.a.toNat 13 51 = 0) && decide (r.a'.toNat < 2 ^ 21) && decide (r.a'.toNat % 32 = 0)
/-- The operands of WDIG. -/
def State.wdigOp (s : State) (r : CopyRegs) : CopyOp :=
  let p := (s.unit s.selUnit).place
  let ix := bits r.a.toNat 0 12
  let sh := bits r.a.toNat 12 1 = 1
  let o : CopyOp := { state := s, ends := [endWdig, endSp], claims := [⟨0, r.a'.toNat, 32, true⟩] }
  match s.tableRegion p.die p.job ix with
  | none => { o with late := [⟨0x0E, ix⟩] }
  | some (_, e, g) =>
    if e.die ≠ p.die ∨ (sh ∧ e.prog = false) then { o with late := [⟨0x0E, ix⟩] }
    else if sh ∧ g.pair = false then { o with late := [⟨0x1E, ix⟩] }
    else { o with count := g.digestCount }
/-- WDIG (R359). -/
def execWdig (d a b : BitVec 6) (c : BitVec 3) (n : BitVec 1) (k : BitVec 2) (s : State) : Out :=
  let r := s.copyRegs a b
  s.copyWord (.wdig d a b c n k) d r k (wdigOk r) (s.wdigOp r)

/-! Collectives (R360, R361, R363) -/

/-- A member entry: PKG, DIE, CORE, SLOT. -/
def memPkg (e : Nat) : Nat := bits e 0 16
def memDie (e : Nat) : Nat := bits e 16 4
def memCore (e : Nat) : Nat := bits e 20 7
def memSlot (e : Nat) : Nat := bits e 27 2
/-- The entry that names context `j` of a unit. -/
def TeamUnit.memberEntry (t : TeamUnit) (j : Nat) : Nat :=
  0xFFFF + t.place.die * 2 ^ 16 + t.place.core * 2 ^ 20 + (t.place.slot0 + j) * 2 ^ 27
def collB (w : X) : Nat := bits w.toNat 0 21
def collOp (w : X) : Nat := bits w.toNat 32 4
def collRoot (w : X) : Nat := bits w.toNat 36 10
/-- `n` bytes of plain global memory as engine commands read them (R385), through looked-up pages. -/
def State.readPages (s : State) (u : Nat) (ps : List (Nat × Nat)) (va n : Nat) : List Byte :=
  (List.range n).map fun i => s.engByte u (va + i) ((NMap.find ps ((va + i) / 4096)).map fun f => f * 4096 + (va + i) % 4096)
/-- A group descriptor as read: N, whether its head is valid, GTAG, the entries, its pages, and the faults of reading it. -/
structure GroupRead where
  n : Nat := 0
  headOk : Bool := true
  tag : Nat := 0
  entries : List Nat := []
  pages : List (Nat × Nat) := []
  faults : List Trap := []
deriving DecidableEq, Repr
/-- The group descriptor at `va` (R360): the entries are read where the head gives their number. -/
def State.groupAt (s : State) (va : Nat) : GroupRead :=
  let u := s.selUnit
  match s.lookPages u false va 16 with
  | .error t => { faults := [t] }
  | .ok ps =>
    let h := s.readPages u ps va 16
    let n := leAt h 0 2
    let good := decide (2 ≤ n) && decide (n ≤ 1024) && decide (leAt h 2 2 = 0) && decide (leAt h 4 4 ≠ 0) && decide (leAt h 8 8 = 0)
    if 1024 < n then { n := n, headOk := false, pages := ps }
    else match s.lookPages u false va (16 + 8 * n) with
      | .error t => { n := n, headOk := good, faults := [t] }
      | .ok qs =>
        let bs := s.readPages u qs (va + 16) (8 * n)
        { n := n, headOk := good, tag := leAt h 4 4, entries := (List.range n).map fun r => leAt bs (8 * r) 8, pages := qs }
/-- The descriptor is valid for the context of entry `mine` (R361). -/
def GroupRead.ok (g : GroupRead) (mine : Nat) : Bool :=
  g.headOk && decide (g.entries.eraseDups.length = g.n) && g.entries.contains mine && g.entries.all fun e =>
    decide (e / 2 ^ 29 = 0) && decide (memDie e < 12) && decide (memCore e < 96)
/-- ⌈log2 n⌉. -/
def ceilLog2 (n : Nat) : Nat := if n ≤ 1 then 0 else Nat.log2 (n - 1) + 1
/-- Copy cycles of a collective (R363). -/
def groupCycles (es : List Nat) (B : Nat) : Nat :=
  let far := (es.map fun e => (es.map fun f => dieHops (memDie e) (memDie f)).foldl max 0).foldl max 0
  let cc := if es.any fun e => decide (memPkg e ≠ 0xFFFF) then 4000 + cdiv B 16 else 600 + 100 * far + cdiv B 32
  cc * ceilLog2 es.length
inductive Coll where
  | red
  | gather
  | bcast
deriving DecidableEq, Repr
/-- The member entry of the context in issue. -/
def State.myEntry (s : State) : Nat :=
  match s.sel with
  | .ctx u _ j => (s.unit u).memberEntry j
  | .voice _ _ => 0
/-- Check 1 of R343 on the words of a collective. -/
def collOk (kind : Coll) (r : CopyRegs) : Bool :=
  decide (bits r.a.toNat 42 22 = 0) && decide (r.a'.toNat % 64 = 0) && decide (1 ≤ collB r.b) && decide (bits r.b.toNat 21 11 = 0)
    && decide (bits r.b.toNat 46 18 = 0) && (decide (kind ≠ .red) || (decide (collB r.b % 4 = 0) && decide (collOp r.b ≤ 6)))
/-- The operands of a collective (R360 to R363). -/
def State.collective (s : State) (kind : Coll) (r : CopyRegs) : CopyOp :=
  let mine := s.myEntry
  let B := collB r.b
  let src := bits r.a.toNat 0 21
  let dst := bits r.a.toNat 21 21
  if 2 ^ 57 ≤ r.a'.toNat then s.badOp ⟨0x0A, r.a'.toNat⟩
  else
    let g := s.groupAt r.a'.toNat
    let rank := g.entries.findIdx fun e => decide (e = mine)
    let out := match kind with
      | .red => if rank = collRoot r.b ∧ rank < g.entries.length then [(⟨0, dst, B, true⟩ : Claim)] else []
      | .gather => [(⟨0, dst, g.n * B, true⟩ : Claim)]
      | .bcast => [(⟨0, dst, B, true⟩ : Claim)]
    { state := s, hard := hardOf g.faults, soft := softOf g.faults
      late := if g.ok mine && (decide (kind = .gather) || decide (collRoot r.b < g.n)) then [] else [copyBad s 4]
      pins := g.pages.map (·.2), pages := g.pages, group := g.tag :: g.entries, count := B, claims := ⟨0, src, B, false⟩ :: out
      cc := some (groupCycles g.entries (if kind = .gather then g.n * B else B)) }
/-- CRED (R362). -/
def execCred (d a b : BitVec 6) (c : BitVec 3) (n : BitVec 1) (k : BitVec 2) (s : State) : Out :=
  let r := s.copyRegs a b
  s.copyWord (.cred d a b c n k) d r k (collOk .red r) (s.collective .red r)
/-- CAG (R362). -/
def execCag (d a b : BitVec 6) (c : BitVec 3) (n : BitVec 1) (k : BitVec 2) (s : State) : Out :=
  let r := s.copyRegs a b
  s.copyWord (.cag d a b c n k) d r k (collOk .gather r) (s.collective .gather r)
/-- CBCT (R362). -/
def execCbct (d a b : BitVec 6) (c : BitVec 3) (n : BitVec 1) (k : BitVec 2) (s : State) : Out :=
  let r := s.copyRegs a b
  s.copyWord (.cbct d a b c n k) d r k (collOk .bcast r) (s.collective .bcast r)

/-! Waiting, signalling, status (R364 to R366) -/

/-- A command that CWAIT with bound `p` waits for (R364). -/
def Cmd.awaited (p : Option Nat) (q : Cmd) : Bool :=
  match p with
  | none => true
  | some v => decide (q.promise.getD 0 ≤ v)
/-- CWAIT (R364): the word stays undecoded until its condition holds. -/
def execCwait (a : BitVec 6) (s : State) : Out :=
  let x := s.myCtx
  let p : Option Nat := if a = 0 then none else some (s.stream.getX a).toNat
  if (x.queue ++ x.flight).any (Cmd.awaited p) && decide (selKind s.sel = .ctx .copy) then .next s
  else s.decodeTime .copy (.ok s)
/-- CSIG (R365). -/
def execCsig (a : BitVec 6) (c : BitVec 3) (s : State) : Out :=
  s.engineWord .copy 1 (do
    let (pa, fs) ← s.objectAt s.selUnit (s.stream.getX a).toNat (copyBad s 1)
    .ok (s, { cn := 0, word := s.iw, instr := .csig a c, regs := [s.stream.getX a], sync := some pa, pins := fs
              pages := fs.map fun f => ((s.stream.getX a).toNat / 4096, f)
              promise := some s.myCtx.promise })) State.submit
/-- CFNC (R365). -/
def execCfnc (c : BitVec 3) (s : State) : Out :=
  s.engineWord .copy 0 (.ok (s, { cn := 0, word := s.iw, instr := .cfnc c, regs := [], promise := some s.myCtx.promise })) State.submit
/-- The status word of CPRQ (R366). -/
def Ctx.statusOf (x : Ctx) (cn : Nat) : Nat :=
  match x.cmd cn with
  | some q => q.report false
  | none => match x.last.find? fun l => decide (l.1 = cn) with
    | some l => l.2
    | none => if 1 ≤ cn ∧ cn < x.nextCn then 2 ^ 63 else 0
/-- CPRQ (R366). -/
def execCprq (d a : BitVec 6) (s : State) : Out :=
  s.decodeTime .copy (.ok (s.mapStream fun _ st => st.setX d (BitVec.ofNat 64 (s.myCtx.statusOf (s.stream.getX a).toNat))))

end Sys2Proof.Machine
end

