-- ==== Sys2Proof/Machine/CopyEngine.lean ====
section
/-! DEFINITION. The copy engine at work (14) and the Voicer's rows (R245 to R250): issue, pieces, completion, collectives; and
the issue of an engine (R104). -/
namespace Sys2Proof.Machine
open Sys2Proof

/-! The bytes a command moves (R346, R350 to R355) -/

/-- A byte of either end: scratchpad address, or virtual and physical address of global memory. -/
inductive Loc where
  | sp (a : Nat)
  | mem (va pa : Nat)
deriving DecidableEq, Repr

/-- A page that no lookup found lies nowhere. -/
def nowhere : Nat := 2 ^ 52
/-- Byte `k` of a linear operand. -/
def Cmd.locByte (q : Cmd) (w : X) (k : Nat) : Loc :=
  if locSp w then .sp (locAddr w + k)
  else
    let va := locAddr w + k
    .mem va (match NMap.find q.pages (va / 4096) with
      | some f => f * 4096 + va % 4096
      | none => nowhere)
/-- Byte `o` of a copy of the command's tensor (R354). -/
def Cmd.tensorByte (q : Cmd) (copy : Bool) (o : Nat) : Loc :=
  .mem (q.tens.base + q.tens.copyBase copy + o) ((q.tens.bytePa copy o).getD nowhere)
/-- The copy a command's tensor operand was given. -/
def Cmd.myCopy (q : Cmd) : Bool := (q.vis.headD (0, false)).2
/-- Source and destination of every byte, in order. -/
def Cmd.moves (q : Cmd) : List (Loc × Loc) :=
  let a := q.regs.getD 0 0
  let a' := q.regs.getD 1 0
  let b := q.regs.getD 2 0
  let t := q.tens
  let rows := fun (n len : Nat) (f : Nat → Nat → Loc × Loc) => (List.range n).flatMap fun i => (List.range len).map fun k => f i k
  match q.instr with
  | .cpy _ _ _ _ _ _ => (List.range (linearCount b)).map fun k => (q.locByte a k, q.locByte a' k)
  | .cpy2 _ _ _ _ _ _ => rows (rowCount b) (rowLen b) fun i k => (q.locByte a (i * srcStride b + k), q.locByte a' (i * dstStride b + k))
  | .cpyt _ _ _ _ _ _ =>
    let x := Box.of b
    rows x.rows (t.rowLen x.width) fun i k =>
      let g := q.tensorByte q.myCopy (t.offset [x.c0, tc1Of a + i, tc2Of a, x.c3] + k)
      let l : Loc := .sp (saddrOf a' + i * sstrOf a' + k)
      if x.dir then (l, g) else (g, l)
  | .gth _ _ _ _ _ _ => rows (idxRows b) (cdiv (codeBits t.fmt * idxWidth b) 8) fun i k =>
      (q.tensorByte q.myCopy (t.offset [0, ((q.table.getD []).getD i (0, 0)).1, tc2Of a, 0] + k), .sp (saddrOf a' + i * sstrOf a' + k))
  | .sct _ _ _ _ _ _ => rows (idxRows b) (cdiv (codeBits t.fmt * idxWidth b) 8) fun i k =>
      (.sp (saddrOf a' + i * sstrOf a' + k), q.tensorByte q.myCopy (t.offset [0, ((q.table.getD []).getD i (0, 0)).1, tc2Of a, 0] + k))
  | .cpys _ _ _ _ _ _ => (List.range (4096 * t.count)).map fun k => (q.tensorByte q.myCopy k, q.tensorByte (!q.myCopy) k)
  | .wvfy _ _ _ _ _ _ => (List.range (linearCount b)).map fun k => (q.locByte a k, .sp 0)
  | .wprg _ _ _ _ _ _ => (List.range (linearCount b)).map fun k => (q.locByte a k, .sp 0)
  | _ => []
/-- The destinations of a command that lands pieces, in order. -/
def Cmd.dests (q : Cmd) : List Loc :=
  let at_ := fun (a n : Nat) => (List.range n).map fun k => Loc.sp (a + k)
  match q.instr with
  | .wvfy _ _ _ _ _ _ => at_ (wvfyRes (q.regs.getD 2 0)) 16
  | .wdig _ _ _ _ _ _ => at_ (q.regs.getD 1 0).toNat 32
  | .cred _ _ _ _ _ _ => at_ (bits (q.regs.getD 0 0).toNat 21 21) (q.data.getD []).length
  | .cag _ _ _ _ _ _ => at_ (bits (q.regs.getD 0 0).toNat 21 21) (q.data.getD []).length
  | .cbct _ _ _ _ _ _ => at_ (bits (q.regs.getD 0 0).toNat 21 21) (q.data.getD []).length
  | .wprg _ _ _ _ _ _ => []
  | _ => q.moves.map (·.2)
/-- The 128-byte line of a byte (R346). -/
def Loc.line : Loc → Nat × Nat
  | .sp a => (0, a / 128)
  | .mem _ pa => (1, pa / 128)
/-- The lines of a command's destination, one for each piece. -/
def Cmd.lineList (q : Cmd) : List (Nat × Nat) := (q.dests.map Loc.line).eraseDups
/-- A byte an engine command of unit `u` reads (R385). -/
def State.locRead (s : State) (u : Nat) : Loc → Byte
  | .sp a => s.spByte u a
  | .mem va pa => s.engByte u va (some pa)
/-- A source byte on a poisoned line: the VA of the line (R367). -/
def State.locPoison (s : State) : Loc → Option Nat
  | .sp _ => none
  | .mem va pa => if s.poisoned pa then some (va / 128 * 128) else none

/-! Weight space (R245 to R249, R357 to R359) -/

/-- The weight addresses of a weight command's bytes in the bank it uses: the same places of its areas (R357). -/
def State.weightAddrs (s : State) (u : Nat) (q : Cmd) : List Nat :=
  let wa := (q.regs.getD 1 0).toNat
  match q.wbank with
  | none => []
  | some (k, bank) => match s.regions.find k with
    | none => []
    | some r => (List.range (linearCount (q.regs.getD 2 0))).filterMap fun i =>
      match r.locate (waOff wa + i) with
      | some (_, sc, off) => some (r.addr (s.unit u).place.die (waCore wa) bank sc off)
      | none => none
/-- The result of WVFY (R358). -/
def State.verifyBytes (s : State) (u : Nat) (q : Cmd) : List Byte :=
  let r := match q.wbank with
    | some (k, _) => (s.regions.find k).getD {}
    | none => {}
  let bad := (((s.weightAddrs u q).zip (q.moves.map (·.1))).zipIdx.filter fun x =>
    s.cwBad r x.1.1 || decide (s.cell x.1.1 ≠ s.locRead u x.1.2)).map (·.2)
  leBytes bad.length 8 ++ match bad with
    | [] => List.replicate 8 0xFF
    | o :: _ => leBytes o 8
/-- The result of WDIG, and whether its region is damaged (R359). -/
def State.digestBytes (s : State) (u : Nat) (q : Cmd) : List Byte × Bool :=
  match q.wbank with
  | none => ([], false)
  | some (k, bank) =>
    let r := (s.regions.find k).getD {}
    if r.dmg then (List.replicate 32 0xFF, true)
    else (Sm3.hash ((r.digestAddrs (s.unit u).place.die bank).map s.cell), false)
/-- Where a byte is stored: two virtual addresses may name one (R346). -/
def Loc.place : Loc → Nat × Nat
  | .sp a => (0, a)
  | .mem _ pa => (1, pa)
/-- The places a command reads its bytes from (R346). -/
def Cmd.sources (q : Cmd) : List (Nat × Nat) :=
  if q.group = [] then q.moves.map fun m => m.1.place
  else (List.range (collB (q.regs.getD 2 0))).map fun k => (0, bits (q.regs.getD 0 0).toNat 0 21 + k)
/-- Destination byte `k` of a command, at `d`, is also one of its sources, or another of its destination bytes: of a scatter's,
one of a row that another index names (R346, R353). -/
def Cmd.overlaps (q : Cmd) (k : Nat) (d : Loc) : Bool :=
  let ds := q.dests.map Loc.place
  let row : Nat → Nat := fun i => match q.instr with
    | .sct _ _ _ _ _ _ => ((q.table.getD []).getD (i / cdiv (codeBits q.tens.fmt * idxWidth (q.regs.getD 2 0)) 8) (0, 0)).1
    | _ => i
  q.sources.contains d.place || ds.zipIdx.any fun (x : (Nat × Nat) × Nat) => decide (x.1 = d.place) && decide (row x.2 ≠ row k)
/-- The values of a command's destination bytes, in order; where bytes overlap each is unspecified (R18, R346). -/
def State.copyBytes (s : State) (u : Nat) (q : Cmd) : List Byte :=
  let vs : List Byte := match q.data with
    | some l => l
    | none => match q.instr with
      | .wvfy _ _ _ _ _ _ => s.verifyBytes u q
      | .wdig _ _ _ _ _ _ => (s.digestBytes u q).1
      | _ => q.moves.map fun m => s.locRead u m.1
  (vs.zip q.dests).zipIdx.map fun x => if q.overlaps x.2 x.1.2 then Config.freeByte s.fresh (2 ^ 59 + x.2) else x.1.1

/-! Issue (R337, R353, R356) -/

/-- The data form's scope, NP and KIND fields (R340). -/
def Instr.copyFields : Instr → Option (BitVec 3 × BitVec 1 × BitVec 2)
  | .cpy _ _ _ c n k => some (c, n, k)
  | .cpy2 _ _ _ c n k => some (c, n, k)
  | .cpyt _ _ _ c n k => some (c, n, k)
  | .gth _ _ _ c n k => some (c, n, k)
  | .sct _ _ _ c n k => some (c, n, k)
  | .cpys _ _ _ c n k => some (c, n, k)
  | .pub _ _ _ c n k => some (c, n, k)
  | .wprg _ _ _ c n k => some (c, n, k)
  | .wvfy _ _ _ c n k => some (c, n, k)
  | .wdig _ _ _ c n k => some (c, n, k)
  | .cred _ _ _ c n k => some (c, n, k)
  | .cag _ _ _ c n k => some (c, n, k)
  | .cbct _ _ _ c n k => some (c, n, k)
  | _ => none
def Cmd.scope (q : Cmd) : Nat :=
  match Instr.copyFields q.instr with
  | some (c, _, _) => c.toNat
  | none => match q.instr with
    | .csig _ c => c.toNat
    | .cfnc c => c.toNat
    | _ => 1
def Cmd.kind (q : Cmd) : Nat := ((Instr.copyFields q.instr).map fun f => f.2.2.toNat).getD 0
def Instr.isGather : Instr → Bool
  | .gth _ _ _ _ _ _ => true
  | .sct _ _ _ _ _ _ => true
  | _ => false
def Instr.isPub : Instr → Bool
  | .pub _ _ _ _ _ _ => true
  | _ => false
/-- Nothing of its team that entered before a PUB still writes the tensor (R356). -/
def State.pubReady (s : State) (u : Nat) (q : Cmd) : Bool :=
  let tn := (q.vis.headD (0, false)).1
  !(s.ctxList u).any fun c => (c.queue ++ c.flight).any fun k => decide (k.entry < q.entry) && decide (k.wten = some tn)
/-- A ready GTH or SCT reads its index list (R353). -/
def State.readIndex (s : State) (u j : Nat) (q : Cmd) : State :=
  let b := q.regs.getD 2 0
  let bs := s.spBytes u (idxAddr b) (4 * idxRows b)
  let ix := (List.range (idxRows b)).map fun n => (leAt bs (4 * n) 4, n)
  match ix.find? fun p => decide (q.tens.extent 1 ≤ p.1) with
  | some p => (s.failCmd u .copy j ⟨0x20, p.2⟩).completeCmd u .copy j q
  | none => s.setCtx u .copy j ((s.ctx u .copy j).setCmd { q with table := some ix })
/-- The region and bank of a weight command (R357 to R359). -/
def State.bankFor (s : State) (u : Nat) (q : Cmd) : Option (Nat × Bool) :=
  let p := (s.unit u).place
  let at_ := fun (f : Nat → RegEntry → Bool) (sh : Bool) =>
    (s.weightRange u (q.regs.getD 1 0).toNat f).map fun x => (x.2.1, if x.2.2.pair then x.2.2.act != sh else false)
  match q.instr with
  | .wprg _ _ _ _ _ _ => at_ (fun _ e => e.prog) true
  | .wvfy _ _ _ _ _ _ => at_ (fun _ _ => true) (wvfySh (q.regs.getD 2 0))
  | .wdig _ _ _ _ _ _ => (s.tableRegion p.die p.job (bits (q.regs.getD 0 0).toNat 0 12)).map fun x =>
      (x.1, if x.2.2.pair then x.2.2.act != decide (bits (q.regs.getD 0 0).toNat 12 1 = 1) else false)
  | _ => none

/-! Collectives (R362) -/

/-- The context of this package that a member entry names: unit and context. -/
def State.member (s : State) (e : Nat) : Option (Nat × Nat) :=
  if memPkg e ≠ 0xFFFF then none
  else (s.units.find? fun c => c.2.onCore && decide (c.2.place.die = memDie e) && decide (c.2.place.core = memCore e)
    && decide (c.2.place.slot0 ≤ memSlot e) && decide (memSlot e < c.2.place.slot0 + c.2.place.voices)).map fun c =>
      (c.1, memSlot e - c.2.place.slot0)
def Cmd.gtag (q : Cmd) : Nat := q.group.headD 0
def Cmd.entries (q : Cmd) : List Nat := q.group.drop 1
/-- The issued command of operation `k` with a tag in a context. -/
def Ctx.collCmd (c : Ctx) (tag k : Nat) : Option Cmd :=
  c.flight.find? fun q => decide (q.group ≠ []) && decide (q.gtag = tag) && decide (q.con = k)
/-- The members of the operation of `q` that have issued: unit, context, command, in rank order. -/
def State.collMembers (s : State) (q : Cmd) : List (Nat × Nat × Cmd) :=
  q.entries.filterMap fun e => match s.member e with
    | none => none
    | some (u, j) => ((s.ctx u .copy j).collCmd q.gtag q.con).map fun c => (u, j, c)
/-- A member a command names has issued this operation, and no longer waits in it: the status its own ended with, a mismatch
where it formed with others (R362). -/
def State.collOver (s : State) (q : Cmd) : Option Nat :=
  q.entries.findSome? fun e => match s.member e with
    | none => none
    | some (u, j) =>
      let c := s.ctx u .copy j
      match (c.lapsed.find? fun o => decide (o.1 = q.gtag) && decide (o.2.1 = q.con)).map (·.2.2) with
      | some st => some st
      | none => if q.con ≤ c.tags.getD q.gtag 0 ∧ (c.collCmd q.gtag q.con).isNone = true then some 2 else none
/-- What a collective does, and whether it is the same one. -/
def Instr.collKind : Instr → Option Coll
  | .cred _ _ _ _ _ _ => some .red
  | .cag _ _ _ _ _ _ => some .gather
  | .cbct _ _ _ _ _ _ => some .bcast
  | _ => none
/-- The members' commands agree (R362). -/
def Cmd.agrees (a b : Cmd) : Bool :=
  let x := a.regs.getD 2 0
  let y := b.regs.getD 2 0
  decide (Instr.collKind a.instr = Instr.collKind b.instr) && decide (a.group = b.group) && decide (collB x = collB y) &&
    (decide (Instr.collKind a.instr ≠ some .red) || decide (collOp x = collOp y)) &&
    (decide (Instr.collKind a.instr = some .gather) || decide (collRoot x = collRoot y))
/-- Element results of CRED and their flags. -/
def reduceElem (op : Nat) (l : List Nat) : Nat × X :=
  if op = 6 then l.foldl (fun a x => let r := residueOp (· + ·) a.1 x; (r.1, a.2 ||| r.2)) (0, 0) else groupOp op 4 l
/-- The bytes each rank receives, and the root's flags, from the members' source bytes in rank order. -/
def collResult (kind : Coll) (op root B : Nat) (srcs : List (List Byte)) (rank : Nat) : List Byte × X :=
  match kind with
  | .gather => (srcs.flatten, 0)
  | .bcast => (srcs.getD root [], 0)
  | .red =>
    if rank ≠ root then ([], 0)
    else
      let es := (List.range (B / 4)).map fun e => reduceElem op (srcs.map fun b => leAt b (4 * e) 4)
      (es.flatMap fun e => leBytes e.1 4, es.foldl (fun f e => f ||| e.2) 0)
def State.setCopy (s : State) (u j : Nat) (q : Cmd) : State := s.setCtx u .copy j ((s.ctx u .copy j).setCmd q)
/-- Issued commands of the operation of `q`, of context `j` of unit `u`, whose descriptors name that context (R362). -/
def State.collNaming (s : State) (u j : Nat) (q : Cmd) : List (Nat × Nat × Cmd) :=
  s.ctxs.flatMap fun c => if engineOf c.1 ≠ .copy then [] else
    (c.2.flight.filter fun k => decide (k.group ≠ []) && decide (k.gtag = q.gtag) && decide (k.con = q.con)
      && k.entries.any fun e => decide (s.member e = some (u, j))).map fun k => (c.1 / 12, c.1 % 4, k)
/-- Issued commands of one operation number and tag that satisfy `f` and that their descriptors connect, from `ms` on (R362). -/
def State.collFrom (s : State) (f : Cmd → Bool) (ms : List (Nat × Nat × Cmd)) : Nat → List (Nat × Nat × Cmd)
  | 0 => ms
  | n + 1 =>
    let more := (ms.flatMap fun m => s.collMembers m.2.2 ++ s.collNaming m.1 m.2.1 m.2.2).filter fun m =>
      f m.2.2 && !ms.any fun k => decide (k.1 = m.1 ∧ k.2.1 = m.2.1)
    if more.isEmpty then ms else s.collFrom f (ms ++ more.eraseDups) n
/-- Those that still wait for their partners (R362). -/
def State.collWith (s : State) (ms : List (Nat × Nat × Cmd)) (n : Nat) : List (Nat × Nat × Cmd) := s.collFrom (fun q => q.data.isNone) ms n
/-- The operation ends for some waiting members with a status, and for the partners still to issue (R362). -/
def State.endFor (s : State) (st : Nat) : List (Nat × Nat × Cmd) → State
  | [] => s
  | m :: ms =>
    let s1 := s.setCopy m.1 m.2.1 { m.2.2 with data := some [], status := st }
    let c := s1.ctx m.1 .copy m.2.1
    (s1.setCtx m.1 .copy m.2.1 { c with lapsed := (m.2.2.gtag, m.2.2.con, st) :: c.lapsed }).endFor st ms
/-- The operation of `q` ends for its waiting members with a status (R362). -/
def State.endColl (s : State) (u j st : Nat) (q : Cmd) : State := s.endFor st (s.collWith [(u, j, q)] 1024)
/-- The operation of `q` ends for all its members that are not complete, whatever has landed (R362). -/
def State.abortColl (s : State) (u j : Nat) (q : Cmd) : State := s.endFor 3 (s.collFrom (fun _ => true) [(u, j, q)] 1024)
/-- A port of the package, two on each corner die, passed training (R6, R461). -/
def State.portUp (s : State) (k : Nat) : Bool := !s.badPorts.contains ([0, 3, 8, 11].getD (k % 8 / 2) 0, k % 2)
/-- A member's source bytes: its scratchpad's, or what another package sent, which is free (R362, R461; log 56). -/
def State.collBytes (s : State) (e r B : Nat) (ms : List (Nat × Nat × Cmd)) : List Byte :=
  match s.member e with
  | some (u, j) => match ms.find? fun m => decide (m.1 = u ∧ m.2.1 = j) with
    | some m => s.spBytes u (bits (m.2.2.regs.getD 0 0).toNat 0 21) B
    | none => []
  | none => (List.range B).map fun i => Config.freeByte s.fresh (2 ^ 58 + r * 2 ^ 21 + i)
/-- Every member has issued: the operation moves data. -/
def State.moveColl (s : State) (q : Cmd) (ms : List (Nat × Nat × Cmd)) : State :=
  let z := q.regs.getD 2 0
  let srcs := q.entries.zipIdx.map fun e => s.collBytes e.1 e.2 (collB z) ms
  ms.foldl (fun t m =>
    let rank := q.entries.findIdx fun e => decide (s.member e = some (m.1, m.2.1))
    let r := collResult ((Instr.collKind q.instr).getD .red) (collOp z) (collRoot z) (collB z) srcs rank
    t.setCopy m.1 m.2.1 { m.2.2 with data := some r.1, flags := r.2 }) s
/-- A member has issued: where any member disagrees, or a member's command has formed with others, all that wait complete as a mismatch; once every member has issued, the
operation moves data (R362). Members of other packages take part over ports that have trained, and what they have done is free; a
group that needs another port waits until it times out (R461; log 56). -/
def State.formColl (s : State) (u j : Nat) (q : Cmd) : State :=
  let all := s.collWith [(u, j, q)] 1024
  if all.any fun m => !q.agrees m.2.2 then s.endFor 2 all
  else
    let ms := s.collMembers q
    if ms.any fun m => m.2.2.data.isSome then s.endFor 2 all
    else
    let far := q.entries.filter fun e => decide (memPkg e ≠ 0xFFFF)
    if ms.length + far.length ≠ q.entries.length ∨ (far.any fun e => !s.portUp (Config.portFor (memPkg e))) = true then s
    else if far = [] then s.moveColl q ms
    else match Config.remoteEnds s.fresh % 5 with
      | 0 => s
      | 1 => s.moveColl q ms
      | k => s.endFor k all

/-- A copy command takes its channel (R337): a CFNC widens what its context has landed as it issues (R365). -/
def State.takeChannel (s : State) (d p u j : Nat) (q : Cmd) : State :=
  let n := s.eclk d p .copy
  let wb := match q.wbank with
    | some b => some b
    | none => s.bankFor u q
  let k := (s.ctx u .copy j).tags.getD q.gtag 0 + 1
  let q1 := { q with phase := .issued, enter := n, wbank := wb, con := if q.group = [] then 0 else k, core := p }
  let s0 := s.toFlight u .copy j q1
  let s1 := match q.instr with
    | .cfnc c => s0.widen u c.toNat
    | _ => s0
  let s2 := match Instr.isWprg q.instr, wb with
    | true, some (r, _) => { s1 with regions := s1.regions.put r { (s1.regions.find r).getD {} with popen := true } }
    | _, _ => s1
  let s3 := if q.group = [] then s2
    else
      let c := s2.ctx u .copy j
      let s3 := s2.setCtx u .copy j { c with tags := c.tags.put q.gtag k }
      match s3.collOver q1 with
      | some st => s3.endColl u j st q1
      | none => s3.formColl u j q1
  s3.refresh d p 0
/-- Copy commands in the channels of a core: those its engine issued, wherever their units are now (R111, R337). -/
def State.channels (s : State) (d p : Nat) : Nat :=
  (s.ctxs.map fun (c : Nat × Ctx) => if engineOf c.1 = .copy ∧ (s.unit (c.1 / 12)).place.die = d then
    (c.2.flight.filter fun q => decide (q.core = p)).length else 0).sum
/-- A WPRG of a region that a REMEAS is measuring waits (R466). -/
def State.measured (s : State) (u : Nat) (q : Cmd) : Bool :=
  Instr.isWprg q.instr && (q.wbank.or (s.bankFor u q)).any fun b => s.measuring b.1
/-- One decision of the copy engine of a core (R104, R337). -/
def State.copyIssue (s : State) (d p : Nat) : State :=
  let hs := s.heads d p .copy
  match hs.find? fun h => Instr.isGather h.2.2.2.instr && h.2.2.2.table.isNone with
  | some h => s.readIndex h.1 h.2.1 h.2.2.2
  | none =>
    if 8 ≤ s.channels d p ∨ s.mayChoose d p .copy = false then s
    else match pickRank ((hs.filter fun h => (!Instr.isPub h.2.2.2.instr || s.pubReady h.1 h.2.2.2) && !s.measured h.1 h.2.2.2).map fun h =>
        (s.rank h.1 .copy h.2.1 (h.2.2.2.readyAt.getD 0), h)) with
      | some h => (s.choose d p .copy).takeChannel d p h.1 h.2.1 h.2.2.2
      | none => s

/-- ENGINE_ISSUE (R104, R105, R240, R454): an engine of a core makes its next choice. -/
def execEngineIssue (die core : Nat) (e : Engine) (s : State) : Out :=
  if s.engineOn die core e then
    .next (match e with
      | .matrix => (s.refresh die core 0).matrixIssue die core
      | .vector => (s.refresh die core 0).vectorIssue die core
      | .copy => (s.refresh die core 0).copyIssue die core)
  else .next s

/-! Pieces and completion (R337, R346, R347, R349, R367) -/

/-- The bytes counted for a landing of `n` bytes: on a replay only those beyond the progress record (R347, R349). -/
def Cmd.toCount (q : Cmd) (n : Nat) : Nat :=
  let total := (q.landed.map (·.2)).sum + n
  if q.replay then total - max q.counted ((q.landed.map (·.2)).sum) else n
/-- A piece of `n` bytes of command `q` has landed: LAND rises, its barrier falls with release, and the one that completes it releases what
the others have (R346, R347, R398). -/
def State.landed (s : State) (u j : Nat) (q : Cmd) (piece n : Nat) : State :=
  let k := q.toCount n
  let s1 := s.setCopy u j { q with landed := q.landed.put piece n, counted := q.counted + k }
  match decide (q.kind = 1), q.sync with
  | true, some pa =>
    if k = 0 then s1
    else
      let b := s1.barrier u pa
      let S := max q.scope b.scope
      let s2 := (s1.noteRelease u pa).widen u S
      let s3 := if !b.fin && (b.decrement k).fin then s2.releaseAll pa S else s2
      s3.homeWrite u (min S 5) pa (leBytes (b.decrement k).toNat 16)
  | _, _ => s1
/-- The command stops on a poisoned source with a class F fault (R367). -/
def State.stopPoison (s : State) (u j : Nat) (t : Trap) (q : Cmd) : State :=
  (s.failCmd u .copy j t).completeCmd u .copy j { q with status := 5 }
/-- The issued copy command `cn` of a context: the engine that issued it works on it, which a move does not stop (R111). -/
def State.copyCmd (s : State) (u j cn : Nat) : Option Cmd :=
  (s.ctx u .copy j).flight.find? fun q => decide (q.cn = cn) && ((s.core (s.unit u).place.die q.core).reset.find 2).isNone
/-- The landing of piece number `piece`: its bytes, or the poison of a source line. -/
def State.landPiece (s : State) (u j piece : Nat) (q : Cmd) : State :=
  match q.lineList[piece]? with
  | none => s
  | some ln =>
    let ix := q.dests.zipIdx.filter fun (d : Loc × Nat) => decide (d.1.line = ln)
    let srcs : List Loc := match q.instr with
      | .wvfy _ _ _ _ _ _ => q.moves.map (·.1)
      | _ => ix.filterMap fun (d : Loc × Nat) => (q.moves[d.2]?).map fun (m : Loc × Loc) => m.1
    match srcs.findSome? s.locPoison with
    | some va => s.stopPoison u j ⟨0x12, va⟩ q
    | none =>
      let vs := s.copyBytes u q
      let bs : List (Loc × Byte) := ix.map fun (d : Loc × Nat) => (d.1, vs.getD d.2 0)
      let q1 : Cmd := match q.instr with
        | .wdig _ _ _ _ _ _ => if (s.digestBytes u q).2 then { q with status := 5 } else q
        | _ => q
      let sp : List (Nat × Byte) := bs.filterMap fun (b : Loc × Byte) => match b.1 with
        | .sp a => some (a, b.2)
        | .mem _ _ => none
      let mem : List (Nat × Byte) := bs.filterMap fun (b : Loc × Byte) => match b.1 with
        | .mem _ pa => some (pa, b.2)
        | .sp _ => none
      let s1 : State := (sp.foldl (fun t b => t.spPut u b.1 b.2) s).keepLate u sp
      let s2 := if mem = [] then s1 else s1.engineWrite u q.scope mem
      s2.landed u j q1 piece (bs.map (·.1)).eraseDups.length
/-- COPY_PIECE_LAND (R346): a piece that has not landed lands. A collective with members of other packages that still waits looks at
what they have done (R362, R461). -/
def execCopyPieceLand (u j cn piece : Nat) (s : State) : Out :=
  match s.copyCmd u j cn with
  | some q =>
    if q.landed.find piece = none ∧ Instr.isWprg q.instr = false ∧ (q.group = [] ∨ q.data ≠ none) then .next (s.landPiece u j piece q)
    else if q.group ≠ [] ∧ q.data = none then .next (s.formColl u j q)
    else .next s
  | none => .next s

/-- The rows of the tier that a WPRG writes (R246), and those in usable banks (R251). -/
def State.rowsOfCmd (s : State) (u : Nat) (q : Cmd) : List Nat := ((s.weightAddrs u q).map rowKey).eraseDups
def State.usableRow (s : State) (row : Nat) : Bool := (s.unusable.find (row / 8192)).isNone
/-- All that a command lands has landed. -/
def State.allLanded (s : State) (u : Nat) (q : Cmd) : Bool :=
  if Instr.isWprg q.instr then decide (q.status = 1) || ((s.rowsOfCmd u q).filter s.usableRow).all fun r => (q.landed.find r).isSome
  else (q.group.isEmpty || q.data.isSome) && (List.range q.lineList.length).all fun i => (q.landed.find i).isSome
/-- A tensor is published (R356). -/
def State.publish (s : State) (u scope tn : Nat) : State :=
  let l := s.unitLaunch u
  let t := (l.tensors[tn]?).getD {}
  (s.widen u scope).setLaunch (s.unit u).place.launch { l with tensors := l.tensors.set tn { t with vis := !t.vis, snap := [] } }
/-- The effects of completion: publishing, fences, completion objects (R347, R356, R362, R365, R366). -/
def State.finishCopy (s : State) (u j : Nat) (q : Cmd) : State :=
  let object := fun (t : State) => match q.sync with
    | some pa =>
      if t.counted (ckey u .copy j) pa q then t else (t.countObject u q.scope pa).noteApplied (ckey u .copy j) pa q.cn
    | none => t
  let s1 := match q.instr with
    | .pub _ _ _ _ _ _ => s.publish u q.scope (q.vis.headD (0, false)).1
    | .cred _ _ _ _ _ _ => s.raiseAt u q.flags
    | _ => s
  match q.instr with
  | .csig _ _ => object s1
  | _ => if q.kind = 2 then object s1 else s1
/-- A command that has not reported it is past its promise, in a resident matrix cycle not under hold (R345). -/
def State.pastPromise (s : State) (u : Nat) (q : Cmd) : Bool :=
  match Instr.copyFields q.instr, q.promise with
  | some (_, np, _), some p => decide (np = 0) && decide ((s.unit u).status = .resident)
      && !s.holding (s.unit u).place.die (s.home u) && !q.missed && decide (p < s.tclk u)
  | _, _ => false
/-- The missed-promise trap of command `q`, where it is due (R345). -/
def State.takeMiss (s : State) (u j : Nat) (q : Cmd) : State :=
  if s.pastPromise u q then
    (s.setCtx u .copy j ((s.ctx u .copy j).setCmd { q with missed := true })).event u .copy j ⟨0x81, q.cn⟩
  else s
/-- COPY_COMMAND_COMPLETE (R337, R345, R347, R366): a completion past the promise takes the trap first. -/
def execCopyCommandComplete (u j cn : Nat) (s : State) : Out :=
  match s.copyCmd u j cn with
  | some q =>
    if s.allLanded u q then
      let q0 := { q with missed := q.missed || s.pastPromise u q }
      let q1 := if Instr.isWprg q.instr && (s.rowsOfCmd u q).any fun r => !s.usableRow r then { q0 with status := 1 } else q0
      let s1 := (((s.takeMiss u j q).finishCopy u j q1).touchCmd u 3 q1).completeCmd u .copy j q1
      .next (match q.wbank with
        | some (k, _) => if Instr.isWprg q.instr then s1.closeRegion k else s1
        | none => s1)
    else .next s
  | none => .next s

/-- MISSED_PROMISE (R345): the first time TCLK is past the promise of an incomplete command. -/
def execMissedPromise (u j cn : Nat) (s : State) : Out :=
  match (s.ctx u .copy j).cmd cn with
  | some q => .next (s.takeMiss u j q)
  | none => .next s
/-- COLLECTIVE_TIMEOUT (R91, R362): a member has waited 2^28 copy cycles; one of a unit that is stopping or cancelled waits on as it
drains. -/
def execCollectiveTimeout (u j cn : Nat) (s : State) : Out :=
  match s.copyCmd u j cn with
  | some q =>
    if q.group ≠ [] ∧ q.data = none ∧ (s.unit u).onCore = true ∧
        2 ^ 28 ≤ q.waited + (s.eclk (s.unit u).place.die q.core .copy - q.enter) then
      .next (s.endColl u j 4 q)
    else .next s
  | none => .next s

/-! The Voicer (R246 to R250) -/

/-- Wear of a row, or of the spare that replaces it (R247, R249). -/
def spareKey (bank spare : Nat) : Nat := 2 ^ 40 + bank * 256 + spare
def State.wearKey (s : State) (row : Nat) : Nat :=
  match s.remap.find row with
  | some sp => spareKey (row / 8192) sp
  | none => row
/-- The next unused spare row of a bank (R249). -/
def State.nextSpare (s : State) (bank : Nat) : Nat :=
  ((s.remap.filter fun c => decide (c.1 / 8192 = bank)).map fun c => c.2 + 1).foldl max 0
/-! Remap tables (R234, R249, R251): a copy is its update sequence, its entries in row order and its digest. DESIGN CHOICE,
log 74. -/

/-- An entry: V, SPARE, ROW (R249). -/
def remapWord (row spare : Nat) : Nat := 2 ^ 31 + spare * 2 ^ 13 + row
/-- A copy of a table with sequence `n` and entries `es`. -/
def tableCopy (n : Nat) (es : List Nat) : List Byte :=
  let b := leBytes n 8 ++ es.flatMap fun e => leBytes e 4
  b ++ Sm3.hash b
def copyBody (c : List Byte) : List Byte := c.take (c.length - 32)
/-- The digest of a copy holds: it is not bad (R251). -/
def copyGood (c : List Byte) : Bool := decide (40 ≤ c.length) && decide (c.length % 4 = 0) && decide (c.drop (c.length - 32) = Sm3.hash (copyBody c))
/-- The rows and spares of a copy's entries in use. -/
def copyRows (c : List Byte) : List (Nat × Nat) :=
  (List.range ((c.length - 40) / 4)).filterMap fun i =>
    let e := leAt c (8 + 4 * i) 4
    if bits e 31 1 = 1 then some (bits e 0 13, bits e 13 8) else none
/-- The copies of a bank's table. -/
def State.copiesOf (s : State) (bank : Nat) : List (List Byte) := s.rtabs.getD bank (List.replicate 3 (tableCopy 0 []))
/-- The rows of a bank that spares replace. -/
def State.bankRows (s : State) (bank : Nat) : List (Nat × Nat) :=
  (s.remap.filter fun c => decide (c.1 / 8192 = bank)).map fun c => (c.1 % 8192, c.2)
/-- The Voicer writes the three copies of a bank's table with the next sequence (R249). -/
def State.writeTable (s : State) (bank : Nat) : State :=
  let n := leAt ((s.copiesOf bank).headD []) 0 8 + 1
  let c := tableCopy n ((s.bankRows bank).map fun e => remapWord e.1 e.2)
  { s with rtabs := s.rtabs.put bank (List.replicate 3 c), rdigest := s.rdigest.put bank (Sm3.hash (copyBody c)) }
/-- Every row of every bank of a region (R248). -/
def Region.rows (r : Region) (die : Nat) : List Nat :=
  ((List.range r.groups).flatMap fun g => (if r.pair then [false, true] else [false]).flatMap fun b =>
    ((List.range (cdiv r.tileLen 512)).map fun i => rowKey (r.addr die (r.homeOf g) b false (512 * i)))
      ++ (List.range (cdiv r.scaleLen 64)).map fun i => rowKey (r.addr die (r.homeOf g) b true (64 * i))).eraseDups
/-- Regions with a row that satisfies `f` are damaged (R247, R251). -/
def State.damageRows (s : State) (f : Nat → Bool) : State :=
  { s with regions := s.regions.map fun (c : Nat × Region) =>
      if (c.2.rows (c.1 / 2 ^ 64)).any f then (c.1, { c.2 with dmg := true, rewritten := [] }) else c }
/-- The Drone checks the copies of a bank's table: two good ones that agree are used, and any other is written from them; else
the bank is unusable and its regions are damaged (R251). -/
def State.checkBank (s : State) (bank : Nat) : State :=
  let good := (s.copiesOf bank).filter copyGood
  match good.find? fun c => decide (2 ≤ (good.filter fun k => decide (k = c)).length) with
  | some c =>
    { s with
      rtabs := s.rtabs.put bank (List.replicate 3 c), rdigest := s.rdigest.put bank (Sm3.hash (copyBody c)), unusable := s.unusable.del bank
      remap := (copyRows c).foldl (fun m e => NMap.put m (bank * 8192 + e.1) e.2) (s.remap.filter fun k => decide (k.1 / 8192 ≠ bank)) }
  | none => ({ s with unusable := s.unusable.put bank true } : State).damageRows fun row => decide (row / 8192 = bank)
/-- Remap(row), where the bank has a spare left (R247, R249): the copies of the table are written, and checked (R251). -/
def State.remapRow (s : State) (row : Nat) : Option State :=
  let sp := s.nextSpare (row / 8192)
  if 164 ≤ sp then none
  else some ((({ s with remap := s.remap.put row sp } : State).writeTable (row / 8192)).checkBank (row / 8192))
/-- Write-and-check of a row that takes `passes` pulses in all: the state, and whether the row was completed (R247). -/
def State.programRow (s : State) (row : Nat) : Nat → Nat → State × Bool
  | 0, _ => (s, false)
  | n + 1, passes =>
    let worn := decide (9 * 10 ^ 9 ≤ s.wear.getD (s.wearKey row) 0)
    match if worn then s.remapRow row else some s with
    | none => (s, false)
    | some s1 =>
      let k := s1.wearKey row
      let s2 := { s1 with wear := s1.wear.put k (s1.wear.getD k 0 + min 8 passes) }
      if passes ≤ 8 then (s2, true)
      else match s2.remapRow row with
        | none => (s2, false)
        | some s3 => s3.programRow row n (passes - 8)
/-- A row of a damaged region has been rewritten: the last one ends the damage, unless a bank is unusable (R248, R251). -/
def State.rewriteRow (s : State) (die k row : Nat) : State :=
  match s.regions.find k with
  | none => s
  | some r =>
    if r.dmg = false then s
    else
      let done := row :: r.rewritten
      let all := r.rows die
      let r1 := if all.all fun x => done.contains x && s.usableRow x then { r with dmg := false, rewritten := [] }
        else { r with rewritten := done.eraseDups }
      { s with regions := s.regions.put k r1 }
/-- The region is marked damaged (R247, R248, R251). -/
def State.damage (s : State) (k : Nat) : State :=
  match s.regions.find k with
  | some r => { s with regions := s.regions.put k { r with dmg := true, rewritten := [] } }
  | none => s
/-- Cells written in the tier; codewords written whole are good again (R246). -/
def State.putCells (s : State) (l : List (Nat × Byte)) : State :=
  { s with
    wt := l.foldl (fun m c => NMap.putD 0 m c.1 c.2) s.wt
    wpoison := s.wpoison.filter fun w => !(List.range 64).all fun i => l.any fun c => decide (c.1 = w.1 * 64 + i) }
/-- VOICER_ROW_PROGRAM (R245 to R248, R367): a row of a WPRG is merged and written in `passes` pulses, once its bank is
released. -/
def execVoicerRowProgram (u j cn : Nat) (row : Nat) (passes : Nat) (s : State) : Out :=
  match s.copyCmd u j cn with
  | some q => match q.wbank with
    | some (k, bank) =>
      let r := (s.regions.find k).getD {}
      let as := ((s.weightAddrs u q).zip (q.moves.map (·.1))).filter fun x => decide (rowKey x.1 = row)
      if Instr.isWprg q.instr = false ∨ as = [] ∨ (q.landed.find row).isSome = true ∨ q.status ≠ 0 ∨ passes = 0 ∨ s.usableRow row = false
          ∨ (r.pair = true ∧ (r.pending ≠ [] ∨ s.bankReaders k bank = true)) then .next s
      else match as.findSome? fun x => s.locPoison x.2 with
        | some va => .next ((s.stopPoison u j ⟨0x12, va⟩ q).closeRegion k)
        | none => match s.wpoison.find? fun w => decide (rowKey (w.1 * 64) = row) && !as.any fun x => decide (x.1 / 64 = w.1) with
          | some w => .next ((s.stopPoison u j ⟨0x0F, w.1 * 64⟩ q).closeRegion k)
          | none =>
            let n := s.programRow row 166 passes
            if n.2 then
              let s1 := (n.1.putCells (as.map fun x => (x.1, s.locRead u x.2))).rewriteRow (s.unit u).place.die k row
              .next (s1.landed u j q row as.length)
            else .next ((n.1.damage k).setCopy u j { q with status := 1 })
    | none => .next s
  | none => .next s
/-- A bank is idle: no command in the array of any core reads it (R249, R250). -/
def State.bankIdle (s : State) (bank : Nat) : Bool :=
  !s.ctxs.any fun c => c.2.flight.any fun q => decide (q.phase = .issued) && q.reads.any fun x =>
    match s.regions.find x.1 with
    | some r => (List.range r.groups).any fun g => [false, true].any fun sc =>
        (List.range (cdiv (if sc then r.scaleLen else r.tileLen) 64)).any fun i =>
          decide (bankKey (r.addr (x.1 / 2 ^ 64) (r.homeOf g) x.2 sc (64 * i)) = bank)
    | none => false
end Sys2Proof.Machine
end

