-- ==== Sys2Proof/Machine/Frame.lean ====
section
/-! DEFINITION. The context frame, the images and the vector save record of a unit, as they are written and read (R450 to R453). -/
namespace Sys2Proof.Machine
open Sys2Proof

/-! The context frame and the save area (R450 to R452) -/

/-- `n` bytes of an image whose fields are listed with ascending offsets; what is not listed is zero. -/
def layout : Nat → Nat → List (Nat × List Byte) → List Byte
  | at_, n, [] => List.replicate (n - at_) 0
  | at_, n, (o, bs) :: fs => List.replicate (o - at_) 0 ++ bs ++ layout (o + bs.length) n fs
def xBytes (v : X) : List Byte := leBytes v.toNat 8
/-- A word of flags, bit `i` for the `i`-th. -/
def bitWord (l : List Bool) : Nat := (l.zipIdx.map fun p => if p.1 then 2 ^ p.2 else 0).sum
def Loop.bytes (l : Loop) : List Byte := xBytes l.top ++ xBytes l.fin ++ leBytes l.n 4 ++ leBytes l.lc.toNat 4
/-- The repeat state in the layout of XSW bits 21:0 (R445). -/
def repBytes (r : Option Rep) : List Byte := leBytes (xswOf r 0 0).toNat 8
def VStatus.code : VStatus → Nat
  | .running => 0
  | .waiting _ _ => 1
  | .parked => 2
  | .halted => 3
/-- Cycles counted toward a sync stall, of a voice that does not issue (R115). -/
def Voice.syncCount (v : Voice) : Nat :=
  match v.status with
  | .waiting .sync c => c - v.stall
  | _ => 0
/-- A voice block (R451). -/
def Voice.block (v : Voice) : List Byte :=
  layout 0 1024 [
    (0, (List.range 64).flatMap fun r => xBytes (v.st.getX (BitVec.ofNat 6 r))),
    (0x200, leBytes (bitWord ((List.range 128).map fun p => v.st.getP (BitVec.ofNat 7 p))) 16),
    (0x210, xBytes v.st.pc ++ xBytes v.xpc ++ xBytes v.xsw ++ xBytes v.xcause ++ xBytes v.xinfo ++ leBytes v.status.code 1),
    (0x23C, leBytes v.syncCount 4 ++ v.st.l0.bytes ++ v.st.l1.bytes ++ v.st.l2.bytes
      ++ leBytes (bitWord [v.st.l0.act, v.st.l1.act, v.st.l2.act] + 16 * bitWord [v.s0.act, v.s1.act, v.s2.act]) 8
      ++ v.s0.bytes ++ v.s1.bytes ++ v.s2.bytes ++ repBytes v.st.rep
      ++ leBytes (match v.watch with
        | none => 0
        | some w => w.line * 128 + 1 + (if w.fired then 2 else 0)) 8)]
def CtxStatus.code : CtxStatus → Nat
  | .idle => 0
  | .running => 1
  | .draining => 2
/-- A context block (R451). -/
def Ctx.block (c : Ctx) : List Byte :=
  layout 0 1024 [
    (0, (List.range 32).flatMap fun r => xBytes (c.st.getX (BitVec.ofNat 6 r))),
    (0x100, leBytes (bitWord ((List.range 16).map fun p => c.st.getP (BitVec.ofNat 7 p))) 2 ++ leBytes c.status.code 1),
    (0x104, leBytes c.st.fmsel.toNat 1 ++ leBytes (if c.hold.isSome then 1 else 0) 1 ++ leBytes (c.hold.getD 0) 2 ++ xBytes c.st.pc
      ++ c.st.l0.bytes ++ c.st.l1.bytes ++ c.st.l2.bytes ++ leBytes (bitWord [c.st.l0.act, c.st.l1.act, c.st.l2.act]) 8
      ++ leBytes c.nextCn 8 ++ leBytes c.done 8
      ++ leBytes (bitWord ((List.range 64).map fun i => (c.set.find (c.done + 1 + i)).isSome)) 8 ++ repBytes c.st.rep
      ++ leBytes c.queue.length 1),
    (0x200, ((c.queue.take 16).flatMap fun q => leBytes q.cn 8 ++ leBytes q.word.toNat 4 ++ leBytes (if q.armed then 1 else 0) 4))]
/-- The state of the frame of a unit stopped for class S cause `cause` (R451): 2 where it is stopped for a move. -/
def frameState (cause : Nat) (moved : Bool) : Nat := if moved ∨ cause = 0x43 ∨ cause = 0x45 then 2 else 1
/-- The context frame of a unit (R451). -/
def State.frame (s : State) (u fstate cause : Nat) : List Byte :=
  let t := s.unit u
  let vs := (List.range 4).map fun j => if j < t.place.voices then s.voice u j else {}
  layout 0 65536 ([
    (0, leBytes 1 2 ++ leBytes fstate 1 ++ leBytes cause 1),
    (8, leBytes (t.place.stage * 65536 + t.place.inst) 8 ++ leBytes (t.place.core * 4 + t.place.slot0) 8 ++ leBytes t.tclk 8
      ++ leBytes (s.dcc t.place.die) 8
      ++ leBytes (bitWord (vs.map fun v => decide (v.status = .parked)) + 16 * bitWord (vs.map fun v => decide (v.status = .halted))) 1
      ++ leBytes (bitWord (vs.map fun v => v.hmode)) 1 ++ leBytes (max t.regrant t.pgnt.toNat) 1 ++ leBytes t.place.sbase 1
      ++ ((List.range 4).flatMap fun k => leBytes (t.clkd.getD k 0) 1)
      ++ leBytes ((t.place.slots.zipIdx.map fun z => z.1 * 16 ^ z.2).sum) 8
      ++ leBytes (match t.yreq with
        | none => 0
        | some (c, D) => c + D / 4 * 4) 8)]
    ++ (vs.zipIdx.map fun v => (0x100 + 0x400 * v.2, v.1.block))
    ++ (engines.flatMap fun e => (List.range 4).map fun j => (0x1100 + 0x400 * (4 * e.code + j), (s.ctx u e j).block))
    ++ [(0x4100, (List.range 64).flatMap fun k => leBytes (t.ftab.getD k 0).toNat 4),
      (0x4200, (List.range 256).flatMap fun k => leBytes (t.tstab.getD k 0x3F800000).toNat 4),
      (0x4600, xBytes t.fpfl ++ xBytes t.xhnd ++ leBytes t.wthr.toNat 4 ++ leBytes t.stsc.toNat 2 ++ leBytes t.mhl.toNat 2),
      (0x4618, match t.breath with
        | none => leBytes 0 16
        | some b => leBytes b.onset 8 ++ leBytes b.len 4 ++ leBytes b.int 4),
      (0x4628, leBytes (match t.guard with
        | none => 0
        | some g => 2 ^ 63 + g.info) 8 ++ leBytes t.events.length 1 ++ leBytes t.drop 1),
      (0x4700, (t.events.take 32).flatMap fun e => xBytes e.1 ++ xBytes e.2),
      (0x4900, leBytes t.vsh.toNat 4),
      (0x4A00, (List.range 8).flatMap fun m => leBytes (s.mask u (BitVec.ofNat 5 m)).toNat 128)])
/-- The device-private record of a scratchpad unit of a core (R452). -/
def State.recordAt (s : State) (d p k : Nat) : Nat := d * 2 ^ 48 + (s.die d).fitted - Config.privateBytes + 2 ^ 17 * (32 * p + k)
/-- The scratchpad image of a unit as it is stored, guard granules included (R450). -/
def State.spImage (s : State) (u : Nat) : List Byte :=
  let p := (s.unit u).place
  (List.range (65536 * p.sunits)).map fun i =>
    let k := spKey p.die (s.home u) (p.lo + i)
    (s.sp.find k).getD (Config.freeByte s.fresh (2 ^ 60 + k))
/-- The image of a slot: 61,440 bytes, LAN, DSC (R261, R450). -/
def State.slotImage (s : State) (u z : Nat) : List Byte :=
  let k := s.slotKey u z
  ((List.range 96).flatMap fun r => (List.range 160).flatMap fun c => leBytes (s.accWord k r c).toNat 4)
    ++ leBytes ((s.lanOf k).cn % 2 ^ 62 + (s.lanOf k).ctx % 4 * 2 ^ 62) 8 ++ leBytes (s.dscOf k).toNat 4
/-- A stop of cause `cause` writes images (R450). -/
def TeamUnit.images (t : TeamUnit) (cause : Nat) : Bool :=
  decide (cause = 0x42) || decide (cause = 0x43) || decide (cause = 0x45) || t.moved
/-- What step 5 of R449 writes for a stop of cause `cause`: the frame, the images of R450, the vector save record of R452. -/
def State.saveBytes (s : State) (u cause : Nat) : List (Nat × Byte) :=
  let p := (s.unit u).place
  let a := s.saveArea u
  let imgs := if (s.unit u).images cause = true then
      s.placeVa u (a + 65536) (s.spImage u)
        ++ ((List.range p.slots.length).flatMap fun z => s.placeVa u (a + 65536 * (1 + p.sunits + z)) (s.slotImage u z))
    else []
  s.placeVa u a (s.frame u (frameState cause (s.unit u).moved) cause) ++ imgs
    ++ (((List.range 32).flatMap fun r => (List.range 4096).map fun k => s.tileByte u r k).zipIdx.map fun b =>
      (s.recordAt p.die (s.home u) p.sbase + b.2, b.1))

/-! Reading the frame again (R453 step 2) -/

/-- `n` bytes at a VA of the unit's job as the device reads them, none where a page no longer translates. -/
def State.readVa (s : State) (u va n : Nat) : Option (List Byte) :=
  let p := (s.unit u).place
  ((List.range (cdiv n 4096)).mapM fun k =>
    match s.walk p.die p.job (va + 4096 * k) with
    | .ok l => if l.ww then none else some (s.seenBytes (.die p.die) (s.unitKey u) l.pa (min 4096 (n - 4096 * k)))
    | .error _ => none).map List.flatten
def xAt (b : List Byte) (o : Nat) : X := BitVec.ofNat 64 (leAt b o 8)
/-- A loop level of a block at byte `o`, its ACT bit apart. -/
def loopAt (b : List Byte) (o act : Nat) : Loop :=
  { act := decide (act % 2 = 1), top := xAt b o, fin := xAt b (o + 8), n := leAt b (o + 16) 4, lc := BitVec.ofNat 32 (leAt b (o + 20) 4) }
/-- A stream's x and p registers: `nx` from the start of a block, `np` bits from byte `op`. -/
def Stream.loadRegs (st : Stream) (b : List Byte) (nx np op : Nat) : Stream :=
  let s1 := (List.range nx).foldl (fun (t : Stream) r => t.setX (BitVec.ofNat 6 r) (xAt b (8 * r))) st
  (List.range np).foldl (fun (t : Stream) k => t.setP (BitVec.ofNat 7 k) (decide (bits (leAt b op 16) k 1 = 1))) s1
/-- A voice as its block says (R451): its registers, PC, trap registers, loops and repeat state, and whether it is parked or halted. -/
def Voice.load (v : Voice) (b : List Byte) (hmode : Bool) : Voice :=
  let act := leAt b 0x288 1
  let status := match leAt b 0x238 1 with
    | 2 => VStatus.parked
    | 3 => VStatus.halted
    | _ => if v.status.off then VStatus.running else v.status
  { v with
    st := { v.st.loadRegs b 64 128 0x200 with
      pc := xAt b 0x210, rep := xswRep (xAt b 0x2D8)
      l0 := loopAt b 0x240 act, l1 := loopAt b 0x258 (act / 2), l2 := loopAt b 0x270 (act / 4) }
    status := status, hmode := hmode, xpc := xAt b 0x218, xsw := xAt b 0x220, xcause := xAt b 0x228, xinfo := xAt b 0x230
    s0 := loopAt b 0x290 (act / 16), s1 := loopAt b 0x2A8 (act / 32), s2 := loopAt b 0x2C0 (act / 64) }
/-- A context's registers, PC, loops, repeat state and pending MHOLD as its block says (R451). -/
def Ctx.load (c : Ctx) (b : List Byte) : Ctx :=
  let act := leAt b 0x158 1
  { c with
    st := { c.st.loadRegs b 32 16 0x100 with
      pc := xAt b 0x108, rep := xswRep (xAt b 0x178), fmsel := BitVec.ofNat 8 (leAt b 0x104 1)
      l0 := loopAt b 0x110 act, l1 := loopAt b 0x128 (act / 2), l2 := loopAt b 0x140 (act / 4) }
    hold := if leAt b 0x105 1 = 0 then none else some (leAt b 0x106 2) }
/-- A team's registers and tables as its frame says, with the flags its copies have raised since (R111, R451). -/
def TeamUnit.load (t : TeamUnit) (b : List Byte) : TeamUnit :=
  { t with
    recent := []
    tclk := leAt b 0x18 8
    ftab := (List.range 64).foldl (fun (m : NMap Word) k => m.putD 0 k (BitVec.ofNat 32 (leAt b (0x4100 + 4 * k) 4))) []
    tstab := (List.range 256).foldl (fun (m : NMap (BitVec 32)) k => m.putD 0x3F800000 k (BitVec.ofNat 32 (leAt b (0x4200 + 4 * k) 4))) []
    fpfl := xAt b 0x4600 ||| t.gained, xhnd := xAt b 0x4608, wthr := BitVec.ofNat 32 (leAt b 0x4610 4)
    stsc := BitVec.ofNat 3 (leAt b 0x4614 1), mhl := BitVec.ofNat 11 (leAt b 0x4616 2), vsh := BitVec.ofNat 32 (leAt b 0x4900 4) }
/-- Tile registers as the vector save record holds them (R452). -/
def State.loadTiles (s : State) (u : Nat) : State :=
  let p := (s.unit u).place
  let lo := tileKey u 0 0
  let pa := s.recordAt p.die (s.home u) p.sbase
  { s with tiles := s.tiles.filter (fun c => decide (c.1 < lo))
      ++ (s.seenBytes (.die p.die) (s.unitKey u) pa (2 ^ 17)).zipIdx.map (fun b => (lo + b.2, b.1))
      ++ s.tiles.filter fun c => decide (lo + 2 ^ 17 ≤ c.1) }
/-- Values of a map in `n` keys from `lo` give way to `l`, which lists keys of that range in rising order. -/
def NMap.replace {α : Type} (m : NMap α) (lo n : Nat) (l : List (Nat × α)) : NMap α :=
  m.filter (fun c => decide (c.1 < lo)) ++ l ++ m.filter fun c => decide (lo + n ≤ c.1)
/-- The scratchpad image of a unit is read back; what has reached its scratchpad since stands (R111, R450). -/
def State.loadSp (s : State) (u : Nat) : State :=
  let p := (s.unit u).place
  let lo := spKey p.die (s.home u) p.lo
  let n := 65536 * p.sunits
  match s.readVa u (s.saveArea u + 65536) n with
  | none => s
  | some b =>
    let m := NMap.replace s.sp lo n (b.zipIdx.map fun x => (lo + x.2, x.1))
    { s with sp := (s.unit u).spLate.foldl (fun a x => NMap.put a (spKey p.die (s.home u) x.1) x.2) m }
/-- Slot image `z` of a unit is read back: words, LAN and DSC (R120, R289, R450). -/
def State.loadSlot (s : State) (u z : Nat) : State :=
  let p := (s.unit u).place
  let k := s.slotKey u z
  match s.readVa u (s.saveArea u + 65536 * (1 + p.sunits + z)) 61452 with
  | none => s
  | some b =>
    let lan := leAt b 61440 8
    let old := s.lanOf k
    { s with
      acc := NMap.replace s.acc (accKey k 0 0) (96 * 160) ((List.range (96 * 160)).map fun i => (accKey k 0 0 + i, BitVec.ofNat 32 (leAt b (4 * i) 4)))
      lan := s.lan.put k ⟨lan / 2 ^ 62, lan % 2 ^ 62, if old.ctx % 4 = lan / 2 ^ 62 ∧ old.cn % 2 ^ 62 = lan % 2 ^ 62 then old.entry else 0⟩
      dsc := s.dsc.put k (BitVec.ofNat 32 (leAt b 61448 4)) }
/-- The images of a unit are read back where its last stop wrote them: on another core than then, or where its storage is found
disturbed, which the model leaves free (R450, R453 step 2; log 25). -/
def State.loadImages (s : State) (u : Nat) : State :=
  match (s.unit u).imaged with
  | none => s
  | some p =>
    if p ≠ s.home u ∨ Config.storageDisturbed s.fresh = true then
      (List.range (s.unit u).place.slots.length).foldl (fun t z => t.loadSlot u z) (s.loadSp u)
    else s
/-- The frame and the vector save record of a unit are read (R453 step 2). What can change while the unit is away (its queues,
completions, watch, events, requests and grant) the device keeps (log 25). -/
def State.loadFrame (s : State) (u : Nat) : State :=
  match s.readVa u (s.saveArea u) 65536 with
  | none => s
  | some b =>
    let block := fun o => (b.drop o).take 1024
    let s1 := (s.setUnit u ((s.unit u).load b)).loadTiles u
    let s2 := (List.range (s.unit u).place.voices).foldl (fun (t : State) j =>
      t.setVoice u j ((t.voice u j).load (block (0x100 + 0x400 * j)) (decide (bits (leAt b 0x29 1) j 1 = 1)))) s1
    let s3 := engines.foldl (fun (t : State) e => (List.range 4).foldl (fun (t : State) j =>
      if (t.ctxs.find (ckey u e j)).isSome then t.setCtx u e j ((t.ctx u e j).load (block (0x1100 + 0x400 * (4 * e.code + j)))) else t) t) s2
    (List.range 8).foldl (fun (t : State) m =>
      { t with masks := t.masks.put (maskKey u m) (BitVec.ofNat 1024 (leAt b (0x4A00 + 128 * m) 128)) }) s3

end Sys2Proof.Machine
end

