-- ==== Sys2Proof/Machine/Placement.lean ====
section
/-! DEFINITION. The die work scheduler (04): choosing a core, creating a unit, starts, samples, yield requests, migration. -/
namespace Sys2Proof.Machine
open Sys2Proof

/-! What a core has free (R32, R87, R95 to R98) -/

/-- Live units of a logical core. -/
def State.holders (s : State) (d l : Nat) : List (Nat × TeamUnit) :=
  s.units.filter fun c => c.2.live && decide (c.2.place.die = d) && decide (c.2.place.core = l)
/-- The unit holds its voice slots: one that was suspended does not, until it starts again (R449). -/
def TeamUnit.seated (t : TeamUnit) : Bool := t.live && !t.away
def Place.voiceSlots (p : Place) : List Nat := List.range' p.slot0 p.voices
def State.slotsUsed (s : State) (d l : Nat) : List Nat :=
  ((s.holders d l).filter fun c => c.2.seated).flatMap fun c => c.2.place.voiceSlots
def State.slotsFree (s : State) (d l : Nat) : List Nat := (List.range 4).filter fun k => !(s.slotsUsed d l).contains k
/-- The scratchpad unit is free. -/
def State.suFree (s : State) (d l k : Nat) : Bool :=
  !(s.holders d l).any fun c => decide (c.2.place.sbase ≤ k) && decide (k < c.2.place.sbase + c.2.place.sunits)
/-- Runs of free units among `ks`, first unit and length, in address order. -/
def freeRuns : List Nat → List (Nat × Nat)
  | [] => []
  | k :: ks => match freeRuns ks with
    | (a, n) :: rs => if a = k + 1 then (k, n + 1) :: rs else (k, 1) :: (a, n) :: rs
    | [] => [(k, 1)]
def State.runs (s : State) (d l : Nat) : List (Nat × Nat) := freeRuns ((List.range 32).filter fun k => s.suFree d l k)
def State.longest (s : State) (d l : Nat) : Nat := ((s.runs d l).map (·.2)).foldl max 0
/-- Free physical accumulator slots, ascending (R98, R438). -/
def State.accFree (s : State) (d l : Nat) : List Nat :=
  (List.range 16).filter fun z => !((s.holders d l).any fun c => c.2.place.slots.contains z) && !(s.core d (s.phys d l)).badSlots.contains z

/-- Voices of a team size code (R32). -/
def teamVoices (code : Nat) : Nat := 2 ^ code
/-- The first voice slot a team takes (R96). -/
def State.seat (s : State) (d l voices : Nat) : Option Nat :=
  let free := s.slotsFree d l
  match voices with
  | 1 =>
    let paired := free.filter fun k => !free.contains (if k % 2 = 0 then k + 1 else k - 1)
    if paired.isEmpty then free.getLast? else paired.getLast?
  | 2 => if free.contains 2 && free.contains 3 then some 2 else if free.contains 0 && free.contains 1 then some 0 else none
  | _ => if free.length = 4 then some 0 else none
/-- The smallest free run of `n` units, the lowest among equals (R97). -/
def State.run (s : State) (d l n : Nat) : Option Nat :=
  let rs := (s.runs d l).filter fun r => decide (n ≤ r.2)
  ((rs.find? fun r => rs.all fun q => decide (r.2 ≤ q.2))).map (·.1)
/-- The core is a candidate for a unit of a stage (R95); one told to move its units and go offline is none. DESIGN CHOICE, log 94. -/
def State.candidate (s : State) (d l : Nat) (g : Stage) : Bool :=
  let c := s.core d (s.phys d l)
  decide (c.ths ≤ 1) && c.mig.isNone && !c.leaving && (s.seat d l (teamVoices g.team)).isSome && (s.run d l g.scr).isSome
    && decide (g.acc ≤ (s.accFree d l).length)
/-- The affinity bits of R95, first binding first. -/
def State.affinity (s : State) (d job l : Nat) (g : Stage) : List Nat :=
  (g.bind.filter fun b => bits b 14 2 = 3).map fun b =>
    match s.tableRegion d job (bits b 0 12) with
    | some (_, e, r) => if e.die = d ∧ (r.groupAt (s.phys d l)).isSome = true then 0 else 1
    | none => 1
/-- The key of R95. -/
def State.placeKey (s : State) (d job l : Nat) (g : Stage) : List Nat :=
  s.affinity d job l g ++ [s.longest d l - g.scr, (s.slotsFree d l).length - teamVoices g.team,
    (s.accFree d l).length - g.acc, (s.core d (s.phys d l)).ths, l]
/-- Keys compare field by field. -/
def lexLe : List Nat → List Nat → Bool
  | [], _ => true
  | _ :: _, [] => false
  | a :: as, b :: bs => decide (a < b) || (decide (a = b) && lexLe as bs)
/-- The core a unit is placed on (R95). -/
def State.chooseCore (s : State) (d job : Nat) (g : Stage) : Option Nat :=
  let cs := ((List.range Config.cores).filter fun l => s.candidate d l g).map fun l => (s.placeKey d job l g, l)
  (cs.find? fun a => cs.all fun b => lexLe a.1 b.1).map (·.2)

/-! Creating a unit (R23, R46, R94 to R98, R450) -/

/-- The lowest free save slot of a stage (R450). -/
def State.saveSlot (s : State) (lid stg : Nat) : Nat :=
  let used := (s.stageUnits lid stg).map fun c => c.2.place.save
  ((List.range (used.length + 1)).find? fun k => !used.contains k).getD 0
/-- A new unit's storage: scratchpad and accumulator words unspecified, LAN 0, DSC 1.0 (R18, R120, R289). -/
def State.freshStorage (s : State) (p : Place) : State :=
  let c := s.phys p.die p.core
  let lo := spKey p.die c p.lo
  let slots := p.slots.map fun z => pkey p.die c * 16 + z
  { s with
    sp := s.sp.filter fun x => !(decide (lo ≤ x.1) && decide (x.1 < lo + 65536 * p.sunits))
    acc := s.acc.filter fun x => !slots.contains (x.1 / (96 * 160))
    lan := s.lan.filter fun x => !slots.contains x.1
    dsc := s.dsc.filter fun x => !slots.contains x.1 }
/-- Registers of voice 0 at the start of a unit (R46). -/
def startRegs (param unitid umax : Nat) : NMap X :=
  NMap.putD 0 (NMap.putD 0 (NMap.putD 0 [] 1 (BitVec.ofNat 64 param)) 2 (BitVec.ofNat 64 unitid)) 3 (BitVec.ofNat 64 umax)
/-- A unit of a stage is created and placed; none where no core is a candidate or instances are used up (R23, R94, R99). -/
def State.createUnit (s : State) (lid stg fails : Nat) : Option State :=
  let l := s.launch lid
  match l.stages[stg]? with
  | none => none
  | some g =>
    if 65535 < g.next then none
    else match s.chooseCore l.die l.job g with
      | none => none
      | some c =>
        let v := teamVoices g.team
        let u := s.nextUnit
        let p : Place := { die := l.die, core := c, slot0 := (s.seat l.die c v).getD 0, voices := v, launch := lid, stage := stg,
                           inst := g.next, job := l.job, sbase := (s.run l.die c g.scr).getD 0, sunits := g.scr, guards := g.guard % 4 + 1,
                           jent := 64 * 2 ^ (g.jrn % 4), slots := (s.accFree l.die c).take g.acc, save := s.saveSlot lid stg }
        let t : TeamUnit := { place := p, status := .placed, prio := l.prio, fails := fails, ready := some s.order
                              ftab := (g.fmt.zipIdx.foldl (fun (m : NMap Word) e => m.putD 0 e.2 e.1) []) }
        let pc := BitVec.ofNat 64 (g.image + g.entry)
        let s1 := (s.freshStorage p).setLaunch lid { l with stages := l.stages.set stg { g with next := g.next + 1 } }
        let s2 := ({ s1 with nextUnit := u + 1, order := s.order + 1 } : State).setUnit u t
        some ((List.range v).foldl (fun x j => x.setVoice u j
          (if j = 0 then { st := { x := startRegs l.param (stg * 65536 + g.next) g.umax, pc := pc }, status := .running }
           else { st := { pc := pc } })) (s2.markFrame u 0))
/-- `n` units of a stage, one after another. -/
def State.createUnits (s : State) (lid stg : Nat) : Nat → Option State
  | 0 => some s
  | n + 1 => match s.createUnit lid stg 0 with
    | some s1 => s1.createUnits lid stg n
    | none => none
/-- UMIN units of each stage, in stage order (R46, R94). -/
def State.createAll (s : State) (lid : Nat) : Option State :=
  ((s.launch lid).stages.zipIdx).foldlM (fun t p => t.createUnits lid p.2 p.1.umin) s

/-! Active phases (R84) -/

def State.phaseActive (s : State) (d job phase : Nat) : Bool :=
  match (s.die d).current with
  | none => true
  | some x => x.pairs.contains (job, phase)
def State.unitActive (s : State) (u : Nat) : Bool :=
  s.phaseActive (s.unit u).place.die (s.unit u).place.job (s.unitLaunch u).phase

/-! What freed resources allow (R23, R99, R102, R458) -/

/-- A failure past RETRY: recorded first, then under POLICY 0 the launch's other units are cancelled and it fails, under POLICY 1
it goes on (R458). The unit that failed is over. -/
def State.failPast (s : State) (lid cause unitid : Nat) : State :=
  let l := s.launch lid
  let s1 := (s.noteAbove l (Counter.blame cause unitid)).setLaunch lid
    { l with count := { Counter.blame cause unitid l.count with fails := l.count.fails + 1 } }
  if l.policy = 0 then
    let s2 := s1.setLaunch lid { s1.launch lid with
      failed := true, retries := [], stages := l.stages.map fun g => { g with pend := false }
      count := { (s1.launch lid).count with out := l.count.out - 1 - l.retries.length } }
    (s2.launchUnits lid).foldl (fun t k => t.cancelUnit k) s2
  else s1.outDown lid
/-- A retry of a failed unit is made; it waits for a core; or, where its stage has no number left, its failure counts as past
RETRY (R23, R99, R458). -/
def State.retryOne (s : State) (lid : Nat) (r : Retry) : State :=
  let l := s.launch lid
  if l.runs = false then s
  else match l.stages[r.stage]? with
    | none => s
    | some g =>
      if 65535 < g.next then
        let c := { l.count with retries := if r.counted then l.count.retries - 1 else l.count.retries }
        (s.setLaunch lid { l with count := c }).failPast lid r.cause r.unitid
      else match s.createUnit lid r.stage r.fails with
        | some t => t
        | none => s.setLaunch lid { l with retries := l.retries ++ [r] }
/-- Every retry of a launch that waits is made if it can be, the one that has waited longest first (R99). -/
def State.tryRetries (s : State) (lid : Nat) : State :=
  ((s.launch lid).retries.foldl (fun t r => t.retryOne lid r) (s.setLaunch lid { s.launch lid with retries := [] })).serveAll lid
/-- A stage grows by a unit, which its launch's OUT counts; none where no core is a candidate (R89, R102). -/
def State.growUnit (s : State) (lid k : Nat) : Option State :=
  if (s.launch lid).runs = false then none
  else (s.createUnit lid k 0).map fun t =>
    t.setLaunch lid { t.launch lid with count := { (t.launch lid).count with out := (t.launch lid).count.out + 1 } }
/-- Pending creations of a launch are made, if they can be (R102). -/
def State.tryGrow (s : State) (lid : Nat) : State :=
  (List.range (s.launch lid).stages.length).foldl (fun t k =>
    match (t.launch lid).stages[k]? with
    | some g => if g.pend then
        match t.growUnit lid k with
        | some t1 =>
          let l := t1.launch lid
          t1.setLaunch lid { l with stages := l.stages.set k { (l.stages[k]?).getD {} with pend := false } }
        | none => t
      else t
    | none => t) s
/-- Resources of a die were freed: retries and pending creations that waited for them are tried. -/
def State.freed (s : State) (d : Nat) : State :=
  let ls := s.launchesWhere fun l => decide (l.die = d) && l.runs
  ls.foldl (fun t l => (t.tryRetries l).tryGrow l) s

/-! Thermal migration (R108 to R111) -/

/-- A cause 2 request reaches a unit: a pending request with an earlier deadline stays (R106). -/
def State.askYield (s : State) (u cause D : Nat) : State :=
  match (s.unit u).yreq with
  | some (_, D') => if D < D' then s.setUnit u { s.unit u with yreq := some (cause, D) } else s
  | none => s.setUnit u { s.unit u with yreq := some (cause, D) }
/-- A request of a cause is removed (R106). -/
def State.dropYield (s : State) (u cause : Nat) : State :=
  match (s.unit u).yreq with
  | some (c, _) => if c = cause then s.setUnit u { s.unit u with yreq := none } else s
  | none => s
/-- The target of a move from logical core `l` (R108): every live unit placed there bars a core, a suspended one too. DESIGN CHOICE,
log 94. -/
def State.target (s : State) (d l : Nat) : Option Nat :=
  (List.range Config.cores).find? fun k =>
    let q := s.phys d k
    (s.holders d k).isEmpty && decide ((s.core d q).ths = 0) && (s.core d q).mig.isNone && !(s.core d q).vbr
      && decide (q / 12 ≠ s.phys d l / 12)
def State.logical (s : State) (d p : Nat) : Nat := ((List.range Config.cores).find? fun l => decide (s.phys d l = p)).getD p
def State.setMig (s : State) (d l : Nat) (m : Option Nat) : State :=
  s.setCore d (s.phys d l) { s.core d (s.phys d l) with mig := m }
/-- A core that asked to migrate takes a target, where there is one (R108). One that no unit holds takes none: DESIGN CHOICE,
log 105. -/
def State.tryMigrate (s : State) (d l : Nat) : State :=
  let p := s.phys d l
  let c := s.core d p
  if (c.ths = 2 ∨ c.leaving = true) ∧ c.mig = none ∧ c.noMove ≤ s.dcc d ∧ (s.holders d l).isEmpty = false then
    match s.target d l with
    | none => s
    | some k =>
      let D := s.dcc d + 2400000
      let s1 := (s.setCore d p { c with mig := some k, moveBy := D }).setMig d k (some l)
      (s.holders d l).foldl (fun t u => t.askYield u.1 2 D) s1
  else s
/-- The unit counts as stopped for a migration, with nothing left to drain (R109). One that has never started does, and may start
before the move. DESIGN CHOICE, log 94. -/
def TeamUnit.still (t : TeamUnit) : Bool :=
  match t.status with
  | .suspended _ => t.moved || t.stores.isEmpty
  | .placed => true
  | .ended => true
  | _ => false
/-- The unit has stopped for a migration, at its boundary, and may drain yet (R109). -/
def TeamUnit.halted (t : TeamUnit) : Bool :=
  t.still || match t.status with
    | .stopping _ => t.moved
    | _ => false
/-- The values of a map in a range of keys. -/
def inRange {α : Type} (lo n : Nat) (c : Nat × α) : Bool := decide (lo ≤ c.1) && decide (c.1 < lo + n)
/-- Values of a map whose key lies in a range move by `dst - lo`, in place of what stood there. -/
def moveRange {α : Type} (m : NMap α) (lo n dst : Nat) : NMap α :=
  (m.filter (inRange lo n)).foldl (fun a c => NMap.put a (c.1 - lo + dst) c.2)
    (m.filter fun c => !inRange lo n c && !inRange dst n c)
/-- The slots a command claims, on the core its unit moves to. -/
def Claim.move (d p q : Nat) (a : Claim) : Claim :=
  if a.space = 1 ∧ a.lo / 16 = pkey d p then { a with lo := pkey d q * 16 + a.lo % 16 } else a
/-- A unit's scratchpad allocation and accumulator slots move from physical core `p` to `q` (R110 step 2). -/
def State.moveUnit (s : State) (d p q : Nat) (t : Place) : State :=
  let s1 := { s with sp := moveRange s.sp (spKey d p t.lo) (65536 * t.sunits) (spKey d q t.lo) }
  t.slots.foldl (fun x z =>
    let a := pkey d p * 16 + z
    let b := pkey d q * 16 + z
    { x with
      acc := moveRange x.acc (accKey a 0 0) (96 * 160) (accKey b 0 0)
      lan := moveRange x.lan a 1 b
      dsc := moveRange x.dsc a 1 b }) s1
def addCounter (x : Die) (k : Nat) : Die := { x with counters := x.counters.put k (x.counters.getD k 0 + 1) }
def State.bump (s : State) (d k : Nat) : State := s.setDie d (addCounter (s.die d) k)
/-- Units made ready in the order in which they stopped (R110 step 5). -/
def insertStop (a : Nat × Nat) : List (Nat × Nat) → List (Nat × Nat)
  | [] => [a]
  | b :: t => if a.1 ≤ b.1 then a :: b :: t else b :: insertStop a t
def State.makeReady (s : State) (u : Nat) : State :=
  if (s.unit u).ready.isSome then s
  else ({ s with order := s.order + 1 } : State).setUnit u { s.unit u with ready := some s.order }
/-- A unit that has yielded to a slice may start again: that slice has begun, and the current one has its phase (R85, R107). -/
def State.sleptOut (s : State) (u : Nat) : Bool :=
  (s.unit u).slept.all fun D => ((s.die (s.unit u).place.die).current.any fun x => decide (D ≤ x.start)) && s.unitActive u
/-- Units stopped for a move start again, in the order in which they stopped; one still stopping starts once it has, and one that
has yielded to a slice waits for a slice that has its phase (R85, R107, R109, R110). -/
def State.releaseMoved (s : State) (us : List (Nat × TeamUnit)) (ok : TeamUnit → Bool) : State :=
  let l := ((us.filter fun c => ok c.2).map fun c => (c.2.stopped, c.1)).foldl (fun a x => insertStop x a) []
  l.foldl (fun t x =>
    let t1 := t.setUnit x.2 { t.unit x.2 with moved := false }
    if t.sleptOut x.2 then t1.makeReady x.2 else t1) s
/-- A core that has become empty may be a target: cores that asked to migrate choose again (R108). One that is to go offline
does so (R438). -/
def State.vacated (s : State) (d l : Nat) : State :=
  if (s.holders d l).isEmpty then
    let c := s.core d (s.phys d l)
    let s1 := if c.leaving ∧ c.mig = none then (s.setCore d (s.phys d l) { c with ths := 3, leaving := false }).bump d 4 else s
    (List.range Config.cores).foldl (fun t k => t.tryMigrate d k) s1
  else s
/-- A team that moves returns a grant of its old zone, and asks again in the new one (R421, R425). -/
def State.leaveZone (s : State) (u : Nat) : State :=
  let t := s.unit u
  if t.pgnt = 0 then s else s.setUnit u { t.grant 0 with regrant := t.pgnt.toNat }
/-- The requests of the units `us` leave a zone's queue (R425). -/
def State.dropAsks (s : State) (d z : Nat) (us : List Nat) : State :=
  let x := s.zones.getD (d * 8 + z) {}
  { s with zones := s.zones.put (d * 8 + z) { x with asks := x.asks.filter fun a => !us.contains a.1 } }
/-- The units of logical core `l` move to logical core `k`'s physical core, and the map exchanges (R110 steps 1 to 5). -/
def State.moveCore (s : State) (d l k : Nat) : State :=
  let p := s.phys d l
  let q := s.phys d k
  let us := s.holders d l
  let s1 := us.foldl (fun t c => t.moveUnit d p q c.2.place) s
  let s2 := us.foldl (fun t c =>
    ({ t with mem := moveRange t.mem (t.recordAt d p c.2.place.sbase) (2 ^ 17) (t.recordAt d q c.2.place.sbase)
              lineKey := moveRange t.lineKey (t.recordAt d p c.2.place.sbase / 128) 1024 (t.recordAt d q c.2.place.sbase / 128) })) s1
  let claims := fun (c : Cmd) => { c with claims := c.claims.map (Claim.move d p q) }
  let s2 := { s2 with ctxs := s2.ctxs.map fun (c : Nat × Ctx) =>
    if (us.any fun u => decide (u.1 = c.1 / 12)) then
      (c.1, { c.2 with queue := c.2.queue.map claims, flight := c.2.flight.map claims }) else c }
  let s3 := s2.setDie d { s2.die d with phys := ((s2.die d).phys.put l q).put k p }
  let s4 := (s3.setCore d p { s3.core d p with mig := none, leaving := false, moveBy := 0 }).setCore d q { s3.core d q with mig := none, moveBy := 0 }
  let s5 := (us.foldl (fun t c => (t.dropYield c.1 2).leaveZone c.1) s4).dropAsks d (p / 12) (us.map (·.1))
  (s5.releaseMoved us fun t => t.moved || decide (t.status = .suspended 0x45)).bump d 2
/-- Every unit of a core that migrates has stopped and drained: retired units count as stopped (R109). -/
def State.allStill (s : State) (d l : Nat) : Bool := (s.holders d l).all fun u => u.2.still
/-- Every unit of a core that migrates has stopped (R109). -/
def State.allHalted (s : State) (d l : Nat) : Bool := (s.holders d l).all fun u => u.2.halted
/-- MIGRATION_MOVE (R108 to R110): every unit on the hot logical core has stopped; its core is empty afterwards. -/
def execMigrationMove (die core : Nat) (s : State) : Out :=
  let c := s.core die (s.phys die core)
  match c.mig with
  | some k =>
    if c.moveBy = 0 ∨ s.allStill die core = false then .next s
    else
      let s1 := s.moveCore die core k
      -- a core whose storage is lasting-faulty goes offline once its units have left (R438)
      let s2 := if c.leaving then
        (s1.setCore die (s.phys die core) { s1.core die (s.phys die core) with ths := 3 }).bump die 4 else s1
      .next ((s2.vacated die k).freed die)
  | none => .next s
/-- The attempt to move logical core `l` is given up; no new one begins before DCC `again` (R109). -/
def State.dropMove (s : State) (d l again : Nat) : State :=
  let c := s.core d (s.phys d l)
  match c.mig with
  | some k =>
    let us := s.holders d l
    let s1 := (s.setMig d k none).setCore d (s.phys d l) { c with mig := none, moveBy := 0, noMove := again }
    let s2 := us.foldl (fun t u => t.dropYield u.1 2) s1
    ((s2.releaseMoved us fun t => t.moved).bump d 3).freed d
  | none => s
/-- The attempt to move logical core `l` is given up where its deadline has come with a unit that has not stopped (R109). -/
def State.giveUpMove (s : State) (d l : Nat) : State :=
  let c := s.core d (s.phys d l)
  if c.mig = none ∨ c.moveBy = 0 ∨ s.dcc d < c.moveBy ∨ s.allHalted d l = true then s
  else s.dropMove d l (s.dcc d + 24000000)
/-- MIGRATION_ABANDON (R109): the deadline passes with a unit that has not stopped. -/
def execMigrationAbandon (die core : Nat) (s : State) : Out := .next (s.giveUpMove die core)
/-- OFFLINE_MOVE (R431): the stopped units of an offline core move, once there is a target. -/
def execOfflineMove (die core : Nat) (s : State) : Out :=
  let us := s.holders die core
  if (s.core die (s.phys die core)).ths ≠ 3 ∨ us.isEmpty ∨ us.any (fun u => match u.2.status with
      | .suspended _ => false
      | .placed => false
      | _ => true) = true then .next s
  else match s.target die core with
    | some k => .next (((s.moveCore die core k).vacated die k).freed die)
    | none => .next s

/-! Starts (R100, R427, R453) -/

/-- A breath window of intensity 12 or more is open in the zone of a core (R427). -/
def State.zoneBreath (s : State) (d z : Nat) : Bool :=
  s.units.any fun c => decide (c.2.place.die = d) && decide (s.home c.1 / 12 = z) && decide (c.2.status = .resident) && s.breathing c.1
    && match c.2.breath with
      | some b => decide (12 ≤ b.int)
      | none => false
/-- The unit waits for its turn to start: made ready, its phase active, its slots free, and no move of it in its way (R100, R109,
R453). -/
def State.startable (s : State) (u : Nat) : Bool :=
  let t := s.unit u
  let p := t.place
  let c := s.core p.die (s.home u)
  t.ready.isSome && s.unitActive u && decide (c.ths ≠ 3) && match t.status with
    | .placed => true
    | .suspended _ => (p.voiceSlots.all fun k => (s.slotsFree p.die p.core).contains k) && !t.moved
        && (c.mig.isNone || !t.stores.isEmpty)
    | _ => false
/-- The divisors that the unit's requests ask of its core are in effect (R422). -/
def State.divsMet (s : State) (u : Nat) : Bool :=
  let d := (s.unit u).place.die
  (List.range 4).all fun k => decide (s.wantDiv d (s.home u) k = ((s.unitCore u).clk k).div)
/-- Commands of a unit's queues in their entry order. -/
def insertEntry (a : Nat × Nat) : List (Nat × Nat) → List (Nat × Nat)
  | [] => [a]
  | b :: t => if a.1 ≤ b.1 then a :: b :: t else b :: insertEntry a t
def State.entryOrder (s : State) (u : Nat) : List Nat :=
  (((s.ctxList u).flatMap fun c => c.queue.map fun q => (q.entry, q.entry)).foldl (fun l a => insertEntry a l) []).map (·.1)
def rankIn (l : List Nat) (e : Nat) : Nat := (l.zipIdx.find? fun p => decide (p.1 = e)).elim 0 (·.2)
/-- Saved queue entries follow every command entered on the core, in their relative order; readiness and boost begin anew, and a
consort command that was armed waits on from here (R105, R268, R453 step 3). -/
def State.reenter (s : State) (u : Nat) : State :=
  let l := s.entryOrder u
  let d := (s.unit u).place.die
  let now := s.free d (s.home u)
  let again := fun (q : Cmd) =>
    { q with entry := s.dcc d * 2 ^ 16 + 16 + rankIn l q.entry, readyAt := none, armedAt := if q.armed then now else q.armedAt }
  { s with ctxs := s.ctxs.map fun (c : Nat × Ctx) =>
    if c.1 / 12 = u then (c.1, { c.2 with queue := c.2.queue.map again, issuedAt := 0, boost := 0, since := none, gap := 0 }) else c }
/-- A voice as its unit starts at control cycle `now`: a waiting instruction that completed while the unit was away has completed,
and a wait that goes on counts from the cycles it had (R117, R394). -/
def Voice.restart (v : Voice) (now : Nat) : Voice :=
  match v.won with
  | some (d, x) => v.complete d x
  | none => match v.status with
    | .waiting w e => { v with status := .waiting w (now - e) }
    | _ => v
/-- The unit starts, or starts again once its frame and images have been read: its voice 0 issues next, in this cycle (R100,
R453). -/
def State.startUnit (s0 : State) (u : Nat) : State :=
  let s := if (s0.unit u).away then (s0.loadFrame u).loadImages u else s0
  let t := s.unit u
  let d := t.place.die
  let p := s.home u
  let s1 := s.reenter u
  let now := s.unitCyc u
  let s2 := { s1 with
    voices := s1.voices.map fun (v : Nat × Voice) => if v.1 / 4 = u then (v.1, v.2.restart now) else v
    zones := s1.zones.put (zkey d p) { s1.zoneOf d p with started := some (s.dcc d) } }
  ((({ s2 with agenda := .stream (.voice u 0) :: s2.agenda }).setUnit u { t with
    status := .resident, started := true, away := false, slept := none, page := none, gained := 0, spLate := [], imaged := none, asserted := false, ready := none, tbase := s.free d p }).refreshUnit u 0).noteClocks d p
/-- An event that voice `j` of a suspended unit awaits has occurred (R117, R394, R401, R403, R411). -/
def State.woken (s : State) (u j : Nat) : Bool :=
  match (s.voice u j).status with
  | .running => true
  | .waiting (.barrier pa g) _ => (s.barrier u pa).fin || decide ((s.barrier u pa).gen ≠ g)
  | .waiting (.mwait due) _ => (match (s.voice u j).watch with
      | some w => w.fired
      | none => true) || (match due with
      | some D => decide (D ≤ s.dcc (s.unit u).place.die)
      | none => false)
  | .waiting .sync _ => (List.range (s.unit u).place.voices).all fun k => (s.voice u k).status.off
      || (match (s.voice u k).status with
        | .waiting .sync _ => decide ((s.voice u k).st.pc = (s.voice u j).st.pc)
        | _ => false)
  | .waiting (.rdv m) _ =>
    if m = 8 then s.arrived u
    else (engines.filter fun e => bits m e.code 1 = 1).all fun e => s.ctxHere u (s.ctx u e j)
  | _ => false
/-- A swapped-out unit one of whose awaited events has occurred joins the starts (R117). -/
def State.wakeSwapped (s : State) (u : Nat) : State :=
  match (s.unit u).status with
  | .suspended 0x41 => if (List.range (s.unit u).place.voices).any fun j => s.woken u j then s.makeReady u else s
  | _ => s
/-- The earliest deadline that a voice of a unit waits for, 0 where another event has woken it. -/
def State.wakeTime (s : State) (u : Nat) : Nat :=
  ((List.range (s.unit u).place.voices).filterMap fun j => match (s.voice u j).status with
    | .waiting (.mwait (some D)) _ => if s.woken u j then some D else none
    | _ => if s.woken u j then some 0 else none).foldl min (2 ^ 64)
/-- The swapped-out units of a die whose events have occurred join the starts, in the order of those events; events of one
reference cycle count in unit order (R100, R117; log 86). -/
def State.wakeAll (s : State) (d : Nat) : State :=
  let us := (s.units.filter fun c => decide (c.2.place.die = d) && decide (c.2.status = .suspended 0x41) && c.2.ready.isNone).map fun c =>
    (s.wakeTime c.1, c.1)
  (us.foldl (fun a x => insertStop x a) []).foldl (fun t x => t.wakeSwapped x.2) s
/-- The unit has the next start of its zone: of those that wait for their turn there it was made ready first (R100); that one whose
core is held, or whose grant or divisors are not there yet, keeps its turn: DESIGN CHOICE, log 94. -/
def State.firstOfZone (s : State) (u : Nat) : Bool :=
  s.units.all fun c => !(decide (c.2.place.die = (s.unit u).place.die) && decide (s.home c.1 / 12 = s.home u / 12)
    && s.startable c.1 && decide (c.2.ready.getD 0 < (s.unit u).ready.getD 0))
/-- UNIT_START (R100, R453): at its turn in its zone a unit's grant and divisors are requested, and once they are in effect, and its
core is not held (R240), it starts. -/
def execUnitStart (u : Nat) (s0 : State) : Out :=
  let s := s0.wakeAll (s0.unit u).place.die
  let t := s.unit u
  let d := t.place.die
  let p := s.home u
  let z := s.zoneOf d p
  if (s.units.find u).isNone = true ∨ s.startable u = false ∨ s.firstOfZone u = false then .next s
  else if t.regrant ≠ 0 then
    if z.asks.any fun a => decide (a.1 = u) then .next s
    else .next { s with zones := s.zones.put (zkey d p) { z with asks := z.asks ++ [(u, 4, t.regrant)] } }
  else if s.divsMet u = false ∨ (t.asserted = false ∧ t.clkd ≠ []) then
    .next ((s.setUnit u { t with asserted := true }).noteClocks d p)
  else
    -- the gap is counted in control cycles of the core that starts next: DESIGN CHOICE, log 94
    let gap := if s.zoneBreath d (p / 12) then 256 else 64
    let early : Bool := match z.started with
      | some c => decide (s.ccyc d p < (s.core d p).ctl.now c + gap)
      | none => false
    .next (if early = true ∨ s.holding d p = true then s else s.startUnit u)

/-! Samples (R101 to R103) -/

inductive Sample where
  | high | low | neutral
deriving DecidableEq, Repr

/-- The class of a sample of a stage's input queue (R101). -/
def State.classify (s : State) (lid : Nat) (g : Stage) : Sample :=
  let q := s.queue lid g.inq
  if s.queueOpen lid g.inq = false then .neutral
  else if g.hwm < q.items.length ∨ q.pushers ≠ [] then .high
  else if q.items.length < g.lwm then .low
  else .neutral
def State.setStage (s : State) (lid k : Nat) (g : Stage) : State :=
  s.setLaunch lid { s.launch lid with stages := (s.launch lid).stages.set k g }
/-- The stage grows by a unit, or its creation is pending (R102). -/
def State.grow (s : State) (lid k : Nat) : State :=
  match s.growUnit lid k with
  | some s1 => s1
  | none => match (s.launch lid).stages[k]? with
    | some g => if g.next ≤ 65535 then s.setStage lid k { g with pend := true } else s
    | none => s
/-- A unit is withdrawn: its waiting pops of the input queue complete so (R103, R408, R409). -/
def State.withdraw (s : State) (lid u q : Nat) : State :=
  let x := s.queue lid q
  let mine := x.poppers.filter fun w => decide (w.unit = u)
  let s1 := (s.setUnit u { s.unit u with withdrawn := true }).setQueue lid q { x with poppers := x.poppers.filter fun w => decide (w.unit ≠ u) }
  mine.foldl (fun t w => t.finishWait w.unit w.voice w.d 2) s1
/-- Units of a stage that wait in a pop of its input queue and are not withdrawn: the one to withdraw has waited longest, and has
the highest instance number among equals (R103). -/
def State.idlest (s : State) (lid stg q : Nat) : Option Nat :=
  let ws := (s.queue lid q).poppers.filter fun w => decide ((s.unit w.unit).place.stage = stg) && !(s.unit w.unit).withdrawn
  (ws.find? fun w => ws.all fun k => decide (w.since < k.since) ||
    (decide (w.since = k.since) && decide ((s.unit k.unit).place.inst ≤ (s.unit w.unit).place.inst))).map (·.unit)
/-- DWS_SAMPLE (R101 to R103), every 1,024 reference cycles after admission. -/
def execDwsSample (lid stg : Nat) (s : State) : Out :=
  let l := s.launch lid
  match l.stages[stg]? with
  | none => .next s
  | some g =>
    if l.runs = false ∨ g.inq = 0xFF
        ∨ s.dcc l.die < l.began + 1024 * (g.samples + 1) then .next s
    else
      let c := s.classify lid g
      let g1 := { g with samples := g.samples + 1 }
      match c with
      | .neutral => .next ((s.setStage lid stg { g1 with hi := 0, lo := 0, pend := false }).serveAll lid)
      | .high =>
        let s1 := s.setStage lid stg { g1 with hi := g.hi + 1, lo := 0 }
        let n := (s1.stageUnits lid stg).length + (if g.pend then 1 else 0)
        if g.dwell ≤ g.hi + 1 ∧ n < g.umax then .next ((s1.setStage lid stg { g1 with hi := 0, lo := 0 }).grow lid stg)
        else .next (s1.tryGrow lid)
      | .low =>
        let g2 := { g1 with hi := 0, lo := g.lo + 1, pend := false }
        let s1 := s.setStage lid stg g2
        let staying := (s1.stageUnits lid stg).filter fun u => !u.2.withdrawn
        match s1.idlest lid stg g.inq with
        | some u =>
          if g.dwell ≤ g.lo + 1 ∧ g.umin < staying.length then
            .next (((s1.setStage lid stg { g2 with lo := 0 }).withdraw lid u g.inq).serveAll lid)
          else .next (s1.serveAll lid)
        | none => .next (s1.serveAll lid)

/-- YIELD_REQUEST_POST (R106): 240,000 cycles before the start of the next slice, where it leaves the unit's phase inactive. -/
def execYieldRequestPost (u : Nat) (s : State) : Out :=
  let d := (s.unit u).place.die
  match (s.die d).slices with
  | x :: _ =>
    if (s.unit u).live = true ∧ (s.units.find u).isSome = true ∧ x.start ≤ s.dcc d + 240000
        ∧ x.pairs.contains ((s.unit u).place.job, (s.unitLaunch u).phase) = false then .next (s.askYield u 1 x.start)
    else .next s
  | [] => .next s

end Sys2Proof.Machine
end

