-- ==== Sys2Proof/Machine/Traps.lean ====
section
/-! DEFINITION. Saving, failing and ending units, and the events of waiting voices (R115, R117, R416, R440 to R453, R458,
R459). -/
namespace Sys2Proof.Machine
open Sys2Proof

/-! Saving a unit (R449) -/

/-- The issued commands that the stop waits for have completed (R449 step 4); a unit that moves leaves its copies running
(R111). -/
def State.stopDrained (s : State) (u cause : Nat) : Bool :=
  (List.range 4).all fun j => (s.ctx u .matrix j).flight.isEmpty && (s.ctx u .vector j).flight.isEmpty
    && (decide (cause = 0x43) || (s.unit u).moved || (s.ctx u .copy j).flight.isEmpty)
/-- CONTEXT_SAVE (R449 step 5): after the drain the save area is written, the grant returned, MPREF pins released and the
voice slots freed. The bytes' addresses differ: the highest goes first, which a list kept by address takes quickest. -/
def execContextSave (u : Nat) (s : State) : Out :=
  match (s.unit u).status with
  | .stopping cause =>
    if s.stopDrained u cause then
      let s1 := s.landSys (s.unitKey u) (s.saveBytes u cause).reverse
      let t := s1.unit u
      let back := (decide (cause = 0x43) && (s1.unitCore u).mig.isNone) || (decide (cause = 0x42) && s1.unitActive u)
      let t1 : TeamUnit := { t.grant 0 with
        status := .suspended cause, dstop := s.dcc t.place.die
        regrant := if t.pgnt = 0 then t.regrant else t.pgnt.toNat
        yreq := match t.yreq with
          | some (1, D) => if cause = 0x42 then none else some (1, D)
          | y => y
        moved := t.moved && !back, away := true
        gained := 0, spLate := [], imaged := if t.images cause then some (s.home u) else none }
      let s2 := { s1 with
        ctxs := s1.ctxs.map fun (c : Nat × Ctx) => if c.1 / 12 = u then (c.1, { c.2 with pref := [] }) else c }
      let s3 := (s2.setUnit u t1).noteClocks t.place.die (s.home u)
      .next ((if back then s3.makeReady u else s3).freed t.place.die)
    else .next s
  | _ => .next s

/-! Waits that end or last too long (R115, R117, R402, R403, R446) -/

/-- The voices of unit `u` that wait at a sync bundle, with the cycles counted. -/
def State.syncWaits (s : State) (u : Nat) : List (Nat × Nat) :=
  (List.range (s.unit u).place.voices).filterMap fun j => match (s.voice u j).status with
    | .waiting .sync c => some (j, s.unitCyc u - c - (s.voice u j).stall)
    | _ => none
/-- SYNC_STALL (R115). -/
def execSyncStall (u : Nat) (s : State) : Out :=
  match s.syncWaits u with
  | [] => .next s
  | (j, n) :: ws =>
    if (s.unit u).status = .resident ∧ (((j, n) :: ws).any fun w => decide (2 ^ 20 ≤ w.2)) = true then
      .next (s.failUnit u j (some (s.voice u j).st.pc) (causeWord 0x04 0 none j)
        (BitVec.ofNat 64 ((((j, n) :: ws).map fun w => 2 ^ w.1).sum)))
    else .next s
/-- Cycles for which voice `j` of a unit has waited, none where it does not wait: the event it awaits has not occurred (R116, R117). -/
def State.waitedFor (s : State) (u j : Nat) : Option Nat :=
  match (s.voice u j).status with
  | .waiting _ c => if s.woken u j then none else some (s.unitCyc u - c)
  | _ => none
/-- SWAP_OUT (R117): every voice that is not parked waits, the earliest for WTHR cycles. -/
def execSwapOut (u : Nat) (s : State) : Out :=
  let vs := (List.range (s.unit u).place.voices).filter fun j => !(s.voice u j).status.off
  let lasted := vs.filterMap (s.waitedFor u)
  if (s.unit u).status = .resident ∧ vs ≠ [] ∧ lasted.length = vs.length ∧ (lasted.any fun n => decide ((s.unit u).wthr.toNat ≤ n)) = true
  then .next (s.stopUnit u 0x41 (lasted.foldl max 0)) else .next s
/-- MWAIT_DEADLINE (R403): DCC has reached the deadline of a waiting MWAIT, whose voice runs again and finds it passed; a
swapped-out team is restored for it. -/
def execMwaitDeadline (u j : Nat) (s : State) : Out :=
  let v := s.voice u j
  match v.status with
  | .waiting (.mwait (some D)) _ =>
    if D ≤ s.dcc (s.unit u).place.die then
      let s1 := s.wakeAll (s.unit u).place.die
      .next ((s1.setVoice u j { v with status := .running }).wakeSwapped u)
    else .next s
  | _ => .next s

/-- The lowest voice that may take an engine event (R446). -/
def State.taker (s : State) (u : Nat) : Option Nat :=
  (List.range (s.unit u).place.voices).find? fun k =>
    !(s.voice u k).hmode && match (s.voice u k).status with
      | .running => true
      | .waiting _ _ => true
      | _ => false
/-- The head engine event is delivered to voice `j` (R446). -/
def State.deliver (s : State) (u j : Nat) : State :=
  match (s.unit u).events with
  | [] => s
  | (c, x) :: es =>
    let s1 := s.setUnit u { s.unit u with events := es, evAt := (s.unit u).evAt.drop 1 }
    if s.handler u = 0 then s1.failUnit u j (some (s.voice u j).st.pc) (c &&& ~~~0x300) x
    else s1.enterHandler u j c x
/-- The control cycle in progress began after the head engine event entered its queue (R446). -/
def State.eventDue (s : State) (u : Nat) : Bool :=
  !(s.unit u).events.isEmpty && match (s.unit u).evAt with
    | [] => true
    | t :: _ => decide (t < (s.unitCore u).ctl.start (s.dcc (s.unit u).place.die))
/-- ENGINE_EVENT_DELIVERY (R446): before the taker's next bundle. -/
def execEngineEventDelivery (u : Nat) (s : State) : Out :=
  match (s.unit u).status, s.taker u with
  | .resident, some j =>
    .next (if s.eventDue u && decide ((s.voice u j).nextAt ≤ s.dcc (s.unit u).place.die) then s.deliver u j else s)
  | _, _ => .next s

/-- DATA_ARRIVAL (R186): the data of a load reach their register, and a voice stalled on it goes on. -/
def execDataArrival (u j r : Nat) (s : State) : Out :=
  .next (s.setVoice u j { s.voice u j with busy := (s.voice u j).busy.filter fun k => decide (k ≠ r) })
/-- UPDATE_LINE_MERGE (R194, R383): the model merges each AMO at its home as it is performed, so no line is left to merge. -/
def execUpdateLineMerge (_ : Nat) (s : State) : Out := .next s

/-! Ends (R91, R416, R436, R458) -/

/-- Another voice of the team may issue yet in the control cycle in progress. -/
def State.othersYet (s : State) (u j : Nat) : Bool :=
  (List.range (s.unit u).place.voices).any fun k => decide (k ≠ j) && !(s.voice u k).status.off
    && decide ((s.voice u k).nextAt ≤ s.dcc (s.unit u).place.die)
/-- RETIRE (R416): its control cycle is fixed as it issues; the other voices issue up to the end of it, and of several that retire
in it the first ends the unit. -/
def execRetire (_ : BitVec 1) (s : State) : Out :=
  let u := s.selUnit
  match if (s.unit u).retireAt.isSome then none else s.owed with
  | some t => .next (s.report t)
  | none =>
    let s0 := if (s.unit u).retireAt.isSome then s else s.setUnit u { s.unit u with retireAt := some (s.selVoice, s.cycleEnd) }
    let s1 := s0.stopOthers u s.selVoice
    if (s.unit u).retireAt.any fun r => decide (r.1 ≠ s.selVoice) then .next (s.waitOn (.rdv 8))
    else if (s.unit u).retireAt.isNone ∧ s.othersYet u s.selVoice = true then .next (s0.waitOn (.rdv 8))
    else if s1.arrived u then
      match s1.closeSpan 4 with
      | .error t => .next (s.raiseTrap t)
      | .ok s2 => .next ((((s2.endUnit u).outDown (s.unit u).place.launch).freed (s.unit u).place.die).vacated (s.unit u).place.die
          (s.unit u).place.core)
    else .next (s1.waitOn (.rdv 8))
/-- UNIT_FAIL (R458): a unit of class F stops; once its issued commands have completed its version is discarded, it is over,
and its retry is made or its failure counted. Queues answer their waiting pops after that (R29). -/
def execUnitFail (u : Nat) (s : State) : Out :=
  let t := s.unit u
  if t.status ≠ .failing then .next s
  else
    let s1 := (s.dropVersion u).killAll u
    if s1.drained u = false then .next s1
    else
      let lid := t.place.launch
      let l := s.launch lid
      let g := s.unitStage u
      let s2 := (s1.setUnit u { s1.unit u with events := [], evAt := [] }).releaseUnit u
      let d := t.place.die
      let cause := (t.fault.getD 0).toNat
      let unitid := t.place.stage * 65536 + t.place.inst
      let s3 : State :=
        if l.runs = false then s2.outLess lid 1
        else if t.charged ∧ g.next ≤ 65535 then s2.retryOne lid ⟨t.place.stage, t.fails, cause, unitid, false⟩
        else if t.fails < l.retry ∧ g.next ≤ 65535 then
          (s2.setLaunch lid { s2.launch lid with count := { (s2.launch lid).count with retries := l.count.retries + 1 } }).retryOne lid
            ⟨t.place.stage, t.fails + 1, cause, unitid, true⟩
        else s2.failPast lid cause unitid
      .next (((s3.serveAll lid).freed d).vacated d t.place.core)
/-- CANCEL_COMPLETE (R90, R91, R458): every unit of a cancelled or failed launch has stopped. -/
def execCancelComplete (lid : Nat) (s : State) : Out :=
  let l := s.launch lid
  let us := s.launchUnits lid
  if l.count.isOpen = false ∨ (l.count.cancel = false ∧ l.failed = false)
      ∨ us.all (fun u => decide ((s.unit u).status = .cancelling) && s.drained u) = false then .next s
  else
    let s1 := (us.foldl (fun t u => t.releaseUnit u) s).outLess lid us.length
    let s2 := (s1.closeLaunch lid (if l.failed then .failed else .cancelled)).freed l.die
    .next (us.foldl (fun t u => t.vacated l.die (s.unit u).place.core) s2)
/-- COMPLETION_REPORT (R459). -/
def execCompletionReport (lid : Nat) (s : State) : Out := .next (s.reportLaunch lid)

end Sys2Proof.Machine
end

