-- ==== Sys2Proof/Machine/Power.lean ====
section
/-! DEFINITION. Power, clocks, heat and soft errors (17). Temperatures are in tenths of a degree. -/
namespace Sys2Proof.Machine
open Sys2Proof

def State.zone (s : State) (d z : Nat) : Zone := s.zones.getD (d * 8 + z) {}
def State.setZone (s : State) (d z : Nat) (x : Zone) : State := { s with zones := s.zones.put (d * 8 + z) x }
/-- The physical cores of a zone (R100). -/
def zoneCores (z : Nat) : List Nat := List.range' (12 * z) 12

/-! Valves (R432, R433) -/

/-- SETV: a zone's valve is sent an opening (R432). -/
def State.setValve (s : State) (d z v : Nat) : State :=
  if s.form = .p12w48 then s
  else { s.setZone d z { s.zone d z with opening := v, sent := some (s.dcc d), sends := 1, asked := false } with
    valves := s.valves ++ [⟨d, z, 1, v⟩] }
/-- GETS: a zone's valve, which owes no answer, is asked for its state where Bellows chooses to (R432; log 96). -/
def State.askValve (s : State) (d z : Nat) : State :=
  if s.form = .p12w48 ∨ (s.zone d z).sent.isSome = true then s
  else if Config.asksState (s.fresh * 8 + z) then
    { s.setZone d z { s.zone d z with sent := some (s.dcc d), sends := 1, asked := true } with valves := s.valves ++ [⟨d, z, 3, 0⟩] }
  else s
/-- SETPMP: Bellows of die 0 sets the pump to the largest speed a die asks for (R432). -/
def State.setPump (s : State) : State :=
  if s.form = .p12w48 then s
  else
  let v := if s.zones.any fun c => c.2.hot then 100 else Config.restingPump
  { s with pump := ⟨v, some (s.dcc 0), 1⟩, valves := s.valves ++ [⟨0, 8, 2, v⟩] }
/-- The zone enters coolant fallback (R433). -/
def State.enterFallback (s : State) (d z : Nat) : State :=
  if (s.zone d z).fallback then s else (s.setZone d z { s.zone d z with fallback := true }).bump d 7
/-- STAT (R432, R433): of a zone's valve, or of the pump, which is receiver 8 of die 0. -/
def execStat (die zone opening flow inlet : Nat) (bad : Bool) (s : State) : Out :=
  if s.form = .p12w48 then .next s
  else if 8 ≤ zone then .next (if die = 0 ∧ zone = 8 then { s with pump := ⟨opening, none, 0⟩ } else s)
  else
    let s1 := s.setZone die zone { s.zone die zone with opening := opening, sent := none, sends := 0, asked := false, flow := flow, inlet := inlet }
    .next (if bad then s1.enterFallback die zone else s1.setZone die zone { s1.zone die zone with fallback := false })
/-- The pump has not answered within 2 ms (R432). -/
def State.resendPump (s : State) : State :=
  match s.pump.sent with
  | some t =>
    if s.dcc 0 < t + 4800000 then s
    else if s.pump.sends < 4 then
      { s with pump := { s.pump with sent := some (s.dcc 0), sends := s.pump.sends + 1 }, valves := s.valves ++ [⟨0, 8, 2, s.pump.speed⟩] }
    else { s with pump := { s.pump with sent := none } }
  | none => s
/-- VALVE_RESEND (R432, R433): no answer within 2 ms: the message is sent again. -/
def execValveResend (die zone : Nat) (s : State) : Out :=
  if 8 ≤ zone then .next (if die = 0 ∧ zone = 8 then s.resendPump else s)
  else
  let z := s.zone die zone
  match z.sent with
  | some t =>
    if s.dcc die < t + 4800000 then .next s
    else
      let s1 := if 3 ≤ z.sends then s.enterFallback die zone else s
      if z.sends < 4 then
        .next { s1.setZone die zone { s1.zone die zone with sent := some (s.dcc die), sends := z.sends + 1 } with
          valves := s1.valves ++ [if z.asked then ⟨die, zone, 3, 0⟩ else ⟨die, zone, 1, z.opening⟩] }
      else .next (s1.setZone die zone { s1.zone die zone with sent := none, asked := false })
  | none => .next s

/-! Thermal states (R429 to R431) -/

/-- The thermal state of the cores of a zone that are at 0 or 1. -/
def State.zoneThs (s : State) (d z n : Nat) : State :=
  (zoneCores z).foldl (fun t p => if (t.core d p).ths ≤ 1 then t.setCore d p { t.core d p with ths := n } else t) s
/-- Toggles of a zone within the last second (R430). -/
def recent (now : Nat) (l : List Nat) : List Nat := l.filter fun t => decide (now < t + 2400000000)
/-- A zone's reading decides its entry into THS 1 or its exit (R429, R430). -/
def State.sampleZone (s : State) (d z : Nat) : State :=
  let x := s.zone d z
  let now := s.dcc d
  let r := ((zoneCores z).map fun p => (s.core d p).temp).foldl max 0
  let tt := 10 * (s.die d).tt
  let x1 := { x with toggles := recent now x.toggles, below := if r + 30 ≤ tt then x.below + 1 else 0, withheld := x.withheld && decide (r + 30 ≤ tt) }
  if x.hot = false then
    if tt ≤ r then
      ((((s.setZone d z { x1 with hot := true, toggles := x1.toggles ++ [now], below := 0 }).zoneThs d z 1).bump d 0).setValve d z 255).setPump
    else s.setZone d z x1
  else if x1.below < 101 then s.setZone d z x1
  else if x1.toggles.length < 50 then
    (((s.setZone d z { x1 with hot := false, toggles := x1.toggles ++ [now], below := 0, withheld := false }).zoneThs d z 0).setValve d z
      Config.restingValve).setPump
  else if x.withheld then s.setZone d z x1
  else (s.setZone d z { x1 with withheld := true }).bump d 5
/-- A core enters THS 3; any move of it, or to it, is given up (R109, R431). -/
def State.shut (s : State) (d p : Nat) : State :=
  let c := s.core d p
  let s1 := (s.setCore d p { c with ths := 3, leaving := false }).bump d 4
  let s2 := match c.mig with
    | some k => if c.moveBy = 0 then s1.dropMove d k 0 else s1.setMig d k none
    | none => s1
  s2.setCore d p { s2.core d p with mig := none, moveBy := 0 }
/-- The core enters THS 3, and its units stop (R431). -/
def State.goOffline (s : State) (d p : Nat) : State :=
  let l := s.logical d p
  let s2 := s.shut d p
  (s2.holders d l).foldl (fun t u => (t.dropYield u.1 2).stopUnit u.1 0x45 0) s2
/-- An abandoned attempt to move a core's units is made again once it may be (R109). -/
def State.retryMove (s : State) (d p : Nat) : State :=
  let c := s.core d p
  if c.noMove ≠ 0 ∧ c.noMove ≤ s.dcc d then (s.setCore d p { c with noMove := 0 }).tryMigrate d (s.logical d p) else s
/-- A core's reading decides THS 2 and 3 (R429 to R431). The first reading of 95 °C or more that comes 10 ms after an abandoned
attempt makes the new one, and for a core whose units are to leave it any reading does. DESIGN CHOICE, log 94. -/
def State.sampleCore (s0 : State) (d p : Nat) : State :=
  let s := if (s0.core d p).leaving ∧ (s0.core d p).temp < 1050 then s0.retryMove d p else s0
  let c := s.core d p
  if c.ths = 3 then s
  else if 1050 ≤ c.temp then s.goOffline d p
  else if 950 ≤ c.temp then
    if c.ths = 2 then (s.setCore d p { c with below := 0 }).retryMove d p
    else ((s.setCore d p { c with ths := 2, below := 0 }).bump d 1).tryMigrate d (s.logical d p)
  else if c.ths = 2 then
    let n := if c.temp ≤ 920 then c.below + 1 else 0
    if n < 101 then s.setCore d p { c with below := n }
    else s.setCore d p { c with ths := if (s.zone d (p / 12)).hot then 1 else 0, below := 0 }
  else s
/-- THERMAL_SAMPLE (R429 to R431): the sensors of the physical cores are read. -/
def execThermalSample (die : Nat) (temps : List Nat) (s : State) : Out :=
  let now := s.dcc die
  if now < (s.die die).sampled + 240000 then .next s
  else
    let s1 := s.setDie die { s.die die with sampled := now }
    let s2 := (List.range Config.cores).foldl (fun t p => t.setCore die p { t.core die p with temp := temps.getD p (t.core die p).temp }) s1
    let s3 := (List.range 8).foldl (fun t z => t.sampleZone die z) s2
    let s4 := (List.range Config.cores).foldl (fun t p => t.sampleCore die p) s3
    .next (((List.range 8).foldl (fun t z => t.askValve die z) s4).freed die)

/-! Current grants, breath windows and clocks (R425, R427, R428) -/

/-- A request still stands: its voice is stalled on it, or its unit waits to start with it (R421). -/
def State.askStands (s : State) (a : Nat × Nat × Nat) : Bool :=
  if a.2.1 = 4 then decide ((s.unit a.1).regrant = a.2.2) && match (s.unit a.1).status with
    | .suspended _ => true
    | _ => false
  else decide ((s.unit a.1).status = .resident) && decide ((s.voice a.1 a.2.1).ask = some (.power a.2.2))
/-- The head of a zone's requests: the smallest PRIO, the oldest among equals (R425). -/
def State.headAsk (s : State) (l : List (Nat × Nat × Nat)) : Option (Nat × Nat × Nat) :=
  l.find? fun a => l.all fun b => decide ((s.unit a.1).prio ≤ (s.unit b.1).prio)
/-- The capacity of a zone (R425, R433). -/
def Zone.capacity (z : Zone) : Nat := if z.hot ∨ z.fallback then 48 else 96
/-- The sum of a zone's grants but for unit `u`'s. -/
def State.granted (s : State) (d z u : Nat) : Nat :=
  ((s.units.filter fun c => decide (c.1 ≠ u) && c.2.live && decide (c.2.place.die = d) && decide (s.home c.1 / 12 = z)).map fun c =>
    c.2.pgnt.toNat).sum
/-- BELLOWS_GRANT (R421, R425): the head request is granted where the zone's free units cover it. -/
def execBellowsGrant (die zone : Nat) (s : State) : Out :=
  let z := s.zone die zone
  let l := z.asks.filter s.askStands
  match s.headAsk l with
  | none => .next (s.setZone die zone { z with asks := l })
  | some a =>
    if z.capacity < s.granted die zone a.1 + a.2.2 then .next (s.setZone die zone { z with asks := l })
    else
      let s1 := s.setZone die zone { z with asks := l.filter fun b => decide (b ≠ a) }
      let s2 := s1.setUnit a.1 { (s1.unit a.1).grant a.2.2 with regrant := 0 }
      if a.2.1 = 4 then .next s2
      else
        let v := s2.voice a.1 a.2.1
        .next (s2.setVoice a.1 a.2.1 { v with ask := none, met := false, st := v.st.advance 16 })
/-- BREATH_PREPOSITION (R427): 64 matrix cycles before its onset a window's regulators begin to rise; no cycle count
changes. -/
def execBreathPreposition (u : Nat) (s : State) : Out :=
  match (s.unit u).breath with
  | some b =>
    if (s.unit u).status = .resident ∧ b.onset ≤ s.tclk u + 64 then .next (s.setUnit u { s.unit u with breath := some { b with raised := true } })
    else .next s
  | none => .next s

def Core.setClk (c : Core) (dom : Nat) (x : Clk) : Core :=
  match dom with
  | 0 => { c with ctl := x }
  | 1 => { c with vec := x }
  | 2 => { c with cpy := x }
  | _ => { c with mat := x }
def Domain.code : Domain → Nat
  | .control => 0
  | .vector => 1
  | .copy => 2
  | .matrix => 3
/-- The voice is stalled in a CLKD of domain `k` (R394, R422). -/
def Voice.onClock (v : Voice) (k : Nat) : Bool :=
  match v.ask with
  | some (.clock d _ _) => decide (d = k)
  | _ => false
/-- Reference cycles after which a switch of a domain cuts no cycle short: a cycle of its own clock, or for the matrix domain one of the
weight tier's, which has twice its divisor and switches on the same edge (R9, R428). -/
def Clk.period (c : Clk) (dom : Nat) : Nat := if dom = 3 then 2 * c.div else c.div
/-- A count of control cycles after which the voice issues holds at the divisor that begins at DCC `now`, after `old` (R10, R444, R448). -/
def Voice.reclock (v : Voice) (now old new : Nat) : Voice :=
  if now < v.nextAt then { v with nextAt := now + cdiv (v.nextAt - now) old * new } else v
/-- CLOCK_SWITCH (R428): at the end of a cycle of the old clock, 480 reference cycles or more after the change, the domain
takes the largest request; voices stalled for it complete, and their requests are recorded. -/
def execClockSwitch (die core : Nat) (dom : Domain) (s : State) : Out :=
  let c := (s.core die core).settleHold (s.dcc die)
  let k := Domain.code dom
  let x := c.clk k
  match c.switch.find k with
  | some t =>
    if s.dcc die < t ∨ (s.dcc die - x.dcc0) % x.period k ≠ 0 then .next s
    else
      let x1 : Clk := { div := s.wantDiv die core k, base := x.now (s.dcc die), dcc0 := s.dcc die, prev := x.div }
      let s1 := s.setCore die core { c.setClk k x1 with switch := c.switch.del k }
      let here := fun (u : Nat) => decide ((s.unit u).place.die = die) && decide (s.home u = core)
      .next { s1 with
        units := s1.units.map fun (t : Nat × TeamUnit) =>
          if here t.1 && (List.range 4).any (fun j => (s.voice t.1 j).onClock k) then
            (t.1, { t.2 with clkd := t.2.clkd.put k (s.divAsked t.1 k) }) else t
        voices := s1.voices.map fun (v : Nat × Voice) =>
          if here (v.1 / 4) then
            let w := if k = 0 then v.2.reclock (s.dcc die) x.div x1.div else v.2
            (v.1, if v.2.onClock k then { w with ask := none, met := false, st := w.st.advance 16 } else w)
          else v }
  | none => .next s

/-! Refresh (R434) -/

/-- Where an interface stands at its interval after it reports `temp`, in tenths of a degree: none for the normal one, for the halved one
0 or one more than the DCC since which every reading was 82 °C or less. From 85 °C it halves; it returns to normal once every
reading of 10 ms is 82 °C or less (R430, R434). -/
def refreshAfter (temp now : Nat) (h : Option Nat) : Option Nat :=
  if 850 ≤ temp then some 0
  else match h with
    | none => none
    | some c =>
      if 820 < temp then some 0
      else if c = 0 then some (now + 1)
      else if c - 1 + 24000000 ≤ now then none
      else some c
/-- REFRESH (R6, R434): a bank of one of a die's two interfaces, whose device reports `temp`, is refreshed at its interval. -/
def execRefresh (die iface bank temp : Nat) (s : State) : Out :=
  let x := s.die die
  let now := s.dcc die
  if 2 ≤ iface then .next s
  else
  let h : NMap Nat := match refreshAfter temp now (x.hotRefresh.find iface) with
    | some c => x.hotRefresh.put iface c
    | none => x.hotRefresh.del iface
  let k := iface * 64 + bank
  let due := match x.refreshed.find k with
    | none => true
    | some t => decide (t + (if (h.find iface).isSome then 4680 else 9360) ≤ now)
  .next (s.setDie die { x with hotRefresh := h, refreshed := if due then x.refreshed.put k now else x.refreshed })

/-! Undervolting (R435, R436) -/

/-- UNDERVOLT_INTERVAL (R435): the corrected errors of the domain in the interval and in the last second decide: those of
its structures, which State holds, and `others` and `otherSecond` of what no structure of R438 holds, its logic (log 91). -/
def execUndervoltInterval (die zone others otherSecond : Nat) (s : State) : Out :=
  let z := s.zone die zone
  if z.uv = false ∨ z.uvAt.isSome = true ∨ s.dcc die < z.uvLast + 24000000 then .next s
  else
    let errs := (z.errs.filter fun t => decide (z.uvLast ≤ t)).length + others
    let n := if errs = 0 ∧ (recent (s.dcc die) z.errs).length + otherSecond < 4 then min 12 (z.steps + 1) else if 2 ≤ errs then z.steps - 1 else z.steps
    .next (s.setZone die zone { z with steps := n, uvLast := s.dcc die })
/-- An uncorrectable error in a domain below nominal: nominal voltage, for 60 s, and the error charged to the domain (R436 steps
1 to 3). -/
def State.chargeDomain (s : State) (d z : Nat) : State :=
  (s.setZone d z { s.zone d z with steps := 0, uvAt := some (s.dcc d + 144000000000) }).bump d 8
/-- State of a unit that lies in a voltage domain: its core's, or lines of its version in the L2 slices of its zone. Which slice is
home to a line the spec does not say (R380, R435, R436; log 91). -/
def State.inDomain (s : State) (d z u : Nat) : Bool :=
  (decide ((s.unit u).place.die = d) && decide (s.home u / 12 = z))
    || (s.unit u).lines.any fun l => decide (bits (l * 128) 48 4 = d) || decide (bits (l * 128) 48 4 = 15)
/-- A unit whose state such an error reached ends, to be retried without charge (R436 step 5). -/
def State.endCharged (s : State) (d z u : Nat) : State :=
  if (s.unit u).live ∧ (s.units.find u).isSome ∧ (s.unit u).status ≠ .failing ∧ (s.unit u).status ≠ .cancelling ∧ s.inDomain d z u = true then
    let s1 := (s.freeze u).abandon u fun _ => true
    s1.setUnit u { s1.unit u with status := .failing, charged := true, fault := none }
  else s
/-- UNDERVOLT_UE (R436): an error outside the engines, whose errors `ENGINE_RESET` handles. -/
def execUndervoltUe (die zone : Nat) (units : List Nat) (s : State) : Out :=
  if (s.zone die zone).steps = 0 then .next s
  else .next (units.foldl (fun t u => t.endCharged die zone u) (s.chargeDomain die zone))
/-- UNDERVOLT_REENABLE (R436). -/
def execUndervoltReenable (die zone : Nat) (s : State) : Out :=
  let z := s.zone die zone
  match z.uvAt with
  | some t => .next (if t ≤ s.dcc die then s.setZone die zone { z with uvAt := none, uvLast := s.dcc die } else s)
  | none => .next s

/-! Lasting faults (R253, R437, R438) -/

/-- The key of a structure of a die in the error log. -/
def faultKey (d : Nat) : Structure → Nat
  | .weightRow row => row
  | .bus c b => 2 ^ 60 + (d * 128 + c) * 4 + b
  | .l2Way sl st w => 2 ^ 61 + ((d * 2 ^ 16 + sl) * 2 ^ 16 + st) * 256 + w
  | .accSlot c z => 2 ^ 62 + (d * 128 + c) * 16 + z
  | .coreStore c => 2 ^ 63 + d * 128 + c
  | .lpddrFrame f => 2 ^ 64 + f
/-- The key of a structure as it stands: a remapped row is its spare (R249, R438). -/
def State.structKey (s : State) (d : Nat) : Structure → Nat
  | .weightRow row => s.wearKey row
  | w => faultKey d w
/-- The voltage domain a structure lies in, where it has one: the logic and SRAM of its zone, an L2 slice lying with its core
(R186, R435). -/
def faultZone : Structure → Option Nat
  | .l2Way sl _ _ => some (sl / 12)
  | .accSlot c _ => some (c / 12)
  | .coreStore c => some (c / 12)
  | _ => none
/-- The core is to go offline: at once where it is empty, else when its units have moved (R253, R438). -/
def State.leaveCore (s : State) (d p : Nat) : State :=
  let l := s.logical d p
  if (s.core d p).ths = 3 then s
  else if (s.holders d l).isEmpty then s.shut d p
  else (s.setCore d p { s.core d p with leaving := true }).tryMigrate d l
/-- A lasting structure is retired (R438); a vertical bus is left to `VERTICAL_BUS_RETIRE`, a row to `VOICER_ROW_REWRITE`. -/
def State.retire (s : State) (d : Nat) (w : Structure) : State :=
  let s1 := ({ s with lasting := s.lasting.put (s.structKey d w) true } : State).bump d 9
  match w with
  | .weightRow row => { s1 with rewrites := s1.rewrites.put row false }
  | .bus _ _ => s1
  | .l2Way _ _ _ => s1
  | .accSlot c z => s1.setCore d c { s1.core d c with badSlots := z :: (s1.core d c).badSlots }
  | .coreStore c => s1.leaveCore d c
  | .lpddrFrame f => { s1 with badFrames := s1.badFrames ++ [f] }
/-- The last two error times under a key of the log (R437). -/
def State.noteError (s : State) (k hours : Nat) : State :=
  let l := s.soft.getD k []
  { s with soft := s.soft.put k ((l ++ [hours]).drop (l.length - 1)) }
/-- An error of a structure at an hour is logged: the third within the window marks it lasting (R437). -/
def State.logError (s : State) (d : Nat) (w : Structure) (hours : Nat) : State :=
  let k := s.structKey d w
  let l := s.soft.getD k []
  let s1 := s.noteError k hours
  if (s.lasting.find k).isSome then s1
  else if 2 ≤ l.length ∧ hours ≤ l.headD 0 + (s.die d).window then s1.retire d w
  else s1
/-- A corrected error of a structure: it counts for its domain, and is logged unless that is below nominal (R435, R437). -/
def State.softError (s : State) (d : Nat) (w : Structure) (hours : Nat) : State :=
  match faultZone w with
  | some z =>
    let x := s.zone d z
    let s1 := s.setZone d z { x with errs := s.dcc d :: recent (s.dcc d) x.errs }
    if x.steps ≠ 0 then s1 else s1.logError d w hours
  | none => s.logError d w hours
/-- An error in a row of die `d` counts for the row, its vertical bus and its bank, for which R438 names no retirement (R231, R250,
R438; log 97). -/
def State.rowError (s : State) (d row hours : Nat) : State :=
  ((s.softError d (.weightRow row) hours).softError d (.bus (row / 2 ^ 19 % 128) (row / 2 ^ 13 % 4)) hours).noteError
    (2 ^ 65 + row / 2 ^ 13) hours
/-- An error of the codeword at weight address ÷ 64. -/
def State.codewordError (s : State) (cw hours : Nat) : State := s.rowError (waDie (cw * 64)) (rowKey (cw * 64)) hours
/-- The Drone reads the codeword at weight address `a` of a die: in the active bank of a region that a REMEAS in progress measures; or as
the die starts, in either bank of a region, or of the firmware image (R462 to R464, R466). -/
def State.droneReads (s : State) (d a : Nat) : Bool :=
  let start := decide (s.dcc d = 0) && decide ((s.die d).boot = 5)
  (start && decide (waOf d 0 0x1C000000 ≤ a) && decide (a < waOf d 0 0x1C000000 + 2 ^ 24)) ||
    s.regions.any fun c => decide (c.1 / 2 ^ 64 = d) && !c.2.dmg && (c.2.groupAt (waCore a)).isSome &&
      (c.2.locate (waOff a)).any fun l => start || (decide (l.1 = c.2.act) &&
        ((s.drones.getD d {}).busy.any fun b => b.1.any fun m => decide (m.name = c.1 % 2 ^ 64)))
/-- A read that is no beat may meet a codeword of a core: an LDW of a unit that binds its region, a WVFY or WDIG of it, the Drone's, or
the merge of a WPRG, which alone reads a damaged region (R192, R246, R252, R358, R359, R464, R466; log 97). -/
def State.readsElse (s : State) (d p cw : Nat) : Bool :=
  let a := cw * 64
  decide (waDie a = d) && (decide (waCore a = p) && s.usableRow (rowKey a)) &&
    (s.droneReads d a || (s.units.any fun t => t.2.live && (s.boundAt t.1 a).any fun b => !b.2.1.dmg) ||
      s.ctxs.any fun c => decide (engineOf c.1 = .copy) && c.2.flight.any fun q => q.wbank.any fun b =>
        let r := (s.regions.find b.1).getD {}
        if Instr.isWprg q.instr then (s.rowsOfCmd (c.1 / 12) q).contains (rowKey a)
        else !r.dmg && decide (waDie a = b.1 / 2 ^ 64) && (r.groupAt p).isSome && (r.locate (waOff a)).any fun l => decide (l.1 = b.2))
/-- An uncorrectable line of global memory (R379, R487): its location is poisoned; or a line that an open version holds cannot be
read back. -/
def State.loseLine (s : State) : Lost → State
  | .location line => { s with mpoison := s.mpoison.put line true }
  | .version u line va =>
    if (s.unit u).lines.contains line then s.setUnit u { s.unit u with vlost := some (va / 128 * 128) } else s
/-- An error of a structure that leaves `l` of global memory uncorrectable. In a domain below nominal it is charged to the domain, and a
unit whose version line it took ends without charge; elsewhere it counts as one error of the structure (R379, R436, R437, R487). -/
def State.uncorrectable (s : State) (d : Nat) (w : Structure) (hours : Nat) (l : Lost) : State :=
  match (faultZone w).filter fun z => decide ((s.zone d z).steps ≠ 0) with
  | none => (s.loseLine l).logError d w hours
  | some z => match l with
    | .location _ => (s.loseLine l).chargeDomain d z
    | .version u line _ =>
      if (s.unit u).lines.contains line then (s.chargeDomain d z).endCharged d z u else s.chargeDomain d z
/-- CORRECTED_ERROR (R250, R379, R435 to R437, R487): an error of a structure, which was corrected, or of which `lost` is what of global
memory it leaves uncorrectable. One or two bits corrected in a row of the weight tier count for its bus and bank too. -/
def execCorrectedError (die : Nat) (w : Structure) (hours : Nat) (lost : Option Lost) (s : State) : Out :=
  .next (match lost, w with
    | some l, _ => s.uncorrectable die w hours l
    | none, .weightRow row => s.rowError die row hours
    | none, _ => s.softError die w hours)
/-- A codeword was read again: corrected so, its row is to be rewritten; else it is poison (R250). -/
def State.reread (s : State) (cw : Nat) (ok : Bool) : State :=
  let row := rowKey (cw * 64)
  if ok then { s with rewrites := s.rewrites.put row ((s.rewrites.find row).getD true) } else { s with wpoison := s.wpoison.put cw true }
/-- GLOBAL_HOLD (R240, R241, R250): the data of a beat are late. The holds that addresses fix are those due. A codeword with 3 or 4
wrong bits, and one read again, each hold the core once for the beat that is due with it, and are logged; met by another read they
hold nothing. -/
def execGlobalHold (die core : Nat) (cause : HoldCause) (s : State) : Out :=
  .next (match cause with
    | .scheduled => s.holdDue die core
    | .corrected cw h => match s.beatDue die core cw with
      | some b => (if b.fixed then s else (s.setDue die core b { b with fixed := true }).hold die core 3).codewordError cw h
      | none => if s.readsElse die core cw then s.codewordError cw h else s
    | .reread cw h ok => match s.beatDue die core cw with
      | some b => ((if b.again then s else (s.setDue die core b { b with again := true }).hold die core 14).codewordError cw h).reread cw ok
      | none => if s.readsElse die core cw then (s.codewordError cw h).reread cw ok else s)
/-- VERTICAL_BUS_RETIRE (R253): a lasting bus of a core is retired under a hold of at most 64 matrix cycles; with a second one
the core's units move and it goes offline. -/
def execVerticalBusRetire (die core bus : Nat) (s : State) : Out :=
  let c := s.core die core
  if (s.lasting.find (faultKey die (Structure.bus core bus))).isNone = true ∨ c.buses.contains bus = true then .next s
  else
    let s1 := s.hold die core (Config.freeChoice s.fresh % 65)
    let s2 := s1.setCore die core { s1.core die core with vbr := true, buses := bus :: c.buses }
    .next (if c.buses.isEmpty then s2 else s2.leaveCore die core)

end Sys2Proof.Machine
end

