-- ==== Sys2Proof/Machine/Reset.lean ====
section
/-! DEFINITION. Engine reset and replay (R310, R454 to R457). -/
namespace Sys2Proof.Machine
open Sys2Proof

/-- A command abandoned by a reset of its engine on core `p`, to be presented again (R454 to R456): one that had entered the array
runs again unstamped. -/
def Cmd.abandoned (p : Nat) (q : Cmd) : Cmd :=
  { q with
    core := p
    stamp := if q.phase = .issued then none else q.stamp
    phase := .queued, readyAt := none, armed := false, landed := [], memb := 0, data := none, status := 0
    abuf := [], tstep := 0, shift := 0, gone := false, starts := []
    resets := q.resets + 1, replay := true }
/-- A context whose engine resets on core `p`, in cycle `n` of the engine: its commands there are back in its queue, in cn order (R454, R455). `mine` says which issued
commands the engine runs, `here` whether the context queues its commands at it. -/
def Ctx.abandon (c : Ctx) (p n : Nat) (here : Bool) (mine : Cmd → Bool) : Ctx :=
  { c.unready n with
    queue := ((c.flight.filter mine).map (Cmd.abandoned p)).foldl (fun l q => insertCn q l)
      (if here then c.queue.map (Cmd.abandoned p) else c.queue)
    flight := c.flight.filter fun q => !mine q }
/-- Commands of a unit that has failed or been cancelled are not presented again: they are complete with no effect. -/
def Ctx.lose (c : Ctx) (here : Bool) (mine : Cmd → Bool) (t : Nat) : Ctx :=
  (((if here then c.queue else []) ++ c.flight.filter mine).foldl Ctx.finish
    { c with queue := if here then [] else c.queue, flight := c.flight.filter fun q => !mine q }).settle t
/-- A reset strikes a context of a unit in some status. -/
def Ctx.strike (c : Ctx) (st : UStatus) (p n : Nat) (here : Bool) (mine : Cmd → Bool) (t : Nat) : Ctx :=
  match st with
  | .failing => c.lose here mine t
  | .cancelling => c.lose here mine t
  | _ => c.abandon p n here mine
/-- An issued command of unit `u` runs in engine `e` of a core: a copy in the engine that issued it (R111). -/
def State.runsOn (s : State) (d p : Nat) (e : Engine) (u : Nat) (q : Cmd) : Bool :=
  if e = .copy then decide ((s.unit u).place.die = d) && decide (q.core = p) else s.unitOn d p u
/-- The collectives that a context's engine had issued abort: the other members complete with ABORT, its own is complete
(R362, R455, R456). -/
def State.abortColls (s : State) (u j : Nat) (mine : Cmd → Bool) : State :=
  ((s.ctx u .copy j).flight.filter fun q => !q.group.isEmpty && mine q).foldl (fun t q =>
    (t.abortColl u j q).completeCmd u .copy j { q with status := 3 }) s
/-- The reset of an engine: its commands are abandoned, its groups dissolve, and it is out for 1,024 cycles (R454 to R456). -/
def State.resetEngine (s : State) (die core : Nat) (e : Engine) : State :=
  let here := (s.units.filter fun c => s.unitOn die core c.1).map (·.1)
  let s1 := if e = .copy then s.units.foldl (fun t u => (List.range 4).foldl (fun x j => x.abortColls u.1 j (s.runsOn die core e u.1)) t) s else s
  let hit := fun (c : Nat × Ctx) =>
    if engineOf c.1 = e then (c.1, c.2.strike (s1.unit (c.1 / 12)).status core (s1.eclk die core e) (here.contains (c.1 / 12)) (s1.runsOn die core e (c.1 / 12))
        (s1.engEnd (c.1 / 12) e))
    else c
  let s2 := ({ s1 with ctxs := s1.ctxs.map hit } : State).closeRegions
  let k := s2.core die core
  let k1 := if e = .matrix then { k with groups := [], bound := s2.free die core, port := s2.free die core, beats := [], due := [] } else k
  s2.setCore die core { k1 with reset := k.reset.put e.code (s2.ecyc die core e + 1024) }
/-- ENGINE_RESET (R310, R436, R454 to R456): an uncorrectable error in one engine of a core resets it, and fails the teams of the
contexts in `bad`, whose own storage it struck. One in the tile registers (0 to 31) or masks (32 and above) of the units in `vregs`
fails those units and resets nothing. In a domain below nominal the error is charged to the domain. -/
def execEngineReset (die core : Nat) (e : Engine) (bad vregs : List (Nat × Nat)) (hours : Nat) (s : State) : Out :=
  let z := core / 12
  let uv := decide ((s.zone die z).steps ≠ 0)
  let fail := fun (t : State) (code u j info : Nat) =>
    if s.unitOn die core u = false then t
    else if uv then t.endCharged die z u
    else t.failUnit u j none (causeWord code 0 (some e) j) (BitVec.ofNat 64 info)
  let s1 := if e = .vector ∧ vregs ≠ [] then vregs.foldl (fun t b => fail t 0x1F b.1 0 b.2) s
    else bad.foldl (fun t b => fail t 0x2C b.1 b.2 e.code) (s.resetEngine die core e)
  .next (if uv then s1.chargeDomain die z else s1.logError die (.coreStore core) hours)
/-- ENGINE_RESET_END (R455, R457): the contexts present their commands again; a command interrupted for the fifth time fails
its unit. -/
def execEngineResetEnd (die core : Nat) (e : Engine) (s : State) : Out :=
  let k := s.core die core
  match k.reset.find e.code with
  | none => .next s
  | some t =>
    if s.ecyc die core e < t then .next s
    else
      let s1 := s.setCore die core { k with reset := k.reset.del e.code }
      let spent := s1.ctxs.filterMap fun (c : Nat × Ctx) =>
        if engineOf c.1 = e then
          let t := s1.unit (c.1 / 12)
          (c.2.queue.find? fun q => decide (5 ≤ q.resets) && decide (q.core = core) && t.live && decide (t.place.die = die)).map fun q =>
            (c.1 / 12, c.1 % 4, q)
        else none
      let s2 := spent.foldl (fun t x =>
        t.failUnit x.1 x.2.1 none (causeWord 0x2B 0 (some e) x.2.1) (BitVec.ofNat 64 x.2.2.cn)) s1
      -- a command whose slots it has written already is complete at once (R261, R455)
      let skip := s2.ctxs.flatMap fun (c : Nat × Ctx) =>
        if engineOf c.1 = e ∧ s2.unitOn die core (c.1 / 12) = true then
          (c.2.queue.filter fun q => q.claims.any fun a => decide (a.space = 1) && a.wr && s2.skipped a.lo (c.1 / 12) (c.1 % 4) q).map fun q =>
            (c.1 / 12, c.1 % 4, q)
        else []
      .next ((skip.foldl (fun t x => t.completeCmd x.1 e x.2.1 x.2.2) s2).refresh die core 0)

end Sys2Proof.Machine
end

