-- ==== Sys2Proof/Machine/Packets.lean ====
section
/-! DEFINITION. Packets: their checks, what each inbound type does, and what a die answers (R76 to R79, R83 to R93). -/
namespace Sys2Proof.Machine
open Sys2Proof

/-! Format (R76, R77) -/

/-- One step of the reflected CRC-32 of IEEE 802.3. -/
def crcBit (c : BitVec 32) : BitVec 32 := if c.getLsbD 0 then (c >>> 1) ^^^ 0xEDB88320 else c >>> 1
def crcByte (c : BitVec 32) (b : Byte) : BitVec 32 := (List.range 8).foldl (fun x _ => crcBit x) (c ^^^ b.setWidth 32)
def crc32 (bs : List Byte) : Nat := (~~~(bs.foldl crcByte 0xFFFFFFFF)).toNat

def pktField (p : Packet) (o n : Nat) : Nat := leAt p.hdr o n
def pktType (p : Packet) : Nat := pktField p 2 1
def pktDie (p : Packet) : Nat := pktField p 6 2
def pktSeq (p : Packet) : Nat := pktField p 8 8
def pktJob (p : Packet) : Nat := pktField p 0x10 4
def pktId (p : Packet) : Nat := pktField p 0x14 4
def pktGraph (p : Packet) : Nat := pktField p 0x18 2
def pktNode (p : Packet) : Nat := pktField p 0x1A 2
def pktPhase (p : Packet) : Nat := pktField p 0x1C 2
def pktLevel (p : Packet) : Nat := pktField p 0x1E 1
def pktSrc (p : Packet) : Nat := pktField p 0x1F 1
def pktAddr (p : Packet) : Nat := pktField p 0x20 8
def pktArg (p : Packet) : Nat := pktField p 0x28 8
def pktArg2 (p : Packet) : Nat := pktField p 0x30 8
/-- Fields a type does not use (R77): offset and length. -/
def pktUnused (ty level : Nat) : List (Nat × Nat) :=
  let all := [(0x10, 4), (0x14, 4), (0x18, 2), (0x1A, 2), (0x1C, 2), (0x1E, 1), (0x20, 8), (0x28, 8), (0x30, 8)]
  let used := match ty with
    | 1 => [0x10, 0x20, 0x28, 0x30]
    | 2 => [0x10, 0x28]
    | 3 => [0x10, 0x1C, 0x28]
    | 4 => [0x10, 0x1C, 0x18, 0x28]
    | 5 => [0x10, 0x14, 0x18, 0x1A, 0x1C, 0x20]
    | 6 => [0x10, 0x1E] ++ match level with
      | 0 => [0x14]
      | 1 => [0x18]
      | 2 => [0x1C]
      | _ => []
    | 7 => [0x28, 0x30]
    | _ => []
  all.filter fun f => !used.contains f.1

/-- A packet that a die sends (R76 to R78): type, port, fields of the header by offset and length, body. -/
def State.send (s : State) (d ty port : Nat) (fields : List (Nat × Nat × Nat)) (body : List Byte) : State :=
  let x := s.die d
  let get := fun (o n : Nat) => leBytes (((fields.find? fun f => decide (f.1 = o) && decide (f.2.1 = n)).map (·.2.2)).getD 0) n
  let h := leBytes 1 2 ++ leBytes ty 1 ++ [0] ++ leBytes body.length 2 ++ leBytes d 2 ++ leBytes (x.seqOut + 1) 8 ++ get 0x10 4 ++ get 0x14 4
    ++ get 0x18 2 ++ get 0x1A 2 ++ get 0x1C 2 ++ get 0x1E 1 ++ leBytes port 1 ++ get 0x20 8 ++ get 0x28 8 ++ get 0x30 8
  { s.setDie d { x with seqOut := x.seqOut + 1 } with
    packets := s.packets ++ [⟨h ++ leBytes (crc32 (h ++ body)) 4 ++ leBytes 0 4, body, port⟩] }

/-! The front end's reads (R44, R79) -/

/-- `n` bytes at a VA of a job as the die's front end reads them: through the tables of a root with R, no page with WW, no
page fault taken. -/
def State.frontRead (s : State) (d root key va n : Nat) : Option (List Byte) :=
  if 2 ^ 57 < va + n then none
  else (tilesOf va n).foldlM (fun (acc : List Byte) i =>
    match s.walkRoot d root (4096 * i) with
    | .error _ => none
    | .ok l =>
      if l.ww ∨ l.r = false then none
      else
        let lo := max va (4096 * i)
        let hi := min (va + n) (4096 * i + 4096)
        some (acc ++ s.seenBytes (.die d) key (l.pa + (lo - 4096 * i)) (hi - lo))) []
/-- Every page of a range translates with what `ok` asks, none with WW (R45). -/
def State.reachable (s : State) (d root va n : Nat) (ok : Leaf → Bool) : Bool :=
  decide (va + n ≤ 2 ^ 57) && (tilesOf va n).all fun i =>
    match s.walkRoot d root (4096 * i) with
    | .error _ => false
    | .ok l => !l.ww && ok l
/-- The weight region table of a job (R238): none where check 0x0D of R79 fails. -/
def State.readTable79 (s : State) (d root key va : Nat) : Option (List RegEntry) :=
  match s.frontRead d root key va 16 with
  | none => none
  | some h =>
    let n := leAt h 0 2
    if n = 0 ∨ 4096 < n ∨ leAt h 2 14 ≠ 0 then none
    else match s.frontRead d root key (va + 16) (16 * n) with
      | none => none
      | some bs =>
        if (List.range n).all fun i => decide (leAt bs (16 * i + 9) 1 ≤ 1) && decide (leAt bs (16 * i + 10) 6 = 0) then
          some ((List.range n).map fun i => ⟨leAt bs (16 * i) 8, leAt bs (16 * i + 8) 1, decide (leAt bs (16 * i + 9) 1 = 1)⟩)
        else none

/-! Checks (R78, R79) -/

/-- The die that receives a packet; one for no die is answered by the host processor die. -/
def pktAt (p : Packet) : Nat := if pktDie p ≤ 12 then pktDie p else 12
/-- Check 0x05. -/
def pktRanges (p : Packet) : Bool :=
  let ty := pktType p
  let a := pktArg p
  let host := decide (ty = 2 ∨ ty = 3 ∨ ty = 4)
  decide (leAt p.hdr 0x3C 4 = 0) && decide (pktField p 3 1 ≤ 1) && ((pktUnused ty (pktLevel p)).all fun f => decide (pktField p f.1 f.2 = 0))
    && (if host then decide (pktDie p = 12) else decide (pktDie p < 12))
    && (match ty with
      | 1 => decide (a ≤ 23)
      | 2 => decide (a < 65536)
      | 3 => decide (1 ≤ a) && decide (a ≤ 64)
      | 4 => decide (1 ≤ a) && decide (a ≤ 1024)
      | 6 => decide (pktLevel p ≤ 3)
      | 7 => decide (pktArg2 p < 2 ^ 32) && decide (p.body.length % 8 = 0) && decide (p.body.length ≤ 512)
          && (List.range (p.body.length / 8)).all fun i => decide (leAt p.body (8 * i + 6) 2 = 0)
      | _ => true)
    && (decide (ty = 7) || decide (leNat p.body = 0))
/-- The job of a packet is open at the host processor die from its source. -/
def State.hostJob (s : State) (p : Packet) : Option HJob :=
  match s.hjobs.find (pktJob p) with
  | some h => if h.src = pktSrc p then some h else none
  | none => none
/-- Check 0x06. -/
def State.pktOpen (s : State) (p : Packet) : Bool :=
  match pktType p with
  | 1 => (s.jobs.find (jkey (pktAt p) (pktJob p))).isNone && match s.hjobs.find (pktJob p) with
    | some h => decide (h.src = pktSrc p)
    | none => true
  | 5 => match s.jobs.find (jkey (pktAt p) (pktJob p)) with
    | some j => decide (j.src = pktSrc p)
    | none => false
  | 6 => match s.jobs.find (jkey (pktAt p) (pktJob p)) with
    | some j => decide (j.src = pktSrc p)
    | none => false
  | 7 => true
  | 8 => true
  | _ => (s.hostJob p).isSome
/-- The die has come to step 5 of its start-up (R462): before that it refuses packets with 0x07, and looks at no job (log 93). -/
def State.pktBooted (s : State) (p : Packet) : Bool := decide (pktAt p = 12) || decide (5 ≤ (s.die (pktAt p)).boot)
/-- Check 0x07: for JOBOPEN room among the open jobs, and keys. -/
def State.pktReady (s : State) (p : Packet) : Bool :=
  let d := pktAt p
  (decide (pktType p ≠ 1) ||
    (decide ((s.jobs.filter fun c => decide (c.1 / 2 ^ 32 = d)).length < 64) && (s.keys.find (jkey d (pktJob p))).isSome))
/-- Check 0x08. A LAUNCH may name another phase than the one its graph was defined in: DESIGN CHOICE, log 104. -/
def State.pktDefined (s : State) (p : Packet) : Bool :=
  let job := pktJob p
  let graph := s.graphs.find (gkey job (pktGraph p))
  let phase := s.phases.find (gkey job (pktPhase p))
  let ids := s.launches.any fun c => decide (c.2.job = job) && decide (c.2.id = pktId p)
  match pktType p with
  | 2 => match s.hjobs.find job with
    | some h => decide (pktArg p = h.nphase)
    | none => false
  | 3 => phase.isNone
  | 4 => graph.isNone && match phase with
    | some x => decide (x.defined < x.ngraph)
    | none => false
  | 5 => phase.isSome && !ids && match graph with
    | some g => decide (pktNode p < g.nlaunch) && !(g.nodes.any fun n => decide (n.1 = pktNode p))
    | none => false
  | 6 => match pktLevel p with
    | 0 => ids
    | 1 => graph.isSome
    | 2 => phase.isSome
    | _ => true
  | _ => true
/-- Check 0x09. -/
def State.pktLive (s : State) (p : Packet) : Bool :=
  let job := pktJob p
  let live := fun (c : Option Counter) => match c with
    | some c => !c.cancel && c.isOpen
    | none => true
  let h := s.hjobs.find job
  let notCancelled := match h with
    | some x => !x.count.cancel
    | none => true
  let phase := match s.phases.find (gkey job (pktPhase p)) with
    | some x => !x.count.cancel
    | none => true
  match pktType p with
  | 2 => notCancelled && match h with
    | some x => !x.closed
    | none => true
  | 3 => notCancelled && match h with
    | some x => !x.closed
    | none => true
  | 4 => notCancelled && live ((s.phases.find (gkey job (pktPhase p))).map (·.count))
  | 5 => notCancelled && phase && live ((s.graphs.find (gkey job (pktGraph p))).map (·.count))
  | _ => true
/-- Waiting launches of a die. -/
def State.waiting (s : State) (d : Nat) : List (Nat × Launch) :=
  s.launches.filter fun c => decide (c.2.die = d) && decide (c.2.status = .waiting) && c.2.count.isOpen
/-- Checks 0x0B and 0x0C. -/
def State.sliceNumber (s : State) (p : Packet) : Bool :=
  let x := s.die (pktAt p)
  (match x.maxSlice with
    | some n => decide (n < pktArg2 p)
    | none => true) && decide (x.slices.length < 8)
def State.sliceSpaced (s : State) (p : Packet) : Bool :=
  let x := s.die (pktAt p)
  match x.slices.getLast?, x.current with
  | some y, _ => decide (y.start + 2400000 ≤ pktArg p)
  | none, some y => decide (y.start + 2400000 ≤ pktArg p)
  | none, none => true
/-- Check 0x04 fails. -/
def State.oldSeq (s : State) (p : Packet) : Bool :=
  match (s.die (pktAt p)).seq.find (pktSrc p) with
  | some n => decide (pktSeq p ≤ n)
  | none => false
/-- Checks 0x01 to 0x03: version and type, CHK, source and length. -/
def pktForm (p : Packet) : Nat :=
  if pktField p 0 2 ≠ 1 ∨ pktType p = 0 ∨ 8 < pktType p then 0x01
  else if pktField p 0x38 4 ≠ crc32 (p.hdr.take 0x38 ++ p.body) then 0x02
  else if pktSrc p ≠ p.port ∨ 4096 < pktField p 4 2 ∨ pktField p 4 2 % 8 ≠ 0 ∨ pktField p 4 2 ≠ p.body.length then 0x03
  else 0
/-- The refusal code of a packet: the first check of R79 that it fails, 0 where it is accepted. -/
def State.refusal (s : State) (p : Packet) : Nat :=
  let d := pktAt p
  let ty := pktType p
  if pktForm p ≠ 0 then pktForm p
  else if s.oldSeq p then 0x04
  else if pktRanges p = false then 0x05
  else if s.pktBooted p = false then 0x07
  else if s.pktOpen p = false then 0x06
  else if s.pktReady p = false then 0x07
  else if s.pktDefined p = false then 0x08
  else if s.pktLive p = false then 0x09
  else if ty = 5 ∧ 4096 ≤ (s.waiting d).length then 0x0A
  else if ty = 7 ∧ s.sliceNumber p = false then 0x0B
  else if ty = 7 ∧ s.sliceSpaced p = false then 0x0C
  else if ty = 1 ∧ s.readTable79 d (pktArg2 p) (s.jobKey d (pktJob p)) (pktAddr p) = none then 0x0D
  else 0
/-- A packet of type `ty` arrives: refused with its code, or accepted, acted on by `f`, and acknowledged where asked (R77,
R79); one for a die that cannot be reached is refused at the host processor die (R460). A packet of another inbound type is another event's. -/
def State.receive (s : State) (ty : Nat) (p : Packet) (f : State → State) : Out :=
  if pktType p ≠ ty ∧ 1 ≤ pktType p ∧ pktType p ≤ 8 then .next s
  else
    let far := decide (pktAt p < 12) && !s.reached (pktAt p)
    let d := if far then 12 else pktAt p
    let c := if far then Config.unreachedCode else s.refusal p
    if far = true ∨ c ≠ 0 then .next (s.send d 0x83 p.port [(0x28, 8, pktSeq p), (0x30, 8, c)] [])
    else
      let s1 := s.setDie d { s.die d with seq := (s.die d).seq.put (pktSrc p) (pktSeq p) }
      let s2 := f s1
      .next (if bits (pktField p 3 1) 0 1 = 1 then s2.send d 0x84 p.port [(0x28, 8, pktSeq p)] [] else s2)

/-! Reports (R86 to R88) -/

/-- A core entry (R87). -/
def State.coreEntry (s : State) (d l : Nat) : Nat :=
  let p := s.phys d l
  let c := s.core d p
  let free := if c.ths = 3 then 0 else
    ((s.slotsFree d l).map fun k => 2 ^ k).sum + ((s.runs d l).map (·.2)).sum * 2 ^ 4 + s.longest d l * 2 ^ 10 + (s.accFree d l).length * 2 ^ 16
  free + ((s.holders d l).filter fun u => u.2.seated).length * 2 ^ 21 + c.ths * 2 ^ 24 + (if c.mig.isSome then 2 ^ 26 else 0)
    + (if c.vbr then 2 ^ 27 else 0) + p * 2 ^ 32
/-- The region entries of a die (R88), in JOBID and index order, at most 256. -/
def State.regionEntries (s : State) (d : Nat) : List Nat :=
  ((s.jobs.filter fun c => decide (c.1 / 2 ^ 32 = d)).flatMap fun c =>
    c.2.table.zipIdx.filterMap fun e => if e.1.die = d then
      (s.present d (c.1 % 2 ^ 32) e.1).map fun r =>
        c.1 % 2 ^ 32 + e.2 * 2 ^ 32 + (if r.2.shr then 2 ^ 44 else 0) + (if r.2.dmg then 2 ^ 45 else 0) + r.2.groups * 2 ^ 46
          + (if s.owns d (c.1 % 2 ^ 32) r.2 then 2 ^ 53 else 0)
      else none).take 256
/-- The body of a REPORT (R86). -/
def State.reportBody (s : State) (d : Nat) : List Byte :=
  let x := s.die d
  let w := s.waiting d
  let rs := s.regionEntries d
  let ps := (x.current.map (·.pairs)).getD []
  leBytes (s.dcc d) 8 ++ leBytes ((x.current.map (·.num)).getD 0) 4 ++ leBytes ps.length 2 ++ leBytes rs.length 2 ++ leBytes x.late 8
    ++ leBytes (w.length + (w.filter fun c => c.2.blocking).length * 2 ^ 13) 8
    ++ ((List.range Config.cores).flatMap fun l => leBytes (s.coreEntry d l) 8)
    ++ layout 0 512 [(0, ps.flatMap fun p => leBytes p.1 4 ++ leBytes p.2 4)]
    ++ rs.flatMap fun r => leBytes r 8
def State.sendReport (s : State) (d port : Nat) : State := s.send d 0x81 port [] (s.reportBody d)

/-! What the types do (R77, R83 to R85, R89 to R91) -/

/-- The host processor die holds a job's counter from the first JOBOPEN that it forwards, whatever the target die answers (R78,
R89). It forwards a packet of sound form (log 87) to a die that a route reaches (R460). -/
def State.forwardOpen (s : State) (p : Packet) : State :=
  if pktType p = 1 ∧ pktForm p = 0 ∧ pktDie p < 12 ∧ s.reached (pktDie p) = true ∧ (s.hjobs.find (pktJob p)).isNone = true then
    { s with hjobs := s.hjobs.put (pktJob p) { src := pktSrc p } } else s
/-- JOBOPEN (R77 to R79, R238). -/
def execJobopen (p : Packet) (s : State) : Out :=
  (s.forwardOpen p).receive 1 p fun s =>
    let d := pktAt p
    let job := pktJob p
    let t := (s.readTable79 d (pktArg2 p) (s.jobKey d job) (pktAddr p)).getD []
    { s with jobs := s.jobs.put (jkey d job) { src := pktSrc p, root := pktArg2 p, ceiling := pktArg p, table := t } }
/-- JOBCLOSE (R77, R89). -/
def execJobclose (p : Packet) (s : State) : Out :=
  s.receive 2 p fun s =>
    let job := pktJob p
    match s.hjobs.find job with
    | none => s
    | some h =>
      let left := (s.phases.filter fun c => decide (c.1 / 65536 = job) && c.2.count.isOpen).length
      ({ s with hjobs := s.hjobs.put job { h with closed := true, count := { h.count with out := left } } } : State).settleJob job (s.dcc 12)
/-- PHASEDEF (R77, R89). -/
def execPhasedef (p : Packet) (s : State) : Out :=
  s.receive 3 p fun s =>
    let job := pktJob p
    let h := (s.hjobs.find job).getD {}
    { s with
      phases := s.phases.put (gkey job (pktPhase p)) { ngraph := pktArg p, count := { out := pktArg p } }
      hjobs := s.hjobs.put job { h with nphase := h.nphase + 1 } }
/-- GRAPHDEF (R77, R89). -/
def execGraphdef (p : Packet) (s : State) : Out :=
  s.receive 4 p fun s =>
    let job := pktJob p
    let x := (s.phases.find (gkey job (pktPhase p))).getD {}
    { s with
      graphs := s.graphs.put (gkey job (pktGraph p)) { phase := pktPhase p, nlaunch := pktArg p, count := { out := pktArg p } }
      phases := s.phases.put (gkey job (pktPhase p)) { x with defined := x.defined + 1 } }
/-- CANCEL (R77, R91). -/
def execCancel (p : Packet) (s : State) : Out :=
  s.receive 6 p fun s =>
    s.cancelLevel (pktJob p) (pktLevel p) (match pktLevel p with
      | 0 => pktId p
      | 1 => pktGraph p
      | _ => pktPhase p) (s.dcc 12)
/-- Waiting launches of phases that are not active on a die no longer wait for resources alone (R81, R84). -/
def State.idle (s : State) (d : Nat) : State :=
  { s with launches := s.launches.map fun c =>
      if c.2.die = d ∧ c.2.status = .waiting ∧ s.phaseActive d c.2.job c.2.phase = false then (c.1, { c.2 with passed := none }) else c }
/-- The slice at the head of a die's schedule takes effect (R85): units of phases it leaves inactive are pre-empted, at the end of
the control cycle in which it starts (R107); those of phases it makes active may start again; and a report is sent to the host
(log 85). -/
def State.takeSlice (s : State) (d : Nat) : State :=
  match (s.die d).slices with
  | [] => s
  | x :: xs =>
    let s1 := s.setDie d { s.die d with slices := xs, current := some x }
    let us := (s1.units.filter fun c => c.2.live && decide (c.2.place.die = d)).map (·.1)
    let s2 := us.foldl (fun t u =>
      if t.unitActive u then
        let t1 := t.dropYield u 1
        match (t.unit u).status with
        | .suspended 0x42 => t1.makeReady u
        | .suspended 0x44 => if (t.unit u).moved then t1 else t1.makeReady u
        | .stopping 0x44 => if (t.unit u).moved then t1 else t1.makeReady u
        | _ => t1
      else if (t.unit u).status = .resident ∧ t.honours u x.start = true then t.askYield u 1 x.start
      else (t.dropYield u 1).stopUnit u 0x42 x.num) s1
    (s2.idle d).sendReport d 0
/-- Units whose phase the current slice leaves inactive, and that no YIELD stopped by the end of the control cycle in which it
started, are pre-empted (R85, R107). -/
def State.preempt (s : State) (d : Nat) : State :=
  match (s.die d).current with
  | none => s
  | some x =>
    (s.units.filter fun c => decide (c.2.place.die = d) && decide (c.2.status = .resident) && !s.unitActive c.1 && !s.honours c.1 x.start).foldl
      (fun t c => (t.dropYield c.1 1).stopUnit c.1 0x42 x.num) s
/-- SLICE (R77, R83 to R85): scheduled in number order; a late one is counted, and takes effect at once where its start has
passed and no slice is scheduled before it. -/
def execSlice (p : Packet) (s : State) : Out :=
  s.receive 7 p fun s =>
    let d := pktAt p
    let x := s.die d
    let pairs := (List.range (p.body.length / 8)).map fun i => (leAt p.body (8 * i) 4, leAt p.body (8 * i + 4) 2)
    let late := decide (pktArg p < x.dcc + 240000)
    let s1 := s.setDie d { x with
      slices := x.slices ++ [⟨pktArg2 p, pktArg p, pairs⟩], maxSlice := some (pktArg2 p), late := x.late + (if late then 1 else 0) }
    if x.slices.isEmpty ∧ pktArg p ≤ x.dcc then s1.takeSlice d else s1
/-- SLICE_START (R85): DCC has reached the start of the next slice. -/
def execSliceStart (die : Nat) (s : State) : Out :=
  match (s.die die).slices with
  | x :: _ => .next ((if x.start ≤ s.dcc die then s.takeSlice die else s).preempt die)
  | [] => .next (s.preempt die)
/-- QUERY (R77, R86). -/
def execQuery (p : Packet) (s : State) : Out := s.receive 8 p fun s => s.sendReport (pktAt p) p.port

/-! Completion records (R92, R93) -/

def CState.code : CState → Nat
  | .opened => 0
  | .complete => 1
  | .failed => 2
  | .cancelled => 3
  | .rejected => 4
/-- The body of a completion record (R92). -/
def recordBody (c : Counter) (origin bursts merged : Nat) : List Byte :=
  leBytes c.when 8 ++ leBytes c.state.code 1 ++ leBytes c.rej 1 ++ leBytes 0 2 ++ leBytes origin 2 ++ leBytes 0 2 ++ leBytes c.fails 4
    ++ leBytes c.retries 4 ++ leBytes c.qdisc 4 ++ leBytes c.fcause 4 ++ leBytes c.funit 8 ++ leBytes bursts 8 ++ leBytes merged 8 ++ leBytes 0 8
/-- The source that opened a job. -/
def State.jobSrc (s : State) (job : Nat) : Nat := ((s.hjobs.find job).map (·.src)).getD 0
/-- A launch's DONE packet: everything its units wrote is visible at system scope first (R93). -/
def State.doneLaunch (s : State) (lid : Nat) : State :=
  let l := s.launch lid
  if l.count.isOpen ∨ l.count.sent then s
  else
    let us := (s.units.filter fun c => decide (c.2.place.launch = lid)).map (·.1)
    if us.any fun u => (s.unit u).live || !s.drained u then s
    else
      let s1 := us.foldl (fun t u => t.widen u 5) s
      (s1.setLaunch lid { s1.launch lid with count := { l.count with sent := true }, tensors := [] }).send l.die 0x82 (s.jobSrc l.job)
        [(0x10, 4, l.job), (0x14, 4, l.id), (0x18, 2, l.graph), (0x1A, 2, l.node), (0x1C, 2, l.phase)] (recordBody l.count l.die 0 0)
/-- DONE (R93): level 0 names a launch of a die, 1 and 2 a graph and a phase by job and number, 3 a job. A level's packet
follows those of its children; after a job's, its identity is free again. -/
def execDone (level : Nat) (id : Nat) (s : State) : Out :=
  match level with
  | 0 => .next (if (s.launches.find id).isSome then s.doneLaunch id else s)
  | 1 => match s.graphs.find id with
    | some g =>
      if g.count.isOpen ∨ g.count.sent ∨ (s.launches.any fun c => decide (gkey c.2.job c.2.graph = id) && !c.2.count.sent) = true then .next s
      else .next (({ s with graphs := s.graphs.put id { g with count := { g.count with sent := true } } } : State).send 12 0x82
        (s.jobSrc (id / 65536)) [(0x10, 4, id / 65536), (0x18, 2, id % 65536), (0x1C, 2, g.phase), (0x1E, 1, 1)] (recordBody g.count 0xFFFF 0 0))
    | none => .next s
  | 2 => match s.phases.find id with
    | some x =>
      if x.count.isOpen ∨ x.count.sent
          ∨ (s.graphs.any fun c => decide (c.1 / 65536 = id / 65536) && decide (c.2.phase = id % 65536) && !c.2.count.sent) = true then .next s
      else .next (({ s with phases := s.phases.put id { x with count := { x.count with sent := true } } } : State).send 12 0x82
        (s.jobSrc (id / 65536)) [(0x10, 4, id / 65536), (0x1C, 2, id % 65536), (0x1E, 1, 2)] (recordBody x.count 0xFFFF 0 0))
    | none => .next s
  | 3 => match s.hjobs.find id with
    | some h =>
      if h.count.isOpen ∨ (s.phases.any fun c => decide (c.1 / 65536 = id) && !c.2.count.sent) = true then .next s
      else
        let s1 := s.send 12 0x82 h.src [(0x10, 4, id), (0x1E, 1, 3)] (recordBody h.count 0xFFFF h.bursts h.merged)
        .next { s1 with
          hjobs := s1.hjobs.del id
          jobs := s1.jobs.filter fun c => decide (c.1 % 2 ^ 32 ≠ id)
          phases := s1.phases.filter fun c => decide (c.1 / 65536 ≠ id)
          graphs := s1.graphs.filter fun c => decide (c.1 / 65536 ≠ id)
          launches := s1.launches.filter fun c => decide (c.2.job ≠ id)
          pfaults := s1.pfaults.filter fun c => decide (c.1 / 2 ^ 57 % 2 ^ 32 ≠ id) }
    | none => .next s
  | _ => .next s

end Sys2Proof.Machine
end

