-- ==== Sys2Proof/Machine/Admission.lean ====
section
/-! DEFINITION. The launch front end: provisional and binding reads, validation, admission (R24 to R46, R80 to R82, R219,
R221). -/
namespace Sys2Proof.Machine
open Sys2Proof

/-! Parsing (R36 to R41, R219) -/

/-- A stage record (R38). -/
def stageOf (b : List Byte) (o : Nat) : Stage :=
  { image := leAt b o 8, ilen := leAt b (o + 8) 4, entry := leAt b (o + 0xC) 4, team := leAt b (o + 0x10) 1, scr := leAt b (o + 0x11) 1
    guard := leAt b (o + 0x12) 1, acc := leAt b (o + 0x13) 1, jrn := leAt b (o + 0x14) 1, inq := leAt b (o + 0x15) 1
    umin := leAt b (o + 0x16) 2, umax := leAt b (o + 0x18) 2, hwm := leAt b (o + 0x1A) 2, lwm := leAt b (o + 0x1C) 2
    dwell := leAt b (o + 0x1E) 2, pushm := leAt b (o + 0x20) 4, popm := leAt b (o + 0x24) 4, fmti := leAt b (o + 0x28) 8
    bind := (List.range 8).map fun k => leAt b (o + 0x30 + 2 * k) 2
    nois := (List.range 8).map fun k => (leAt b (o + 0x40 + 8 * k) 4, leAt b (o + 0x44 + 8 * k) 4) }
/-- A queue record (R40). -/
def queueOf (b : List Byte) (o : Nat) : Queue :=
  { qent := leAt b o 2, qsize := leAt b (o + 2) 2, qpre := leAt b (o + 4) 2, qpra := leAt b (o + 8) 8 }
/-- A tensor descriptor (R219). -/
def tensorRec (b : List Byte) : Tensor :=
  { base := leAt b 0 8, scale := leAt b 8 8, aper := leAt b 0x10 8, ext := (List.range 4).map fun k => leAt b (0x18 + 4 * k) 4
    str := (List.range 3).map fun k => leAt b (0x28 + 6 * k) 6, fmt := leAt b 0x3A 1
    shd := decide (bits (leAt b 0x3B 1) 0 1 = 1), rdo := decide (bits (leAt b 0x3B 1) 1 1 = 1) }
/-- The fields of the head (R36) that a launch keeps; GRAPH, NODE and LAUNCHID stay the packet's, but for what MFS and check 0x0A
take of the record. DESIGN CHOICE, log 79. -/
def launchHead (h : List Byte) (l : Launch) : Launch :=
  { l with
    rid := leAt h 4 4, prio := leAt h 0x10 1, retry := leAt h 0x18 1, policy := leAt h 0x19 1, cons := decide (bits (leAt h 0x16 2) 0 1 = 1)
    param := leAt h 0x28 8, work := leAt h 0x40 8, wsize := leAt h 0x48 4, vlog := leAt h 0x4C 2
    pred := (List.range (min 8 (leAt h 0x13 1))).map fun k => leAt h (0x30 + 2 * k) 2 }

/-! Checks of R45, in their order -/

def vers (h : List Byte) : Nat := leAt h 0 2
def recLen (h : List Byte) : Nat := 128 * leAt h 2 2
def nstg (h : List Byte) : Nat := leAt h 0x11 1
def nque (h : List Byte) : Nat := leAt h 0x12 1
def nten (h : List Byte) : Nat := leAt h 0x14 2
def stgOff (h : List Byte) : Nat := leAt h 0x1C 4
def queOff (h : List Byte) : Nat := leAt h 0x20 4
def tenOff (h : List Byte) : Nat := leAt h 0x24 4
/-- 0x02 of the head: tables within LEN lines, offsets aligned. A record address that R35 does not align (log 76) and a STGOFF
below 0x80 (log 77) fail here: DESIGN CHOICE. -/
def headFits (addr : Nat) (h : List Byte) : Bool :=
  decide (addr % 128 = 0) && decide (128 ≤ recLen h) && decide (0x80 ≤ stgOff h) && decide (stgOff h % 128 = 0)
    && decide (stgOff h + 128 * nstg h ≤ recLen h) && decide (queOff h % 32 = 0) && decide (queOff h + 32 * nque h ≤ recLen h)
    && decide (tenOff h % 8 = 0) && decide (tenOff h + 8 * nten h ≤ recLen h) && decide (leAt h 0x40 8 % 65536 = 0)
/-- 0x03. -/
def headPrio (h : List Byte) (job ceiling : Nat) : Bool :=
  decide (leAt h 8 4 = job) && decide (leAt h 0x10 1 ≤ 23) && decide (ceiling ≤ leAt h 0x10 1)
/-- 0x04 of the head. -/
def headRanges (h : List Byte) : Bool :=
  decide (2 ≤ leAt h 2 2) && decide (leAt h 2 2 ≤ 0x800) && decide (1 ≤ nstg h) && decide (nstg h ≤ 16) && decide (nque h ≤ 32)
    && decide (leAt h 0x13 1 ≤ 8) && decide (nten h ≤ 256) && decide (leAt h 0xE 2 ≤ 1023) && decide (leAt h 0x16 2 ≤ 1)
    && decide (leAt h 0x18 1 ≤ 15) && decide (leAt h 0x19 1 ≤ 1) && decide (1 ≤ leAt h 0x4C 2) && decide (leAt h 0x4C 2 ≤ 4096)
    && decide (leAt h 0x1A 2 = 0) && decide (leAt h 0x4E 50 = 0)
    && (List.range 8).all fun k => decide (k < leAt h 0x13 1) || decide (leAt h (0x30 + 2 * k) 2 = 0)
/-- 0x04 of a stage and its bindings. -/
def stageRanges (g : Stage) : Bool :=
  decide (g.guard ≤ 3) && decide (g.jrn ≤ 3) && decide (1 ≤ g.umin) && decide (g.umin ≤ 384) && decide (1 ≤ g.umax) && decide (g.umax ≤ 384)
    && (decide (g.inq ≠ 0xFF) || (decide (g.hwm = 0) && decide (g.lwm = 0) && decide (g.dwell = 0)))
    && g.bind.all fun b => (decide (bits b 15 1 = 1) && decide (bits b 12 1 = 0)) || decide (b = 0)
/-- 0x05. -/
def stageNeeds (g : Stage) : Bool :=
  decide (g.team ≤ 2) && decide (1 ≤ g.scr) && decide (g.scr ≤ 32) && decide (g.guard ≤ 3) && decide (g.acc ≤ 16) && decide (g.jrn ≤ 3)
    && decide (4096 + 512 * (g.guard % 4 + 1) + 48 * teamVoices g.team * (64 * 2 ^ (g.jrn % 4)) ≤ 65536 * g.scr)
/-- 0x04 of a queue record: reserved bytes, and no source without preload. -/
def queueRanges (b : List Byte) (o : Nat) : Bool :=
  decide (leAt b (o + 6) 2 = 0) && decide (leAt b (o + 0x10) 16 = 0) && (decide (leAt b (o + 4) 2 ≠ 0) || decide (leAt b (o + 8) 8 = 0))
/-- 0x06. -/
def queueSizes (q : Queue) : Bool :=
  decide (2 ≤ q.qent) && decide (q.qent ≤ 4096) && decide (8 ≤ q.qsize) && decide (q.qsize ≤ 256) && decide (q.qsize % 8 = 0) && decide (q.qpre ≤ q.qent)
/-- 0x07. -/
def stageFlow (qs : List Queue) (g : Stage) : Bool :=
  decide (g.pushm < 2 ^ qs.length) && decide (g.popm < 2 ^ qs.length) && decide (g.umin ≤ g.umax)
    && if g.inq = 0xFF then decide (g.umax = g.umin)
       else decide (g.inq < qs.length) && decide (bits g.popm g.inq 1 = 1) && decide (g.lwm < g.hwm)
         && decide (g.hwm ≤ ((qs[g.inq]?).getD {}).qent) && decide (1 ≤ g.dwell)
/-- 0x09. An ENTRY that is no multiple of 16 fails here: DESIGN CHOICE, log 78. -/
def stageImage (g : Stage) : Bool :=
  decide (g.ilen ≠ 0) && decide (g.ilen % 16 = 0) && decide (g.entry % 16 = 0) && decide (g.entry < g.ilen)
    && g.nois.all fun n => decide (n.2 = 0) || (decide (n.1 % 4 = 0) && decide (n.2 % 4 = 0) && decide (n.1 + n.2 ≤ g.ilen))
/-- 0x04 of a tensor descriptor (R219). -/
def tensorRanges (b : List Byte) : Bool :=
  let t := tensorRec b
  decide (t.base % 4096 = 0) && decide (t.scale % 2 = 0) && decide (t.aper % 4096 = 0)
    && decide (t.base < 2 ^ 57) && decide (t.scale < 2 ^ 57) && decide (t.aper < 2 ^ 57) && (t.ext.all fun e => decide (1 ≤ e) && decide (e ≤ 2 ^ 24))
    && decide (t.fmt ≤ 6) && decide (leAt b 0x3B 1 ≤ 3) && decide (leAt b 0x3C 4 = 0)
/-- Entries of a tensor's tile tables (R221, R354). -/
def Tensor.entries (t : Tensor) : Nat :=
  t.count * (if t.shd then 2 else 1) + if t.scale = 0 ∨ t.scaleLen = 0 then 0 else (t.scale + t.scaleLen - 1) / 4096 - t.scale / 4096 + 1
/-- 0x0D of a tensor (R219, R354). -/
def State.tensorReach (s : State) (d root : Nat) (t : Tensor) : Bool :=
  (if t.shd then s.reachable d root t.base (8192 * t.count) fun l => l.r && l.w && l.e
    else s.reachable d root t.base (4096 * t.count) fun l => l.r && l.e)
    && (decide (t.scale = 0) || s.reachable d root t.scale t.scaleLen fun l => l.r && l.e)
    && (decide (t.aper = 0) || ((decide (t.fmt = 5) || decide (t.fmt = 6)) && decide (t.scale ≠ 0)))
    && (decide (t.scale ≠ 0) || decide (t.fmt ≠ 6))
/-- A tile table entry for each tile of `n` from `va` on (R221). -/
def State.tileTable (s : State) (d root va n : Nat) : NMap Tile :=
  (List.range n).foldl (fun m i => match s.walkRoot d root (va + 4096 * i) with
    | .ok l => NMap.put m i ⟨l.pa, l.r, l.w, true, l.e, l.ww⟩
    | .error _ => m) []
/-- A tensor with its tile tables (R221). -/
def State.withTiles (s : State) (d root : Nat) (t : Tensor) : Tensor :=
  { t with
    tiles := s.tileTable d root t.base (t.count * if t.shd then 2 else 1)
    stiles := if t.scale = 0 then [] else s.tileTable d root (t.scale / 4096 * 4096) (tilesOf t.scale t.scaleLen).length }
/-- Lines of the queue space that a queue takes (R27). -/
def Queue.space (q : Queue) : Nat := cdiv (q.qent * q.qsize) 128 + 1
/-- Lines of a die's queue space that launches hold (R27). -/
def State.queueUsed (s : State) (d : Nat) : Nat :=
  ((s.launches.filter fun c => decide (c.2.die = d) && decide (c.2.status = .admitted) && c.2.count.isOpen).map fun c => (c.2.queues.map Queue.space).sum).sum
/-- Tile-table entries in use on a die (R221). -/
def State.tilesUsed (s : State) (d : Nat) : Nat :=
  ((s.launches.filter fun c => decide (c.2.die = d)).map fun c => (c.2.tensors.map fun t => t.tiles.length + t.stiles.length).sum).sum
def need (b : Bool) (code : Nat) : Except Nat Unit := if b then .ok () else .error code
/-- Something read, or the code of an item that does not translate (R45). -/
def item {α : Type} : Option α → Except Nat α
  | some a => .ok a
  | none => .error 0x0D

/-- No other live launch of the job has the record's LAUNCHID (R36, R45). -/
def State.idFree (s : State) (lid job id : Nat) : Bool :=
  s.launches.all fun c => decide (c.1 = lid) || decide (c.2.job ≠ job) || decide (c.2.status ≠ .admitted) || !c.2.count.isOpen
    || decide (c.2.rid ≠ id)
/-- Frames of a work area (R43). -/
def State.framesOf (s : State) (d root va n : Nat) : List Nat :=
  (tilesOf va n).filterMap fun i => match s.walkRoot d root (4096 * i) with
    | .ok l => some (l.pa / 4096)
    | .error _ => none
/-- The binding read of a launch and its validation: the launch as it will run, or the code of its rejection (R44, R45). -/
def State.bindingRead (s : State) (lid : Nat) : Except Nat Launch := do
  let l := s.launch lid
  let d := l.die
  let j := s.job d l.job
  let root := j.root
  let read := fun (va n : Nat) => s.frontRead d root (s.jobKey d l.job) va n
  let h ← item (read l.addr 128)
  need (decide (vers h = 1)) 0x01
  let sb ← item (read (l.addr + stgOff h) (128 * nstg h))
  let tb ← item (read (l.addr + tenOff h) (8 * nten h))
  let stages := (List.range (nstg h)).map fun k => stageOf sb (128 * k)
  let tens := (List.range (nten h)).map fun k => leAt tb (8 * k) 8
  need (headFits l.addr h && (stages.all fun g => decide (g.image % 16 = 0)) && tens.all fun a => decide (a % 64 = 0)) 0x02
  need (headPrio h l.job j.ceiling) 0x03
  let qb ← item (read (l.addr + queOff h) (32 * nque h))
  let ds ← item (tens.mapM fun a => read a 64)
  need (headRanges h && s.idFree lid l.job (leAt h 4 4) && stages.all stageRanges && ((List.range (nque h)).all fun k => queueRanges qb (32 * k)) && ds.all tensorRanges) 0x04
  need (stages.all stageNeeds) 0x05
  let queues := (List.range (nque h)).map fun k => queueOf qb (32 * k)
  need (queues.all queueSizes) 0x06
  need (stages.all (stageFlow queues)) 0x07
  need (stages.all fun g => g.bind.all fun b => decide (bits b 15 1 = 0) || (s.tableRegion d l.job (bits b 0 12)).isSome) 0x08
  need (stages.all stageImage) 0x09
  let l1 := launchHead h l
  need (l1.pred.all fun n => decide (n < leAt h 0xE 2)) 0x0A
  let fs ← item (stages.mapM fun g => if g.fmti = 0 then some [] else read g.fmti 256)
  let fmts := fs.map fun b => (List.range (b.length / 4)).map fun k => (BitVec.ofNat 32 (leAt b (4 * k) 4) : Word)
  need (fmts.all fun f => f.all fun e => !entryBad e) 0x0B
  need (decide ((stages.map fun g => g.umax * (1 + g.scr + g.acc + l1.vlog)).sum ≤ l1.wsize)
    && decide (s.queueUsed d + (queues.map Queue.space).sum ≤ 65536)) 0x0C
  need (stages.all fun g => s.reachable d root g.image g.ilen fun x => x.r && x.x) 0x0D
  let pre ← item (queues.mapM fun q => if q.qpre = 0 then some [] else read q.qpra (q.qpre * q.qsize))
  need (s.reachable d root l1.work (65536 * l1.wsize) fun x => x.r && x.w) 0x0D
  let tensors := ds.map tensorRec
  need (tensors.all fun t => s.tensorReach d root t) 0x0D
  .ok { l1 with
    stages := (stages.zip fmts).map fun p => { p.1 with fmt := p.2 }
    queues := (queues.zip pre).map fun p => { p.1 with items := (List.range p.1.qpre).map fun k => (p.2.drop (k * p.1.qsize)).take p.1.qsize }
    tensors := tensors.map fun t => s.withTiles d root t
    frames := s.framesOf d root l1.work (65536 * l1.wsize) }

/-! Provisional reads and eligibility (R44, R80, R81) -/

/-- The provisional read of a waiting launch (R44): its order and needs as last read; where it cannot be made the launch has the
lowest priority and keeps the rest of the read before. DESIGN CHOICE, log 80. -/
def State.provisional (s : State) (lid : Nat) : State :=
  let l := s.launch lid
  let j := s.job l.die l.job
  let read := fun (va n : Nat) => s.frontRead l.die j.root (s.jobKey l.die l.job) va n
  match read l.addr 128 with
  | none => s.setLaunch lid { l with prio := 23, untested := true }
  | some h =>
    match read (l.addr + stgOff h) (128 * nstg h) with
    | none => s.setLaunch lid { launchHead h l with prio := 23, untested := true }
    | some sb =>
      let stages := (List.range (nstg h)).map fun k => stageOf sb (128 * k)
      let good := decide (vers h = 1) && headFits l.addr h && (stages.all fun g => decide (g.image % 16 = 0)) && headPrio h l.job j.ceiling
        && headRanges h && stages.all stageRanges && stages.all stageNeeds
      s.setLaunch lid { launchHead h l with
        prio := if leAt h 0x10 1 ≤ 23 then leAt h 0x10 1 else 23, untested := !good, stages := stages }
/-- The launches of a graph by node. -/
def State.predLaunch (s : State) (l : Launch) (n : Nat) : Option Launch :=
  (s.launches.find? fun c => decide (c.2.job = l.job) && decide (c.2.graph = l.graph) && decide (c.2.node = n)).map (·.2)
/-- Every predecessor's counter reads complete (R37, R80). -/
def State.predsDone (s : State) (l : Launch) : Bool :=
  l.pred.all fun n => match s.predLaunch l n with
    | some x => decide (x.count.state = .complete)
    | none => false
/-- A predecessor ended otherwise: the launch is cancelled (R37). -/
def State.predsLost (s : State) (l : Launch) : Bool :=
  l.pred.any fun n => match s.predLaunch l n with
    | some x => !x.count.isOpen && decide (x.count.state ≠ .complete)
    | none => false
/-- The die's free resources hold UMIN units of every stage (R80, R94). -/
def State.hasRoom (s : State) (lid : Nat) : Bool := (s.createAll lid).isSome
/-- The tensor descriptors that a waiting launch's record names, where they can be read and stand in their ranges. -/
def State.tensorsNow (s : State) (lid : Nat) : Option (List Tensor) :=
  let l := s.launch lid
  let read := fun (va n : Nat) => s.frontRead l.die (s.job l.die l.job).root (s.jobKey l.die l.job) va n
  match read l.addr 128 with
  | none => none
  | some h => match read (l.addr + tenOff h) (8 * nten h) with
    | none => none
    | some tb => match ((List.range (nten h)).mapM fun k => read (leAt tb (8 * k) 8) 64) with
      | none => none
      | some ds => if ds.all tensorRanges then some (ds.map tensorRec) else none
/-- The tile-table entries free on the die hold the launch's tables (R221). -/
def State.tilesFit (s : State) (lid : Nat) : Bool :=
  match s.tensorsNow lid with
  | some ts => decide (s.tilesUsed (s.launch lid).die + (ts.map Tensor.entries).sum ≤ 2 ^ 24)
  | none => true
/-- The launch is eligible (R80, R221). -/
def State.eligible (s : State) (lid : Nat) : Bool :=
  let l := s.launch lid
  s.predsDone l && s.phaseActive l.die l.job l.phase && (l.untested || (s.hasRoom lid && s.tilesFit lid))
/-- Launch `a` comes before launch `b` in the order of R81. -/
def comesFirst (a b : Nat × Launch) : Bool :=
  decide (a.2.prio < b.2.prio) || (decide (a.2.prio = b.2.prio) && (decide (a.2.arrival < b.2.arrival) || (decide (a.2.arrival = b.2.arrival) && decide (a.1 < b.1))))
/-- Nothing stands before the launch (R81): no launch that comes first is eligible, and none of equal or smaller PRIO is blocking. Of
two blocking launches the first in order goes first (log 88). -/
def State.firstInLine (s : State) (lid : Nat) : Bool :=
  let l := s.launch lid
  (s.waiting l.die).all fun c => decide (c.1 = lid) ||
    !((comesFirst c (lid, l) && s.eligible c.1)
      || (c.2.blocking && decide (c.2.prio ≤ l.prio) && (!l.blocking || comesFirst c (lid, l))))
/-- A launch is admitted (R46, R89): OUT is the sum of UMIN, and its units are created. -/
def State.admitWith (s : State) (lid : Nat) (l : Launch) : Option State :=
  let out := (l.stages.map (·.umin)).sum
  (s.setLaunch lid { l with status := .admitted, began := s.dcc l.die, passed := none, blocking := false, untested := false
                            count := { l.count with out := out } }).createAll lid
/-- The launch waits for resources alone from now on, or still does (R81). -/
def State.passOver (s : State) (lid : Nat) : State :=
  let l := s.launch lid
  s.setLaunch lid { l with passed := some (l.passed.getD (s.dcc l.die)) }
/-- LAUNCH_ADMISSION (R37, R44 to R46, R80, R81): the front end considers a waiting launch. -/
def execLaunchAdmission (lid : Nat) (s0 : State) : Out :=
  let l0 := s0.launch lid
  if (s0.launches.find lid).isNone = true ∨ l0.status ≠ .waiting ∨ l0.count.isOpen = false ∨ (s0.die l0.die).boot < 5 then .next s0
  else
    let s := s0.provisional lid
    let l := s.launch lid
    if s.predsLost l then .next (s.cancelLaunch lid)
    else if s.predsDone l = false ∨ s.phaseActive l.die l.job l.phase = false then .next (s.setLaunch lid { l with passed := none })
    else if s.eligible lid = false then .next (s.passOver lid)
    else if s.firstInLine lid = false then .next s
    else match s.bindingRead lid with
      | .error c =>
        let s1 := s.setLaunch lid { l with count := { l.count with rej := c } }
        .next (s1.closeLaunch lid .rejected)
      | .ok x =>
        let tiles := (x.tensors.map Tensor.entries).sum
        if 2 ^ 24 < s.tilesUsed l.die + tiles then .next (s.passOver lid)
        else match s.admitWith lid x with
          | some t => .next t
          | none => .next ((s.setLaunch lid { l with prio := x.prio, untested := false, stages := x.stages }).passOver lid)
/-- LAUNCH_BLOCKING (R81): passed over for 2^24 reference cycles. -/
def execLaunchBlocking (lid : Nat) (s : State) : Out :=
  let l := s.launch lid
  match l.passed with
  | some t =>
    if l.status = .waiting ∧ l.count.isOpen = true ∧ s.predsDone l = true ∧ s.phaseActive l.die l.job l.phase = true ∧ t + 2 ^ 24 ≤ s.dcc l.die then .next (s.setLaunch lid { l with blocking := true }) else .next s
  | none => .next s
/-- LAUNCH (R44, R77 to R80): the launch joins the admission queue of its die as waiting. -/
def execLaunch (p : Packet) (s : State) : Out :=
  s.receive 5 p fun s =>
    let d := pktAt p
    let job := pktJob p
    let lid := s.nextLaunch
    let l : Launch := { die := d, job := job, id := pktId p, graph := pktGraph p, node := pktNode p, phase := pktPhase p, addr := pktAddr p,
                        src := pktSrc p, arrival := s.dcc d }
    let s1 := { s.setLaunch lid l with nextLaunch := lid + 1 }
    let s2 := match s1.graphs.find (gkey job (pktGraph p)) with
      | some g => { s1 with graphs := s1.graphs.put (gkey job (pktGraph p)) { g with nodes := g.nodes ++ [(pktNode p, pktId p, lid)] } }
      | none => s1
    s2.provisional lid

end Sys2Proof.Machine
end

