-- ==== Sys2Proof/Machine/Trans.lean ====
section
/-! DEFINITION. Translation messages from the host: PREADY, INVAL and the answer INVACK (R214 to R218). -/
namespace Sys2Proof.Machine
open Sys2Proof

def msgType (m : XlatMsg) : Nat := leAt m.bytes 0 1
def msgDie (m : XlatMsg) : Nat := leAt m.bytes 1 1
def msgFlags (m : XlatMsg) : Nat := leAt m.bytes 2 2
def msgJob (m : XlatMsg) : Nat := leAt m.bytes 4 4
def msgVa (m : XlatMsg) : Nat := leAt m.bytes 8 8
def msgGen (m : XlatMsg) : Nat := leAt m.bytes 0x10 8
def msgCount (m : XlatMsg) : Nat := leAt m.bytes 0x18 4
def msgTag (m : XlatMsg) : Nat := leAt m.bytes 0x1C 4
def msgAll (m : XlatMsg) : Bool := decide (bits (msgFlags m) 0 1 = 1)

/-- The message is none that a die acts on: unknown type, a nonzero zero field, or a job that is not open (R214). -/
def State.badMsg (s : State) (m : XlatMsg) : Bool :=
  (match msgType m with
    | 2 => decide (msgFlags m ≠ 0) || decide (msgCount m ≠ 0)
    | 3 => decide (2 ≤ msgFlags m) || decide (msgVa m % 4096 ≠ 0) || (msgAll m && decide (msgCount m ≠ 0))
    | _ => true) || (s.jobs.find (jkey (msgDie m) (msgJob m))).isNone
/-- A GEN above the die's for the job takes its place and sets every REFAULT of the job to 0 (R216, R217). The model holds no
cached translation beside the tile tables (log 7). -/
def State.newGen (s : State) (d job gen : Nat) : State :=
  if (s.job d job).gen < gen then
    { s with
      jobs := s.jobs.put (jkey d job) { s.job d job with gen := gen }
      pfaults := s.pfaults.map fun (c : Nat × PFault) =>
        if c.1 / 2 ^ 57 = jkey d job then (c.1, { c.2 with refault := 0 }) else c }
  else s
/-- A message of type `ty` reaches its die, where a route does, and is checked; `f` is its own action (R214, R216, R460). -/
def State.receiveMsg (s : State) (ty : Nat) (m : XlatMsg) (f : State → State) : Out :=
  let d := msgDie m
  if Config.dies ≤ d ∨ s.reached d = false then .next s
  else if s.badMsg m then .next (s.setDie d { s.die d with linkErrors := (s.die d).linkErrors + 1 })
  else if msgType m ≠ ty then .next s
  else .next (f (s.newGen d (msgJob m) (msgGen m)))

/-- PREADY (R216): the page is no longer outstanding, and every team that waits on it may start, and waits on it no more. -/
def execPready (m : XlatMsg) (s : State) : Out :=
  s.receiveMsg 2 m fun s =>
    let d := msgDie m
    let page := msgVa m / 4096 * 4096
    let k := jkey d (msgJob m) * 2 ^ 57 + page
    let s1 : State := match s.pfaults.find k with
      | some f => { s with pfaults := s.pfaults.put k { f with outstanding := false } }
      | none => s
    (s1.waiters d (msgJob m) page).foldl (fun t u => (t.setUnit u { t.unit u with page := none }).makeReady u) s1

/-- Page number `n` is one that the INVAL names (R214, R218). -/
def msgNames (m : XlatMsg) (n : Nat) : Bool :=
  msgAll m || (decide (msgVa m / 4096 ≤ n) && decide (n < msgVa m / 4096 + msgCount m))
/-- Frames of a tensor's tiles on the named pages, and the tensor with those tiles' entries invalid (R218). -/
def Tensor.namedFrames (t : Tensor) (m : XlatMsg) : List Nat :=
  (t.tiles.filterMap fun c => if msgNames m (t.base / 4096 + c.1) then some (c.2.pa / 4096) else none) ++
    t.stiles.filterMap fun c => if msgNames m (t.scale / 4096 + c.1) then some (c.2.pa / 4096) else none
def Tensor.unmap (t : Tensor) (m : XlatMsg) : Tensor :=
  { t with
    tiles := t.tiles.map fun (c : Nat × Tile) => if msgNames m (t.base / 4096 + c.1) then (c.1, { c.2 with ok := false }) else c
    stiles := t.stiles.map fun (c : Nat × Tile) => if msgNames m (t.scale / 4096 + c.1) then (c.1, { c.2 with ok := false }) else c }
/-- The commands of a job's units on a die. -/
def State.jobCmds (s : State) (d job : Nat) : List Cmd :=
  s.ctxs.flatMap fun c => if (s.unit (c.1 / 12)).place.die = d ∧ (s.unit (c.1 / 12)).place.job = job then c.2.queue ++ c.2.flight else []
/-- Frames that the named pages mapped, as far as any command can still pin them (R218). -/
def State.namedFrames (s : State) (m : XlatMsg) : List Nat :=
  let cmds := s.jobCmds (msgDie m) (msgJob m)
  let ls := s.launches.filter fun l => decide (l.2.die = msgDie m) && decide (l.2.job = msgJob m)
  ((ls.flatMap fun l => l.2.tensors.flatMap fun t => t.namedFrames m)
    ++ cmds.flatMap fun q => q.tens.namedFrames m ++ q.pages.filterMap fun p => if msgNames m p.1 then some p.2 else none).eraseDups
/-- Voice accesses of a job on a die whose data have not arrived: unit, voice, register (R186, R218). -/
def State.jobLoads (s : State) (m : XlatMsg) : List (Nat × Nat × Nat) :=
  s.voices.flatMap fun v =>
    if (s.unit (v.1 / 4)).place.die = msgDie m ∧ (s.unit (v.1 / 4)).place.job = msgJob m then v.2.busy.map fun r => (v.1 / 4, v.1 % 4, r)
    else []
/-- Waits on a barrier or at a semaphore of a job on a die, whose access has translated a named page: unit, voice, wait (R218, R401,
R405). -/
def State.jobWaits (s : State) (m : XlatMsg) : List (Nat × Nat × Wait) :=
  s.voices.flatMap fun v =>
    if (s.unit (v.1 / 4)).place.die = msgDie m ∧ (s.unit (v.1 / 4)).place.job = msgJob m ∧ msgNames m (v.2.waitVa / 4096) = true then
      match v.2.status with
      | .waiting (.barrier p g) _ => [(v.1 / 4, v.1 % 4, .barrier p g)]
      | .waiting (.semaphore p) _ => [(v.1 / 4, v.1 % 4, .semaphore p)]
      | _ => []
    else []
/-- Voice `j` of unit `u` is in the wait. -/
def State.inWait (s : State) (u j : Nat) (w : Wait) : Bool :=
  match (s.voice u j).status with
  | .waiting k _ => decide (k = w)
  | _ => false
/-- INVAL (R218): tile-table entries of the job's launches that cover the pages become invalid, watches on them fire (R402),
and the die owes an INVACK. -/
def execInval (m : XlatMsg) (s : State) : Out :=
  s.receiveMsg 3 m fun s =>
    { s with
      launches := s.launches.map fun (l : Nat × Launch) =>
        if l.2.die = msgDie m ∧ l.2.job = msgJob m then (l.1, { l.2 with tensors := l.2.tensors.map fun t => t.unmap m }) else l
      voices := s.voices.map fun (v : Nat × Voice) => match v.2.watch with
        | some w => if ((s.unit (v.1 / 4)).place.die = msgDie m ∧ (s.unit (v.1 / 4)).place.job = msgJob m) ∧ msgNames m (w.va / 4096) = true
            then (v.1, { v.2 with watch := some { w with fired := true } }) else v
        | none => v
      invals := s.invals ++ [(msgDie m, ⟨m, s.namedFrames m, s.jobLoads m, s.jobWaits m⟩)] }
/-- INVACK (R218): the oldest INVAL of the die is answered once no pin holds a frame its pages mapped, and no voice access
that was outstanding at the INVAL still is, a wait on a barrier or at a semaphore among them. A store that stands in an open
span version is not waited for, and commits to the frame it found. DESIGN CHOICE, log 100. -/
def execInvack (die : Nat) (s : State) : Out :=
  match s.invals.find? fun c => decide (c.1 = die) with
  | none => .next s
  | some c =>
    if (c.2.frames.any fun f => (s.pinned die).contains f) || (c.2.loads.any fun l => (s.voice l.1 l.2.1).busy.contains l.2.2)
        || (c.2.waits.any fun w => s.inWait w.1 w.2.1 w.2.2) then .next s
    else .next { s with
      invals := s.invals.erase c
      xlatOut := s.xlatOut ++ [xlatMsg 4 die 0 (msgJob c.2.msg) (msgVa c.2.msg) (msgGen c.2.msg) 0 (msgTag c.2.msg)] }

end Sys2Proof.Machine
end

