-- ==== Sys2Proof/Machine/Drone.lean ====
section
/-! DEFINITION. Each die's Drone: start-up and power, recovery, measurement, the SPDM responder and the management set (R462
to R466). -/
namespace Sys2Proof.Machine
open Sys2Proof

def State.drone (s : State) (d : Nat) : Drone := s.drones.getD d {}
def State.setDrone (s : State) (d : Nat) (x : Drone) : State := { s with drones := s.drones.put d x }

/-! Measurement (R464, R466) -/

/-- The regions of a die, in directory order: ascending NAME (log 40). -/
def State.directory (s : State) (d : Nat) : List (Nat × Region) :=
  (s.regions.filter fun c => decide (c.1 / 2 ^ 64 = d)).map fun c => (c.1 % 2 ^ 64, c.2)
/-- A directory entry (R235, R236). -/
def Region.entry (r : Region) (name : Nat) : List Byte :=
  leBytes name 8 ++ leBytes r.ownk 8 ++ leBytes r.fmt 1 ++ leBytes r.sm 1
    ++ leBytes ((([r.shr, r.nomrg, r.pair, r.dmg, r.act, r.popen].zipIdx).map fun p => if p.1 then 2 ^ p.2 else 0).sum) 2
    ++ leBytes r.kext 4 ++ leBytes r.next 4 ++ leBytes r.core0 1 ++ leBytes r.cstep 1 ++ leBytes 0 2
    ++ leBytes r.off0 4 ++ leBytes r.off1 4 ++ leBytes r.soff0 4 ++ leBytes r.soff1 4 ++ leBytes r.gen 8 ++ leBytes 0 8
def noDigest : List Byte := List.replicate 32 0
/-- The digest of a bank (R359, R464): all ones for a damaged region; unspecified where a codeword is poisoned. -/
def State.bankDigest (s : State) (d : Nat) (r : Region) (bank : Bool) : List Byte :=
  if r.dmg then List.replicate 32 0xFF
  else
    let as := r.digestAddrs d bank
    if as.any fun a => (s.wpoison.find (a / 64)).isSome then (List.range 32).map fun i => Config.freeByte s.fresh i
    else Sm3.hash (as.map s.cell)
/-- Both banks of a region measured (R462 step 4, R464). -/
def State.measure (s : State) (d : Nat) (c : Nat × Region) : Measured :=
  ⟨c.1, c.2.gen, s.bankDigest d c.2 false, if c.2.pair then s.bankDigest d c.2 true else noDigest⟩
/-- The active bank of a region measured again (R466). -/
def State.remeasure (s : State) (d : Nat) (c : Nat × Region) (m : Measured) : Measured :=
  let x := s.bankDigest d c.2 c.2.act
  if c.2.act then { m with gen := c.2.gen, d1 := x } else { m with gen := c.2.gen, d0 := x }
/-- The latest digests of a region, zeros where it has not been measured since it was created (R466). -/
def Drone.latestOf (x : Drone) (c : Nat × Region) : Measured :=
  (x.latest.find? fun m => decide (m.name = c.1)).getD ⟨c.1, c.2.gen, noDigest, noDigest⟩
/-- A record of the region list (R464). -/
def Measured.bytes (m : Measured) : List Byte := leBytes m.name 8 ++ leBytes m.gen 8 ++ m.d0 ++ m.d1
/-- The measurement blocks computed from the directory as it stands (R464, R466). -/
def State.compile (s : State) (d : Nat) (x : Drone) : Drone :=
  let dir := s.directory d
  let rs := dir.map x.latestOf
  { x with
    directory := Sm3.hash (dir.flatMap fun c => c.2.entry c.1)
    records := rs
    list := Sm3.hash (rs.flatMap Measured.bytes)
    blocks := (dir.take 224).map fun c => if c.2.act then (x.latestOf c).d1 else (x.latestOf c).d0 }
/-- The measurement block at an index (R464). -/
def Drone.block (x : Drone) (i : Nat) : Option (List Byte) :=
  match i with
  | 1 => some x.firmware
  | 2 => some x.directory
  | 3 => some x.list
  | i => if i < 0x10 then none else x.blocks[i - 0x10]?

/-! Start-up (R248, R251, R462, R463) -/

/-- Where the firmware image begins (R463). -/
def imageAt (d : Nat) : Nat := waOf d 0 0x1C000000
/-- An image passes (R463): `ok` says its bytes can be read, `f` gives them. -/
def imagePasses (ok : Nat → Bool) (f : Nat → Byte) : Bool :=
  let h := (List.range 128).map f
  let ilen := leAt h 4 4
  decide (leAt h 0 4 = 0x41580003) && decide (4096 ≤ ilen) && decide (ilen ≤ 2 ^ 24) && decide (ilen % 4096 = 0)
    && decide (leAt h 0x70 16 = 0) && (List.range ilen).all ok
    && decide (Sm3.hash ((List.range' 128 (ilen - 128)).map f) = (h.drop 0x10).take 32) && Config.sm2Verifies (h.take 0x70)
/-- The stored image of a die passes at step 1. -/
def State.imageOk (s : State) (d : Nat) : Bool :=
  imagePasses (fun i => (s.wpoison.find ((imageAt d + i) / 64)).isNone && (s.unusable.find (bankKey (imageAt d + i))).isNone)
    fun i => s.cell (imageAt d + i)
/-- Steps 1 to 5 of the boot sequence on a die whose state is at reset (R462); without a passing image, recovery mode
(R463). -/
def State.bootDie (s : State) (d : Nat) : State :=
  if s.imageOk d then
    let x : Drone := {
      firmware := (List.range' 0x10 32).map fun i => s.cell (imageAt d + i)
      latest := (s.directory d).map (s.measure d) }
    (s.setDie d { s.die d with boot := 5 }).setDrone d (s.compile d x)
  else s.setDie d { s.die d with recovery := true }
/-- A row of the region lies in an unusable bank (R251). -/
def State.brokenRegion (s : State) (d : Nat) (r : Region) : Bool :=
  s.unusable.any fun k => (r.rows d).any fun w => decide (w / 8192 = k.1)
/-- The damage marks of a start (R248, R251). -/
def State.markRegion (s : State) (c : Nat × Region) : Nat × Region :=
  if c.2.popen ∨ s.brokenRegion (c.1 / 2 ^ 64) c.2 = true then (c.1, { c.2 with dmg := true, popen := false, rewritten := [] }) else c
/-- All that power-off leaves: the weight tier with its directories, remap tables and wear, and the error log with the lasting rows that
wait for their spare (R235, R247, R249, R437, R438). -/
def State.cold (s : State) : State :=
  { form := s.form, sel := s.sel, agenda := s.agenda, fresh := s.fresh
    wt := s.wt, wpoison := s.wpoison, wear := s.wear, remap := s.remap, unusable := s.unusable, rtabs := s.rtabs, rdigest := s.rdigest
    regions := s.regions.map fun (c : Nat × Region) => (c.1, { c.2 with pending := [], signalled := [] })
    rewrites := s.rewrites.filter fun c => !c.2
    soft := s.soft, lasting := s.lasting.filter fun c => decide (c.1 < 2 ^ 60) }
/-- The sizes that firmware may find fitted on a die (R3): 64 GiB on the module; 16, 32 or 64 GiB on the package. -/
def State.sizeFound (s : State) (n : Nat) : Nat :=
  if s.form = .p12w48 ∧ (n = 16 ∨ n = 32) then n * 2 ^ 30 else Config.fitted
/-- The copies of remap tables as the Drone finds them at a start: bank, number of the copy, its bytes (R251). -/
def State.findCopies (s : State) (cs : List (Nat × Nat × List Byte)) : State :=
  { s with rtabs := cs.foldl (fun m c => NMap.put m c.1 ((NMap.getD m c.1 (List.replicate 3 (tableCopy 0 []))).set c.2.1 c.2.2)) s.rtabs }
/-- Every remap table is checked: those found changed, those of banks unusable before, and those in use (R251). -/
def State.checkBanks (s : State) (cs : List (Nat × Nat × List Byte)) : State :=
  ((cs.map (·.1) ++ s.unusable.map (·.1) ++ s.rtabs.map (·.1)).eraseDups).foldl State.checkBank s
/-- POWER_ON_RESET (R3, R251, R460, R462): every die leaves reset, finds its memory and its remap tables, trains its links, and
boots. -/
def execPowerOnReset (x : Found) (s : State) : Out :=
  let s0 := s.cold
  let s1 := (List.range Config.dies).foldl (fun (t : State) d =>
    t.setDie d { t.die d with fitted := s.sizeFound (x.fitted.getD d 64) }) s0
  let s2 := (s1.findCopies x.copies).checkBanks x.copies
  let s3 := { s2 with regions := s2.regions.map s2.markRegion }
  let s4 := { s3 with badLinks := x.links, badPorts := x.ports }
  .next ((List.range Config.dies).foldl State.bootDie { s4 with unreached := (List.range Config.dies).filter fun d => !s4.reached d })
/-- POWER_LOSS (R248, R462, R465). -/
def execPowerLoss (s : State) : Out := .next s.cold

/-! Requests and answers (R465) -/

def State.answer (s : State) (d code status : Nat) (bs : List Byte) : State :=
  { s with answers := s.answers ++ [⟨d, code, status, bs⟩] }
/-- A request that the die, where a route reaches it, answers once its boot is complete: refused with a status other than 0, or
performed (R460, R462). -/
def State.request (s : State) (d code status : Nat) (f : State → State) : Out :=
  if (s.die d).boot ≠ 5 ∨ s.reached d = false then .next s
  else if status ≠ 0 then .next (s.answer d code status [])
  else .next (f s)
/-- A management request: accepted only in a session (R465). -/
def State.managed (s : State) (d code status : Nat) (f : State → State) : Out :=
  s.request d code (if (s.drone d).spdm = 5 then status else 6) f
def refuseIf (b : Bool) (status : Nat) : Nat := if b then status else 0
/-- An SPDM step that takes the Drone to state `n`, with what it answers. -/
def State.spdmTo (s : State) (d code n : Nat) (bs : List Byte) : State :=
  (s.setDrone d { s.drone d with spdm := n }).answer d code 0 bs
/-- Bytes of an answer that the spec does not give (log 13). -/
def State.spdmFree (s : State) (d code : Nat) : List Byte := Config.spdmBytes d (code + 256 * (s.fresh + 1))
/-- The certificate chain of slot 0. -/
def certChain (d : Nat) : List Byte := Config.spdmBytes d 0

/-- GET_VERSION: version 1.2. It begins a new connection (log 41). -/
def execGetVersion (die : Nat) (s : State) : Out := s.request die 0x84 0 fun s => s.spdmTo die 0x84 1 (leBytes 0x1200 2)
/-- The codes of the requests that the responder has, in the order of R465 (log 41). -/
def spdmRequests : List Byte := [0x84, 0xE1, 0xE3, 0x81, 0x82, 0x83, 0xE0, 0xE4, 0xE5, 0xEC]
/-- The algorithms of R465 by their bits in DSP0274 (log 41): signature SM2 on P256, hash SM3-256, key exchange SM2 on P256, AEAD SM4-GCM. -/
def spdmAlgorithms : List Byte := leBytes 0x200 4 ++ leBytes 0x40 4 ++ leBytes 0x40 2 ++ leBytes 8 2
/-- GET_CAPABILITIES: the requests of R465. -/
def execGetCapabilities (die : Nat) (s : State) : Out :=
  s.request die 0xE1 (refuseIf (decide ((s.drone die).spdm ≠ 1)) 6) fun s => s.spdmTo die 0xE1 2 spdmRequests
/-- NEGOTIATE_ALGORITHMS: the algorithms of R465. -/
def execNegotiateAlgorithms (die : Nat) (s : State) : Out :=
  s.request die 0xE3 (refuseIf (decide ((s.drone die).spdm ≠ 2)) 6) fun s => s.spdmTo die 0xE3 3 spdmAlgorithms
/-- GET_DIGESTS: the SM3 digest of the one chain. -/
def execGetDigests (die : Nat) (s : State) : Out :=
  s.request die 0x81 (refuseIf (decide ((s.drone die).spdm < 3)) 6) fun s => s.answer die 0x81 0 (Sm3.hash (certChain die))
/-- GET_CERTIFICATE: slot 0 alone holds a chain. -/
def execGetCertificate (die slot : Nat) (s : State) : Out :=
  s.request die 0x82 (if (s.drone die).spdm < 3 then 6 else refuseIf (decide (slot ≠ 0)) 1)
    fun s => s.answer die 0x82 0 (certChain die)
/-- CHALLENGE: a signed answer to the nonce. -/
def execChallenge (die : Nat) (nonce : List Byte) (s : State) : Out :=
  s.request die 0x83 (refuseIf (decide ((s.drone die).spdm < 3)) 6)
    fun s => s.answer die 0x83 0 (nonce ++ s.spdmFree die 0x83)
/-- GET_MEASUREMENTS (R464). -/
def execGetMeasurements (die index : Nat) (s : State) : Out :=
  s.request die 0xE0 (if (s.drone die).spdm < 3 then 6 else refuseIf ((s.drone die).block index).isNone 1)
    fun s => s.answer die 0xE0 0 (((s.drone die).block index).getD [])
/-- KEY_EXCHANGE. -/
def execKeyExchange (die : Nat) (s : State) : Out :=
  s.request die 0xE4 (refuseIf (decide ((s.drone die).spdm ≠ 3)) 6) fun s => s.spdmTo die 0xE4 4 (s.spdmFree die 0xE4)
/-- FINISH: the session stands. -/
def execFinish (die : Nat) (s : State) : Out :=
  s.request die 0xE5 (refuseIf (decide ((s.drone die).spdm ≠ 4)) 6) fun s => s.spdmTo die 0xE5 5 []
/-- END_SESSION. -/
def execEndSession (die : Nat) (s : State) : Out :=
  s.request die 0xEC (refuseIf (decide ((s.drone die).spdm ≠ 5)) 6) fun s => s.spdmTo die 0xEC 3 []

/-- KEYSET. -/
def execKeyset (die jobid keyid : Nat) (xts1 xts2 onDie : BitVec 128) (s : State) : Out :=
  s.managed die 0x01 (refuseIf ((s.jobs.find (jkey die jobid)).isSome || (s.keys.find (jkey die jobid)).isSome) 6)
    fun s => ({ s with keys := s.keys.put (jkey die jobid) ⟨keyid, xts1, xts2, onDie⟩ } : State).answer die 0x01 0 []
/-- KEYDEL. -/
def execKeydel (die jobid : Nat) (s : State) : Out :=
  s.managed die 0x02 (refuseIf (s.jobs.find (jkey die jobid)).isSome 6)
    fun s => ({ s with keys := s.keys.del (jkey die jobid) } : State).answer die 0x02 0 []

/-- Areas of a region on each of its home cores: first offset and length (R237). -/
def Region.areas (r : Region) : List (Nat × Nat) :=
  (if r.pair then [false, true] else [false]).flatMap fun b =>
    (r.off b, r.tileLen) :: if r.sm = 1 then [(r.soff b, r.scaleLen)] else []
def apart (a b : Nat × Nat) : Bool := decide (a.1 + a.2 ≤ b.1) || decide (b.1 + b.2 ≤ a.1)
def allApart : List (Nat × Nat) → Bool
  | [] => true
  | a :: t => t.all (apart a) && allApart t
def Region.homes (r : Region) : List Nat := (List.range r.groups).map r.homeOf
/-- The region that REGMK asks for (R235, R236). -/
def RegionSpec.region (q : RegionSpec) : Region :=
  { ownk := q.ownk, fmt := q.fmt, sm := q.sm, shr := bits q.rflg 0 1 = 1, nomrg := bits q.rflg 1 1 = 1, pair := bits q.rflg 2 1 = 1
    kext := q.kext, next := q.next, core0 := q.core0, cstep := q.cstep
    off0 := q.off0, off1 := q.off1, soff0 := q.soff0, soff1 := q.soff1 }
def placed (used : Bool) (o : Nat) : Bool := if used then decide (o % 512 = 0) else decide (o = 0)
/-- The fields stand in the ranges of R235 to R237, and the region's own areas fit. -/
def RegionSpec.fieldsOk (q : RegionSpec) : Bool :=
  let r := RegionSpec.region q
  decide (0 < q.name) && decide (q.name < 2 ^ 64) && decide (q.ownk < 2 ^ 64) && decide (1 ≤ q.fmt) && decide (q.fmt ≤ 6)
    && decide (q.sm ≤ 1) && (decide (q.sm = 0) || decide (5 ≤ q.fmt)) && (decide (q.fmt ≠ 6) || decide (q.sm = 1)) && decide (q.rflg < 8)
    && decide (1 ≤ q.kext) && decide (q.kext ≤ 2 ^ 20) && decide (1 ≤ q.next) && decide (q.next ≤ 15360)
    && decide (q.core0 ≤ 95) && decide (1 ≤ q.cstep) && decide (q.cstep ≤ 95)
    && placed true q.off0 && placed r.pair q.off1 && placed (decide (q.sm = 1)) q.soff0 && placed (r.pair && decide (q.sm = 1)) q.soff1
    && decide r.homes.Nodup && allApart r.areas && r.areas.all (fun a => decide (a.1 + a.2 ≤ 2 ^ 29))
    && (!r.homes.contains 0 || r.areas.all fun a => apart a (0x1C000000, 0x04000000))
/-- No area meets one of a region already in the directory, and the name is new (R235, R237). -/
def State.regionFits (s : State) (d : Nat) (q : RegionSpec) : Bool :=
  let r := RegionSpec.region q
  (s.directory d).all fun c => decide (c.1 ≠ q.name) &&
    (!(c.2.homes.any r.homes.contains) || c.2.areas.all fun a => r.areas.all (apart a))
/-- A weight address lies in an area of the region. -/
def Region.has (r : Region) (d wa : Nat) : Bool := decide (waDie wa = d) && (r.groupAt (waCore wa)).isSome && (r.locate (waOff wa)).isSome
/-- REGMK: its rows read as zero until they are written. -/
def execRegmk (die : Nat) (r : RegionSpec) (s : State) : Out :=
  s.managed die 0x03 (if RegionSpec.fieldsOk r = false then 1 else refuseIf (!s.regionFits die r) 6) fun s =>
    let g := RegionSpec.region r
    ({ s with
        regions := s.regions.put (rkey die r.name) { g with dmg := s.brokenRegion die g }
        wt := s.wt.filter fun c => !g.has die c.1
        wpoison := s.wpoison.filter fun c => !g.has die (c.1 * 64) } : State).answer die 0x03 0 []
/-- REGDEL: also a REMEAS in progress forgets the region (log 102). -/
def execRegdel (die name : Nat) (s : State) : Out :=
  s.managed die 0x04
    (if name = 0 then 1 else match s.regions.find (rkey die name) with
      | none => 6
      | some r => refuseIf (r.popen || s.boundLive (rkey die name)) 6)
    fun s =>
      let x := s.drone die
      (({ s with regions := s.regions.del (rkey die name) } : State).setDrone die
        { x with
          latest := x.latest.filter fun m => decide (m.name ≠ name)
          busy := x.busy.map fun b => (b.1.filter fun m => decide (m.name ≠ name), b.2) }).answer die 0x04 0 []
/-- REGLIST: records as last hashed. -/
def execReglist (die first count : Nat) (s : State) : Out :=
  s.managed die 0x05 (refuseIf (decide (64 < count)) 1)
    fun s => s.answer die 0x05 0 ((((s.drone die).records.drop first).take count).flatMap Measured.bytes)
/-- The region can be measured: no run is open and no swap is between its beginning and its release (R466). -/
def State.measurable (s : State) (c : Nat × Region) : Bool := !c.2.popen && s.released c.1 c.2
/-- The regions of a die that a REMEAS names. -/
def State.named (s : State) (d name : Nat) : List (Nat × Region) := (s.directory d).filter fun c => decide (name = 0) || decide (c.1 = name)
/-- A REMEAS digests the active banks of its regions as they stand when it begins; it lasts a time that no rule gives (R466, log 102). -/
def State.beginRemeas (s : State) (d name : Nat) : State :=
  let x := s.drone d
  s.setDrone d { x with busy := some ((s.named d name).map (fun c => s.remeasure d c (x.latestOf c)), s.dcc d + Config.measureTime s.fresh) }
/-- What a REMEAS measured of a region, unspecified where it met a codeword that has become poison (R250, R464). -/
def State.metPoison (s : State) (d : Nat) (m : Measured) : Measured :=
  match s.regions.find (rkey d m.name) with
  | none => m
  | some r =>
    if !r.dmg && (r.digestAddrs d r.act).any fun a => (s.wpoison.find (a / 64)).isSome then s.remeasure d (m.name, { r with gen := m.gen }) m else m
/-- At its end the blocks are computed from the directory as it then stands, and it is answered with the new digests (R466). -/
def State.endRemeas (s : State) (d : Nat) (l : List Measured) : State :=
  let ms := l.map (s.metPoison d)
  let x := s.drone d
  let y := s.compile d { x with busy := none, latest := ms ++ x.latest.filter fun m => !(ms.any fun c => decide (c.name = m.name)) }
  (s.setDrone d y).answer d 0x06 0 (ms.flatMap fun m => m.d0 ++ m.d1)
/-- The REMEAS in progress ends when its time is over. -/
def State.finishRemeas (s : State) (d : Nat) : State :=
  match (s.drone d).busy with
  | some (ms, e) => if e ≤ s.dcc d then s.endRemeas d ms else s
  | none => s
/-- Where none is in progress, the oldest REMEAS that waits begins once its regions can be measured. -/
def State.startRemeas (s : State) (d : Nat) : State :=
  match (s.drone d).busy, (s.drone d).queued with
  | none, n :: t =>
    if (s.named d n).all fun c => s.measurable (rkey d c.1, c.2) then (s.setDrone d { s.drone d with queued := t }).beginRemeas d n else s
  | _, _ => s
def State.serveRemeas (s : State) (d : Nat) : State := (s.finishRemeas d).startRemeas d
/-- REMEAS (R466): it waits until its regions can be measured, behind those that wait. -/
def execRemeas (die name : Nat) (s : State) : Out :=
  s.managed die 0x06 (refuseIf (decide (name ≠ 0) && (s.named die name).isEmpty) 6) fun s =>
    (s.setDrone die { s.drone die with queued := (s.drone die).queued ++ [name] }).serveRemeas die
/-- CNTRD (R439). -/
def execCntrd (die : Nat) (s : State) : Out :=
  s.managed die 0x07 0 fun s => s.answer die 0x07 0 ((List.range 10).flatMap fun k => leBytes ((s.die die).counters.getD k 0) 8)
/-- CFGSET (R429, R435, R437): a domain that is disabled returns to its nominal voltage. -/
def execCfgset (die tt window : Nat) (undervolt : List Bool) (s : State) : Out :=
  s.managed die 0x08 (refuseIf (decide (tt < 70) || decide (94 < tt) || decide (window < 1) || decide (168 < window)) 1) fun s =>
    let s1 := s.setDie die { s.die die with tt := tt, window := window }
    ((List.range 8).foldl (fun (t : State) z =>
      let on := undervolt.getD z (t.zone die z).uv
      t.setZone die z { t.zone die z with uv := on, steps := if on then (t.zone die z).steps else 0 }) s1).answer die 0x08 0 []

/-- The state of one die at reset, its weight tier apart; its memory holds nothing that is specified (R462, R463). -/
def State.resetDie (s : State) (d : Nat) : State :=
  { s with
    mem := s.mem.filter fun c => decide (c.1 / 2 ^ 48 ≠ d)
    lineKey := s.lineKey.filter fun c => decide (c.1 * 128 / 2 ^ 48 ≠ d)
    mpoison := s.mpoison.filter fun c => decide (c.1 * 128 / 2 ^ 48 ≠ d)
    narrow := s.narrow.filter fun w => decide (w.pa / 2 ^ 48 ≠ d)
    dies := s.dies.put d { fitted := (s.die d).fitted }
    cores := s.cores.filter fun c => decide (c.1 / 96 ≠ d)
    zones := s.zones.filter fun c => decide (c.1 / 8 ≠ d)
    drones := s.drones.put d {} }
/-- The rows of `n` bytes from a weight address. -/
def rowsFrom (wa n : Nat) : List Nat := ((List.range (cdiv n 512)).map fun i => rowKey (wa + 512 * i)).eraseDups
/-- The byte at place `i` of the recovery image received: unspecified where no piece brought it (R18). -/
def State.imageByte (s : State) (d i : Nat) : Byte := (s.drone d).image.getD i (Config.freeByte s.fresh i)
/-- RCVDATA (R463): a piece of a recovery image; after the last one the Voicer is to write a passing image, row by row. While it does,
no piece is accepted (log 102). -/
def execRcvdata (die off : Nat) (bytes : List Byte) (last : Bool) (s : State) : Out :=
  if s.reached die = false then .next s
  else if (s.die die).recovery = false then s.request die 0x10 6 id
  else if (s.drone die).rows ≠ [] then .next (s.answer die 0x10 6 [])
  else if 4096 < bytes.length ∨ 2 ^ 24 < off + bytes.length then .next (s.answer die 0x10 1 [])
  else
    let x := s.drone die
    let s1 := s.setDrone die { x with image := bytes.zipIdx.foldl (fun (m : NMap Byte) p => m.put (off + p.2) p.1) x.image }
    if last = false then .next (s1.answer die 0x10 0 [])
    else if imagePasses (fun _ => true) (s1.imageByte die) then
      let n := leAt ((List.range 8).map (s1.imageByte die)) 4 4
      .next ((s.setDrone die { x with
        image := (List.range n).map fun i => (i, s1.imageByte die i)
        rows := rowsFrom (imageAt die) n }).answer die 0x10 0 [])
    else .next ((s.setDrone die { x with image := [] }).answer die 0x10 0 [])

/-! The Voicer's rewrites (R250, R438, R463) -/

/-- The cells of a row that a die's recovery image holds. -/
def State.imageCells (s : State) (d row : Nat) : List (Nat × Byte) :=
  ((s.drone d).image.map fun c => (imageAt d + c.1, c.2)).filter fun c => decide (rowKey c.1 = row)
/-- A row of a recovery image is written, in `passes` pulses; after the last one the die resets and boots (R463). A row that cannot be
completed keeps its cells (R247). -/
def State.writeImageRow (s : State) (d row passes : Nat) : State :=
  let n := s.programRow row 166 passes
  let s1 := if s.usableRow row = true ∧ n.2 = true then n.1.putCells (s.imageCells d row) else s
  let left := (s.drone d).rows.erase row
  if left = [] then (s1.resetDie d).bootDie d else s1.setDrone d { s1.drone d with rows := left }
/-- A row that an error left to be written again, while its bank is idle: one that a second read corrected in place, a lasting one in a
spare. Its contents stay. A row that cannot be completed damages its regions (R247, R250, R438). -/
def State.renewRow (s : State) (row passes : Nat) : State :=
  match s.rewrites.find row with
  | none => s
  | some here =>
    if s.usableRow row = false ∨ s.bankIdle (row / 8192) = false then s
    else
      let s0 := { s with rewrites := s.rewrites.del row }
      match if here then some s0 else s0.remapRow row with
      | none => s0
      | some s1 =>
        let n := s1.programRow row 166 passes
        if n.2 then n.1 else n.1.damageRows fun r => decide (r = row)
/-- The die on which a row lies (R231). -/
def rowDie (row : Nat) : Nat := row / 2 ^ 26
/-- VOICER_ROW_REWRITE (R250, R438, R463): the Voicer writes a row of a recovery image, or one that an error left to be written again. -/
def execVoicerRowRewrite (w : RowWrite) (s : State) : Out :=
  if w.passes = 0 then .next s
  else if (s.drone (rowDie w.row)).rows.contains w.row then .next (s.writeImageRow (rowDie w.row) w.row w.passes)
  else .next (s.renewRow w.row w.passes)

end Sys2Proof.Machine
end

