-- ==== Sys2Proof/Machine/Link.lean ====
section
/-! DEFINITION. The memory channel of the host links and the UALink ports (R460, R461). -/
namespace Sys2Proof.Machine
open Sys2Proof

/-- The spec assigns no storage to the physical address (R207). -/
def State.unassigned (s : State) (pa : Nat) : Bool :=
  decide (2 ^ 52 ≤ pa) || (decide (12 ≤ pa / 2 ^ 48) && decide (pa / 2 ^ 48 < 15))
    || (decide (pa / 2 ^ 48 < 12) && decide ((s.die (pa / 2 ^ 48)).fitted ≤ pa % 2 ^ 48))
/-- The address lies in the memory of a die that no route reaches, or that is in recovery mode and answers recovery messages alone (R460,
R463; log 90). -/
def State.cutOff (s : State) (pa : Nat) : Bool := decide (pa / 2 ^ 48 < 12) && (!s.reached (pa / 2 ^ 48) || (s.die (pa / 2 ^ 48)).recovery)
/-- HOST_WRITE (R402, R460): a posted write, which all agents see; watches on its lines fire. `key` is the key tag under which
the host's bytes are stored (log 12). -/
def execHostWrite (pa : Nat) (bytes : List Byte) (key : Nat) (s : State) : Out :=
  let l := bytes.zipIdx.map fun p => (pa + p.2, p.1)
  if l.any fun c => s.unassigned c.1 then .fault .absentAddress
  else if l.any fun c => s.cutOff c.1 then .next s
  else .next ((s.landSys key l).fire (fun _ _ => true) (l.map (·.1)))
/-- HOST_READ_REQUEST (R460): the bytes of die or host memory that the host sees. -/
def execHostReadRequest (pa n key : Nat) (s : State) : Out :=
  if (List.range n).any fun i => s.unassigned (pa + i) then .fault .absentAddress
  else if (List.range n).any fun i => s.cutOff (pa + i) then .next s
  else .next { s with hostReads := s.hostReads ++ [(pa, s.seenBytes .host key pa n)] }
/-- The dies with UALink ports, two on each (R6). -/
def ualinkDies : List Nat := [0, 3, 8, 11]
/-- UALINK_READ_REQUEST (R6, R461): a request at one of the eight ports is answered as unsupported; elsewhere there is no port. -/
def execUalinkReadRequest (die port : Nat) (s : State) : Out :=
  if ualinkDies.contains die && decide (port < 2) then .next { s with unsupported := s.unsupported ++ [(die, port)] } else .next s

end Sys2Proof.Machine
end

