-- ==== Sys2Proof/Machine/Dispatch.lean ====
section
/-! DEFINITION. One arm for each constructor of `Instr`: a direct call of its meaning. -/
namespace Sys2Proof.Machine
open Sys2Proof

def exec (i : Instr) (s : State) : Host.Outcome State Fault Refusal :=
  match i with
  | .nop sb => Sys2Proof.Machine.execNop sb s
  | .add sb d a b => Sys2Proof.Machine.execAdd sb d a b s
  | .sub sb d a b => Sys2Proof.Machine.execSub sb d a b s
  | .and sb d a b => Sys2Proof.Machine.execAnd sb d a b s
  | .or sb d a b => Sys2Proof.Machine.execOr sb d a b s
  | .xor sb d a b => Sys2Proof.Machine.execXor sb d a b s
  | .shl sb d a b => Sys2Proof.Machine.execShl sb d a b s
  | .shr sb d a b => Sys2Proof.Machine.execShr sb d a b s
  | .sra sb d a b => Sys2Proof.Machine.execSra sb d a b s
  | .mul sb d a b => Sys2Proof.Machine.execMul sb d a b s
  | .mulh sb d a b => Sys2Proof.Machine.execMulh sb d a b s
  | .min sb d a b => Sys2Proof.Machine.execMin sb d a b s
  | .max sb d a b => Sys2Proof.Machine.execMax sb d a b s
  | .agen sb d a b h => Sys2Proof.Machine.execAgen sb d a b h s
  | .addi sb d a im => Sys2Proof.Machine.execAddi sb d a im s
  | .andi sb d a im => Sys2Proof.Machine.execAndi sb d a im s
  | .ori sb d a im => Sys2Proof.Machine.execOri sb d a im s
  | .xori sb d a im => Sys2Proof.Machine.execXori sb d a im s
  | .shli sb d a h => Sys2Proof.Machine.execShli sb d a h s
  | .shri sb d a h => Sys2Proof.Machine.execShri sb d a h s
  | .srai sb d a h => Sys2Proof.Machine.execSrai sb d a h s
  | .lui sb d im => Sys2Proof.Machine.execLui sb d im s
  | .cmp sb p a b c => Sys2Proof.Machine.execCmp sb p a b c s
  | .cmpi sb p a im c => Sys2Proof.Machine.execCmpi sb p a im c s
  | .plog sb d a b f => Sys2Proof.Machine.execPlog sb d a b f s
  | .sel sb d a b p => Sys2Proof.Machine.execSel sb d a b p s
  | .br sb o => Sys2Proof.Machine.execBr sb o s
  | .brp sb p n o => Sys2Proof.Machine.execBrp sb p n o s
  | .call sb o => Sys2Proof.Machine.execCall sb o s
  | .jr sb a => Sys2Proof.Machine.execJr sb a s
  | .ret sb => Sys2Proof.Machine.execRet sb s
  | .loopImm sb l n e => Sys2Proof.Machine.execLoopImm sb l n e s
  | .loopReg sb l r e => Sys2Proof.Machine.execLoopReg sb l r e s
  | .loopxImm sb l n e => Sys2Proof.Machine.execLoopxImm sb l n e s
  | .loopxReg sb l r e => Sys2Proof.Machine.execLoopxReg sb l r e s
  | .lbrk sb p n l => Sys2Proof.Machine.execLbrk sb p n l s
  | .rep sb c d a b => Sys2Proof.Machine.execRep sb c d a b s
  | .mfs sb d im => Sys2Proof.Machine.execMfs sb d im s
  | .mts sb a im => Sys2Proof.Machine.execMts sb a im s
  | .halt sb => Sys2Proof.Machine.execHalt sb s
  | .ld sb d a w x o => Sys2Proof.Machine.execLd sb d a w x o s
  | .st sb d a w o => Sys2Proof.Machine.execSt sb d a w o s
  | .lds sb d a w x o => Sys2Proof.Machine.execLds sb d a w x o s
  | .sts sb d a w o => Sys2Proof.Machine.execSts sb d a w o s
  | .ldw sb d a w x o => Sys2Proof.Machine.execLdw sb d a w x o s
  | .amo sb w a b f c => Sys2Proof.Machine.execAmo sb w a b f c s
  | .amr sb d a b f c => Sys2Proof.Machine.execAmr sb d a b f c s
  | .fadd sb d a b r p => Sys2Proof.Machine.execFadd sb d a b r p s
  | .fsub sb d a b r p => Sys2Proof.Machine.execFsub sb d a b r p s
  | .fmul sb d a b r p => Sys2Proof.Machine.execFmul sb d a b r p s
  | .ffma sb d a b r p => Sys2Proof.Machine.execFfma sb d a b r p s
  | .fmin sb d a b p => Sys2Proof.Machine.execFmin sb d a b p s
  | .fmax sb d a b p => Sys2Proof.Machine.execFmax sb d a b p s
  | .fsgn sb d a b m p => Sys2Proof.Machine.execFsgn sb d a b m p s
  | .fcmp sb d a b c p => Sys2Proof.Machine.execFcmp sb d a b c p s
  | .fcvt sb d a r t f g => Sys2Proof.Machine.execFcvt sb d a r t f g s
  | .fsqs sb d a => Sys2Proof.Machine.execFsqs sb d a s
  | .frcs sb d a => Sys2Proof.Machine.execFrcs sb d a s
  | .fcls sb d a p => Sys2Proof.Machine.execFcls sb d a p s
  | .popc sb d a => Sys2Proof.Machine.execPopc sb d a s
  | .clz sb d a => Sys2Proof.Machine.execClz sb d a s
  | .bext sb d a b w => Sys2Proof.Machine.execBext sb d a b w s
  | .span sb c => Sys2Proof.Machine.execSpan sb c s
  | .fence sb c => Sys2Proof.Machine.execFence sb c s
  | .cflush sb a c => Sys2Proof.Machine.execCflush sb a c s
  | .bari sb a b c => Sys2Proof.Machine.execBari sb a b c s
  | .bara sb a => Sys2Proof.Machine.execBara sb a s
  | .barw sb a => Sys2Proof.Machine.execBarw sb a s
  | .mon sb a => Sys2Proof.Machine.execMon sb a s
  | .mwait sb d a => Sys2Proof.Machine.execMwait sb d a s
  | .semw sb a b c => Sys2Proof.Machine.execSemw sb a b c s
  | .semp sb a b c => Sys2Proof.Machine.execSemp sb a b c s
  | .qpush sb d a b => Sys2Proof.Machine.execQpush sb d a b s
  | .qpop sb d a b => Sys2Proof.Machine.execQpop sb d a b s
  | .qtryPop sb d a b => Sys2Proof.Machine.execQtryPop sb d a b s
  | .qtryPush sb d a b => Sys2Proof.Machine.execQtryPush sb d a b s
  | .fork sb c m v => Sys2Proof.Machine.execFork sb c m v s
  | .rdv sb e => Sys2Proof.Machine.execRdv sb e s
  | .ekill sb e => Sys2Proof.Machine.execEkill sb e s
  | .yield sb => Sys2Proof.Machine.execYield sb s
  | .park sb => Sys2Proof.Machine.execPark sb s
  | .parkUn sb k => Sys2Proof.Machine.execParkUn sb k s
  | .retire sb => Sys2Proof.Machine.execRetire sb s
  | .cncl sb d a l => Sys2Proof.Machine.execCncl sb d a l s
  | .cmplr sb d a l => Sys2Proof.Machine.execCmplr sb d a l s
  | .brth sb a b n => Sys2Proof.Machine.execBrth sb a b n s
  | .acqp sb a => Sys2Proof.Machine.execAcqp sb a s
  | .relp sb => Sys2Proof.Machine.execRelp sb s
  | .clkd sb a l => Sys2Proof.Machine.execClkd sb a l s
  | .trap sb im => Sys2Proof.Machine.execTrap sb im s
  | .tret sb => Sys2Proof.Machine.execTret sb s
  | .probe sb d w => Sys2Proof.Machine.execProbe sb d w s
  | .mma z a w p q d m t c f => Sys2Proof.Machine.execMma z a w p q d m t c f s
  | .mmag z a w p q t f => Sys2Proof.Machine.execMmag z a w p q t f s
  | .mfmt b r sb => Sys2Proof.Machine.execMfmt b r sb s
  | .mfmtTs a b => Sys2Proof.Machine.execMfmtTs a b s
  | .mfsel b sb => Sys2Proof.Machine.execMfsel b sb s
  | .mzero z b => Sys2Proof.Machine.execMzero z b s
  | .mdcy z a b => Sys2Proof.Machine.execMdcy z a b s
  | .mdcySet z a => Sys2Proof.Machine.execMdcySet z a s
  | .mdrn z a b c im f => Sys2Proof.Machine.execMdrn z a b c im f s
  | .mldz z a b => Sys2Proof.Machine.execMldz z a b s
  | .mpref a => Sys2Proof.Machine.execMpref a s
  | .mprefW a b => Sys2Proof.Machine.execMprefW a b s
  | .munp a => Sys2Proof.Machine.execMunp a s
  | .mswp b n => Sys2Proof.Machine.execMswp b n s
  | .mbnk a n => Sys2Proof.Machine.execMbnk a n s
  | .mhold b => Sys2Proof.Machine.execMhold b s
  | .mholdRel => Sys2Proof.Machine.execMholdRel s
  | .mtrq a b => Sys2Proof.Machine.execMtrq a b s
  | .msync a w sb => Sys2Proof.Machine.execMsync a w sb s
  | .mstat a => Sys2Proof.Machine.execMstat a s
  | .mnop n => Sys2Proof.Machine.execMnop n s
  | .vshp a => Sys2Proof.Machine.execVshp a s
  | .vld d a b m z e => Sys2Proof.Machine.execVld d a b m z e s
  | .vst sb a b m e => Sys2Proof.Machine.execVst sb a b m e s
  | .vldg d a b m z e => Sys2Proof.Machine.execVldg d a b m z e s
  | .vstg sb a b m e => Sys2Proof.Machine.execVstg sb a b m e s
  | .vmov d a m z e => Sys2Proof.Machine.execVmov d a m z e s
  | .vsplat d a m z e => Sys2Proof.Machine.execVsplat d a m z e s
  | .viota d m k z e => Sys2Proof.Machine.execViota d m k z e s
  | .vfadd d a b m r z e => Sys2Proof.Machine.execVfadd d a b m r z e s
  | .vfsub d a b m r z e => Sys2Proof.Machine.execVfsub d a b m r z e s
  | .vfmul d a b m r z e => Sys2Proof.Machine.execVfmul d a b m r z e s
  | .vffma d a b c r => Sys2Proof.Machine.execVffma d a b c r s
  | .vfmin d a b m z e => Sys2Proof.Machine.execVfmin d a b m z e s
  | .vfmax d a b m z e => Sys2Proof.Machine.execVfmax d a b m z e s
  | .vfabs d a m z e => Sys2Proof.Machine.execVfabs d a m z e s
  | .vfneg d a m z e => Sys2Proof.Machine.execVfneg d a m z e s
  | .vadd d a b m r sb z e => Sys2Proof.Machine.execVadd d a b m r sb z e s
  | .vsub d a b m r sb z e => Sys2Proof.Machine.execVsub d a b m r sb z e s
  | .vmul d a b m r z e => Sys2Proof.Machine.execVmul d a b m r z e s
  | .vmin d a b m u z e => Sys2Proof.Machine.execVmin d a b m u z e s
  | .vmax d a b m u z e => Sys2Proof.Machine.execVmax d a b m u z e s
  | .vand d a b m z e => Sys2Proof.Machine.execVand d a b m z e s
  | .vor d a b m z e => Sys2Proof.Machine.execVor d a b m z e s
  | .vxor d a b m z e => Sys2Proof.Machine.execVxor d a b m z e s
  | .vshl d a b m z e => Sys2Proof.Machine.execVshl d a b m z e s
  | .vshr d a b m z e => Sys2Proof.Machine.execVshr d a b m z e s
  | .vsra d a b m z e => Sys2Proof.Machine.execVsra d a b m z e s
  | .vfcmp d a b m e c => Sys2Proof.Machine.execVfcmp d a b m e c s
  | .vcmp d a b m e c => Sys2Proof.Machine.execVcmp d a b m e c s
  | .vsel d a b m => Sys2Proof.Machine.execVsel d a b m s
  | .mlog d a b f => Sys2Proof.Machine.execMlog d a b f s
  | .vrsqs d a m z e => Sys2Proof.Machine.execVrsqs d a m z e s
  | .vrcps d a m z e => Sys2Proof.Machine.execVrcps d a m z e s
  | .vexs d a m z e => Sys2Proof.Machine.execVexs d a m z e s
  | .vlgs d a m z e => Sys2Proof.Machine.execVlgs d a m z e s
  | .vred d a x o m e => Sys2Proof.Machine.execVred d a x o m e s
  | .vscan d a x y o h => Sys2Proof.Machine.execVscan d a x y o h s
  | .vtrn d a => Sys2Proof.Machine.execVtrn d a s
  | .vrot d a b x => Sys2Proof.Machine.execVrot d a b x s
  | .vperm d a b x => Sys2Proof.Machine.execVperm d a b x s
  | .vcvt d a sb m f z e => Sys2Proof.Machine.execVcvt d a sb m f z e s
  | .vqnt d a b f => Sys2Proof.Machine.execVqnt d a b f s
  | .vdqn d a b f => Sys2Proof.Machine.execVdqn d a b f s
  | .vrns d a m f z e => Sys2Proof.Machine.execVrns d a m f z e s
  | .vcrt d a m f z e => Sys2Proof.Machine.execVcrt d a m f z e s
  | .vacr d z b => Sys2Proof.Machine.execVacr d z b s
  | .vacw sb z b m im n e => Sys2Proof.Machine.execVacw sb z b m im n e s
  | .cpy d a b c n k => Sys2Proof.Machine.execCpy d a b c n k s
  | .cpy2 d a b c n k => Sys2Proof.Machine.execCpy2 d a b c n k s
  | .cpyt d a b c n k => Sys2Proof.Machine.execCpyt d a b c n k s
  | .gth d a b c n k => Sys2Proof.Machine.execGth d a b c n k s
  | .sct d a b c n k => Sys2Proof.Machine.execSct d a b c n k s
  | .cpys d a b c n k => Sys2Proof.Machine.execCpys d a b c n k s
  | .pub d a b c n k => Sys2Proof.Machine.execPub d a b c n k s
  | .wprg d a b c n k => Sys2Proof.Machine.execWprg d a b c n k s
  | .wvfy d a b c n k => Sys2Proof.Machine.execWvfy d a b c n k s
  | .wdig d a b c n k => Sys2Proof.Machine.execWdig d a b c n k s
  | .cred d a b c n k => Sys2Proof.Machine.execCred d a b c n k s
  | .cag d a b c n k => Sys2Proof.Machine.execCag d a b c n k s
  | .cbct d a b c n k => Sys2Proof.Machine.execCbct d a b c n k s
  | .cwait a => Sys2Proof.Machine.execCwait a s
  | .csig a c => Sys2Proof.Machine.execCsig a c s
  | .cfnc c => Sys2Proof.Machine.execCfnc c s
  | .cprq d a => Sys2Proof.Machine.execCprq d a s
  | .jobopen p => Sys2Proof.Machine.execJobopen p s
  | .jobclose p => Sys2Proof.Machine.execJobclose p s
  | .phasedef p => Sys2Proof.Machine.execPhasedef p s
  | .graphdef p => Sys2Proof.Machine.execGraphdef p s
  | .launch p => Sys2Proof.Machine.execLaunch p s
  | .cancel p => Sys2Proof.Machine.execCancel p s
  | .slice p => Sys2Proof.Machine.execSlice p s
  | .query p => Sys2Proof.Machine.execQuery p s
  | .launchAdmission lid => Sys2Proof.Machine.execLaunchAdmission lid s
  | .launchBlocking lid => Sys2Proof.Machine.execLaunchBlocking lid s
  | .sliceStart die => Sys2Proof.Machine.execSliceStart die s
  | .yieldRequestPost u => Sys2Proof.Machine.execYieldRequestPost u s
  | .unitStart u => Sys2Proof.Machine.execUnitStart u s
  | .dwsSample lid stg => Sys2Proof.Machine.execDwsSample lid stg s
  | .thermalSample die temps => Sys2Proof.Machine.execThermalSample die temps s
  | .stat die zone opening flow inlet bad => Sys2Proof.Machine.execStat die zone opening flow inlet bad s
  | .valveResend die zone => Sys2Proof.Machine.execValveResend die zone s
  | .migrationMove die core => Sys2Proof.Machine.execMigrationMove die core s
  | .migrationAbandon die core => Sys2Proof.Machine.execMigrationAbandon die core s
  | .offlineMove die core => Sys2Proof.Machine.execOfflineMove die core s
  | .syncStall u => Sys2Proof.Machine.execSyncStall u s
  | .swapOut u => Sys2Proof.Machine.execSwapOut u s
  | .pready m => Sys2Proof.Machine.execPready m s
  | .inval m => Sys2Proof.Machine.execInval m s
  | .invack die => Sys2Proof.Machine.execInvack die s
  | .engineIssue die core e => Sys2Proof.Machine.execEngineIssue die core e s
  | .matrixCommandComplete u j cn => Sys2Proof.Machine.execMatrixCommandComplete u j cn s
  | .vectorCommandComplete u j => Sys2Proof.Machine.execVectorCommandComplete u j s
  | .copyPieceLand u j cn piece => Sys2Proof.Machine.execCopyPieceLand u j cn piece s
  | .copyCommandComplete u j cn => Sys2Proof.Machine.execCopyCommandComplete u j cn s
  | .timedCommandStamp u j => Sys2Proof.Machine.execTimedCommandStamp u j s
  | .mergeGroupClose die core g => Sys2Proof.Machine.execMergeGroupClose die core g s
  | .consortTimeout u j => Sys2Proof.Machine.execConsortTimeout u j s
  | .missedPromise u j cn => Sys2Proof.Machine.execMissedPromise u j cn s
  | .collectiveTimeout u j cn => Sys2Proof.Machine.execCollectiveTimeout u j cn s
  | .swapBegin u j => Sys2Proof.Machine.execSwapBegin u j s
  | .swapLand die core region => Sys2Proof.Machine.execSwapLand die core region s
  | .globalHold die core cause => Sys2Proof.Machine.execGlobalHold die core cause s
  | .voicerRowProgram u j cn row passes => Sys2Proof.Machine.execVoicerRowProgram u j cn row passes s
  | .voicerRowRewrite w => Sys2Proof.Machine.execVoicerRowRewrite w s
  | .verticalBusRetire die core bus => Sys2Proof.Machine.execVerticalBusRetire die core bus s
  | .correctedError die w hours lost => Sys2Proof.Machine.execCorrectedError die w hours lost s
  | .engineReset die core e bad vregs hours => Sys2Proof.Machine.execEngineReset die core e bad vregs hours s
  | .engineResetEnd die core e => Sys2Proof.Machine.execEngineResetEnd die core e s
  | .undervoltInterval die zone errs lastSecond => Sys2Proof.Machine.execUndervoltInterval die zone errs lastSecond s
  | .undervoltUe die zone units => Sys2Proof.Machine.execUndervoltUe die zone units s
  | .undervoltReenable die zone => Sys2Proof.Machine.execUndervoltReenable die zone s
  | .refresh die iface bank temp => Sys2Proof.Machine.execRefresh die iface bank temp s
  | .clockSwitch die core dom => Sys2Proof.Machine.execClockSwitch die core dom s
  | .bellowsGrant die zone => Sys2Proof.Machine.execBellowsGrant die zone s
  | .breathPreposition u => Sys2Proof.Machine.execBreathPreposition u s
  | .contextSave u => Sys2Proof.Machine.execContextSave u s
  | .engineEventDelivery u => Sys2Proof.Machine.execEngineEventDelivery u s
  | .unitFail u => Sys2Proof.Machine.execUnitFail u s
  | .mwaitDeadline u j => Sys2Proof.Machine.execMwaitDeadline u j s
  | .cancelComplete lid => Sys2Proof.Machine.execCancelComplete lid s
  | .completionReport lid => Sys2Proof.Machine.execCompletionReport lid s
  | .done level id => Sys2Proof.Machine.execDone level id s
  | .updateLineMerge line => Sys2Proof.Machine.execUpdateLineMerge line s
  | .hostWrite pa bytes key => Sys2Proof.Machine.execHostWrite pa bytes key s
  | .ualinkReadRequest die port => Sys2Proof.Machine.execUalinkReadRequest die port s
  | .powerOnReset x => Sys2Proof.Machine.execPowerOnReset x s
  | .getVersion die => Sys2Proof.Machine.execGetVersion die s
  | .getCapabilities die => Sys2Proof.Machine.execGetCapabilities die s
  | .negotiateAlgorithms die => Sys2Proof.Machine.execNegotiateAlgorithms die s
  | .getDigests die => Sys2Proof.Machine.execGetDigests die s
  | .getCertificate die slot => Sys2Proof.Machine.execGetCertificate die slot s
  | .challenge die nonce => Sys2Proof.Machine.execChallenge die nonce s
  | .getMeasurements die index => Sys2Proof.Machine.execGetMeasurements die index s
  | .keyExchange die => Sys2Proof.Machine.execKeyExchange die s
  | .finish die => Sys2Proof.Machine.execFinish die s
  | .endSession die => Sys2Proof.Machine.execEndSession die s
  | .keyset die jobid keyid xts1 xts2 onDie => Sys2Proof.Machine.execKeyset die jobid keyid xts1 xts2 onDie s
  | .keydel die jobid => Sys2Proof.Machine.execKeydel die jobid s
  | .regmk die r => Sys2Proof.Machine.execRegmk die r s
  | .regdel die name => Sys2Proof.Machine.execRegdel die name s
  | .reglist die first count => Sys2Proof.Machine.execReglist die first count s
  | .remeas die name => Sys2Proof.Machine.execRemeas die name s
  | .cntrd die => Sys2Proof.Machine.execCntrd die s
  | .cfgset die tt window undervolt => Sys2Proof.Machine.execCfgset die tt window undervolt s
  | .rcvdata die off bytes last => Sys2Proof.Machine.execRcvdata die off bytes last s
  | .powerLoss => Sys2Proof.Machine.execPowerLoss s
  | .swapSignalArrival die core region => Sys2Proof.Machine.execSwapSignalArrival die core region s
  | .dataArrival u j r => Sys2Proof.Machine.execDataArrival u j r s
  | .holdingDieAnswer u j => Sys2Proof.Machine.execHoldingDieAnswer u j s
  | .hostReadRequest pa n key => Sys2Proof.Machine.execHostReadRequest pa n key s

end Sys2Proof.Machine
end

