-- ==== Sys2Proof/Machine/Issue.lean ====
section
/-! DEFINITION. What happens when a stream has its turn: delivery of engine events, fetch, the checks of R141, sync bundles,
repeats; and the reference clock. `Step.lean` calls it. -/
namespace Sys2Proof.Machine
open Sys2Proof

/-- The trap of a word that is no instruction of its stream (R141, R442). -/
def State.decodeTrap (w : Word) (va : Nat) (e : DecodeError) : Trap :=
  match e with
  | .poolGuard => ⟨0x03, va⟩
  | e => ⟨0x01, e.check + w.toNat * 2 ^ 32⟩

/-- The word that issues: under REP it is the repeat's (R171). Where a handler has put a repeat on a word that REP could not
repeat, the word issues as it stands, or with its stepped fields modulo their width (log 92). -/
def repeatedWord (k : StreamKind) (acc : Nat) (rep : Option Rep) (w : Word) : Word :=
  match rep with
  | none => w
  | some r => match decodeWord k acc w with
    | .error _ => w
    | .ok i => match i.repFields with
      | none => w
      | some f => repWord w f r.sd r.sa r.sb r.ix.toNat
/-- The instruction of a fetched word in a stream, and the word as it issues (R141, R171). -/
def State.instrOf (s : State) (sel : Sel) (u : Nat) (rep : Option Rep) (w : Word) : Except DecodeError (Word × Instr) :=
  let w' := repeatedWord (selKind sel) (s.accCount u) rep w
  match decodeWord (selKind sel) (s.accCount u) w' with
  | .error e => .error e
  | .ok i => .ok (w', i)

/-- A stream issues in the cycle in progress, and not again before the next one (R112, R124). -/
def State.takeCycle (s : State) (sel : Sel) : State :=
  let e := (s.clkOf sel).ends (s.dcc (s.unit (selUnitOf sel)).place.die)
  match sel with
  | .voice u j => s.setVoice u j { s.voice u j with nextAt := e }
  | .ctx u k j => s.setCtx u k j { s.ctx u k j with nextAt := e }
/-- The stream is a voice in handler mode. -/
def State.handles (s : State) : Sel → Bool
  | .voice u j => (s.voice u j).hmode
  | .ctx _ _ _ => false
/-- The streams `sels` of unit `u` issue again where they took a page fault: the accesses that faulted are being made again. Those
of a stream that goes on elsewhere, out of a handler, never are (R217). -/
def State.resume (s : State) (u : Nat) (sels : List Sel) : State :=
  let mine := fun (x : PageNote) => sels.contains x.sel && decide (s.pcOf x.sel = x.pc)
  let gone := fun (x : PageNote) => sels.contains x.sel && !s.handles x.sel
  if (s.unit u).notes.any fun x => mine x || gone x then
    { s.setUnit u { s.unit u with notes := (s.unit u).notes.filter fun x => !mine x && !gone x } with
      resumed := s.resumed ++ (s.unit u).notes.filter mine }
  else s
/-- The stream in issue begins: no trap is raised yet, its loop buffer is as it should be, and an access that page-faulted there is
being made again (R123, R217). -/
def State.begin (s : State) (sel : Sel) (u : Nat) : State :=
  (({ s with sel := sel, stopTrap := none, parks := [], unparks := [], resumed := [], bscope := 0 } : State).resume u [sel]).fillLoop sel
    |>.takeCycle sel

/-- Words that only read what another word of the bundle may write, and so execute first (R121, R191, R376). -/
def Instr.reads : Instr → Bool
  | .mfs _ _ _ => true
  | .ld _ _ _ _ _ _ => true
  | .lds _ _ _ _ _ _ => true
  | .ldw _ _ _ _ _ _ => true
  | .probe _ _ _ => true
  | _ => false
/-- The order of the words of a sync bundle: readers, other words in voice order, parks, unparks, RETIRE (R121, R376, R415, R416). -/
def Instr.rank (i : Instr) : Nat :=
  if Instr.reads i then 0
  else match i with
    | .park _ => 2
    | .halt _ => 2
    | .parkUn _ _ => 3
    | .retire _ => 4
    | _ => 1

/-- A word of a bundle with the voice that executes it. -/
structure Slot where
  voice : Nat
  /-- The word as fetched, and as it issues. -/
  raw : Word
  word : Word
  instr : Instr
deriving DecidableEq, Repr

/-- One word executes: what an outcome leaves is the state, a fault or a refusal. -/
def State.run1 (u : Nat) (s : State) (x : Slot) : Out := exec x.instr { s with sel := .voice u x.voice, ir := x.raw, iw := x.word }
/-- Words execute one after another, each on what those before it left; a word that traps without effect leaves nothing, and
its trap is kept (R193). -/
def State.runAll (u : Nat) (s : State) (ts : List (Nat × Trap)) : List Slot → State × List (Nat × Trap)
  | [] => (s, ts)
  | x :: t => match s.run1 u x with
    | .next s1 => match s1.stopTrap with
      | none => s1.runAll u ts t
      | some k => s.runAll u ((x.voice, k) :: ts) t
    | _ => s.runAll u ts t
/-- The words of a sync bundle in the order of their execution; of several RETIREs the lowest voice's ends the unit (R416). -/
def inRank (xs : List Slot) : List Slot :=
  ((List.range 4).flatMap fun r => xs.filter fun x => decide (Instr.rank x.instr = r))
    ++ (xs.filter fun x => decide (Instr.rank x.instr = 4)).take 1
/-- The first of a list whose number is least. -/
def leastBy {α : Type} (f : α → Nat) (l : List α) : Option α := l.find? fun a => l.all fun b => decide (f a ≤ f b)
/-- A trap of voice `k` is taken as class F: by its cause, or by the mode of the voice (R442, R447). -/
def State.fails (s : State) (u k : Nat) (t : Trap) : Bool :=
  decide (t.cls = 0) || (decide (t.cls = 2) && ((s.voice u k).hmode || decide (s.handler u = 0)))
/-- Which of the traps of a bundle decides: class F before version-full before class S, the lowest voice first (R193, R381,
R443, R447). -/
def State.pickTrap (s : State) (u : Nat) (l : List (Nat × Trap)) : Option (Nat × Trap) :=
  leastBy (fun p => (if s.fails u p.1 p.2 then 0 else if p.2.cls = 2 then 4 else 8) + p.1) l

/-- The voices of a unit that are neither parked nor halted (R114). -/
def State.awake (s : State) (u : Nat) : List Nat :=
  (List.range (s.unit u).place.voices).filter fun k => !(s.voice u k).status.off
/-- Voice `k` has reached the sync bundle at `pc` and can issue it in this cycle: no engine event is due to it first (R112, R114,
R186, R446). -/
def State.atSync (s : State) (u k : Nat) (pc : X) : Bool :=
  let v := s.voice u k
  !(s.eventDue u && decide (s.taker u = some k)) && decide (v.st.pc = pc) && !v.met && v.ask.isNone && decide (v.nextAt ≤ s.dcc (s.unit u).place.die)
/-- Voices that a bundle's words park or halt, and those they unpark (R415). -/
def parksOf (l : List Slot) : List Nat :=
  (l.filter fun x => match x.instr with
    | .park _ => true
    | .halt _ => true
    | _ => false).map (·.voice)
def haltsOf (l : List Slot) : List Nat :=
  (l.filter fun x => match x.instr with
    | .halt _ => true
    | _ => false).map (·.voice)
def State.unparksOf (s : State) (u : Nat) (l : List Slot) : List Nat :=
  (l.filterMap fun x => match x.instr with
    | .parkUn _ k => some k.toNat
    | _ => none).filter fun k => !(haltsOf l).contains k && decide ((s.voice u k).status ≠ .halted)

/-- The voices of a sync bundle meet: each issues in this cycle (R112, R114). -/
def State.meet (s : State) (u : Nat) : List Nat → State
  | [] => s
  | k :: t => let s1 := s.takeCycle (.voice u k); (s1.setVoice u k { s1.voice u k with met := true }).meet u t
/-- The word raises a pending guard-granule report before it does anything (R225, R401). -/
def Instr.reports : Instr → Bool
  | .span _ _ => true
  | .yield _ => true
  | .bara _ _ => true
  | .barw _ _ => true
  | .retire _ => true
  | _ => false
/-- The word of a sync bundle that only raises the guard-granule report the team owes: the first that would, in a voice that takes
it (R225, R447). -/
def State.reporting (s : State) (u : Nat) (xs : List Slot) : Option Nat :=
  if (s.unit u).guard.isNone then none
  else (xs.find? fun x => Instr.reports x.instr && !(s.voice u x.voice).hmode).map (·.voice)
/-- The scope of the boundary a word makes as it issues, none where it makes none: a RETIRE that waits for its contexts makes none
yet (R372, R395, R416). -/
def State.boundaryScope (s : State) (x : Slot) : Nat :=
  let u := s.selUnit
  let at_ := fun (a : BitVec 6) => s.checkAtomic u ((s.voice u x.voice).st.getX a).toNat 16 16
  match x.instr with
  | .span _ c => c.toNat
  | .yield _ => s.stscNow.toNat
  | .retire _ => if s.arrived u then 4 else 0
  | .bara _ a => match at_ a with
    | .ok l => (s.barrier u l.pa).scope
    | .error _ => 0
  | .barw _ a => match at_ a with
    | .ok l => if (s.barrier u l.pa).fin then (s.barrier u l.pa).scope else 0
    | .error _ => 0
  | _ => 0
/-- Voice `k`'s word of the bundle at `pc`, checked: the number of the check it fails with its trap, or its slot and where the
bundle lies (R141, R142, R193). A fetch that cannot be made fails before every check of the word; one that only waits for its
page comes last. -/
def State.checkSlot (s : State) (u : Nat) (pc : X) (k : Nat) : Except (Nat × Nat × Trap) (Slot × Option Nat) :=
  let sel : Sel := .voice u k
  match s.fetchUnit sel pc with
  | .error t => .error (if t.cls = 1 then 9 else 1, k, t)
  | .ok (ws, pa) => match pickWord sel pc.toNat ws pa with
    | .error t => .error (if t.code = 0x03 then 2 else 3, k, t)
    | .ok f => match s.instrOf sel u (s.voice u k).st.rep f.word with
      | .error e => .error (e.check, k, State.decodeTrap f.word pc.toNat e)
      | .ok q => .ok (⟨k, f.word, q.1, q.2⟩, pa)

/-- A word of a sync bundle has stopped or failed the unit: the waits and stalls that other words of the bundle began are abandoned
(R394, R405, R409, R449 step 1). -/
def State.settleBundle (s : State) (u : Nat) : State :=
  match (s.unit u).status with
  | .resident => s
  | .stopping _ => { s.abandon u fun _ => true with
      voices := s.voices.map fun (v : Nat × Voice) =>
        if v.1 / 4 = u then (v.1, { v.2 with ask := none, status := (match v.2.status with
          | .waiting .sync c => .waiting .sync c
          | .waiting _ _ => .running
          | k => k) }) else v }
  | _ => s.abandon u fun _ => true
/-- A voice's word waits for data of a register it names (R186). -/
def State.dataStall (s : State) (u j : Nat) (i : Instr) : Bool :=
  i.xregs.any fun r => (s.voice u j).busy.contains r.toNat

/-- A sync bundle whose voices have all met issues, unless a word of it waits for data (R186): every word is checked, then all
execute in one cycle. A trap that leaves a word without effect leaves the bundle so, and it issues again in full where the team
goes on (R114, R142, R193, R381). -/
def State.issueSync (s : State) (u : Nat) (pc : X) (ks : List Nat) : Out :=
  let s0 := (ks.foldl (fun t k => t.fillLoop (.voice u k)) s).resume u (ks.map (Sel.voice u))
  let got := ks.map fun k => s0.checkSlot u pc k
  let bad := got.filterMap fun p => match p with
    | .error e => some e
    | .ok _ => none
  let ok := got.filterMap fun p => match p with
    | .error _ => none
    | .ok q => some q
  let sf := ok.foldl (fun t q => t.noteFetch u 16 q.2) s0
  match leastBy (fun e => e.1 * 4 + e.2.1) bad with
  | some (_, k, t) => .next (({ sf with sel := .voice u k }).raiseTrap t)
  | none =>
    let xs := inRank (ok.map (·.1))
    if xs.any fun (x : Slot) => s0.dataStall u x.voice x.instr then .next sf.putBack
    else
    let s1 := { sf.meet u ks with
      parks := parksOf xs, unparks := s.unparksOf u xs
      bscope := ((xs.filter fun (x : Slot) => decide (s0.reporting u xs ≠ some x.voice)).map s0.boundaryScope).foldl max 0 }
    let r := s1.runAll u [] xs
    match s0.pickTrap u r.2 with
    | some (k, t) => .next (({ sf with sel := .voice u k }).raiseTrap t)
    | none => .next (r.1.settleBundle u)

/-- The voice that reports a bundle at `pc` that cannot be fetched: the lowest that has reached it and may issue (R142, R443). -/
def State.reporter (s : State) (u j : Nat) (pc : X) : Nat :=
  ((s.awake u).find? fun k => decide (k = j) || s.atSync u k pc).getD j
/-- The turn of a voice that may issue (R112 to R114). Whether its bundle is a sync bundle is known once it is fetched; its
words are checked where it issues. A bundle whose S bits differ is checked as a loose one, by each voice in its turn: DESIGN CHOICE,
log 106. -/
def State.issueVoice (s : State) (u j : Nat) : Out :=
  let v := s.voice u j
  match s.fetchUnit (.voice u j) v.st.pc with
  | .error t =>
    let k := s.reporter u j v.st.pc
    .next (({ s.resume u [.voice u k] with sel := .voice u k }).raiseTrap t)
  | .ok (ws, pa) =>
    let s := s.noteFetch u 16 pa
    if sBits ws = 15 ∧ v.met = false then
      if (s.awake u).all fun k => decide (k = j) || s.atSync u k v.st.pc then s.issueSync u v.st.pc (s.awake u)
      else
        let w := { v with nextAt := s.cycleStart }
        .next (s.putBack.setVoice u j (match v.status with
          | .running => { w with stall := 0, status := .waiting .sync (s.unitCyc u) }
          | _ => w))
    else match pickWord (.voice u j) v.st.pc.toNat ws pa with
      | .error t => .next (s.raiseTrap t)
      | .ok f => match s.instrOf (.voice u j) u v.st.rep f.word with
        | .error e => .next (s.raiseTrap (State.decodeTrap f.word v.st.pc.toNat e))
        | .ok (w, i) => if s.dataStall u j i then .next s.putBack else exec i { s with ir := f.word, iw := w }

/-- A context's turn: one word decodes, unless it names a register that a queued command has yet to write (R124, R141,
R281). -/
def State.issueCtx (s : State) (u : Nat) (e : Engine) (j : Nat) : Out :=
  let c := s.ctx u e j
  match s.fetchFor (.ctx u e j) c.st.pc with
  | .error t => .next (s.raiseTrap t)
  | .ok f =>
    let s := s.noteFetch u 4 f.pa
    match s.instrOf (.ctx u e j) u c.st.rep f.word with
    | .error x => .next (s.raiseTrap (State.decodeTrap f.word c.st.pc.toNat x))
    | .ok (w, i) =>
      if i.xregs.any fun r => c.owing.contains r.toNat then .next s.putBack
      else exec i { s with ir := f.word, iw := w }

/-- The voice's turn passes: it is off, stalled, or waits for another agent to serve it. -/
def Voice.idle (v : Voice) : Bool :=
  v.status.off || v.ask.isSome || match v.status with
    | .waiting (.push _) _ => true
    | .waiting (.pop _) _ => true
    | .waiting (.semaphore _) _ => true
    | _ => false

/-- Voice `k` has yet to issue in the control cycle in progress. -/
def State.dueVoice (s : State) (u k : Nat) : Bool :=
  decide (k < (s.unit u).place.voices) && !(s.voice u k).idle && decide ((s.voice u k).nextAt ≤ s.dcc (s.unit u).place.die)
    && match (s.voice u k).status with
      | .waiting .sync _ => false
      | _ => true
/-- A stream may issue in this cycle: its unit is resident, its core is not held, and it has not issued in this cycle, and
no lower voice of its team has yet to: the voices of a team have their turns in voice order, up to the end of the control cycle of a
RETIRE, whose voice alone has a turn after it (R112, R121, R124, R142, R191, R240, R376, R408, R416, R443, R449, R458). -/
def State.mayTurn (s : State) (sel : Sel) : Bool :=
  let u := selUnitOf sel
  let t := s.unit u
  let now := s.dcc t.place.die
  (s.units.find u).isSome && decide (t.status = .resident) && !s.holding t.place.die (s.home u) && match sel with
    | .voice _ j => decide (j < t.place.voices) && decide ((s.voice u j).nextAt ≤ now) && (match t.retireAt with
          | some (k, e) => if now < e then !(List.range j).any fun i => s.dueVoice u i else decide (j = k)
          | none => !(List.range j).any fun i => s.dueVoice u i)
    | .ctx _ e j => decide (j < t.place.voices) && decide ((s.ctx u e j).nextAt ≤ now)

/-- A stream's turn. -/
def State.streamTurn (s : State) (sel : Sel) : Out :=
  if s.mayTurn sel = false then .next s
  else match sel with
  | .voice u j =>
    if s.eventDue u && decide (s.taker u = some j) then .next ((s.begin sel u).putBack.deliver u j)
    else if (s.voice u j).idle then .next s
    else (s.begin sel u).issueVoice u j
  | .ctx u e j => if s.decodes u e j then (s.begin sel u).issueCtx u e j else .next s

/-! The reference clock (R8, R121) -/

/-- The copy commands of a core that could still miss their promises: unit, context, command (R345). -/
def State.promised (s : State) (d p : Nat) : List (Nat × Nat × Cmd) :=
  s.ctxs.flatMap fun (c : Nat × Ctx) =>
    if engineOf c.1 = .copy ∧ s.unitOn d p (c.1 / 12) = true ∧ (s.unit (c.1 / 12)).status = .resident then
      ((c.2.queue ++ c.2.flight).filter fun q => !q.missed && q.promise.isSome && (Instr.copyFields q.instr).any fun f => decide (f.2.1 = 0)).map
        fun q => (c.1 / 12, c.1 % 4, q)
    else []
/-- Cores of a die with work that a matrix cycle may not pass over. -/
def State.busyCores (s : State) (d : Nat) : List Nat :=
  (((s.units.filter fun c => decide (c.2.place.die = d)).map fun c => s.home c.1)
    ++ ((List.range Config.cores).filter fun p => !(s.core d p).due.isEmpty || !(s.core d p).beats.isEmpty)).eraseDups.filter fun p => s.timedCore d p || !(s.promised d p).isEmpty
/-- The last reference cycle of a matrix cycle of a core: armed commands whose stamp that cycle is enter the array, or swap, or miss
(R263, R264, R295). -/
def State.endCycle (s : State) (d p : Nat) : State :=
  if (s.core d p).mat.ends (s.dcc d) = s.dcc d + 1 then
    (s.atStamp d p).foldl (fun t m =>
      let t1 := leaves t (execTimedCommandStamp m.1 m.2 t)
      leaves t1 (execSwapBegin m.1 m.2 t1)) s
  else s
/-- The first reference cycle of a matrix cycle of a core: where it is not held, promises that TCLK has passed are missed (R345). -/
def State.startCycle (s : State) (d p : Nat) : State :=
  if (s.core d p).mat.start (s.dcc d) = s.dcc d then
    let s1 := s.matrixCycle d p
    (s1.promised d p).foldl (fun t m => t.takeMiss m.1 m.2.1 m.2.2) s1
  else s
/-- DCC of a die advances by `n`; what falls due by then happens: requests that a semaphore's count now allows are granted where the
head request has been abandoned (R405), swapped-out teams whose events have occurred join the starts (R117), units that a slice left inactive are pre-empted (R107), migrations past their deadline are given up (R109), and a
REMEAS that waited is performed (R466). -/
def State.pass (s : State) (d n : Nat) : State :=
  let s0 := ((s.semq.map (·.pa)).eraseDups.foldl State.grantAll s).wakeAll d
  let s1 := ((s0.setDie d { s0.die d with dcc := (s0.die d).dcc + n }).wakeAll d).preempt d
  ((s1.units.filter fun c => decide (c.2.place.die = d)).map fun c => c.2.place.core).eraseDups.foldl (fun t l => t.giveUpMove d l) (s1.serveRemeas d)
/-- One reference cycle of a die. -/
def State.tick1 (s : State) (d : Nat) : State :=
  let ps := s.busyCores d
  let s1 := (ps.foldl (fun t p => t.endCycle d p) s).pass d 1
  ps.foldl (fun t p => t.startCycle d p) s1
def State.ticks (s : State) (d : Nat) : Nat → State
  | 0 => s
  | n + 1 => (s.tick1 d).ticks d n
/-- The reference clock of a die advances: cycle by cycle where a core has work that each matrix cycle does (R121). -/
def State.tick (s : State) (die n : Nat) : State := if (s.busyCores die).isEmpty then s.pass die n else s.ticks die n

/-- A move (log 2): events are the constructors that are no instruction words. -/
def State.turn (s : State) : Turn → Out
  | .stream sel => s.streamTurn sel
  | .event i => if i.home.isNone then exec i s else .next s
  | .tick die n => .next (s.tick die n)

/-! Placing a word where the next step fetches (log 3) -/

/-- A page-table entry of the tables that `State.install` lays out: a next table, or a leaf that may be read, written,
executed and used by engines (R209). -/
def installPte (last : Bool) (frame : Nat) : Nat := frame * 4096 + if last then 0x3F else 1
/-- Page tables of one page at VA 0 of a job on die 0, from the root at 0x1000 (R208). -/
def installTables (n : Nat) : List (Nat × Byte) :=
  (List.range 5).flatMap fun k =>
    (leBytes (installPte (decide (k = 4)) (n + k + 1)) 8).zipIdx.map fun p => ((n + k) * 4096 + p.2, p.1)
/-- A job, a launch and a resident one-voice unit on core 0 of die 0 whose code lies in one page, with its streams at
VA 0x100: what loading and starting a program from outside leaves (log 3). -/
def State.install (s : State) : State :=
  let u := s.nextUnit
  let l := s.nextLaunch
  let job := 2 ^ 32 - 1
  let s1 := s.writeSysList 0 (installTables 1)
  let place : Place := { launch := l, job := job, slots := List.range 16 }
  { s1 with
    nextUnit := u + 1
    nextLaunch := l + 1
    jobs := s1.jobs.put (jkey 0 job) { root := 0x1000 }
    keys := s1.keys.put (jkey 0 job) ⟨0, 0, 0, 0⟩
    launches := s1.launches.put l ({ job := job, status := .admitted, stages := [{ ilen := 4096, acc := 16 }], count := { out := 1 } })
    units := s1.units.put u { place := place, status := .resident, started := true, tbase := s1.free 0 (s1.phys 0 0) }
    voices := s1.voices.put (vkey u 0) { st := { pc := 0x100 }, status := .running }
    ctxs := s1.ctxs
    sel := .voice u 0 }
/-- Unit of a stream, the voice or context number, and whether it can issue. -/
def State.ready (s : State) (sel : Sel) (k : StreamKind) : Bool :=
  match sel with
  | .voice u j => decide (k = .voice) && (s.units.find u).isSome && decide ((s.unit u).status = .resident)
      && decide (j < (s.unit u).place.voices) && !(s.voice u j).idle && (s.unit u).events.isEmpty
      && decide (s.awake u = [j]) && (s.voice u j).busy.isEmpty && (s.voice u j).st.rep.isNone
      && s.mayTurn sel && !(s.voice u j).st.l0.act
  | .ctx u e j => decide (k = .ctx e) && (s.units.find u).isSome && decide ((s.unit u).status = .resident)
      && decide (j < (s.unit u).place.voices) && s.decodes u e j && (s.ctx u e j).st.rep.isNone
      && s.mayTurn sel && !(s.ctx u e j).st.l0.act
/-- The stream that will fetch: the one in issue where it can, else voice 0 or context 0 of an installed unit. -/
def State.loader (s : State) (k : StreamKind) : State :=
  if s.ready s.sel k then s
  else
    let s1 := s.install
    match k with
    | .voice => s1
    | .ctx e => { s1 with
        ctxs := s1.ctxs.put (ckey s.nextUnit e 0) { st := { pc := 0x100 }, status := .running }
        sel := .ctx s.nextUnit e 0 }
/-- Code bytes at a physical address as unit `u` will fetch them: stored, and not hidden by its open version (R375). -/
def State.placeCode (s : State) (u pa : Nat) (bs : List Byte) : State :=
  let l := bs.zipIdx.map fun p => (pa + p.2, p.1)
  let s1 := s.landSys (s.unitKey u) l
  let t := s1.unit u
  s1.setUnit u { t with
    stores := t.stores.filter fun w => !(l.any fun c => decide (c.1 = w.pa))
    reads := t.reads.filter fun c => !(l.any fun d => decide (d.1 = c.1))
    late := t.late.filter fun c => !(l.any fun d => decide (d.1 = c.key)) }
/-- The words of the bundle that carries `w` in slot `j`: NOPs beside it, with its S bit (R113, R131). -/
def bundleOf (w : Word) (j : Nat) : List Byte :=
  (List.range 4).flatMap fun k => leBytes (if k = j then w.toNat else if sBit w then 2 ^ 30 else 0) 4
/-- The word `w` stored where the stream of kind `k` fetches next, which then has the next turn. -/
def State.placeWord (s : State) (k : StreamKind) (w : Word) : State :=
  let s1 := s.loader k
  let u := s1.selUnit
  let s2 := match s1.sel with
    | .voice _ j => match s1.fetchAddr u s1.stream.pc.toNat 16 with
      | .ok pa => s1.placeCode u pa (bundleOf w j)
      | .error _ => s1
    | .ctx _ _ _ => match s1.fetchAddr u s1.stream.pc.toNat 4 with
      | .ok pa => s1.placeCode u pa (leBytes w.toNat 4)
      | .error _ => s1
  { s2 with agenda := [.stream s2.sel] }

end Sys2Proof.Machine
end

