-- ==== Sys2Proof/Machine/Step.lean ====
section
/-! DEFINITION. One step of the machine, and the placing of a word for its next step. -/
namespace Sys2Proof.Machine
open Sys2Proof

/-- The move at the head of the agenda happens, or the one the environment chooses (log 2). -/
def step (s : State) : Host.Outcome State Fault Refusal :=
  match s.agenda with
  | [] => ({ s with fresh := s.fresh + 1 }).turn (Config.nextTurn s.fresh)
  | t :: ts => ({ s with agenda := ts, fresh := s.fresh + 1 }).turn t

/-- `s` with the instruction whose bits are `w` where the next step fetches it (log 3). -/
def State.withFetchWord (s : State) (_nbits w : Nat) : State :=
  s.placeWord (tableStream (BitVec.ofNat 32 w)) (BitVec.ofNat 32 w)

end Sys2Proof.Machine
end

