-- ==== Sys2Proof/Safety.lean ====
section
/-! DEFINITION. The terms in which claims about the machine are made: completing with an effect, what an instruction leaves
alone, and the invariants of a well-formed machine. -/
namespace Sys2Proof.Machine
open Sys2Proof

/-- The instruction answers a next state, of which `P` holds. -/
def Completes (i : Instr) (s : State) (P : State → Prop) : Prop :=
  ∃ t, Sys2Proof.Machine.exec i s = Host.Outcome.next t ∧ P t

/-- Every byte of global memory reads in `t` as it did in `s`, by whatever agent and under whatever key. -/
def State.keepsMemory (s t : State) : Prop := ∀ (ag : Agent) (key pa : Nat), t.seen ag key pa = s.seen ag key pa
/-- Every byte of global memory but the `n` bytes at `lo` reads in `t` as it did in `s`, by whatever agent, under `key`. -/
def State.keepsMemoryBut (s t : State) (key lo n : Nat) : Prop :=
  ∀ (ag : Agent) (pa : Nat), pa < lo ∨ lo + n ≤ pa → t.seen ag key pa = s.seen ag key pa
/-- The storage of the cores is as it was: scratchpads, accumulators with their tags and scalars, tile registers, masks. -/
def State.keepsCores (s t : State) : Prop :=
  t.sp = s.sp ∧ t.acc = s.acc ∧ t.tiles = s.tiles ∧ t.masks = s.masks ∧ t.lan = s.lan ∧ t.dsc = s.dsc
/-- Every store of the machine is as it was, with what decides how an agent reads it: global memory, the weight tier, the storage of
the cores, where the units are, and the free values. -/
structure State.sameStore (s t : State) : Prop where
  mem : t.mem = s.mem
  lineKey : t.lineKey = s.lineKey
  mpoison : t.mpoison = s.mpoison
  narrow : t.narrow = s.narrow
  fresh : t.fresh = s.fresh
  sp : t.sp = s.sp
  acc : t.acc = s.acc
  tiles : t.tiles = s.tiles
  masks : t.masks = s.masks
  lan : t.lan = s.lan
  dsc : t.dsc = s.dsc
  wt : t.wt = s.wt
  place : ∀ u, (t.unit u).place = (s.unit u).place
/-- What submitting a command in context `j` of engine `e` of unit `u` may change of the machine's stores: the scratchpad bytes of
that context's journal ring (R33, R126), and nothing else. -/
structure State.sameButJournal (s t : State) (u : Nat) (e : Engine) (j : Nat) : Prop where
  mem : t.mem = s.mem
  lineKey : t.lineKey = s.lineKey
  mpoison : t.mpoison = s.mpoison
  narrow : t.narrow = s.narrow
  fresh : t.fresh = s.fresh
  sp : ∀ k, (∀ i b, b < 16 → k ≠ spKey (s.unit u).place.die (s.home u) ((s.unit u).place.journalEntry e j i + b)) →
    t.sp.find k = s.sp.find k
  acc : t.acc = s.acc
  tiles : t.tiles = s.tiles
  masks : t.masks = s.masks
  lan : t.lan = s.lan
  dsc : t.dsc = s.dsc
  wt : t.wt = s.wt
  place : ∀ u, (t.unit u).place = (s.unit u).place
/-- The writes of unit `u` where `f` holds of their address have reached scope `S`: none of them stands below it; the team reads every
byte as before; where a write of the team below `S` is the last to its byte of the team's and of those that an agent already sees, an
agent that `S` reaches reads it from then on; and a byte that no such write of the team holds reads as before to every agent (R369,
R370, R387). -/
def State.widened (s t : State) (u S : Nat) (f : Nat → Bool) : Prop :=
  (∀ w ∈ t.narrow, w.unit = u → f w.pa = true → S ≤ w.scope) ∧ (∀ pa, t.teamByte u pa = s.teamByte u pa) ∧
    (∀ ag w, findLast (fun x => decide (x.pa = w.pa) && (decide (x.unit = u) || s.reaches x ag)) s.narrow = some w → w.unit = u →
      f w.pa = true → w.scope < S → s.poisoned w.pa = false → s.keyOk (s.unitKey u) w.pa = true →
      5 ≤ S ∨ s.reaches { w with scope := S } ag = true → t.seen ag (s.unitKey u) w.pa = w.byte) ∧
    ∀ pa, f pa = false ∨ (∀ w ∈ s.narrow, w.unit = u → w.pa = pa → S ≤ w.scope) → ∀ ag key, t.seen ag key pa = s.seen ag key pa
/-- Only the stream in issue changed: every other register, special register and store of the machine is as in `s`. -/
def State.onlyStream (s t : State) : Prop := (∃ st, t = s.mapStream fun _ _ => st) ∧ s.keepsMemory t
/-- The word in issue wrote `v` to register `d`, which discards the write where it is the constant register, and nothing else
but the place where its stream stands. -/
def State.wroteX (s t : State) (d : BitVec 6) (v : X) : Prop :=
  s.onlyStream t ∧ t.stream.getX d = (if d = 0 then 0 else v) ∧ (∀ r, r ≠ d → t.stream.getX r = s.stream.getX r)
    ∧ (∀ p, t.stream.getP p = s.stream.getP p) ∧ t.stream.fmsel = s.stream.fmsel
/-- The word in issue wrote `v` to predicate `d`, which discards the write where it is the constant predicate, and nothing else
but the place where its stream stands. -/
def State.wroteP (s t : State) (d : BitVec 7) (v : Bool) : Prop :=
  s.onlyStream t ∧ t.stream.getP d = (if d = 0 then true else v) ∧ (∀ p, p ≠ d → t.stream.getP p = s.stream.getP p)
    ∧ (∀ r, t.stream.getX r = s.stream.getX r) ∧ t.stream.fmsel = s.stream.fmsel
/-- The word in issue wrote no register of its stream and nothing else but the place where its stream stands. -/
def State.movedOn (s t : State) : Prop :=
  s.onlyStream t ∧ (∀ r, t.stream.getX r = s.stream.getX r) ∧ (∀ p, t.stream.getP p = s.stream.getP p)
    ∧ t.stream.fmsel = s.stream.fmsel

/-- The word in issue wrote the bits `v.1` to register `d` and joined the flags `v.2` to FPFL of its team, which holds them where no
other write of it is on its way; it wrote nothing else but the place where its stream stands (R72, R73, R181). -/
def State.wroteFloat (s t : State) (d : BitVec 6) (v : Nat × X) : Prop :=
  (s.raise v.2).wroteX t d (BitVec.ofNat 64 v.1) ∧
    ((s.unit s.selUnit).recent.find 0x024 = none → (t.unit s.selUnit).fpfl = (s.unit s.selUnit).fpfl ||| v.2)
/-- After a boundary unit `u` runs on where its core is asked for no migration, and else stops for it (R109, R395). -/
def State.runsOrMoves (s t : State) (u : Nat) : Prop :=
  ((s.unitCore u).mig = none → (t.unit u).status = (s.unit u).status) ∧
    ((s.unitCore u).mig ≠ none → (s.unit u).status = .resident → (t.unit u).status = .stopping 0x43)
/-- The last byte that the open version of unit `u` stores at `pa`, of the cycles that end by DCC `t` (R376). -/
def State.versionByte (s : State) (u pa t : Nat) : Option Byte :=
  (findLast (fun w => decide (w.pa = pa) && decide (w.seenAt ≤ t)) (s.unit u).stores).map fun w => w.byte
/-- The registers and predicates of the stream in issue are as they were, but for register `d`, which holds `v` (or reads zero
where it is the constant register). -/
def State.onlyX (s t : State) (d : BitVec 6) (v : X) : Prop :=
  t.stream.getX d = (if d = 0 then 0 else v) ∧ (∀ r, r ≠ d → t.stream.getX r = s.stream.getX r)
    ∧ (∀ p, t.stream.getP p = s.stream.getP p)
/-- No register or predicate of the stream in issue changed. -/
def State.sameRegs (s t : State) : Prop :=
  (∀ r, t.stream.getX r = s.stream.getX r) ∧ (∀ p, t.stream.getP p = s.stream.getP p)
/-- A global access of `n` bytes at `ea` by unit `u` is served at physical address `pa`: aligned, in the global window, in no
aperture, and translated with its permission to no weight window (R187, R229). -/
def State.reachesGlobal (s : State) (u : Nat) (acc : Access) (ea n pa : Nat) : Prop :=
  ea % n = 0 ∧ ea < 2 ^ 57 ∧ (s.unitLaunch u).aperture ea = none ∧
    ∃ l, s.translate u acc ea = .ok l ∧ l.ww = false ∧ l.pa = pa
/-- The same of an atomic access, which may not meet a store of the open version (R187, R393). -/
def State.reachesAtomic (s : State) (u ea n pa : Nat) : Prop := s.reachesGlobal u .atomic ea n pa ∧ s.overSpan u pa n = false
/-- An access of `n` bytes at `ea` lies in the scratchpad allocation of unit `u` (R187, R224). -/
def State.reachesSp (s : State) (u ea n align : Nat) : Prop :=
  ea % align = 0 ∧ ea < 2 ^ 21 ∧ (s.unit u).place.lo ≤ ea ∧ ea + n ≤ (s.unit u).place.hi
/-- None of the `n` bytes at `ea` lies in a guard granule (R225). -/
def State.unguarded (s : State) (u ea n : Nat) : Prop := ∀ i, i < n → (s.unit u).place.guarded (ea + i) = false
/-- The word in issue is one of voice `j` of unit `u`, whose line of code it is. -/
def State.issues (s : State) (u j : Nat) : Prop := s.sel = .voice u j

/-- The engine of a stream, none of a voice (R441). -/
def selEngine : Sel → Option Engine
  | .voice _ _ => none
  | .ctx _ e _ => some e
/-- The word in issue raised the class F fault `code` with `info` in XINFO: its team fails, its voice (a context's, the voice of that
number) holds the cause, the detail and the place of the word, and the stream and every store are as they were (R15, R440, R441). -/
def State.faultsWith (s t : State) (code : Nat) (info : X) : Prop :=
  (t.unit s.selUnit).status = .failing ∧
    (t.voice s.selUnit s.selVoice).xcause = causeWord code 0 (selEngine s.sel) s.selVoice ∧
    (t.voice s.selUnit s.selVoice).xinfo = info ∧ (t.voice s.selUnit s.selVoice).xpc = s.stream.pc ∧
    t.stream = s.stream ∧ s.keepsMemory t ∧ s.keepsCores t
/-- Level `l` is active, its body ends at `a`, and it has a round left (R167). -/
def Stream.loopsBack (st : Stream) (l : Nat) (a : X) : Prop :=
  (st.lvl l).act = true ∧ (st.lvl l).fin = a ∧ ((st.lvl l).n = 0 ∨ (st.lvl l).lc.toNat + 1 < (st.lvl l).n)
/-- In `t` level `l` of `st` has gone back to its first unit, for its next round (R167). -/
def Stream.wentBack (st t : Stream) (l : Nat) : Prop :=
  t.pc = (st.lvl l).top ∧ t.lvl l = { st.lvl l with lc := (st.lvl l).lc + 1 }
/-- The stream stands in no loop and under no repeat. -/
def Stream.plain (st : Stream) : Prop := st.l0.act = false ∧ st.l1.act = false ∧ st.l2.act = false ∧ st.rep = none

/-- Context `j` of engine `e` of unit `u` decodes a word that names `n` registers and whose command pins `pins`: its queue and
journal have room (R125, R126), and the tile limit and the page-lock table are met (R222, R223). -/
def State.takes (s : State) (u : Nat) (e : Engine) (j n : Nat) (pins : List Nat) : Prop :=
  s.sel = .ctx u e j ∧ s.room n = true ∧ pins.eraseDups.length ≤ 4096 ∧
    s.pltFull (s.unit u).place.die pins.eraseDups = false
/-- A draw level that the grant of unit `u` admits (R419). -/
def State.admits (s : State) (u level : Nat) : Prop := (s.unit u).pgnt.toNat = 0 ∨ level ≤ (s.unit u).pgnt.toNat
/-- The word in issue entered the queue of its context, as its last command, with the next cn: `i`, of which `P` holds. It
changed no memory and nothing of the cores' storage but its journal ring, and completed nothing. -/
def State.entersQueue (s t : State) (u : Nat) (e : Engine) (j : Nat) (i : Instr) (P : Cmd → Prop) : Prop :=
  (∃ c, (t.ctx u e j).queue.getLast? = some c ∧ c.cn = (s.ctx u e j).nextCn ∧ c.instr = i ∧ c.word = s.iw ∧ P c) ∧
    (t.ctx u e j).queue.length = (s.ctx u e j).queue.length + 1 ∧ (t.ctx u e j).nextCn = (s.ctx u e j).nextCn + 1 ∧
    (t.ctx u e j).flight = (s.ctx u e j).flight ∧ (t.ctx u e j).done = (s.ctx u e j).done ∧
    s.keepsMemory t ∧ s.sameButJournal t u e j
/-- The word in issue took the next cn of its context and is complete; no command of the context is otherwise affected, and no
memory, nor storage of the cores but the context's journal ring. -/
def State.completesAtDecode (s t : State) (u : Nat) (e : Engine) (j : Nat) : Prop :=
  (t.ctx u e j).nextCn = (s.ctx u e j).nextCn + 1 ∧ (t.ctx u e j).queue = (s.ctx u e j).queue ∧
    (t.ctx u e j).flight = (s.ctx u e j).flight ∧ s.keepsMemory t ∧ s.sameButJournal t u e j

/-- The event may write cells of the weight tier: the Voicer programs a row for a WPRG, the Drone makes a region, or the Voicer writes
a row of a recovery image (R246, R247, R463, R465). -/
def State.writesTier (s : State) (i : Instr) : Bool :=
  match i with
  | .voicerRowProgram _ _ _ _ _ => true
  | .regmk _ _ => true
  | .voicerRowRewrite w => (s.drone (rowDie w.row)).rows.contains w.row
  | _ => false

/-- The event only gave an answer on the management channel. -/
def State.onlyAnswers (s t : State) (a : Answer) : Prop := t = { s with answers := s.answers ++ [a] }
/-- The unit's scratchpad holds the bytes at `a`, where none of them lies in a guard granule (R225). -/
def State.spHolds (t : State) (u a : Nat) (bs : List Byte) : Prop :=
  (∀ i, i < bs.length → (t.unit u).place.guarded (a + i) = false) → t.spBytes u a bs.length = bs
/-- The codes and half-words that MTRQ makes of row `k` of its output: ten blocks of 16 (R298). -/
def State.mtrqRow (s : State) (b : BOp) (k : Nat) : List QBlock :=
  (List.range 10).map fun jb => quantBlock 128 0 (if b.region.fmt = 6 then 7 else 69)
    ((List.range 16).map fun i => mtrqValue b.region.fmt (s.bBlock b (k / 16) (16 * jb + i)) (k % 16))
/-- What a matrix command of unit `u` that state `s` completes leaves in `t`: products (R285, R286), cleared, scaled, loaded and
drained rows (R289 to R292), decay scalars, pinned lines (R293, R294), requantised rows (R298), a signal (R299), a status (R300). -/
def State.matrixLeaves (s t : State) (u j : Nat) (q : Cmd) : Prop :=
  let slot := s.slotKey u (Instr.slotField q.instr)
  let reg := fun (k : Nat) => q.regs.getD k 0
  let lines (c : Ctx) : List Nat := c.pref
  let product : Prop :=
    s.skipped slot u j q = false → q.gone = false →
      ((∀ g ∈ s.parts u q, s.bPoison g.1 q.aop.steps = none) → (t.lanOf slot).cn = q.cn ∧ ∀ g ∈ s.parts u q, ∀ i n, i < g.2.2.1 → n < 160 →
        t.accWord slot (g.2.2.2 + i) n =
          BitVec.ofNat 32 (dotRun q.code q.sm (startAcc q.zd.1 q.zd.2 (s.accWord slot (g.2.2.2 + i) n) (s.dscOf slot)).1
            ((List.range q.aop.steps).map fun st =>
              (s.aBlock u q.aop q.tens (q.copyOf q.aop.tn) (s.fetched q) q.code q.sm (g.2.1 + i) st, s.bBlock g.1 st n))).1) ∧
      (∀ g ∈ s.parts u q, s.bPoison g.1 q.aop.steps ≠ none → t.acc = s.acc ∧ t.lan = s.lan ∧
        ((s.unit u).status = .resident → (t.unit u).status = .failing ∧ (t.unit u).fault = some (causeWord 0x0F 0 (some .matrix) j)))
  match q.instr with
  | .mma _ _ _ _ _ _ _ _ _ _ => product
  | .mmag _ _ _ _ _ _ _ => product
  | .mzero _ _ => ∀ n r, rowWord (reg 0) = some (n, r) → s.skipped slot u j q = false → ∀ i k, i < n → k < 160 → t.accWord slot (r + i) k = 0
  | .mdcy _ _ _ => ∀ n r, rowWord (reg 1) = some (n, r) → s.skipped slot u j q = false → ∀ i k, i < n → k < 160 →
      t.accWord slot (r + i) k = BitVec.ofNat 32 (mul32 (s.accWord slot (r + i) k).toNat ((reg 0).toNat % 2 ^ 32)).1
  | .mldz _ _ _ => ∀ n r st a, rowWord (reg 1) = some (n, r) → spWord (reg 0) 640 = some (st, a) → s.skipped slot u j q = false →
      ∀ i k, i < n → k < 160 → t.accWord slot (r + i) k = BitVec.ofNat 32 (leNat (s.spBytes u (a + i * st + 4 * k) 4))
  | .mdcySet _ _ => t.dscOf slot = (reg 0).setWidth 32
  | .mdrn _ _ _ c m _ =>
    let size := elemBytes q.code
    ∀ n r st a, rowWord (reg 1) = some (n, r) → spWord (reg 0) (160 * size) = some (st, a) → (c = 1 → s.skipped slot u j q = false) →
      (c = 0 → t.acc = s.acc) ∧ ∀ i k, i < n → k < 160 →
        t.spHolds u (a + i * st + size * k) (leBytes (drainElem q.fent q.tsv (decide (m = 1)) (s.accWord slot (r + i) k)).1 size) ∧
        (c = 1 → t.accWord slot (r + i) k = 0)
  | .mpref _ => ∀ l ∈ q.lines, l ∈ s.pinnedLines (s.unit u).place.die (s.home u) → l ∈ lines (t.ctx u .matrix j)
  | .mprefW _ _ => (t.ctx u .matrix j).mstat = q.statusWord 0 0
  | .munp a => (a = 0 → lines (t.ctx u .matrix j) = []) ∧ (a ≠ 0 → ∀ l ∈ q.lines, l ∉ lines (t.ctx u .matrix j))
  | .mtrq _ _ =>
    let o := mtrqOut (reg 1)
    ∀ b, s.bOf u q.weight0 0 q = some b → (b.region.fmt = 5 ∨ b.region.fmt = 6) → s.bPoison b o.2.2 = none →
      (o.1 + rowBytes b.region.fmt 160 * (16 * o.2.2) ≤ o.2.1 ∨ o.2.1 + 20 * (16 * o.2.2) ≤ o.1) → ∀ k, k < 16 * o.2.2 →
        t.spHolds u (o.1 + rowBytes b.region.fmt 160 * k) (packCodes b.region.fmt ((s.mtrqRow b k).flatMap fun x => x.codes)) ∧
        t.spHolds u (o.2.1 + 20 * k) ((s.mtrqRow b k).flatMap fun x => leBytes x.scale 2)
  | .msync _ _ _ => ∀ pa, q.sync = some pa → s.counted (ckey u .matrix j) pa q = false → s.poisoned pa = false → pa % 128 ≤ 120 →
      t.latestNat u pa 8 = (s.latestNat u pa 8 + 1) % 2 ^ 64
  | .mstat a => a ≠ 0 → (t.ctx u .matrix j).st.getX a = (s.ctx u .matrix j).mstat
  | _ => True
/-- What a piece of a copy command that lands writes: each byte of its line of the destination is the command's byte there, and of a
plain copy the source byte that stands there (R346, R350 to R355); bytes that meet others of the command are unspecified. -/
def State.pieceLands (s t : State) (u : Nat) (q : Cmd) (ln : Nat × Nat) : Prop :=
  ∀ (k : Nat) (d : Loc) (v : Byte), q.dests[k]? = some d → d.line = ln → (s.copyBytes u q)[k]? = some v →
    (∀ k' d', q.dests[k']? = some d' → d'.place = d.place → k' = k) →
    (∀ a, d = .sp a → (s.unit u).place.guarded a = false → t.spByte u a = v) ∧
    (∀ va pa, d = .mem va pa → s.poisoned pa = false → (∀ pb, q.kind = 1 → q.sync = some pb → pa < pb ∨ pb + 16 ≤ pa) →
      t.latest (s.unitKey u) pa = v) ∧
    (∀ m, q.data = none → q.dests = q.moves.map (·.2) → q.moves[k]? = some m → q.overlaps k d = false →
      v = s.locRead u m.1)

/-- A vector command of unit `u` left in register `d`, as elements of `sz` bytes, the result `(f k).1` in each active element of the
shape's `n`, and in each other zero under Z and else what stood there; it joined the flags of the active ones to FPFL, which holds them
where no other write of it is on its way; and it left every other byte of every tile register, every mask and every other store as it
was (R305, R309). -/
def State.tileWrote (s t : State) (u : Nat) (d : BitVec 5) (sz n : Nat) (act : Nat → Bool) (z : BitVec 1) (f : Nat → Nat × X) : Prop :=
  (∀ k, k < n → t.elem u d sz k = if act k = true then (f k).1 % 2 ^ (8 * sz) else if z = 1 then 0 else s.elem u d sz k) ∧
    (∀ v r i, r < 32 → i < 4096 → (v, r) ≠ (u, d.toNat) ∨ n * sz ≤ i → t.tileByte v r i = s.tileByte v r i) ∧
    ((s.unit u).recent.find 0x024 = none →
      (t.unit u).fpfl = (s.unit u).fpfl ||| ((List.range n).filter act).foldl (fun a k => a ||| (f k).2) 0) ∧
    t.masks = s.masks ∧ t.acc = s.acc ∧ t.sp = s.sp ∧ t.mem = s.mem ∧ t.wt = s.wt
/-- A vector command of unit `u` left bit `k` of mask `d` as `f k` says for `k` below `n`, and every other bit of it, every other mask,
every tile register and every other store as it was (R304). -/
def State.maskWrote (s t : State) (u : Nat) (d : BitVec 5) (n : Nat) (f : Nat → Bool) : Prop :=
  (∀ k, k < n → t.maskBit u d k = f k) ∧ (∀ k, n ≤ k → t.maskBit u d k = s.maskBit u d k) ∧
    (d.toNat < 8 → ∀ (v : Nat) (m : BitVec 5), m.toNat < 8 → (v, m) ≠ (u, d) → t.mask v m = s.mask v m) ∧
    t.tiles = s.tiles ∧ t.acc = s.acc ∧ t.sp = s.sp ∧ t.mem = s.mem ∧ t.wt = s.wt
/-- Command `cn` of a context is over: it stands neither in its queue nor in flight. -/
def State.commandOver (t : State) (u : Nat) (e : Engine) (j cn : Nat) : Prop :=
  ∀ k ∈ (t.ctx u e j).queue ++ (t.ctx u e j).flight, k.cn ≠ cn

/-- Global memory is in its one canonical form: addresses strictly rising. An unlisted byte has no value of its own (log 1), so
no listed one is equal to it. -/
abbrev Memory.wf (m : List Host.Cell) : Prop := NMap.rising m = true
/-- The weight tier is in its one canonical form: addresses strictly rising, and no cell listed that holds the 0 an unlisted one
reads as. -/
abbrev Weights.wf (m : NMap Byte) : Prop := NMap.rising m = true ∧ ∀ c ∈ m, c.2 ≠ 0
end Sys2Proof.Machine
end

