-- ==== Sys2Proof/Certificates/Slice0/Obligations.lean ====
section
/-! DEFINITION. The statements for the provers: what the numbered rules of the spec say the instructions and the machine do. -/
open Sys2Proof Sys2Proof.Machine


/-! The common control subset -/

/-- R155: what each instruction of the ALU group writes to xd, and that it changes nothing else. R156, R157: what each immediate
form writes to xd, and that it changes nothing else. -/
def Obligations.Arithmetic : Prop :=
  (
    ∀ (sb : BitVec 1) (d a b : BitVec 6) (h : BitVec 2) (s : State),
      Completes (.add sb d a b) s (fun t => s.wroteX t d (s.stream.getX a + s.stream.getX b)) ∧
      Completes (.sub sb d a b) s (fun t => s.wroteX t d (s.stream.getX a - s.stream.getX b)) ∧
      Completes (.and sb d a b) s (fun t => s.wroteX t d (s.stream.getX a &&& s.stream.getX b)) ∧
      Completes (.or sb d a b) s (fun t => s.wroteX t d (s.stream.getX a ||| s.stream.getX b)) ∧
      Completes (.xor sb d a b) s (fun t => s.wroteX t d (s.stream.getX a ^^^ s.stream.getX b)) ∧
      Completes (.shl sb d a b) s (fun t => s.wroteX t d (s.stream.getX a <<< ((s.stream.getX b).toNat % 64))) ∧
      Completes (.shr sb d a b) s (fun t => s.wroteX t d (s.stream.getX a >>> ((s.stream.getX b).toNat % 64))) ∧
      Completes (.sra sb d a b) s (fun t => s.wroteX t d ((s.stream.getX a).sshiftRight ((s.stream.getX b).toNat % 64))) ∧
      Completes (.mul sb d a b) s (fun t => s.wroteX t d (s.stream.getX a * s.stream.getX b)) ∧
      Completes (.mulh sb d a b) s (fun t => s.wroteX t d
        (BitVec.extractLsb' 64 64 ((s.stream.getX a).signExtend 128 * (s.stream.getX b).signExtend 128))) ∧
      Completes (.min sb d a b) s (fun t => s.wroteX t d
        (if (s.stream.getX a).toInt ≤ (s.stream.getX b).toInt then s.stream.getX a else s.stream.getX b)) ∧
      Completes (.max sb d a b) s (fun t => s.wroteX t d
        (if (s.stream.getX a).toInt ≤ (s.stream.getX b).toInt then s.stream.getX b else s.stream.getX a)) ∧
      Completes (.agen sb d a b h) s (fun t => s.wroteX t d (s.stream.getX a + s.stream.getX b * BitVec.ofNat 64 (2 ^ h.toNat)))) ∧
  (
    ∀ (sb : BitVec 1) (d a h : BitVec 6) (i : BitVec 12) (j : BitVec 18) (s : State),
      Completes (.addi sb d a i) s (fun t => s.wroteX t d (s.stream.getX a + i.signExtend 64)) ∧
      Completes (.andi sb d a i) s (fun t => s.wroteX t d (s.stream.getX a &&& i.signExtend 64)) ∧
      Completes (.ori sb d a i) s (fun t => s.wroteX t d (s.stream.getX a ||| i.signExtend 64)) ∧
      Completes (.xori sb d a i) s (fun t => s.wroteX t d (s.stream.getX a ^^^ i.signExtend 64)) ∧
      Completes (.shli sb d a h) s (fun t => s.wroteX t d (s.stream.getX a <<< h.toNat)) ∧
      Completes (.shri sb d a h) s (fun t => s.wroteX t d (s.stream.getX a >>> h.toNat)) ∧
      Completes (.srai sb d a h) s (fun t => s.wroteX t d ((s.stream.getX a).sshiftRight h.toNat)) ∧
      Completes (.lui sb d j) s (fun t => s.wroteX t d (BitVec.ofNat 64 (j.toNat * 4096))))

/-- R158: the predicate that CMP and CMPI write under each condition, and that they change nothing else. R159, R160: the
predicate that PLOG writes for each function, the register that SEL chooses, and that they change nothing else. -/
def Obligations.Predicates : Prop :=
  (
    ∀ (sb : BitVec 1) (p : BitVec 7) (a b i : BitVec 6) (s : State),
      ∀ c ∈ ([(0, fun x y => decide (x = y)), (1, fun x y => decide (x ≠ y)), (2, fun x y => decide (x.toInt < y.toInt)),
          (3, fun x y => decide (y.toInt ≤ x.toInt)), (4, fun x y => decide (x.toNat < y.toNat)),
          (5, fun x y => decide (y.toNat ≤ x.toNat))] : List (BitVec 3 × (X → X → Bool))),
        Completes (.cmp sb p a b c.1) s (fun t => s.wroteP t p (c.2 (s.stream.getX a) (s.stream.getX b))) ∧
        Completes (.cmpi sb p a i c.1) s (fun t => s.wroteP t p (c.2 (s.stream.getX a) (i.signExtend 64)))) ∧
  (
    ∀ (sb : BitVec 1) (p q r : BitVec 7) (d a b k : BitVec 6) (s : State),
      (∀ f ∈ ([(0, fun x y => x && y), (1, fun x y => x || y), (2, fun x y => x ^^ y), (3, fun x y => x && !y),
          (4, fun x y => x || !y), (5, fun x y => !(x && y)), (6, fun x y => !(x || y)), (7, fun x y => !(x ^^ y))] :
          List (BitVec 3 × (Bool → Bool → Bool))),
        Completes (.plog sb p q r f.1) s (fun t => s.wroteP t p (f.2 (s.stream.getP q) (s.stream.getP r)))) ∧
      Completes (.sel sb d a b k) s (fun t => s.wroteX t d
        (if s.stream.getP (BitVec.ofNat 7 k.toNat) = true then s.stream.getX a else s.stream.getX b)))

/-- R161, R162: where BR, BRP and CALL leave the PC, the link CALL writes, and that they change nothing else. `u` is the
stream's issue unit. R162, R163: JR and RET to an aligned address set the PC and change nothing else; to another they raise the
misaligned-target fault, which fails the team with XPC at the instruction and XINFO the address. R168: a taken transfer out of the
body of an active level ends it and every deeper level, whose counters stay; one that stays inside every active body, from its end
too, leaves the levels as they are. -/
def Obligations.Transfers : Prop :=
  (
    ∀ (sb n : BitVec 1) (p : BitVec 7) (o : BitVec 24) (k : BitVec 16) (s : State),
      let u : X := BitVec.ofNat 64 (selSize s.sel)
      Completes (.br sb o) s (fun t => s.movedOn t ∧ t.stream.pc = s.stream.pc + o.signExtend 64 * u) ∧
      (s.stream.getP p = decide (n = 1) →
        Completes (.brp sb p n k) s (fun t => s.movedOn t ∧ t.stream.pc = s.stream.pc + k.signExtend 64 * u)) ∧
      (s.stream.getP p ≠ decide (n = 1) → s.stream.plain →
        Completes (.brp sb p n k) s (fun t => s.movedOn t ∧ t.stream.pc = s.stream.pc + u)) ∧
      Completes (.call sb o) s (fun t => s.wroteX t 31 (s.stream.pc + u) ∧ t.stream.pc = s.stream.pc + o.signExtend 64 * u)) ∧
  (
    ∀ (sb : BitVec 1) (a : BitVec 6) (s : State),
      ((s.stream.getX a).toNat % selSize s.sel = 0 →
        Completes (.jr sb a) s (fun t => s.movedOn t ∧ t.stream.pc = s.stream.getX a)) ∧
      ((s.stream.getX 31).toNat % selSize s.sel = 0 →
        Completes (.ret sb) s (fun t => s.movedOn t ∧ t.stream.pc = s.stream.getX 31)) ∧
      ((s.unit s.selUnit).status = .resident →
        ((s.stream.getX a).toNat % selSize s.sel ≠ 0 →
          Completes (.jr sb a) s (fun t => s.faultsWith t 0x06 (s.stream.getX a))) ∧
        ((s.stream.getX 31).toNat % selSize s.sel ≠ 0 →
          Completes (.ret sb) s (fun t => s.faultsWith t 0x06 (s.stream.getX 31))))) ∧
  (
    ∀ (sb n : BitVec 1) (p : BitVec 7) (a : BitVec 6) (o : BitVec 24) (k : BitVec 16) (s : State),
      let u : X := BitVec.ofNat 64 (selSize s.sel)
      let far := s.stream.pc + o.signExtend 64 * u
      ∀ w ∈ ([(.br sb o, true, far), (.call sb o, true, far),
          (.brp sb p n k, s.stream.getP p == decide (n = 1), s.stream.pc + k.signExtend 64 * u),
          (.jr sb a, (s.stream.getX a).toNat % selSize s.sel == 0, s.stream.getX a),
          (.ret sb, (s.stream.getX 31).toNat % selSize s.sel == 0, s.stream.getX 31)] : List (Instr × Bool × X)),
        w.2.1 = true →
        let stays (m : Nat) : Prop := (s.stream.lvl m).act = true → (s.stream.lvl m).top ≤ w.2.2 ∧ w.2.2 ≤ (s.stream.lvl m).fin
        (∀ l, l < 3 → (∀ m, m < l → stays m) → ¬ stays l → Completes w.1 s (fun t => t.stream.pc = w.2.2 ∧
          ∀ m, m < 3 → t.stream.lvl m = if m < l then s.stream.lvl m else { s.stream.lvl m with act := false })) ∧
        ((∀ m, m < 3 → stays m) → Completes w.1 s (fun t => t.stream.pc = w.2.2 ∧ ∀ m, m < 3 → t.stream.lvl m = s.stream.lvl m)))

/-- R165, R166: LOOP and LOOPX from registers and immediates, at a level whose nesting is right: a count that is not 0 (or, of
LOOPX, any) makes the level active over its body, from its first unit; LOOP of a count of 0, in no loop, goes past the body with
its counter at 0. R167: the unit at the end of the deepest active level, done, goes back to TOP with the counter one above while
rounds are left; with none left the level ends, and so it goes for an outer level that ends there too, else the PC is the unit
after. A register count of 2^32 or more raises the loop-count fault, with the count in XINFO, and a level that is active, or whose
outer level is not, or does not hold the LOOP and its body, the loop-nesting fault, with the level in XINFO. R169: LBRK whose predicate equals its sense leaves the active level and every deeper one past END, and an outer level that
ends there too goes back; of a level that is not active it raises the loop-nesting fault. Otherwise it only moves on. -/
def Obligations.Loops : Prop :=
  (
    ∀ (sb : BitVec 1) (l : BitVec 2) (n : BitVec 13) (r : BitVec 6) (e : BitVec 8) (s : State),
      let u := selSize s.sel
      let top := s.stream.pc + BitVec.ofNat 64 u
      let fin := s.stream.pc + BitVec.ofNat 64 ((e.toNat + 1) * u)
      let made (k : Nat) (t : State) : Prop := s.movedOn t ∧ t.stream.pc = top ∧ t.stream.lvl l.toNat = ⟨true, top, fin, k, 0⟩
      l ≠ 3 → s.stream.nestBad l.toNat top fin = false →
      (n ≠ 0 → Completes (.loopImm sb l n e) s (made n.toNat)) ∧
      (s.stream.getX r ≠ 0 → (s.stream.getX r).toNat < 2 ^ 32 → Completes (.loopReg sb l r e) s (made (s.stream.getX r).toNat)) ∧
      Completes (.loopxImm sb l n e) s (made n.toNat) ∧
      ((s.stream.getX r).toNat < 2 ^ 32 → Completes (.loopxReg sb l r e) s (made (s.stream.getX r).toNat)) ∧
      (l = 0 → s.stream.plain →
        let skipped (t : State) : Prop := s.movedOn t ∧ t.stream.pc = fin + BitVec.ofNat 64 u ∧ (t.stream.lvl 0).act = false ∧
          (t.stream.lvl 0).lc = 0
        (n = 0 → Completes (.loopImm sb l n e) s skipped) ∧ (s.stream.getX r = 0 → Completes (.loopReg sb l r e) s skipped))) ∧
  (
    ∀ (sb : BitVec 1) (l : BitVec 2) (n : BitVec 13) (r : BitVec 6) (e : BitVec 8) (s : State),
      let u := selSize s.sel
      let at_ := s.stream.pc
      let fin := at_ + BitVec.ofNat 64 ((e.toNat + 1) * u)
      let x := s.stream.getX r
      let up := s.stream.lvl (l.toNat - 1)
      let within (a : X) : Prop := up.top ≤ a ∧ a ≤ up.fin
      l ≠ 3 → (s.unit s.selUnit).status = .resident →
      (2 ^ 32 ≤ x.toNat → ∀ i ∈ ([.loopReg sb l r e, .loopxReg sb l r e] : List Instr), Completes i s (fun t => s.faultsWith t 0x07 x)) ∧
      ((s.stream.lvl l.toNat).act = true ∨ (l ≠ 0 ∧ (up.act = false ∨ ¬ (within at_ ∧ within (at_ + BitVec.ofNat 64 u) ∧ within fin))) →
        ∀ i ∈ ([.loopImm sb l n e, .loopxImm sb l n e] ++ if x.toNat < 2 ^ 32 then [.loopReg sb l r e, .loopxReg sb l r e] else [] :
          List Instr), Completes i s (fun t => s.faultsWith t 0x08 (BitVec.ofNat 64 l.toNat)))) ∧
  (
    ∀ (sb n : BitVec 1) (p : BitVec 7) (l : BitVec 2) (s : State),
      let v := s.stream.lvl l.toNat
      let left (t : State) : Prop := s.movedOn t ∧ (∀ k, l.toNat ≤ k → k < 3 → (t.stream.lvl k).act = false)
      (s.stream.getP p = decide (n = 1) → l ≠ 3 →
        (v.act = true → (∀ k, k < l.toNat → (s.stream.lvl k).act = true → (s.stream.lvl k).fin ≠ v.fin) →
          Completes (.lbrk sb p n l) s (fun t => left t ∧ (∀ k, k < l.toNat → t.stream.lvl k = s.stream.lvl k) ∧
            t.stream.pc = v.fin + BitVec.ofNat 64 (selSize s.sel))) ∧
        (v.act = true → ∀ o, o < l.toNat → s.stream.loopsBack o v.fin → (∀ k, o < k → k < l.toNat → (s.stream.lvl k).act = false) →
          Completes (.lbrk sb p n l) s (fun t => left t ∧ s.stream.wentBack t.stream o)) ∧
        (v.act = false → (s.unit s.selUnit).status = .resident →
          Completes (.lbrk sb p n l) s (fun t => s.faultsWith t 0x08 (BitVec.ofNat 64 l.toNat)))) ∧
      (s.stream.getP p ≠ decide (n = 1) → Completes (.lbrk sb p n l) s (fun t => s.movedOn t ∧ t = s.advance))) ∧
  (
    ∀ (sb : BitVec 1) (l : Nat) (s : State),
      let v := s.stream.lvl l
      let at_ := s.stream.pc
      let ended (t : State) : Prop := s.movedOn t ∧ t.stream.lvl l = { v with act := false }
      l < 3 → s.stream.rep = none → v.act = true → v.fin = at_ → (∀ k, l < k → k < 3 → (s.stream.lvl k).act = false) →
      (s.stream.loopsBack l at_ → Completes (.nop sb) s (fun t => s.movedOn t ∧ s.stream.wentBack t.stream l ∧
        ∀ k, k < 3 → k ≠ l → t.stream.lvl k = s.stream.lvl k)) ∧
      (v.n ≠ 0 → v.n ≤ v.lc.toNat + 1 →
        ((∀ k, k < l → (s.stream.lvl k).act = true → (s.stream.lvl k).fin ≠ at_) → Completes (.nop sb) s (fun t => ended t ∧
          (∀ k, k < 3 → k ≠ l → t.stream.lvl k = s.stream.lvl k) ∧ t.stream.pc = at_ + BitVec.ofNat 64 (selSize s.sel))) ∧
        (∀ o, o < l → s.stream.loopsBack o at_ → (∀ k, o < k → k < l → (s.stream.lvl k).act = false) →
          Completes (.nop sb) s (fun t => ended t ∧ s.stream.wentBack t.stream o))))

/-- R171 to R173: REP before a word it may repeat sets the repeat state to the count and steps of its fields, at the next unit, its
fetch of which is noted as a read of the span (R375), and changes no register. Before a word that may not be repeated, one of a
sync bundle, with a step of a field that the word lacks or one that takes a field out of its range, or as the last unit of an active
loop body, it raises the illegal-instruction fault, with its own word in XINFO. Which register fields a word has is
`Instr.repFields`. -/
def Obligations.RepeatPrefix : Prop :=
  ∀ (sb : BitVec 1) (c : BitVec 6) (d a b : BitVec 3) (s : State) (f : Fetched),
    s.fetchFor s.sel (s.stream.pc + BitVec.ofNat 64 (selSize s.sel)) = .ok f →
    (s.repRefused f c d a b = false →
    Completes (.rep sb c d a b) s (fun t => (s.noteFetch s.selUnit (selSize s.sel) f.pa).movedOn t ∧ s.sameRegs t ∧ t.stream.rep = some ⟨0, c, d, a, b⟩ ∧
      t.stream.pc = s.stream.pc + BitVec.ofNat 64 (selSize s.sel))) ∧
    (∀ i, decodeWord (selKind s.sel) (s.accCount s.selUnit) f.word = .ok i → (s.unit s.selUnit).status = .resident →
      f.sync = true ∨ (∃ l, l < 3 ∧ (s.stream.lvl l).act = true ∧ (s.stream.lvl l).fin = s.stream.pc) ∨ i.repFields = none ∨
        (Instr.idleB i = false ∧ ∃ g, i.repFields = some g ∧ ∃ x ∈ [(g.d, d), (g.a, a), (g.b, b)], (x.1 = none ∧ x.2 ≠ 0) ∨
          ∃ y k : Nat, ∃ z : Nat, x.1 = some (y, z) ∧ k ≤ c.toNat ∧
            ((bits f.word.toNat y z : Int) + x.2.toInt * k < 0 ∨ (2 : Int) ^ z ≤ (bits f.word.toNat y z : Int) + x.2.toInt * k)) →
      Completes (.rep sb c d a b) s (fun t => s.faultsWith t 0x01 (BitVec.ofNat 64 (s.ir.toNat * 2 ^ 32))))

/-- R178, R179, R180: NOP only moves on; HALT of a voice halts it and no other voice; HALT of a context lets it finish, and
makes it idle where no command is left. -/
def Obligations.NopAndHalt : Prop :=
  ∀ (sb : BitVec 1) (s : State),
    Completes (.nop sb) s (fun t => s.movedOn t ∧ (s.stream.plain → t.stream.pc = s.stream.pc + BitVec.ofNat 64 (selSize s.sel))) ∧
    (∀ u j, s.sel = .voice u j → s.allOff u j = false → j < 4 →
      Completes (.halt sb) s (fun t => (t.voice u j).status = .halted ∧ s.keepsMemory t ∧ s.keepsCores t ∧
        ∀ k i, i < 4 → (k, i) ≠ (u, j) → (t.voice k i).st = (s.voice k i).st ∧ (t.voice k i).status = (s.voice k i).status)) ∧
    (∀ u e j, s.sel = .ctx u e j → (s.ctx u e j).queue = [] → (s.ctx u e j).flight = [] →
      Completes (.halt sb) s (fun t => (t.ctx u e j).status = .idle ∧ s.keepsMemory t ∧ s.keepsCores t)) ∧
    (∀ u e j, s.sel = .ctx u e j → (s.ctx u e j).queue ≠ [] →
      Completes (.halt sb) s (fun t => (t.ctx u e j).status = .draining ∧ (t.ctx u e j).queue = (s.ctx u e j).queue))

/-- R121, R175 to R177: MFS of a register that the stream may read writes its value to xd: DCC and TCLK as they stand at the
first reference cycle of the cycle of issue, and FPFL, where no write of it is still on its way, as it stands. Where no write of
theirs is on its way MTS sets FPFL to its low 7 bits, XHND to its value with bits 3:0 clear, WTHR to at least 256, STSC to its
low 3 bits where they name a scope, and MHL to at most 1,024; FMSEL it sets to its low byte where bits 3:2 are clear; XPC and XSW
it writes in handler mode. A value refused, and XPC or XSW outside handler mode, raise the illegal-instruction fault. -/
def Obligations.SpecialRegisters : Prop :=
  ∀ (sb : BitVec 1) (d a : BitVec 6) (s : State),
    Completes (.mfs sb d 0x001) s (fun t => s.wroteX t d (BitVec.ofNat 64 s.cycleStart)) ∧
    Completes (.mfs sb d 0x002) s (fun t => s.wroteX t d (BitVec.ofNat 64 (s.tclkAt s.selUnit s.cycleStart))) ∧
    ((s.unit s.selUnit).recent = [] → Completes (.mfs sb d 0x024) s (fun t => s.wroteX t d (s.unit s.selUnit).fpfl)) ∧
    Completes (.mfs sb d 0x035) s (fun t => s.wroteX t d (BitVec.ofNat 64 (s.unit s.selUnit).place.job)) ∧
    (∀ (i : BitVec 12) (v : X), s.readSreg i.toNat = some v → Completes (.mfs sb d i) s (fun t => s.wroteX t d v)) ∧
    ((s.unit s.selUnit).recent = [] → Completes (.mts sb a 0x024) s (fun t => (t.unit s.selUnit).fpfl = s.stream.getX a &&& 0x7F ∧
      s.keepsMemory t ∧ (∀ r, t.stream.getX r = s.stream.getX r) ∧ ∀ k, k ≠ s.selUnit → t.unit k = s.unit k)) ∧
    (∀ u j, s.sel = .voice u j →
      ((s.unit u).recent = [] → Completes (.mts sb a 0x014) s (fun t => (t.unit u).xhnd = s.stream.getX a &&& ~~~15 ∧ s.keepsMemory t) ∧
        Completes (.mts sb a 0x020) s (fun t => (t.unit u).wthr.toNat = max 256 ((s.stream.getX a).toNat % 2 ^ 32))) ∧
      ((s.unit u).recent = [] → (s.stream.getX a).toNat % 8 < 6 → Completes (.mts sb a 0x022) s (fun t =>
        (t.unit u).stsc.toNat = (s.stream.getX a).toNat % 8 ∧ s.sameRegs t ∧ s.keepsMemory t ∧ ∀ k, k ≠ u → t.unit k = s.unit k)) ∧
      ((s.voice u j).hmode = true →
        Completes (.mts sb a 0x010) s (fun t => (t.voice u j).xpc = s.stream.getX a) ∧
        Completes (.mts sb a 0x011) s (fun t => (t.voice u j).xsw = s.stream.getX a ∧ (t.voice u j).xpc = (s.voice u j).xpc)) ∧
      ((s.unit u).status = .resident → ∀ i ∈ (if (s.voice u j).hmode then [] else [0x010, 0x011] : List (BitVec 12)) ++
          (if (s.stream.getX a).toNat % 8 < 6 then [] else [0x022]) ++
          (if (s.stream.getX a).setWidth 8 &&& (0x0C : BitVec 8) = 0 then [] else [0x021]),
        Completes (.mts sb a i) s (fun t => (t.unit u).status = .failing ∧ (t.voice u j).xcause.toNat % 1024 = 0x01 ∧
          (t.voice u j).xpc = (s.voice u j).st.pc))) ∧
    ((s.stream.getX a).setWidth 8 &&& (0x0C : BitVec 8) = 0 → Completes (.mts sb a 0x021) s (fun t =>
      t.stream.fmsel = (s.stream.getX a).setWidth 8 ∧ s.sameRegs t ∧ s.keepsMemory t ∧ t.units = s.units)) ∧
    ((s.unit s.selUnit).recent = [] → Completes (.mts sb a 0x026) s (fun t =>
      (t.unit s.selUnit).mhl.toNat = min 1024 ((s.stream.getX a).toNat % 2 ^ 11) ∧ s.sameRegs t ∧ s.keepsMemory t ∧
        ∀ k, k ≠ s.selUnit → t.unit k = s.unit k))

/-! Loads, stores and atomics of the control core -/

/-- R187, R190, R191: an LDS in the unit's allocation writes the little-endian bytes at the address, zero- or sign-extended, to
xd, and changes no memory and no other register: the bytes as they were before the stores of its own control cycle, which are
those that stand there where its unit has made none. -/
def Obligations.ScratchpadLoad : Prop :=
  ∀ (sb x : BitVec 1) (d a : BitVec 6) (w : BitVec 2) (o : BitVec 9) (s : State) (u j : Nat),
    let ea := (s.stream.getX a + o.signExtend 64 * BitVec.ofNat 64 (2 ^ w.toNat)).toNat
    let n := 2 ^ w.toNat
    let v := leNat (s.ldsBytes u ea n)
    ((s.unit u).spOld = [] → s.ldsBytes u ea n = s.spBytes u ea n) ∧
    (s.issues u j → s.reachesSp u ea n n →
    Completes (.lds sb d a w x o) s (fun t =>
      s.onlyX t d (if x = 1 then (BitVec.ofNat (8 * n) v).signExtend 64 else BitVec.ofNat 64 v) ∧
      s.keepsMemory t ∧ s.keepsCores t ∧ (s.unguarded u ea n → t.units = s.units)))

/-- R187, R190, R191, R225: an STS in the unit's allocation, off its guard granules, leaves its bytes at the address, where no
higher voice of its unit has stored in its control cycle, and changes no other byte of any scratchpad, no register, no unit but
for what the cycle's loads see, and no global memory. R225: a store to a guard granule is discarded and recorded; the record's
low bits name the granule byte. -/
def Obligations.ScratchpadStores : Prop :=
  (
    ∀ (sb : BitVec 1) (d a : BitVec 6) (w : BitVec 2) (o : BitVec 9) (s : State) (u j : Nat),
      let ea := (s.stream.getX a + o.signExtend 64 * BitVec.ofNat 64 (2 ^ w.toNat)).toNat
      let n := 2 ^ w.toNat
      let at_ := spKey (s.unit u).place.die (s.home u) ea
      s.issues u j → s.reachesSp u ea n n → s.unguarded u ea n → (∀ x ∈ (s.unit u).spOld, x.voice ≤ j) →
      Completes (.sts sb d a w o) s (fun t =>
        t.spBytes u ea n = leBytes (s.stream.getX d).toNat n ∧
        (∀ k, k < at_ ∨ at_ + n ≤ k → t.sp.find k = s.sp.find k) ∧
        s.sameRegs t ∧ s.keepsMemory t ∧ t.acc = s.acc ∧ (∀ k, k ≠ u → t.unit k = s.unit k) ∧
        t.unit u = { s.unit u with spOld := (t.unit u).spOld })) ∧
  (
    ∀ (sb : BitVec 1) (d a : BitVec 6) (o : BitVec 9) (s : State) (u j : Nat),
      let ea := (s.stream.getX a + o.signExtend 64).toNat
      s.issues u j → s.reachesSp u ea 1 1 → (s.unit u).place.guarded ea = true → (s.unit u).guard = none →
      Completes (.sts sb d a 0 o) s (fun t => t.sp = s.sp ∧ s.keepsMemory t ∧
        (t.unit u).guard = some ⟨ea + 2 ^ 21⟩))

/-- R187, R188, R229, R375: an LD that translates to key-value or host memory writes what the team reads there, extended, to xd:
its own last store of the open version from an earlier cycle where there is one, else what its span has read or the last write
visible to it. It changes no memory and no other register. An LD in an aperture whose tile is held writes the bytes of the tile.
-/
def Obligations.GlobalLoad : Prop :=
  ∀ (sb x : BitVec 1) (d a : BitVec 6) (w : BitVec 2) (o : BitVec 9) (s : State) (u j : Nat),
    let ea := (s.stream.getX a + o.signExtend 64 * BitVec.ofNat 64 (2 ^ w.toNat)).toNat
    let n := 2 ^ w.toNat
    let ext (v : Nat) : X := if x = 1 then (BitVec.ofNat (8 * n) v).signExtend 64 else BitVec.ofNat 64 v
    s.issues u j →
    (∀ pa, s.reachesGlobal u .read ea n pa → s.versionFull u pa = false → (∀ i, i < n → s.inWork u (ea + i) (pa + i) = false) →
      Completes (.ld sb d a w x o) s (fun t =>
        s.onlyX t d (ext (leNat (s.teamBytes u pa n))) ∧ s.keepsMemory t ∧ s.keepsCores t ∧ (t.unit u).stores = (s.unit u).stores)) ∧
    (∀ k tn ws, ea % n = 0 → ea < 2 ^ 57 → (s.unitLaunch u).aperture ea = some (k, tn) →
      tn.snap.find ((ea - tn.aper) / 4096) = some ws →
      Completes (.ld sb d a w x o) s (fun t =>
        s.wroteX t d (ext (leAt (ws.flatMap fun e => leBytes e.toNat 4) ((ea - tn.aper) % 4096) n))))

/-- R187, R189, R375, R376: an ST joins the open version of its team: memory reads as before, and so does the version, but that
from the next control cycle on its bytes are the bytes stored, where no higher voice stored there in the same cycle; and those are
what the team's reads return from then on, while its version stands. -/
def Obligations.GlobalStore : Prop :=
  ∀ (sb : BitVec 1) (d a : BitVec 6) (w : BitVec 2) (o : BitVec 9) (s : State) (u j pa : Nat),
    let ea := (s.stream.getX a + o.signExtend 64 * BitVec.ofNat 64 (2 ^ w.toNat)).toNat
    let n := 2 ^ w.toNat
    s.issues u j → s.reachesGlobal u .write ea n pa → s.versionFull u pa = false →
    (∀ e ∈ (s.unit u).stores, e.seenAt < s.cycleEnd ∨ (e.seenAt = s.cycleEnd ∧ e.voice ≤ j)) →
    Completes (.st sb d a w o) s (fun t =>
      s.keepsMemory t ∧ s.keepsCores t ∧ s.sameRegs t ∧
      (∀ i, i < n → t.versionByte u (pa + i) s.cycleEnd = (leBytes (s.stream.getX d).toNat n)[i]?) ∧
      (∀ r : State, r.unit u = t.unit u → s.cycleEnd ≤ r.dcc (s.unit u).place.die → r.teamBytes u pa n = leBytes (s.stream.getX d).toNat n) ∧
      (∀ q c, q < pa ∨ pa + n ≤ q ∨ c < s.cycleEnd → t.versionByte u q c = s.versionByte u q c) ∧
      (t.unit u).reads = (s.unit u).reads)

/-- R187, R211, R229: a load, store or atomic fails its team, with XINFO its address and nothing else changed, at the first check of
R187 that fails: misaligned-access at an address its size does not divide; address-range above the global window, or above the
scratchpad; protection in an aperture that it is not an LD of, or where the page does not permit it; weight-window where a page is
a weight window and the access is no LDW, or is none and it is; weight-region at an LDW of a region that its stage does not bind;
scratchpad-bounds outside the unit's allocation; atomic-over-span at an atomic over a store of the open version. -/
def Obligations.AccessFaults : Prop :=
  ∀ (sb x : BitVec 1) (d a b : BitVec 6) (w : BitVec 2) (o : BitVec 9) (f c : BitVec 3) (s : State) (u j : Nat),
    let ea := s.stream.getX a + o.signExtend 64 * BitVec.ofNat 64 (2 ^ w.toNat)
    let n := 2 ^ w.toNat
    let p := (s.unit u).place
    let va := s.stream.getX a
    let atomics : List (Instr × Access × X × Nat) := [(.amo sb 1 a b f c, .atomic, va, 8), (.amo sb 0 a b f c, .atomic, va, 4),
      (.amr sb d a b f c, .atomic, va, if f.toNat % 2 = 1 then 8 else 4)]
    let global := [(.ld sb d a w x o, .read, ea, n), (.st sb d a w o, .write, ea, n), (.ldw sb d a w x o, .ldw, ea, n)] ++ atomics
    let near : List (Instr × Access × X × Nat) := [(.lds sb d a w x o, .read, ea, n), (.sts sb d a w o, .write, ea, n)]
    let fails (y : Instr × Access × X × Nat) (code : Nat) : Prop := Completes y.1 s (fun t => s.faultsWith t code y.2.2.1)
    s.issues u j → (s.unit u).status = .resident →
    (∀ y ∈ global ++ near, y.2.2.1.toNat % y.2.2.2 ≠ 0 → fails y 0x09) ∧
    (∀ y ∈ global, y.2.2.1.toNat % y.2.2.2 = 0 →
      (2 ^ 57 ≤ y.2.2.1.toNat → fails y 0x0A) ∧
      (y.2.2.1.toNat < 2 ^ 57 →
        ((s.unitLaunch u).aperture y.2.2.1.toNat ≠ none → y.2.1 ≠ .read → fails y 0x0B) ∧
        ((s.unitLaunch u).aperture y.2.2.1.toNat = none → ∀ l, s.walk p.die p.job y.2.2.1.toNat = .ok l →
          (l.permits y.2.1 = false → fails y 0x0B) ∧
          (l.permits y.2.1 = true → l.ww = decide (y.2.1 ≠ .ldw) → fails y 0x0D) ∧
          (l.permits y.2.1 = true → l.ww = true → y.2.1 = .ldw → s.boundAt u (l.pa % 2 ^ 40) = none → fails y 0x0E)))) ∧
    (∀ y ∈ near, y.2.2.1.toNat % y.2.2.2 = 0 →
      (2 ^ 21 ≤ y.2.2.1.toNat → fails y 0x0A) ∧
      (y.2.2.1.toNat < 2 ^ 21 → y.2.2.1.toNat < p.lo ∨ p.hi < y.2.2.1.toNat + y.2.2.2 → fails y 0x10)) ∧
    (∀ y ∈ atomics, ∀ pa, s.reachesGlobal u .atomic y.2.2.1.toNat y.2.2.2 pa →
      (∃ z ∈ (s.unit u).stores, pa ≤ z.pa ∧ z.pa < pa + y.2.2.2) → fails y 0x11)

/-- R194: AMO leaves at the address, for the team's agents, the update of what stood at the line's home, of 8 bytes or of 4;
every other byte of memory is as it was, and no register changes. R186, R195: AMR writes the value that stood at the line's
home, zero-extended, to xd, which its voice may use once it arrives, and exchanges, compares and exchanges, or adds, 8 bytes or
4; where a compare fails memory is as it was. -/
def Obligations.Atomics : Prop :=
  (
    ∀ (sb : BitVec 1) (a b : BitVec 6) (c : BitVec 3) (s : State) (u j pa : Nat),
      let ea := (s.stream.getX a).toNat
      let F (k : Nat) (old x : BitVec k) : List (BitVec 3 × BitVec k) :=
        [(0, old + x), (1, if x.toInt < old.toInt then x else old), (2, if old.toInt < x.toInt then x else old), (3, old &&& x),
          (4, old ||| x), (5, old ^^^ x), (6, if x.toNat < old.toNat then x else old), (7, if old.toNat < x.toNat then x else old)]
      s.issues u j → s.poisoned pa = false → (∀ i, i < 8 → s.inWork u (ea + i) (pa + i) = false) →
      (s.reachesAtomic u ea 8 pa → pa % 128 ≤ 120 →
        ∀ f ∈ F 64 (BitVec.ofNat 64 (s.latestNat u pa 8)) (s.stream.getX b),
          Completes (.amo sb 1 a b f.1 c) s (fun t => BitVec.ofNat 64 (t.latestNat u pa 8) = f.2 ∧
            s.keepsMemoryBut t (s.unitKey u) pa 8 ∧ s.sameRegs t ∧ s.keepsCores t)) ∧
      (s.reachesAtomic u ea 4 pa → pa % 128 ≤ 124 →
        ∀ f ∈ F 32 (BitVec.ofNat 32 (s.latestNat u pa 4)) ((s.stream.getX b).setWidth 32),
          Completes (.amo sb 0 a b f.1 c) s (fun t => BitVec.ofNat 32 (t.latestNat u pa 4) = f.2 ∧
            s.keepsMemoryBut t (s.unitKey u) pa 4 ∧ s.sameRegs t ∧ s.keepsCores t))) ∧
  (
    ∀ (sb : BitVec 1) (d a b : BitVec 6) (c : BitVec 3) (s : State) (u j pa : Nat),
      let ea := (s.stream.getX a).toNat
      let old : X := BitVec.ofNat 64 (s.latestNat u pa 8)
      let old4 : X := BitVec.ofNat 64 (s.latestNat u pa 4)
      let x := s.stream.getX b
      let gave (v : X) (t : State) : Prop := s.onlyX t d v ∧ (d ≠ 0 → d.toNat ∈ (t.voice u j).busy) ∧ s.keepsCores t
      s.issues u j → s.poisoned pa = false → (∀ i, i < 8 → s.inWork u (ea + i) (pa + i) = false) →
      (s.reachesAtomic u ea 8 pa → pa % 128 ≤ 120 →
        (∀ f ∈ ([(1, x), (5, old + x)] : List (BitVec 3 × X)),
          Completes (.amr sb d a b f.1 c) s (fun t => gave old t ∧ BitVec.ofNat 64 (t.latestNat u pa 8) = f.2 ∧
            s.keepsMemoryBut t (s.unitKey u) pa 8)) ∧
        (old = s.stream.getX d →
          Completes (.amr sb d a b 3 c) s (fun t => gave old t ∧ BitVec.ofNat 64 (t.latestNat u pa 8) = x ∧
            s.keepsMemoryBut t (s.unitKey u) pa 8)) ∧
        (old ≠ s.stream.getX d → Completes (.amr sb d a b 3 c) s (fun t => gave old t ∧ s.keepsMemory t))) ∧
      (s.reachesAtomic u ea 4 pa → pa % 128 ≤ 124 →
        (∀ f ∈ ([(0, x), (4, old4 + x)] : List (BitVec 3 × X)),
          Completes (.amr sb d a b f.1 c) s (fun t => gave old4 t ∧ t.latestNat u pa 4 = f.2.toNat % 2 ^ 32 ∧
            s.keepsMemoryBut t (s.unitKey u) pa 4)) ∧
        (old4.toNat = (s.stream.getX d).toNat % 2 ^ 32 →
          Completes (.amr sb d a b 2 c) s (fun t => gave old4 t ∧ t.latestNat u pa 4 = x.toNat % 2 ^ 32 ∧
            s.keepsMemoryBut t (s.unitKey u) pa 4)) ∧
        (old4.toNat ≠ (s.stream.getX d).toNat % 2 ^ 32 →
          Completes (.amr sb d a b 2 c) s (fun t => gave old4 t ∧ s.keepsMemory t))))

/-- R187, R192: an LDW whose page is a weight window over a bound region writes the bytes of the bank that is active there,
decrypted, to xd (which the voice may use once they arrive), and changes no memory. -/
def Obligations.WeightLoad : Prop :=
  ∀ (sb x : BitVec 1) (d a : BitVec 6) (w : BitVec 2) (o : BitVec 9) (s : State) (u j wa k off : Nat) (r : Region)
    (m bank sc : Bool),
    let ea := (s.stream.getX a + o.signExtend 64 * BitVec.ofNat 64 (2 ^ w.toNat)).toNat
    let n := 2 ^ w.toNat
    let at_ := r.addr (waDie wa) (waCore wa) (r.actOn (waCore wa)) sc off
    let v := leNat ((List.range n).map fun i => s.cell (at_ + i))
    s.issues u j → s.checkWindow u ea n = .ok wa → s.boundAt u wa = some (k, r, m, bank, sc, off) →
    s.poisonAt r at_ n = none → s.owns (s.unit u).place.die (s.unit u).place.job r = true →
    Completes (.ldw sb d a w x o) s (fun t =>
      s.onlyX t d (if x = 1 then (BitVec.ofNat (8 * n) v).signExtend 64 else BitVec.ofNat 64 v) ∧
      (d ≠ 0 → d.toNat ∈ (t.voice u j).busy) ∧ s.keepsMemory t ∧ s.keepsCores t ∧ t.wt = s.wt)

/-! Scalar floating point and bits -/

/-- R72, R73, R181, R197 to R204: each scalar floating-point instruction writes the result of its operation to xd (FCMP: to pd),
joins its flags to FPFL, and changes nothing else. R205: POPC counts the set bits of xa, CLZ its leading zeros (64 of zero),
BEXT takes the field of w + 1 bits at xb<5:0>; each writes xd and changes nothing else. -/
def Obligations.FloatAndBits : Prop :=
  (
    ∀ (sb p : BitVec 1) (d a b : BitVec 6) (q : BitVec 7) (r : BitVec 2) (c f g : BitVec 3) (s : State),
      let x := precBits p (s.stream.getX a)
      let y := precBits p (s.stream.getX b)
      let z := precBits p (s.stream.getX d)
      let F := precFmt p
      let wrote (v : Nat × X) (t : State) : Prop := s.wroteFloat t d v
      Completes (.fadd sb d a b r p) s (wrote (fpAdd F r.toNat x y)) ∧
      Completes (.fsub sb d a b r p) s (wrote (fpSub F r.toNat x y)) ∧
      Completes (.fmul sb d a b r p) s (wrote (fpMul F r.toNat x y)) ∧
      Completes (.ffma sb d a b r p) s (wrote (fpFma F r.toNat x y z)) ∧
      Completes (.fmin sb d a b p) s (wrote (fpMinMax F false x y)) ∧
      Completes (.fmax sb d a b p) s (wrote (fpMinMax F true x y)) ∧
      Completes (.fsgn sb d a b 0 p) s (wrote (fpSetSign F (fpSign F y) x)) ∧
      Completes (.fsgn sb d a b 1 p) s (wrote (fpSetSign F (!fpSign F y) x)) ∧
      Completes (.fsgn sb d a b 2 p) s (wrote (fpSetSign F (fpSign F x ^^ fpSign F y) x)) ∧
      Completes (.fcmp sb q a b c p) s (fun t =>
        (s.raise (fpCmp F c.toNat x y).2).wroteP t q (fpCmp F c.toNat x y).1 ∧
        ((s.unit s.selUnit).recent.find 0x024 = none →
          (t.unit s.selUnit).fpfl = (s.unit s.selUnit).fpfl ||| (fpCmp F c.toNat x y).2)) ∧
      Completes (.fsqs sb d a) s (wrote (seedRsqrt ((s.stream.getX a).toNat % 2 ^ 32))) ∧
      Completes (.frcs sb d a) s (wrote (seedRecip ((s.stream.getX a).toNat % 2 ^ 32))) ∧
      Completes (.fcls sb d a p) s (fun t => s.wroteX t d (BitVec.ofNat 64 (2 ^ fpClass F x))) ∧
      (let v := cvtSource f (s.stream.getX a);
        Completes (.fcvt sb d a r 0 f g) s
          (wrote ((cvtDest g r.toNat false v).1.toNat, (cvtDest g r.toNat false v).2 ||| if isSig v then flNV else 0)) ∧
        Completes (.fcvt sb d a r 1 f g) s
          (wrote ((cvtDest g r.toNat true v).1.toNat, (cvtDest g r.toNat true v).2 ||| if isSig v then flNV else 0)))) ∧
  (
    ∀ (sb : BitVec 1) (d a b w : BitVec 6) (s : State),
      let x := s.stream.getX a
      Completes (.popc sb d a) s (fun t => s.wroteX t d (BitVec.ofNat 64 ((List.range 64).countP fun i => x.getLsbD i))) ∧
      (x = 0 → Completes (.clz sb d a) s (fun t => s.wroteX t d 64)) ∧
      (∀ k, k < 64 → x.toNat < 2 ^ (64 - k) → 2 ^ (63 - k) ≤ x.toNat →
        Completes (.clz sb d a) s (fun t => s.wroteX t d (BitVec.ofNat 64 k))) ∧
      Completes (.bext sb d a b w) s (fun t =>
        s.wroteX t d ((x >>> ((s.stream.getX b).toNat % 64)) &&& BitVec.ofNat 64 (2 ^ (w.toNat + 1) - 1))))

/-! Spans, barriers, watches, semaphores and stage queues -/

/-- R372, R373, R395: a SPAN whose unit owes no report commits the open version: it ends empty, and each byte whose last store
it held reads, for the team, as stored; at scope .sys the host reads it so as well. Every other byte reads as before, to the team
and, where no earlier write of the team widens there, to every agent (R387). No register changes. Its unit runs on where its core is not
asked to move; where it is, the unit stops there for the migration (R109). R382, R396, R397: FENCE makes the writes of its team below
its scope visible at its scope, and CFLUSH those to the line it names, or with x0 all of them, and every other byte reads as before
(`State.widened`); CFLUSH of an address in an aperture finds no line that anything writes. Neither touches the open version, a
register or the cores' storage. That FENCE widens every narrower write of its team at once is the model's reading (log 23). -/
def Obligations.SpansAndFences : Prop :=
  (
    ∀ (sb : BitVec 1) (c : BitVec 3) (s : State) (u j : Nat),
      s.issues u j → s.owed = none → (s.unit u).vlost = none →
      Completes (.span sb c) s (fun t => (t.unit u).stores = [] ∧ (t.unit u).reads = [] ∧ s.sameRegs t ∧ s.keepsCores t ∧
        (∀ w, findLast (fun e => decide (e.pa = w.pa)) (s.unit u).stores = some w → t.poisoned w.pa = false →
          t.seen (.team u) (s.unitKey u) w.pa = w.byte ∧ (5 ≤ c.toNat → t.seen .host (s.unitKey u) w.pa = w.byte)) ∧
        (∀ w ∈ t.narrow, w.unit = u → c.toNat ≤ w.scope) ∧
        (∀ pa ag, (∀ w ∈ (s.unit u).stores, w.pa ≠ pa) → ag = .team u ∨ (∀ w ∈ s.narrow, w.unit = u → w.pa ≠ pa) →
          t.seen ag (s.unitKey u) pa = s.seen ag (s.unitKey u) pa) ∧
        s.runsOrMoves t u)) ∧
  (
    ∀ (sb : BitVec 1) (a : BitVec 6) (c : BitVec 3) (s : State) (u j : Nat),
      let ea := (s.stream.getX a).toNat
      let quiet (t : State) : Prop := t.units = s.units ∧ s.sameRegs t ∧ s.keepsCores t
      s.issues u j →
      Completes (.fence sb c) s (fun t => s.widened t u c.toNat (fun _ => true) ∧ quiet t) ∧
      Completes (.cflush sb 0 c) s (fun t => s.widened t u c.toNat (fun _ => true) ∧ quiet t) ∧
      (∀ pa, a ≠ 0 → s.reachesGlobal u .read ea 1 pa →
        Completes (.cflush sb a c) s (fun t => s.widened t u c.toNat (fun q => decide (q / 128 = pa / 128)) ∧ quiet t)) ∧
      (a ≠ 0 → ea < 2 ^ 57 → (s.unitLaunch u).aperture ea ≠ none → Completes (.cflush sb a c) s (fun t => s.keepsMemory t ∧ quiet t)))

/-- R398, R399: BARI with a legal word makes the barrier at its address: parties and bytes as given, none arrived, not done, its
generation one above. Where the team has no earlier write for it to release, no other byte of memory reads otherwise. No
register changes. -/
def Obligations.BarrierInitialise : Prop :=
  ∀ (sb : BitVec 1) (a b : BitVec 6) (c : BitVec 3) (s : State) (u j pa : Nat),
    let v := (s.stream.getX b).toNat
    s.issues u j → s.reachesAtomic u (s.stream.getX a).toNat 16 pa → bits v 0 12 ≠ 0 → bits v 60 4 = 0 →
    s.poisoned pa = false → pa % 128 ≤ 112 → c.toNat ≤ 5 →
    Completes (.bari sb a b c) s (fun t =>
      t.barrier u pa = ⟨bits v 12 48, 0, false, false, bits v 0 12, c.toNat, ((s.barrier u pa).gen + 1) % 2 ^ 48⟩ ∧
      ((∀ w ∈ s.narrow, w.unit = u → c.toNat ≤ w.scope) → s.keepsMemoryBut t (s.unitKey u) pa 16) ∧ s.sameRegs t ∧ s.keepsCores t)

/-- R400, R401: BARA with a party left to arrive ends the team's span and adds one to the arrivals, which makes the barrier done
where it is the last and no byte is pending; with none left it marks the overarrival and its team fails. BARW at a barrier that
is done ends the team's span and goes on; at one that is not it waits with its PC where it was, until the barrier is done or of
a later generation. -/
def Obligations.BarrierArriveAndWait : Prop :=
  ∀ (sb : BitVec 1) (a : BitVec 6) (s : State) (u j pa : Nat),
    let b := s.barrier u pa
    let spanEnded (t : State) : Prop := (t.unit u).stores = [] ∧ (t.unit u).reads = [] ∧ s.sameRegs t ∧ s.keepsCores t
    let wentOn (t : State) : Prop := spanEnded t ∧ s.runsOrMoves t u ∧ (s.stream.plain → t.stream.pc = s.stream.pc + 16)
    s.issues u j → (s.unit u).vlost = none →
    (s.reachesAtomic u (s.stream.getX a).toNat 16 pa → s.owed = none → s.poisoned pa = false → pa % 128 ≤ 112 →
      (b.arr < b.parties → Completes (.bara sb a) s (fun t =>
        (t.barrier u pa).arr = b.arr + 1 ∧ (t.barrier u pa).pend = b.pend ∧ (t.barrier u pa).gen = b.gen ∧
        (b.arr + 1 = b.parties → b.pend = 0 → (t.barrier u pa).fin = true) ∧ wentOn t)) ∧
      (b.arr = b.parties → (s.unit u).status = .resident → Completes (.bara sb a) s (fun t =>
        (t.barrier u pa).ovr = true ∧ (t.unit u).status = .failing ∧ (t.voice u j).xcause.toNat % 1024 = 0x22 ∧ spanEnded t)) ∧
      ((s.voice u j).status = .running →
        (b.fin = true → Completes (.barw sb a) s (fun t => wentOn t ∧ (t.voice u j).status = .running)) ∧
        (b.fin = false → Completes (.barw sb a) s (fun t => t.stream = s.stream ∧ s.keepsMemory t ∧ s.keepsCores t ∧
          t.units = s.units ∧ (t.voice u j).status = .waiting (.barrier pa b.gen) (s.unitCyc u))))) ∧
    (∀ g since, (s.voice u j).status = .waiting (.barrier pa g) since →
      (b.fin = true ∨ g ≠ b.gen → Completes (.barw sb a) s (fun t => wentOn t ∧ (t.voice u j).status = .running)) ∧
      (b.fin = false → g = b.gen → Completes (.barw sb a) s (fun t => t = s)))

/-- R402, R403: MON arms the voice's watch on the line; MWAIT whose watch has fired answers 0 and clears it, without a watch 2,
past its deadline 1; else it waits with its PC where it was. -/
def Obligations.MonitorAndWait : Prop :=
  ∀ (sb : BitVec 1) (d a : BitVec 6) (s : State) (u j pa : Nat),
    let at_ := (s.stream.getX a).toNat
    s.issues u j →
    (s.reachesGlobal u .read at_ 1 pa → Completes (.mon sb a) s (fun t =>
      (t.voice u j).watch = some ⟨pa / 128, at_, false⟩ ∧ s.sameRegs t ∧ s.keepsMemory t)) ∧
    ((s.voice u j).watch = none → Completes (.mwait sb d a) s (fun t => s.wroteX t d 2)) ∧
    (∀ w, (s.voice u j).watch = some w →
      (w.fired = true → Completes (.mwait sb d a) s (fun t =>
        s.onlyX t d 0 ∧ (t.voice u j).watch = some { w with fired := false } ∧ s.keepsMemory t)) ∧
      (w.fired = false → a ≠ 0 → at_ ≤ s.dcc (s.unit u).place.die → Completes (.mwait sb d a) s (fun t => s.wroteX t d 1)) ∧
      (w.fired = false → (a ≠ 0 → s.dcc (s.unit u).place.die < at_) → (s.voice u j).status = .running →
        Completes (.mwait sb d a) s (fun t => t.stream = s.stream ∧ s.keepsMemory t ∧
          (t.voice u j).status = .waiting (.mwait (if a = 0 then none else some at_)) (s.unitCyc u))))

/-- R404 to R406: SEMW of an amount that the count covers, with no earlier waiter, takes it and goes on; SEMP, with no waiter,
adds its amount. No other byte of memory changes. -/
def Obligations.Semaphores : Prop :=
  ∀ (sb : BitVec 1) (a b : BitVec 6) (c : BitVec 3) (s : State) (u j pa : Nat),
    let n := (s.stream.getX b).toNat
    s.issues u j → s.reachesAtomic u (s.stream.getX a).toNat 8 pa → s.poisoned pa = false → pa % 128 ≤ 120 → s.semq = [] →
    n < 2 ^ 32 → n ≠ 0 →
    ((n : Int) ≤ s.semCount u pa → Completes (.semw sb a b c) s (fun t =>
      t.semCount u pa = s.semCount u pa - n ∧ s.keepsMemoryBut t (s.unitKey u) pa 8 ∧ t.semq = [] ∧ s.sameRegs t)) ∧
    (s.semCount u pa + n < 2 ^ 63 → Completes (.semp sb a b c) s (fun t =>
      t.semCount u pa = s.semCount u pa + n ∧ (s.narrow = [] → s.keepsMemoryBut t (s.unitKey u) pa 8) ∧ s.sameRegs t))

/-- R407, R408: a push into a queue with room and no waiter adds the scratchpad entry at its tail, and a pop from one with an
entry and no waiter takes its head, which stands in the scratchpad from then on where no higher voice stores in the cycle; each
answers 0, the try forms alike. A try at a full queue, or at an empty open one, answers 3; the waiting form waits with its PC
where it was. A pop of a queue that is empty and closed answers 1, one of a withdrawn unit from its input queue 2. -/
def Obligations.StageQueues : Prop :=
  ∀ (sb : BitVec 1) (d a b : BitVec 6) (s : State) (u j q : Nat),
    let l := (s.unit u).place.launch
    let x := s.queue l q
    let ea := (s.stream.getX a).toNat
    s.issues u j → (s.voice u j).status = .running →
    (s.queueCheck true a b = .ok q →
      (x.items.length < x.qent → x.pushers = [] → x.poppers = [] →
        ∀ i ∈ ([.qpush sb d a b, .qtryPush sb d a b] : List Instr),
          Completes i s (fun t => (t.queue l q).items = x.items ++ [s.ldsBytes u ea x.qsize] ∧ s.onlyX t d 0 ∧ s.keepsCores t ∧
            (s.stream.plain → t.stream.pc = s.stream.pc + 16))) ∧
      (x.qent ≤ x.items.length ∨ x.pushers ≠ [] →
        Completes (.qtryPush sb d a b) s (fun t => s.wroteX t d 3) ∧
        Completes (.qpush sb d a b) s (fun t => t.stream = s.stream ∧ s.keepsCores t ∧
          (t.voice u j).status = .waiting (.push q) (s.unitCyc u) ∧ (t.queue l q).items = x.items ∧
          (t.queue l q).pushers = x.pushers ++ [⟨u, j, ea, d, s.ldsBytes u ea x.qsize, s.dcc (s.unit u).place.die⟩]))) ∧
    (s.queueCheck false a b = .ok q →
      (∀ i ∈ ([.qpop sb d a b, .qtryPop sb d a b] : List Instr),
        (∀ it its, x.items = it :: its → x.pushers = [] → x.poppers = [] → (s.unit u).withdrawn = false →
          Completes i s (fun t => (t.queue l q).items = its ∧ s.onlyX t d 0 ∧ s.keepsMemory t ∧
            (s.stream.plain → t.stream.pc = s.stream.pc + 16) ∧
            (it.length = x.qsize → s.unguarded u ea x.qsize → (∀ e ∈ (s.unit u).spOld, e.voice ≤ j) →
              t.spBytes u ea x.qsize = it))) ∧
        (x.items = [] → s.queueOpen l q = false → Completes i s (fun t => s.wroteX t d 1)) ∧
        (x.items ≠ [] ∨ s.queueOpen l q = true → (s.unit u).withdrawn = true → (s.unitStage u).inq = q →
          Completes i s (fun t => s.wroteX t d 2))) ∧
      (x.items = [] → s.queueOpen l q = true → (s.unit u).withdrawn = false →
        Completes (.qtryPop sb d a b) s (fun t => s.wroteX t d 3) ∧
        Completes (.qpop sb d a b) s (fun t => t.stream = s.stream ∧ s.keepsCores t ∧ s.keepsMemory t ∧
          (t.voice u j).status = .waiting (.pop q) (s.unitCyc u))))

/-! Engines, work and power -/

/-- R410 to R412: FORK to idle contexts at aligned entries starts each, with x1 and x2 of the voice; RDV with its contexts idle
before its cycle goes on, and where one is busy the voice waits; EKILL leaves no unissued command in the contexts it names and
stops their decoding. -/
def Obligations.EngineContexts : Prop :=
  ∀ (sb : BitVec 1) (c m v : BitVec 6) (e : BitVec 3) (s : State) (u j : Nat),
    s.issues u j →
    (s.forkBusy .matrix m = false → s.forkBusy .vector v = false → s.forkBusy .copy c = false →
      (∀ r ∈ [m, v, c], (s.stream.getX r).toNat % 4 = 0) →
      Completes (.fork sb c m v) s (fun t => s.sameRegs t ∧ s.keepsMemory t ∧
        ∀ x ∈ ([(.matrix, m), (.vector, v), (.copy, c)] : List (Engine × BitVec 6)),
          (x.2 = 0 → t.ctx u x.1 j = s.ctx u x.1 j) ∧
          (x.2 ≠ 0 → (t.ctx u x.1 j).status = .running ∧ (t.ctx u x.1 j).st.pc = s.stream.getX x.2 ∧
            (t.ctx u x.1 j).st.getX 1 = s.stream.getX 1 ∧ (t.ctx u x.1 j).st.getX 2 = s.stream.getX 2))) ∧
    ((∀ x ∈ maskEngines e, (s.ctx u x j).status = .idle ∧ (s.ctx u x j).idleAt ≤ s.cycleStart) →
      Completes (.rdv sb e) s (fun t => s.movedOn t)) ∧
    (∀ x ∈ maskEngines e, (s.ctx u x j).status ≠ .idle → (s.voice u j).status = .running →
      Completes (.rdv sb e) s (fun t => t.stream = s.stream ∧ (t.voice u j).status = .waiting (.rdv e.toNat) (s.unitCyc u))) ∧
    Completes (.ekill sb e) s (fun t => s.sameRegs t ∧ s.keepsMemory t ∧
      ∀ x ∈ maskEngines e, (t.ctx u x j).queue = [] ∧ (t.ctx u x j).flight = (s.ctx u x j).flight ∧
        (t.ctx u x j).status ≠ .running)

/-- R107, R109, R413, R415, R416: a YIELD without a request, or with one whose deadline has passed, ends the span and goes on,
and its unit runs on or stops for a migration; with a request it honours it stops the team for the slice yield. PARK parks its
voice past the word, but only moves on where another voice has unparked it in the control cycle; PARK.un starts a parked voice,
and leaves any other as it is. RETIRE with no other voice left to
issue in its cycle and every context arrived ends the unit, whose open version is empty; with a context that has not, it waits
with its PC where it was. -/
def Obligations.YieldParkRetire : Prop :=
  ∀ (sb : BitVec 1) (k : BitVec 2) (s : State) (u j : Nat),
    let spanEnded (t : State) : Prop := (t.unit u).stores = [] ∧ (t.unit u).reads = [] ∧ s.sameRegs t ∧ s.keepsCores t
    s.issues u j → j < 4 →
    (s.owed = none → (s.unit u).vlost = none →
      ((s.unit u).yreq = none → Completes (.yield sb) s (fun t => spanEnded t ∧ s.runsOrMoves t u)) ∧
      (∀ c D, (s.unit u).yreq = some (c, D) →
        (D < s.cycleStart → Completes (.yield sb) s (fun t => spanEnded t ∧ s.runsOrMoves t u)) ∧
        (s.cycleStart ≤ D → (s.unit u).status = .resident → Completes (.yield sb) s (fun t => spanEnded t ∧
          (t.unit u).status = .stopping 0x44 ∧ (t.unit u).yreq = none)))) ∧
    (s.unparkedNow u j = false → s.allOff u j = false → Completes (.park sb) s (fun t => (t.voice u j).status = .parked ∧
      s.sameRegs t ∧ s.keepsMemory t ∧ s.keepsCores t ∧ (s.stream.plain → t.stream.pc = s.stream.pc + 16))) ∧
    (s.unparkedNow u j = true → Completes (.park sb) s (fun t => s.movedOn t)) ∧
    (k.toNat < (s.unit u).place.voices →
      (k.toNat ≠ j → (s.voice u k.toNat).status = .parked → Completes (.parkUn sb k) s (fun t =>
        (t.voice u k.toNat).status = .running ∧ (t.voice u k.toNat).st = (s.voice u k.toNat).st ∧ s.sameRegs t ∧ s.keepsMemory t ∧
          s.keepsCores t)) ∧
      (k.toNat ≠ j → (s.voice u k.toNat).status ≠ .parked → Completes (.parkUn sb k) s (fun t =>
        t.voice u k.toNat = s.voice u k.toNat ∧ s.sameRegs t ∧ s.keepsMemory t ∧ s.keepsCores t ∧
          (s.stream.plain → t.stream.pc = s.stream.pc + 16)))) ∧
    ((s.unit u).retireAt = none → s.owed = none → s.othersYet u j = false → (s.unit u).vlost = none → u < s.nextUnit →
      s.arrived u = true → Completes (.retire sb) s (fun t => (t.unit u).status = .ended ∧ (t.unit u).stores = [])) ∧
    ((s.unit u).retireAt = none → s.owed = none → (s.voice u j).status = .running → s.arrived u = false →
      Completes (.retire sb) s (fun t => t.stream = s.stream ∧ s.keepsMemory t ∧ s.keepsCores t ∧
        (t.voice u j).status = .waiting (.rdv 8) (s.unitCyc u)))

/-- R93, R417, R418: CNCL and CMPLR stall their voice with their question; the holding die's answer gives the counter's word (0
where no such counter is), or the status of the cancel, to xd and lets the voice go on; a cancel it accepts, status 0, cancels
the level: the launch, graph, phase or job. It changes no memory but that the stores of a level that is over become visible. -/
def Obligations.CounterQuestions : Prop :=
  ∀ (sb : BitVec 1) (d a : BitVec 6) (l : BitVec 2) (s : State) (u j level id : Nat),
    let job := (s.unit u).place.job
    let gave (v : X) (t : State) : Prop := (t.voice u j).ask = none ∧
      (t.voice u j).st.getX d = (if d = 0 then 0 else v) ∧ (∀ r, r ≠ d → (t.voice u j).st.getX r = (s.voice u j).st.getX r)
    (s.issues u j →
      Completes (.cncl sb d a l) s (fun t => t.stream = s.stream ∧ s.keepsMemory t ∧ s.keepsCores t ∧ t.units = s.units ∧
        (t.voice u j).ask = some (.cancel l.toNat (s.stream.getX a).toNat d)) ∧
      Completes (.cmplr sb d a l) s (fun t => t.stream = s.stream ∧ s.keepsMemory t ∧ s.keepsCores t ∧ t.units = s.units ∧
        (t.voice u j).ask = some (.read l.toNat (s.stream.getX a).toNat d))) ∧
    ((s.unit u).status = .resident → (s.unit u).away = false →
      (∀ c, (s.voice u j).ask = some (.read level id d) → s.counter job level id = some c →
        Completes (.holdingDieAnswer u j) s (fun t => gave c.word t ∧ (level ≠ 0 ∨ c.isOpen = true → s.keepsMemory t))) ∧
      ((s.voice u j).ask = some (.read level id d) → s.counter job level id = none →
        Completes (.holdingDieAnswer u j) s (fun t => gave 0 t ∧ s.keepsMemory t)) ∧
      ((s.voice u j).ask = some (.cancel level id d) → s.counter job level id = none →
        Completes (.holdingDieAnswer u j) s (fun t => gave 2 t ∧ s.keepsMemory t)) ∧
      (∀ c, (s.voice u j).ask = some (.cancel level id d) → s.counter job level id = some c → c.isOpen = false →
        Completes (.holdingDieAnswer u j) s (fun t => gave 1 t ∧ s.keepsMemory t)) ∧
      (∀ c, (s.voice u j).ask = some (.cancel level id d) → s.counter job level id = some c → c.isOpen = true →
        Completes (.holdingDieAnswer u j) s (fun t => gave 0 t ∧ s.keepsMemory t ∧
          (level = 0 → ∀ lid l, s.launches.find lid = some l → l.job = job → l.id = id % 2 ^ 32 →
            (t.launch lid).count.cancel = true ∨ (t.launch lid).count.isOpen = false) ∧
          (level = 1 → ∃ g, t.graphs.find (gkey job (id % 65536)) = some g ∧ g.count.cancel = true) ∧
          (level = 2 → ∃ f, t.phases.find (gkey job (id % 65536)) = some f ∧ f.count.cancel = true) ∧
          (level = 3 → ∃ h, t.hjobs.find job = some h ∧ h.count.cancel = true))))

/-- R420 to R422: BRTH opens the breath window of its team, or closes it with intensity 0; RELP and ACQP at or below the grant held
go on at once, and where no write of the grant is on its way the one drops it and the other lowers it; ACQP above it joins the zone's
queue and stalls; CLKD records the request for its domain and goes on where the divisor need not change, and stalls where it must. -/
def Obligations.PowerRequests : Prop :=
  ∀ (sb : BitVec 1) (a b : BitVec 6) (n : BitVec 4) (l : BitVec 2) (s : State) (u j : Nat),
    let x := (s.stream.getX a).toNat
    let y := (s.stream.getX b).toNat
    let die := (s.unit u).place.die
    let asked := (s.stallOn (.clock l.toNat x (s.dcc die))).wantDiv die (s.home u) l.toNat
    let quiet (t : State) : Prop := s.keepsMemory t ∧ s.keepsCores t
    let stalled (w : Ask) (t : State) : Prop := quiet t ∧ t.stream = s.stream ∧ (t.voice u j).ask = some w
    s.issues u j →
    (x < 2 ^ 20 → 1 ≤ y → y ≤ 2 ^ 24 →
      (n ≠ 0 → Completes (.brth sb a b n) s (fun t => s.sameRegs t ∧ quiet t ∧
        (t.unit u).breath = some ⟨s.tclkAt u s.cycleStart + max x 64, y, n.toNat, false⟩)) ∧
      (n = 0 → Completes (.brth sb a b n) s (fun t => s.sameRegs t ∧ quiet t ∧ (t.unit u).breath = none))) ∧
    Completes (.relp sb) s (fun t => s.sameRegs t ∧ quiet t ∧ ((s.unit u).recent.find 0x023 = none → (t.unit u).pgnt = 0)) ∧
    (1 ≤ x → x ≤ (s.unit u).pgnt.toNat → Completes (.acqp sb a) s (fun t => s.sameRegs t ∧ quiet t ∧
      ((s.unit u).recent.find 0x023 = none → (t.unit u).pgnt.toNat = x))) ∧
    (x ≤ 15 → (s.unit u).pgnt.toNat < x → Completes (.acqp sb a) s (fun t => stalled (.power x) t ∧
      (t.zoneOf die (s.home u)).asks = (s.zoneOf die (s.home u)).asks ++ [(u, j, x)])) ∧
    (2 ≤ x → x ≤ 16 →
      (asked = ((s.unitCore u).clk l.toNat).div → Completes (.clkd sb a l) s (fun t => (t.unit u).clkd.find l.toNat = some x ∧
        s.sameRegs t ∧ quiet t)) ∧
      (asked ≠ ((s.unitCore u).clk l.toNat).div → Completes (.clkd sb a l) s (fun t => stalled (.clock l.toNat x (s.dcc die)) t ∧
        t.units = s.units)))

/-- R414, R423, R444, R445, R447, R448: PROBE answers its selector: 0 the cause of a pending yield request with the guard and
breath bits, 1 its deadline, 2 the cycles left to it. TRAP with a handler enters it, its XPC where the voice would have gone on,
its cause and immediate saved, its loops in their shadows and its mode the handler's; that XPC is the next bundle is the model's
reading (log 17); without a handler the team fails with its cause, and in handler mode with the double-trap fault, whose detail is that cause and
the low byte of XCAUSE before it. TRET restores PC, loops and repeat state and leaves the mode; outside a handler it is illegal,
a saved status that R448 does not allow raises the bad-status fault with XSW in XINFO, and an XPC off a bundle the
misaligned-target fault with XPC there. -/
def Obligations.TrapAndReturn : Prop :=
  ∀ (sb : BitVec 1) (d : BitVec 6) (i : BitVec 18) (s : State) (u j : Nat),
    let v := s.voice u j
    let on_ := Stream.advance 16 v.st
    let flags := (if (s.unit u).guard.isSome then 4 else 0) + (if s.breathing u then 8 else 0)
    let stood (t : State) : Prop := s.sameRegs t ∧ s.keepsMemory t ∧ s.keepsCores t
    let failed (c : Nat) (t : State) : Prop := (t.unit u).status = .failing ∧ (t.voice u j).xcause.toNat % 1024 = c ∧ stood t
    s.issues u j →
    ((s.unit u).yreq = none → ∀ p ∈ ([(0, flags), (1, 0), (2, 0)] : List (BitVec 3 × Nat)),
      Completes (.probe sb d p.1) s (fun t => s.wroteX t d (BitVec.ofNat 64 p.2))) ∧
    (∀ c D, (s.unit u).yreq = some (c, D) → ∀ p ∈ ([(0, c + flags), (1, D), (2, D - s.cycleStart)] : List (BitVec 3 × Nat)),
      Completes (.probe sb d p.1) s (fun t => s.wroteX t d (BitVec.ofNat 64 p.2))) ∧
    (v.hmode = false → s.handler u ≠ 0 → Completes (.trap sb i) s (fun t =>
      (t.voice u j).st.pc = s.handler u ∧ (t.voice u j).hmode = true ∧ (t.voice u j).xpc = on_.pc ∧
      (t.voice u j).xcause.toNat % 1024 = 0x80 + 2 * 256 ∧ (t.voice u j).xinfo = BitVec.ofNat 64 i.toNat ∧
      (t.voice u j).s0 = on_.l0 ∧ (t.voice u j).s1 = on_.l1 ∧ (t.voice u j).s2 = on_.l2 ∧ stood t)) ∧
    (v.hmode = false → s.handler u = 0 → (s.unit u).status = .resident → Completes (.trap sb i) s (failed 0x80)) ∧
    (v.hmode = true → xswBad v.xsw = false → v.xpc.toNat % 16 = 0 → Completes (.tret sb) s (fun t =>
      (t.voice u j).st.pc = v.xpc ∧ (t.voice u j).hmode = false ∧ (t.voice u j).st.l0 = v.s0 ∧ (t.voice u j).st.l1 = v.s1 ∧
      (t.voice u j).st.l2 = v.s2 ∧ (t.voice u j).st.rep = xswRep v.xsw ∧ stood t)) ∧
    ((s.unit u).status = .resident →
      (v.hmode = true → Completes (.trap sb i) s (fun t =>
        s.faultsWith t 0x2A (BitVec.ofNat 64 (0x80 + v.xcause.toNat % 256 * 2 ^ 32)))) ∧
      (v.hmode = false → Completes (.tret sb) s (fun t => s.faultsWith t 0x01 (BitVec.ofNat 64 (s.ir.toNat * 2 ^ 32)))) ∧
      (v.hmode = true →
        (bits v.xsw.toNat 38 26 ≠ 0 ∨ bits v.xsw.toNat 22 2 ≠ 0 ∨ (bits v.xsw.toNat 21 1 = 0 ∧ bits v.xsw.toNat 0 21 ≠ 0) ∨
            (bits v.xsw.toNat 21 1 = 1 ∧ bits v.xsw.toNat 6 6 < bits v.xsw.toNat 0 6) →
          Completes (.tret sb) s (fun t => s.faultsWith t 0x29 v.xsw)) ∧
        (xswBad v.xsw = false → v.xpc.toNat % 16 ≠ 0 → Completes (.tret sb) s (fun t => s.faultsWith t 0x06 v.xpc))))

/-! Words of the engines -/

/-- R281, R287, R288, R296, R297, R301, R316, R364, R366: a word that completes as it decodes takes the next cn of its context
and has its effect at once: a format entry, a tensor scale (where no write of that entry is on its way), the selector, the bank word, a
pending hold, the close of a group, the shape, a command's status; MNOP 0 and a CWAIT with nothing to wait for have none. -/
def Obligations.DecodeTimeWords : Prop :=
  ∀ (a b : BitVec 6) (x : BitVec 5) (r n4 : BitVec 4) (k : BitVec 2) (n : BitVec 3) (s : State) (u j : Nat),
    let va := s.stream.getX a
    let vb := s.stream.getX b
    let e : Word := vb.setWidth 32
    (s.sel = .ctx u .matrix j → s.room 0 = true →
      Completes (.mnop 0) s (fun t => s.completesAtDecode t u .matrix j ∧ s.sameRegs t) ∧
      (entryBad e = false → Completes (.mfmt b r k) s (fun t => s.completesAtDecode t u .matrix j ∧ s.sameRegs t ∧
        ∀ i, (i = r.toNat * 4 + k.toNat → (s.unit u).recent.find (0x200 + i) = none) →
          (t.unit u).ftab.getD i 0 = if i = r.toNat * 4 + k.toNat then e else (s.unit u).ftab.getD i 0)) ∧
      (va.toNat < 256 → scaleBad e = false → Completes (.mfmtTs a b) s (fun t => s.completesAtDecode t u .matrix j ∧ s.sameRegs t ∧
        ∀ i, (i = va.toNat → (s.unit u).recent.find (0x300 + i) = none) →
          (t.unit u).tstab.getD i 0x3F800000 = if i = va.toNat then e else (s.unit u).tstab.getD i 0x3F800000)) ∧
      Completes (.mfsel n4 k) s (fun t => s.completesAtDecode t u .matrix j ∧ s.sameRegs t ∧
        t.stream.fmsel.toNat = n4.toNat * 16 + k.toNat) ∧
      (∀ ix key en g, s.binding u n.toNat = some ix → s.tableRegion (s.unit u).place.die (s.unit u).place.job ix = some (key, en, g) →
        Completes (.mbnk a n) s (fun t => s.completesAtDecode t u .matrix j ∧ s.onlyX t a (s.bankWord (s.home u) key g))) ∧
      Completes (.mhold b) s (fun t => s.completesAtDecode t u .matrix j ∧ s.sameRegs t ∧
        (t.ctx u .matrix j).hold = some (min vb.toNat 1024)) ∧
      Completes .mholdRel s (fun t => s.completesAtDecode t u .matrix j ∧ s.sameRegs t ∧
        ∀ g ∈ (t.core (s.unit u).place.die (s.home u)).groups, (g.members.any fun m => decide (m.1 = u ∧ m.2.1 = j)) = true →
          g.closed = true)) ∧
    (s.sel = .ctx u .vector j → s.room 0 = true → vshBad (s.vx x) = false →
      Completes (.vshp x) s (fun t => s.completesAtDecode t u .vector j ∧ s.sameRegs t ∧
        ((s.unit u).recent.find 0x100 = none → (t.unit u).vsh = (s.vx x).setWidth 32))) ∧
    (s.sel = .ctx u .copy j → s.room 0 = true →
      (((s.ctx u .copy j).queue ++ (s.ctx u .copy j).flight).any (Cmd.awaited (if a = 0 then none else some va.toNat)) = false →
        Completes (.cwait a) s (fun t => s.completesAtDecode t u .copy j ∧ s.sameRegs t)) ∧
      (((s.ctx u .copy j).queue ++ (s.ctx u .copy j).flight).any (Cmd.awaited (if a = 0 then none else some va.toNat)) = true →
        Completes (.cwait a) s (fun t => t = s)) ∧
      Completes (.cprq a b) s (fun t => s.completesAtDecode t u .copy j ∧
        s.onlyX t a (BitVec.ofNat 64 ((s.ctx u .copy j).statusOf vb.toNat))))

/-- R125, R127, R222, R285, R286, R419: an MMA or MMAG whose checks pass and whose draw level the grant admits enters its queue
with the claims and level its checks found and the stamp of a timed word; one above the grant enters no queue, and raises an
engine event, and takes only the hold it would take. -/
def Obligations.ArrayCommandsEnter : Prop :=
  ∀ (z : BitVec 4) (a w : BitVec 6) (p q d m t c : BitVec 1) (f : BitVec 2) (s s1 : State) (u j : Nat) (k : Cmd),
    let ran (i : Instr) : Prop :=
      (s.admits u k.level → Completes i s (fun x => s.sameRegs x ∧ s.entersQueue x u .matrix j i fun g =>
        g.regs = [s.stream.getX a, s.stream.getX (a + 1), s.stream.getX w, s.stream.getX (w + 1)] ∧ g.claims = k.claims ∧
          g.level = k.level ∧ g.stamp = (if t = 1 then some (s.stream.getX (w + 1)).toNat else none))) ∧
      (¬ s.admits u k.level → (s.unit u).events.length < 32 → Completes i s (fun x => s.sameRegs x ∧ s.keepsMemory x ∧ s.keepsCores x ∧
        (x.ctx u .matrix j).queue = (s.ctx u .matrix j).queue ∧ (x.ctx u .matrix j).nextCn = (s.ctx u .matrix j).nextCn ∧
        (x.ctx u .matrix j).hold = (if Instr.takesHold i then none else (s.ctx u .matrix j).hold) ∧
        (x.unit u).events.map (fun e => e.1.toNat % 1024) = (s.unit u).events.map (fun e => e.1.toNat % 1024) ++ [0x83 + 2 * 256]))
    s.takes u .matrix j 4 k.pins →
    (s.prepMma (.mma z a w p q d m t c f) z a w (decide (q = 1)) (decide (d = 1)) (decide (m = 1)) (decide (t = 1)) (decide (c = 1))
        f.toNat = .ok (s1, k) → ran (.mma z a w p q d m t c f)) ∧
    (s.prepMmag (.mmag z a w p q t f) z a w (decide (q = 1)) (decide (t = 1)) f.toNat = .ok (s1, k) → ran (.mmag z a w p q t f))

/-- R279, R289 to R292: MZERO, MDCY, MDCY.set, MLDZ and MDRN with legal words enter their queue, declaring their slot and, of
the last two, the rows of the scratchpad they read or write. -/
def Obligations.AccumulatorMovesEnter : Prop :=
  ∀ (z : BitVec 4) (a b : BitVec 6) (c i : BitVec 1) (f : BitVec 2) (s : State) (u j n r st ad : Nat),
    let va := s.stream.getX a
    let vb := s.stream.getX b
    let slot := s.slotKey u z.toNat
    let e := s.entryOf f.toNat
    let len := 160 * elemBytes (entCode e)
    let entered (i : Instr) (regs : List X) (cs : List Claim) (t : State) : Prop :=
      s.sameRegs t ∧ s.entersQueue t u .matrix j i fun g => g.regs = regs ∧ g.claims = cs
    (s.takes u .matrix j 1 [] → rowWord vb = some (n, r) →
      Completes (.mzero z b) s (entered (.mzero z b) [vb] [slotClaim slot true])) ∧
    (s.takes u .matrix j 2 [] → rowWord vb = some (n, r) → scaleBad (va.setWidth 32) = false →
      Completes (.mdcy z a b) s (entered (.mdcy z a b) [va, vb] [slotClaim slot true, slotClaim slot false])) ∧
    (s.takes u .matrix j 1 [] → scaleBad (va.setWidth 32) = false →
      Completes (.mdcySet z a) s (entered (.mdcySet z a) [va] [slotClaim slot true, slotClaim slot false])) ∧
    (s.takes u .matrix j 2 [] → rowWord vb = some (n, r) → spWord va 640 = some (st, ad) →
      (∀ k, k < n → (s.unit u).place.holds (ad + k * st) 640 = true) →
      Completes (.mldz z a b) s (entered (.mldz z a b) [va, vb] (rowClaims ad st 640 n false ++ [slotClaim slot true]))) ∧
    (s.takes u .matrix j 2 [] → rowWord vb = some (n, r) → spWord va len = some (st, ad) → entCode e ≠ 6 → entSm e = 0 →
      (∀ k, k < n → (s.unit u).place.holds (ad + k * st) len = true) →
      Completes (.mdrn z a b c i f) s (entered (.mdrn z a b c i f) [va, vb]
        (rowClaims ad st len n true ++ slotClaim slot false :: (if c = 1 then [slotClaim slot true] else []))))

/-- R293 to R295, R298: MPREF and MUNP of a tensor operand that passes its checks, MUNP of everything, MPREF.w and MTRQ of
weight tiles that a stage binds, and MSWP of a bound programmable pair, enter their queue. -/
def Obligations.WeightAndPrefetchCommandsEnter : Prop :=
  ∀ (a b : BitVec 6) (n : BitVec 3) (s s1 : State) (u j ix key : Nat) (k : Cmd) (o : BOp) (m : Bool) (en : RegEntry) (g : Region),
    let va := s.stream.getX a
    let vb := s.stream.getX b
    let out := mtrqOut vb
    let entered (i : Instr) (t : State) : Prop := s.sameRegs t ∧ s.entersQueue t u .matrix j i fun _ => True
    (s.takes u .matrix j 2 k.pins → s.prepPref (.mpref a) a = .ok (s1, k) → Completes (.mpref a) s (entered (.mpref a))) ∧
    (a ≠ 0 → s.takes u .matrix j 2 k.pins → s.prepPref (.munp a) a = .ok (s1, k) → Completes (.munp a) s (entered (.munp a))) ∧
    (s.takes u .matrix j 0 [] → Completes (.munp 0) s (entered (.munp 0))) ∧
    (s.takes u .matrix j 2 [] → va.toNat < 2 ^ 40 → s.firstTile u va.toNat = some (o, m) →
      (vb.toNat < 2 ^ 12 → o.fits (vb.toNat + 1) 1 = true → s.admits u (drawLevel o.region.fmt o.region.sm 4) →
        Completes (.mprefW a b) s (entered (.mprefW a b))) ∧
      (bits vb.toNat 54 10 = 0 → out.1 % 16 = 0 → out.2.1 % 2 = 0 → o.region.sm = 1 → o.fits out.2.2 1 = true →
        (s.unit u).place.holds out.1 (rowBytes o.region.fmt 160 * 16 * out.2.2) = true →
        (s.unit u).place.holds out.2.1 (320 * out.2.2) = true → s.admits u (drawLevel o.region.fmt 1 4) →
        Completes (.mtrq a b) s (entered (.mtrq a b)))) ∧
    (s.takes u .matrix j 1 [] → s.binding u n.toNat = some ix →
      s.tableRegion (s.unit u).place.die (s.unit u).place.job ix = some (key, en, g) → en.prog = true → g.pair = true →
      Completes (.mswp b n) s (fun t => s.sameRegs t ∧ s.entersQueue t u .matrix j (.mswp b n) fun c =>
        c.stamp = some vb.toNat))

/-- R299 to R301, R365: MSYNC, MSTAT, MNOP of a nonzero count, CSIG and CFNC enter their queue; MSYNC.w then stops its context's
decoding for its own command; MSTAT writes its register only at its completion. -/
def Obligations.SynchronisingCommandsEnter : Prop :=
  ∀ (a : BitVec 6) (w : BitVec 1) (c : BitVec 3) (n : BitVec 8) (s : State) (u j pa : Nat) (fs : List Nat),
    let va := (s.stream.getX a).toNat
    let stopped (t : State) : Prop :=
      w = 1 → (t.ctx u .matrix j).stop = some (s.ctx u .matrix j).nextCn
    (s.takes u .matrix j 0 [] → Completes (.msync 0 w c) s (fun t => s.sameRegs t ∧ stopped t ∧
      s.entersQueue t u .matrix j (.msync 0 w c) fun g => g.sync = none)) ∧
    (a ≠ 0 → s.takes u .matrix j 1 fs → s.objectAt u va (fieldBad s 1) = .ok (pa, fs) →
      Completes (.msync a w c) s (fun t => s.sameRegs t ∧ stopped t ∧
        s.entersQueue t u .matrix j (.msync a w c) fun g => g.sync = some pa ∧ g.pins = fs.eraseDups)) ∧
    (s.takes u .matrix j 1 [] → Completes (.mstat a) s (fun t => s.sameRegs t ∧ s.entersQueue t u .matrix j (.mstat a) fun _ => True)) ∧
    (n ≠ 0 → s.takes u .matrix j 0 [] → Completes (.mnop n) s (fun t => s.sameRegs t ∧ s.entersQueue t u .matrix j (.mnop n) fun _ => True)) ∧
    (s.takes u .copy j 1 fs → s.objectAt u va (copyBad s 1) = .ok (pa, fs) →
      Completes (.csig a c) s (fun t => s.sameRegs t ∧ s.entersQueue t u .copy j (.csig a c) fun g =>
        g.sync = some pa ∧ g.promise = some (s.ctx u .copy j).promise)) ∧
    (s.takes u .copy j 0 [] → Completes (.cfnc c) s (fun t => s.sameRegs t ∧ s.entersQueue t u .copy j (.cfnc c) fun g =>
      g.promise = some (s.ctx u .copy j).promise))

/-- R307, R308, R315, R320 to R331, R335: a vector word on tiles and masks alone, whose shape suits it, enters its queue with
the values of its x operands, the shape, and claims on the tiles and masks it reads and writes; no tile or mask changes yet. That
VEXS and VLGS enter at any element size is the model's reading (log 53). -/
def Obligations.TileCommandsEnter : Prop :=
  ∀ (d a b c m : BitVec 5) (r k : BitVec 2) (o q : BitVec 3) (f g z e : BitVec 1) (s : State) (u j : Nat),
    let h := s.shape
    let four := decide (h.sz = 4)
    let mk := if e = 1 then [m] else []
    ∀ w ∈ ([
      (.vmov d a m z e, { rt := [a], wt := [d], rm := mk }, h.sz, true),
      (.vsplat d a m z e, { xs := [a], wt := [d], rm := mk }, h.sz, true),
      (.viota d m k z e, { wt := [d], rm := mk }, h.sz, true),
      (.vfadd d a b m r z e, { rt := [a, b], wt := [d], rm := mk }, 4, four),
      (.vfsub d a b m r z e, { rt := [a, b], wt := [d], rm := mk }, 4, four),
      (.vfmul d a b m r z e, { rt := [a, b], wt := [d], rm := mk }, 4, four),
      (.vffma d a b c r, { rt := [a, b, c], wt := [d] }, 4, four),
      (.vfmin d a b m z e, { rt := [a, b], wt := [d], rm := mk }, 4, four),
      (.vfmax d a b m z e, { rt := [a, b], wt := [d], rm := mk }, 4, four),
      (.vfabs d a m z e, { rt := [a], wt := [d], rm := mk }, 4, four),
      (.vfneg d a m z e, { rt := [a], wt := [d], rm := mk }, 4, four),
      (.vadd d a b m f g z e, { rt := [a, b], wt := [d], rm := mk }, h.sz, (decide (f = 0) || (four && decide (g = 0)))),
      (.vsub d a b m f g z e, { rt := [a, b], wt := [d], rm := mk }, h.sz, (decide (f = 0) || (four && decide (g = 0)))),
      (.vmul d a b m f z e, { rt := [a, b], wt := [d], rm := mk }, h.sz, (decide (f = 0) || four)),
      (.vmin d a b m f z e, { rt := [a, b], wt := [d], rm := mk }, h.sz, true),
      (.vmax d a b m f z e, { rt := [a, b], wt := [d], rm := mk }, h.sz, true),
      (.vand d a b m z e, { rt := [a, b], wt := [d], rm := mk }, h.sz, true),
      (.vor d a b m z e, { rt := [a, b], wt := [d], rm := mk }, h.sz, true),
      (.vxor d a b m z e, { rt := [a, b], wt := [d], rm := mk }, h.sz, true),
      (.vshl d a b m z e, { rt := [a, b], wt := [d], rm := mk }, h.sz, true),
      (.vshr d a b m z e, { rt := [a, b], wt := [d], rm := mk }, h.sz, true),
      (.vsra d a b m z e, { rt := [a, b], wt := [d], rm := mk }, h.sz, true),
      (.vfcmp d a b m e o, { rt := [a, b], rm := mk, wm := [d] }, 4, four),
      (.vcmp d a b m e o, { rt := [a, b], rm := mk, wm := [d] }, h.sz, true),
      (.vsel d a b m, { rt := [a, b], wt := [d], rm := [m] }, h.sz, true),
      (.mlog d a b o, { rm := [a, b], wm := [d] }, 1, true),
      (.vrsqs d a m z e, { rt := [a], wt := [d], rm := mk }, 4, four),
      (.vrcps d a m z e, { rt := [a], wt := [d], rm := mk }, 4, four),
      (.vexs d a m z e, { rt := [a], wt := [d], rm := mk }, 4, true),
      (.vlgs d a m z e, { rt := [a], wt := [d], rm := mk }, 4, true),
      (.vred d a r q m e, { rt := [a], wt := [d], rm := mk }, h.sz, (decide (3 ≤ q.toNat) || four)),
      (.vscan d a f g q m, { rt := [a], wt := [d], rm := [m] }, h.sz, (decide (3 ≤ q.toNat) || four)),
      (.vtrn d a, { rt := [a], wt := [d] }, h.sz, true),
      (.vrot d a b f, { xs := [b], rt := [a], wt := [d] }, h.sz, true),
      (.vperm d a b f, { rt := [a, b], wt := [d] }, h.sz, true),
      (.vrns d a m f z e, { rt := [a], wt := [d], rm := mk }, 4, true),
      (.vcrt d a m f z e, { rt := [a], wt := [d], rm := mk }, 4, true)] : List (Instr × VForm × Nat × Bool)),
      s.takes u .vector j (w.2.1.xs.length + 1) [] → w.2.2.2 = true → h.elems * w.2.2.1 ≤ 4096 →
      (w.2.1.masked = true → h.elems ≤ 1024) →
      Completes w.1 s (fun t => s.sameRegs t ∧ s.entersQueue t u .vector j w.1 fun k =>
        k.regs = w.2.1.xs.map s.vx ++ [s.vshNow.setWidth 64] ∧ k.vsh = s.vshNow ∧ k.claims = w.2.1.claims u)

/-- R308, R315, R317 to R319, R332 to R334, R336: a load, store, conversion or accumulator word whose fields, shape and range
pass their checks enters its queue, with the claims of its range besides those of its tiles and masks. -/
def Obligations.TileMemoryCommandsEnter : Prop :=
  ∀ (d a b m : BitVec 5) (k f : BitVec 2) (i n z e : BitVec 1) (s : State) (u j : Nat) (o : Operand),
    let h := s.shape
    let mk := if e = 1 then [m] else []
    let va := s.vx a
    let vb := s.vx b
    let ek := s.entryOf k.toNat
    let ef := s.entryOf f.toNat
    let nested := decide (entSm ef = 1)
    let plain : Operand := { state := s }
    let entered (i : Instr) (F : VForm) (o : Operand) (t : State) : Prop :=
      s.sameRegs t ∧ s.entersQueue t u .vector j i fun c =>
        c.regs = F.xs.map s.vx ++ [s.vshNow.setWidth 64] ∧ c.claims = o.claims ++ F.claims u
    (h.elems * h.sz ≤ 4096 → (e = 1 → h.elems ≤ 1024) → s.takes u .vector j 3 o.pins → s.vtensorOk (VAddr.of va vb) = true →
      (vaddrOk h false va vb = true → s.checkTile (VAddr.of va vb) false = .ok o →
        Completes (.vld d a b m z e) s (entered (.vld d a b m z e) { xs := [a, b], wt := [d], rm := mk } o)) ∧
      (vaddrOk h true va vb = true → s.checkTile (VAddr.of va vb) true = .ok o →
        Completes (.vst d a b m e) s (entered (.vst d a b m e) { xs := [a, b], rt := [d], rm := mk } o))) ∧
    (h.elems * h.sz ≤ 4096 → h.elems ≤ 1024 → s.takes u .vector j 2 [] → va.toNat < 2 ^ 21 →
      Completes (.vldg d a b m z e) s (entered (.vldg d a b m z e) { xs := [a], rt := [b], wt := [d], rm := mk } (s.wholeSp false)) ∧
      Completes (.vstg d a b m e) s (entered (.vstg d a b m e) { xs := [a], rt := [d, b], rm := mk } (s.wholeSp true))) ∧
    (s.takes u .vector j 1 [] →
      (entCode ek ≠ 6 → entSm ek = 0 → entCode ef ≠ 6 → entSm ef = 0 → (e = 1 → h.elems ≤ 1024) →
        h.elems * max (elemBytes (entCode ek)) (elemBytes (entCode ef)) ≤ 4096 →
        Completes (.vcvt d a k m f z e) s (entered (.vcvt d a k m f z e) { rt := [a], wt := [d], rm := mk } plain)) ∧
      (quantCode ef = true → h.elems ≤ 1024 → (nested = true → h.nc % 16 = 0) →
        (nested = true ∨ b = 0 → Completes (.vqnt d a b f) s
          (entered (.vqnt d a b f) { rt := [a], wt := d :: (if nested then [b] else []) } plain)) ∧
        Completes (.vdqn d a b f) s (entered (.vdqn d a b f) { rt := a :: (if nested then [b] else []), wt := [d] } plain))) ∧
    (s.takes u .vector j 2 [] → posOk vb = true → posRow vb + h.nr ≤ 96 → posCol vb + h.nc ≤ 160 → h.sz = 4 → h.elems ≤ 1024 →
      Completes (.vacr d a b) s (entered (.vacr d a b) { xs := [b], wt := [d] }
        { state := s, claims := [slotClaim (s.slotKey u a.toNat) false] }) ∧
      Completes (.vacw d a b m i n e) s (entered (.vacw d a b m i n e) { xs := [b], rt := [d], rm := mk }
        { state := s, claims := (if n = 1 then [slotClaim (s.slotKey u a.toNat) false] else []) ++ [slotClaim (s.slotKey u a.toNat) true] }))

/-- R338, R340, R343, R344, R350 to R359, R362: a copy command whose words, operands and sync address pass their checks enters
its queue with its operands' claims and its promise, and its promise goes to xd. Nothing is copied yet. Which bits of the words
of CPYT, GTH, SCT, CPYS, PUB, WPRG and WVFY the checks look at is the model's reading (log 54). -/
def Obligations.CopyCommandsEnter : Prop :=
  ∀ (d a b : BitVec 6) (c : BitVec 3) (n : BitVec 1) (k : BitVec 2) (s : State) (u j : Nat) (o : CopyOp) (pa : Nat) (fs : List Nat),
    let r := s.copyRegs a b
    let p := s.promiseOf (o.cc.getD (copyCycles o.ends o.count))
    ∀ w ∈ ([
      (.cpy d a b c n k, cpyOk r, s.linear r 0 0 (linearCount r.b) 1),
      (.cpy2 d a b c n k, cpy2Ok r, s.linear r (srcStride r.b) (dstStride r.b) (rowLen r.b) (rowCount r.b)),
      (.cpyt d a b c n k, s.cpytOk r, s.cpytOp r),
      (.gth d a b c n k, gatherOk r, s.gatherOp r false),
      (.sct d a b c n k, gatherOk r, s.gatherOp r true),
      (.cpys d a b c n k, s.shadowOk (tnOf r.a), s.cpysOp (tnOf r.a)),
      (.pub d a b c n k, s.shadowOk (tnOf r.a), s.pubOp (tnOf r.a)),
      (.wprg d a b c n k, wprgOk r, s.wprgOp r),
      (.wvfy d a b c n k, wvfyOk r, s.wvfyOp r),
      (.wdig d a b c n k, wdigOk r, s.wdigOp r),
      (.cred d a b c n k, collOk .red r, s.collective .red r),
      (.cag d a b c n k, collOk .gather r, s.collective .gather r),
      (.cbct d a b c n k, collOk .bcast r, s.collective .bcast r)] : List (Instr × Bool × CopyOp)),
      s.takes u .copy j 4 (o.pins ++ fs) → w.2.1 = true → w.2.2.checked u fs [] = .ok o →
      ((k = 0 ∧ fs = []) ∨ (k ≠ 0 ∧ r.b'.toNat % 8 = 0 ∧ s.objectAt u r.b'.toNat (copyBad s 1) = .ok (pa, fs))) →
      Completes w.1 s (fun t => s.onlyX t d (BitVec.ofNat 64 p) ∧ (t.ctx u .copy j).promise = p ∧
        s.entersQueue t u .copy j w.1 fun q => q.regs = r.list ∧ q.claims = o.claims ∧ q.promise = some p ∧
          q.sync = if k = 0 then none else some pa)

/-! The die's management -/

/-- R464, R465: GET_VERSION begins a connection; each later step of the handshake is accepted in its own state alone and takes
the responder to the next; digests, certificate, challenge and measurements are answered once algorithms are agreed. The order
of the steps, their codes and the bytes that name capabilities and algorithms are the model's (log 41). -/
def Obligations.SpdmResponder : Prop :=
  ∀ (die i : Nat) (nonce m : List Byte) (s : State),
    let x := s.drone die
    (s.die die).boot = 5 → s.reached die = true →
    Completes (.getVersion die) s (fun t => (t.drone die).spdm = 1 ∧
      t = { s with drones := t.drones, answers := s.answers ++ [⟨die, 0x84, 0, leBytes 0x1200 2⟩] }) ∧
    (x.spdm = 1 → Completes (.getCapabilities die) s (fun t => (t.drone die).spdm = 2 ∧
      t = { s with drones := t.drones, answers := s.answers ++ [⟨die, 0xE1, 0, spdmRequests⟩] })) ∧
    (x.spdm = 2 → Completes (.negotiateAlgorithms die) s (fun t => (t.drone die).spdm = 3 ∧
      t = { s with drones := t.drones, answers := s.answers ++ [⟨die, 0xE3, 0, spdmAlgorithms⟩] })) ∧
    (∀ w ∈ ([(.getCapabilities die, 0xE1, 1, 2), (.negotiateAlgorithms die, 0xE3, 2, 3), (.keyExchange die, 0xE4, 3, 4),
        (.finish die, 0xE5, 4, 5), (.endSession die, 0xEC, 5, 3)] : List (Instr × Nat × Nat × Nat)),
      (x.spdm = w.2.2.1 → Completes w.1 s (fun t => (t.drone die).spdm = w.2.2.2 ∧
        ∃ bs, t = { s with drones := t.drones, answers := s.answers ++ [⟨die, w.2.1, 0, bs⟩] })) ∧
      (x.spdm ≠ w.2.2.1 → Completes w.1 s (fun t => s.onlyAnswers t ⟨die, w.2.1, 6, []⟩))) ∧
    (3 ≤ x.spdm →
      Completes (.getDigests die) s (fun t => s.onlyAnswers t ⟨die, 0x81, 0, Sm3.hash (certChain die)⟩) ∧
      Completes (.getCertificate die 0) s (fun t => s.onlyAnswers t ⟨die, 0x82, 0, certChain die⟩) ∧
      (i ≠ 0 → Completes (.getCertificate die i) s (fun t => s.onlyAnswers t ⟨die, 0x82, 1, []⟩)) ∧
      Completes (.challenge die nonce) s (fun t => ∃ bs, s.onlyAnswers t ⟨die, 0x83, 0, nonce ++ bs⟩) ∧
      (x.block i = some m → Completes (.getMeasurements die i) s (fun t => s.onlyAnswers t ⟨die, 0xE0, 0, m⟩)) ∧
      (x.block i = none → Completes (.getMeasurements die i) s (fun t => s.onlyAnswers t ⟨die, 0xE0, 1, []⟩)))

/-- R235, R439, R463, R465, R466: in a session the management set is performed as asked: keys are installed and deleted, regions
made (damaged only where a bank is unusable, their cells zero) and deleted, listed and measured again, counters read, threshold,
window and undervolting set; outside one each is refused. A REMEAS digests the active banks of its regions as it begins, and is
answered with the digests when it ends, unspecified where it met a codeword that has become poison; one of a region that cannot be measured waits. In recovery mode a piece of an image is
taken; after the last one an image that does not pass is dropped, and one that passes is written row by row, each cell of a row
holding the byte received from then on, and after the last row the die, its memory unspecified, boots again. The codes of the refusals, RCVDATA's with 6
outside recovery mode among them, and that a domain returns to nominal as its undervolting is disabled, are the model's (log 42);
so are the length of a REMEAS and the refusal of a piece during the rewrite (log 102), and that one row is one move (log 44). -/
def Obligations.ManagementSet : Prop :=
  ∀ (die job keyid name first n tt window off row passes till : Nat) (k1 k2 k3 : BitVec 128) (q : RegionSpec) (uv : List Bool)
    (bs : List Byte) (r : Region) (ms : List Measured) (last : Bool) (s : State),
    let x := s.drone die
    let im := bs.zipIdx.foldl (fun (m : NMap Byte) p => m.put (off + p.2) p.1) x.image
    let byte (i : Nat) : Byte := im.getD i (Config.freeByte s.fresh i)
    let ilen := leAt ((List.range 8).map byte) 4 4
    let rs := (s.directory die).filter fun c => decide (name = 0) || decide (c.1 = name)
    let ok (code : Nat) (bs : List Byte) (t : State) : Prop := t.answers = s.answers ++ [⟨die, code, 0, bs⟩] ∧ t.mem = s.mem ∧ t.units = s.units
    s.reached die = true →
    ((s.die die).boot = 5 → x.spdm ≠ 5 →
      ∀ w ∈ ([(.keyset die job keyid k1 k2 k3, 1), (.keydel die job, 2), (.regmk die q, 3), (.regdel die name, 4),
          (.reglist die first n, 5), (.remeas die name, 6), (.cntrd die, 7), (.cfgset die tt window uv, 8)] : List (Instr × Nat)),
        Completes w.1 s (fun t => s.onlyAnswers t ⟨die, w.2, 6, []⟩)) ∧
    ((s.die die).boot = 5 → x.spdm = 5 →
      (s.jobs.find (jkey die job) = none → s.keys.find (jkey die job) = none → Completes (.keyset die job keyid k1 k2 k3) s (fun t =>
        t.keys.find (jkey die job) = some ⟨keyid, k1, k2, k3⟩ ∧ ok 1 [] t)) ∧
      (s.jobs.find (jkey die job) = none → Completes (.keydel die job) s (fun t => t.keys.find (jkey die job) = none ∧
        (∀ k, k ≠ jkey die job → t.keys.find k = s.keys.find k) ∧ ok 2 [] t)) ∧
      (RegionSpec.fieldsOk q = true → s.regionFits die q = true → Completes (.regmk die q) s (fun t =>
        t.regions.find (rkey die q.name) = some { RegionSpec.region q with dmg := s.brokenRegion die (RegionSpec.region q) } ∧
        (∀ wa, (RegionSpec.region q).has die wa = true → t.cell wa = 0) ∧
        (∀ wa, (RegionSpec.region q).has die wa = false → t.cell wa = s.cell wa) ∧ ok 3 [] t)) ∧
      (name ≠ 0 → s.regions.find (rkey die name) = some r → r.popen = false → s.boundLive (rkey die name) = false →
        Completes (.regdel die name) s (fun t => t.regions.find (rkey die name) = none ∧ t.wt = s.wt ∧ ok 4 [] t)) ∧
      (n ≤ 64 → Completes (.reglist die first n) s (fun t =>
        s.onlyAnswers t ⟨die, 5, 0, ((x.records.drop first).take n).flatMap Measured.bytes⟩)) ∧
      (x.queued = [] → x.busy = none → name = 0 ∨ rs ≠ [] →
        ((∀ c ∈ rs, s.measurable (rkey die c.1, c.2) = true) → Completes (.remeas die name) s (fun t =>
          (t.drone die).busy = some (rs.map fun c => s.remeasure die c (x.latestOf c), s.dcc die + Config.measureTime s.fresh) ∧
          (t.drone die).queued = [] ∧ t = { s with drones := t.drones })) ∧
        ((∃ c ∈ rs, s.measurable (rkey die c.1, c.2) = false) → Completes (.remeas die name) s (fun t =>
          (t.drone die).queued = [name] ∧ (t.drone die).busy = none ∧ t = { s with drones := t.drones }))) ∧
      Completes (.cntrd die) s (fun t => s.onlyAnswers t
        ⟨die, 7, 0, (List.range 10).flatMap fun k => leBytes ((s.die die).counters.getD k 0) 8⟩) ∧
      (70 ≤ tt → tt ≤ 94 → 1 ≤ window → window ≤ 168 → Completes (.cfgset die tt window uv) s (fun t =>
        (t.die die).tt = tt ∧ (t.die die).window = window ∧ ok 8 [] t ∧
        ∀ z, z < 8 → (t.zone die z).uv = uv.getD z (s.zone die z).uv ∧ ((t.zone die z).uv = false → (t.zone die z).steps = 0)))) ∧
    (x.busy = some (ms, till) → till ≤ s.dcc die →
      let t := s.finishRemeas die
      let met := ms.map (s.metPoison die)
      ok 6 (met.flatMap fun m => m.d0 ++ m.d1) t ∧ (t.drone die).busy = none ∧ (∀ m ∈ met, m ∈ (t.drone die).latest) ∧
        (s.wpoison = [] → met = ms)) ∧
    ((s.die die).recovery = false → (s.die die).boot = 5 →
      Completes (.rcvdata die off bs last) s (fun t => s.onlyAnswers t ⟨die, 0x10, 6, []⟩)) ∧
    ((s.die die).recovery = true → x.rows ≠ [] → Completes (.rcvdata die off bs last) s (fun t => s.onlyAnswers t ⟨die, 0x10, 6, []⟩)) ∧
    ((s.die die).recovery = true → x.rows = [] → bs.length ≤ 4096 → off + bs.length ≤ 2 ^ 24 →
      Completes (.rcvdata die off bs false) s (fun t => ok 0x10 [] t ∧
        ∀ i, i < bs.length → (t.drone die).image.find (off + i) = bs[i]?) ∧
      (imagePasses (fun _ => true) byte = false →
        Completes (.rcvdata die off bs true) s (fun t => ok 0x10 [] t ∧ (t.drone die).image = [] ∧ t.wt = s.wt)) ∧
      (imagePasses (fun _ => true) byte = true →
        Completes (.rcvdata die off bs true) s (fun t => ok 0x10 [] t ∧ (t.drone die).rows = rowsFrom (imageAt die) ilen ∧
          ∀ i, i < ilen → (t.drone die).image.find i = some (byte i)))) ∧
    (row ∈ x.rows → rowDie row = die → s.usableRow row = true → s.wear.getD (s.wearKey row) 0 < 9 * 10 ^ 9 → 1 ≤ passes → passes ≤ 8 →
      Completes (.voicerRowRewrite ⟨row, passes⟩) s (fun t =>
        (∀ c ∈ x.image, (∀ e ∈ x.image, e.1 = c.1 → e.2 = c.2) → rowKey (imageAt die + c.1) = row → t.cell (imageAt die + c.1) = c.2) ∧
        (∀ wa, rowKey wa ≠ row → t.cell wa = s.cell wa) ∧
        (x.rows.erase row ≠ [] → t.mem = s.mem ∧ (t.drone die).rows = x.rows.erase row ∧ (t.drone die).image = x.image ∧ t.dies = s.dies) ∧
        (x.rows.erase row = [] → (∃ m : State, t = (m.resetDie die).bootDie die) ∧
          (∀ c : Host.Cell, c ∈ t.mem ↔ c ∈ s.mem ∧ c.1 / 2 ^ 48 ≠ die) ∧
          (t.imageOk die = true → (t.die die).boot = 5 ∧ (t.die die).recovery = false) ∧
          (t.imageOk die = false → (t.die die).boot = 0 ∧ (t.die die).recovery = true))))

/-- R3, R235, R248, R251, R460, R462, R463, R465: power-on leaves what the weight tier, its directories and tables, and the error
log hold and nothing else of the machine: no global memory, scratchpad, accumulator with its tags, tile or mask, no unit, voice,
context, launch, job or key; each die finds its memory; a region with a programming run open is damaged; each die whose firmware
image passes boots, each other one enters recovery mode; the links and ports that failed to train and the dies that no path of
trained links reaches are marked. By which routes a die is reached is the model's reading (log 90), and so is that of the marks of
lasting structures only those of rows are left (log 37). -/
def Obligations.PowerOnAndLoss : Prop :=
  ∀ (x : Found) (s : State) (d : Nat),
    let cleared (t : State) : Prop :=
      t.mem = [] ∧ t.narrow = [] ∧ t.units = [] ∧ t.voices = [] ∧ t.ctxs = [] ∧ t.launches = [] ∧ t.jobs = [] ∧ t.keys = [] ∧
      t.graphs = [] ∧ t.phases = [] ∧ t.hjobs = [] ∧ t.sp = [] ∧ t.acc = [] ∧ t.lan = [] ∧ t.dsc = [] ∧ t.tiles = [] ∧ t.masks = [] ∧
      t.cores = [] ∧ t.zones = [] ∧ t.wt = s.wt ∧ t.wear = s.wear ∧ t.soft = s.soft ∧
      t.lasting = s.lasting.filter fun c => decide (c.1 < 2 ^ 60)
    Completes .powerLoss s (fun t => cleared t ∧ t.remap = s.remap ∧ t.wpoison = s.wpoison ∧ t.dies = [] ∧ t = s.cold) ∧
    (d < 12 → Completes (.powerOnReset x) s (fun t => cleared t ∧
      (t.die d).fitted = s.sizeFound (x.fitted.getD d 64) ∧ t.dcc d = 0 ∧
      (t.imageOk d = true → (t.die d).boot = 5 ∧ (t.die d).recovery = false) ∧
      (t.imageOk d = false → (t.die d).boot = 0 ∧ (t.die d).recovery = true) ∧
      t.badLinks = x.links ∧ t.badPorts = x.ports ∧ (d ∈ t.unreached ↔ t.reached d = false) ∧
      ∀ k r, s.regions.find k = some r → r.popen = true → ∃ r', t.regions.find k = some r' ∧ r'.dmg = true ∧ r'.popen = false))

/-- R460, R461: a host write is seen by every agent that reads its bytes under its key, and changes no line it does not touch; a
host read answers what the host sees, where a route reaches the die whose memory it is and it is not in recovery mode (R463), and
nothing happens where none does; a
write or a read of an address without storage stops by name, which is the model's choice (log 62), as the routes are (log 90); a
UALink read at one of the two ports of dies 0, 3, 8 and 11 is answered as unsupported, and elsewhere there is no port. -/
def Obligations.HostLinks : Prop :=
  ∀ (pa n key die port : Nat) (bs : List Byte) (s : State),
    ((∀ i, i < bs.length → s.unassigned (pa + i) = false ∧ s.cutOff (pa + i) = false) → Completes (.hostWrite pa bs key) s (fun t =>
      (∀ i ag, i < bs.length → t.poisoned (pa + i) = false → some (t.seen ag key (pa + i)) = bs[i]?) ∧
      ∀ ag k q, (∀ i, i < bs.length → (pa + i) / 128 ≠ q / 128) → t.seen ag k q = s.seen ag k q)) ∧
    ((∃ i, i < bs.length ∧ s.unassigned (pa + i) = true) →
      Sys2Proof.Machine.exec (.hostWrite pa bs key) s = Host.Outcome.fault Fault.absentAddress) ∧
    ((∀ i, i < n → s.unassigned (pa + i) = false ∧ s.cutOff (pa + i) = false) → Completes (.hostReadRequest pa n key) s (fun t =>
      t = { s with hostReads := s.hostReads ++ [(pa, s.seenBytes .host key pa n)] })) ∧
    ((∀ i, i < bs.length → s.unassigned (pa + i) = false) → (∃ i, i < bs.length ∧ s.cutOff (pa + i) = true) →
      Completes (.hostWrite pa bs key) s (fun t => t = s)) ∧
    ((∀ i, i < n → s.unassigned (pa + i) = false) → (∃ i, i < n ∧ s.cutOff (pa + i) = true) →
      Completes (.hostReadRequest pa n key) s (fun t => t = s)) ∧
    ((∃ i, i < n ∧ s.unassigned (pa + i) = true) →
      Sys2Proof.Machine.exec (.hostReadRequest pa n key) s = Host.Outcome.fault Fault.absentAddress) ∧
    (die ∈ [0, 3, 8, 11] ∧ port < 2 →
      Completes (.ualinkReadRequest die port) s (fun t => t = { s with unsupported := s.unsupported ++ [(die, port)] })) ∧
    (¬ (die ∈ [0, 3, 8, 11] ∧ port < 2) → Completes (.ualinkReadRequest die port) s (fun t => t = s))

/-- R214, R216 to R218: PREADY ends a page's request and lets every team that waits on it start; INVAL makes the tile entries of
the named pages invalid, of elements and of scales, leaves every other entry as it is, and is answered by INVACK, oldest first,
once no pin holds a frame they mapped (as `State.namedFrames` lists them) and no voice access that was outstanding then
(`State.jobLoads`) still is, nor a wait at a barrier or a semaphore of a named page (`State.jobWaits`); a message that no die can act on is counted and dropped. Which messages those are is the model's
reading (log 46); so is that a store of an open version is no outstanding access (log 100), and by which routes a die is
reached (log 90). -/
def Obligations.TranslationMessages : Prop :=
  ∀ (m : XlatMsg) (s : State) (die : Nat) (f : PFault) (c : Nat × Inval),
    let d := msgDie m
    let page := msgVa m / 4096 * 4096
    let k := jkey d (msgJob m) * 2 ^ 57 + page
    (d < 12 → s.reached d = true → s.badMsg m = false → msgType m = 2 → s.pfaults.find k = some f → Completes (.pready m) s (fun t =>
      (∃ g, t.pfaults.find k = some g ∧ g.outstanding = false) ∧ t.mem = s.mem ∧
      ∀ u ∈ s.waiters d (msgJob m) page, (t.unit u).ready.isSome = true)) ∧
    (d < 12 → s.reached d = true → s.badMsg m = false → msgType m = 3 → Completes (.inval m) s (fun t =>
      t.invals = s.invals ++ [(d, ⟨m, s.namedFrames m, s.jobLoads m, s.jobWaits m⟩)] ∧ t.mem = s.mem ∧
      ∀ l, (s.launch l).die = d → (s.launch l).job = msgJob m → (t.launch l).tensors.length = (s.launch l).tensors.length ∧
        ∀ x ∈ ((s.launch l).tensors.zip (t.launch l).tensors), x.2.base = x.1.base ∧ x.2.scale = x.1.scale ∧
          (∀ e ∈ x.2.tiles, msgNames m (x.1.base / 4096 + e.1) = true → e.2.ok = false) ∧
          (∀ e ∈ x.1.tiles, msgNames m (x.1.base / 4096 + e.1) = false → e ∈ x.2.tiles) ∧
          (∀ e ∈ x.2.stiles, msgNames m (x.1.scale / 4096 + e.1) = true → e.2.ok = false) ∧
          (∀ e ∈ x.1.stiles, msgNames m (x.1.scale / 4096 + e.1) = false → e ∈ x.2.stiles))) ∧
    (d < 12 → s.reached d = true → s.badMsg m = true → ∀ i ∈ ([.pready m, .inval m] : List Instr), Completes i s (fun t =>
      (t.die d).linkErrors = (s.die d).linkErrors + 1 ∧ t = { s with dies := t.dies })) ∧
    (d < 12 → s.reached d = false → ∀ i ∈ ([.pready m, .inval m] : List Instr), Completes i s (fun t => t = s)) ∧
    (s.invals.find? (fun c => decide (c.1 = die)) = some c → (∀ g ∈ c.2.frames, g ∉ s.pinned die) →
      (∀ x ∈ c.2.loads, x.2.2 ∉ (s.voice x.1 x.2.1).busy) → (∀ w ∈ c.2.waits, s.inWait w.1 w.2.1 w.2.2 = false) →
      Completes (.invack die) s (fun t =>
      t = { s with
        invals := s.invals.erase c
        xlatOut := s.xlatOut ++ [xlatMsg 4 die 0 (msgJob c.2.msg) (msgVa c.2.msg) (msgGen c.2.msg) 0 (msgTag c.2.msg)] }))

/-! Packets and launches -/

/-- R77 to R79, R83 to R85, R89, R91: a packet that fails a check is refused with that check's code and does nothing else; one
that passes is recorded in sequence and has its effect: the job, phase, graph or launch it defines, the level it cancels, the
slice it schedules, the report it asks for. The host processor die holds the counter of a job from the JOBOPEN it forwards on: that
it does so for each JOBOPEN of sound form for a die that a route reaches, whatever that die answers, is the model's reading
(log 87), and so is the refusal of body bytes that no rule names and of a JOBOPEN from another source (log 32). A packet for a die
that no route reaches is refused at the host processor die, its code and the routes the model's (log 90). -/
def Obligations.Packets : Prop :=
  ∀ (p : Packet) (s : State) (h : HJob) (l : Launch) (lid : Nat) (g : Graph) (f : PhaseRec),
    let d := pktAt p
    let job := pktJob p
    let lv := pktLevel p
    let x := s.die d
    let num (t : State) : Prop := (t.die d).seq.find (pktSrc p) = some (pktSeq p)
    (∀ w ∈ ([(.jobopen p, 1), (.jobclose p, 2), (.phasedef p, 3), (.graphdef p, 4), (.launch p, 5), (.cancel p, 6), (.slice p, 7),
        (.query p, 8)] : List (Instr × Nat)), pktType p = w.2 →
      let s0 := if w.2 = 1 then s.forwardOpen p else s
      (12 ≤ d ∨ s.reached d = true → s0.refusal p ≠ 0 →
        Completes w.1 s (fun t => t = s0.send d 0x83 p.port [(0x28, 8, pktSeq p), (0x30, 8, s0.refusal p)] [])) ∧
      (d < 12 → s.reached d = false →
        Completes w.1 s (fun t => t = s0.send 12 0x83 p.port [(0x28, 8, pktSeq p), (0x30, 8, Config.unreachedCode)] []))) ∧
    (pktType p = 1 → pktForm p = 0 → pktDie p < 12 → s.reached (pktDie p) = true → Completes (.jobopen p) s (fun t => ∃ k, t.hjobs.find job = some k ∧
      (s.hjobs.find job = none → k.src = pktSrc p))) ∧
    (s.refusal p = 0 → 12 ≤ d ∨ s.reached d = true →
      (pktType p = 1 → Completes (.jobopen p) s (fun t => num t ∧ (t.job d job).root = pktArg2 p ∧ (t.job d job).ceiling = pktArg p ∧
        (t.job d job).src = pktSrc p ∧ (t.jobs.find (jkey d job)).isSome = true)) ∧
      (pktType p = 2 → s.hjobs.find job = some h → Completes (.jobclose p) s (fun t => num t ∧
        ∃ h', t.hjobs.find job = some h' ∧ h'.closed = true)) ∧
      (pktType p = 3 → Completes (.phasedef p) s (fun t => num t ∧
        t.phases.find (gkey job (pktPhase p)) = some { ngraph := pktArg p, count := { out := pktArg p } })) ∧
      (pktType p = 4 → Completes (.graphdef p) s (fun t => num t ∧
        t.graphs.find (gkey job (pktGraph p)) = some { phase := pktPhase p, nlaunch := pktArg p, count := { out := pktArg p } })) ∧
      (pktType p = 5 → Completes (.launch p) s (fun t => num t ∧ t.nextLaunch = s.nextLaunch + 1 ∧
        (t.launches.find s.nextLaunch).isSome = true ∧ (t.launch s.nextLaunch).status = .waiting ∧ (t.launch s.nextLaunch).id = pktId p ∧
        (t.launch s.nextLaunch).job = job ∧ (t.launch s.nextLaunch).addr = pktAddr p ∧ (t.launch s.nextLaunch).die = d)) ∧
      (pktType p = 6 →
        (lv = 0 → s.launches.find lid = some l → l.job = job → l.id = pktId p % 2 ^ 32 → l.status = .waiting → l.count.isOpen = true →
          l.count.cancel = false → Completes (.cancel p) s (fun t => num t ∧ (t.launch lid).count.state = .cancelled)) ∧
        (lv = 1 → s.graphs.find (gkey job (pktGraph p % 65536)) = some g → g.count.isOpen = true → Completes (.cancel p) s (fun t =>
          num t ∧ ∃ g', t.graphs.find (gkey job (pktGraph p % 65536)) = some g' ∧ g'.count.cancel = true)) ∧
        (lv = 2 → s.phases.find (gkey job (pktPhase p % 65536)) = some f → f.count.isOpen = true → Completes (.cancel p) s (fun t =>
          num t ∧ ∃ f', t.phases.find (gkey job (pktPhase p % 65536)) = some f' ∧ f'.count.cancel = true)) ∧
        (lv = 3 → s.hjobs.find job = some h → h.count.isOpen = true → Completes (.cancel p) s (fun t =>
          num t ∧ ∃ h', t.hjobs.find job = some h' ∧ h'.count.cancel = true))) ∧
      (pktType p = 7 → (x.slices ≠ [] ∨ x.dcc < pktArg p) → Completes (.slice p) s (fun t => num t ∧
        (t.die d).maxSlice = some (pktArg2 p) ∧ (t.die d).current = x.current ∧
        (t.die d).slices = x.slices ++ [⟨pktArg2 p, pktArg p, (List.range (p.body.length / 8)).map fun i =>
          (leAt p.body (8 * i) 4, leAt p.body (8 * i + 4) 2)⟩])) ∧
      (pktType p = 8 → Completes (.query p) s (fun t => num t ∧
        ∃ r ∈ t.packets.drop s.packets.length, r.body = s.reportBody d ∧ r.port = p.port ∧ pktType r = 0x81)))

/-- R45, R46, R80, R81, R89 to R93, R459: a waiting launch that is eligible and first is admitted with OUT the sum of its UMINs,
or rejected with its code; it blocks after 2^24 reference cycles passed over; a terminal launch is counted once by its graph; a
cancelled one ends when its units have stopped; a level's DONE follows those of its children, and a job's frees its identity. -/
def Obligations.LaunchLifecycle : Prop :=
  ∀ (lid : Nat) (s t1 : State) (x : Launch) (c since : Nat) (g : Graph) (f : PhaseRec) (h : HJob),
    let l := s.launch lid
    let pre := s.provisional lid
    let y := pre.launch lid
    ((s.launches.find lid).isSome = true → l.status = .waiting → l.count.isOpen = true → 5 ≤ (s.die l.die).boot →
      pre.predsLost y = false → pre.predsDone y = true → pre.phaseActive y.die y.job y.phase = true → pre.eligible lid = true →
      pre.firstInLine lid = true →
      (pre.bindingRead lid = .error c → Completes (.launchAdmission lid) s (fun t =>
        (t.launch lid).count.state = .rejected ∧ (t.launch lid).count.rej = c)) ∧
      (pre.bindingRead lid = .ok x → pre.tilesUsed y.die + (x.tensors.map Tensor.entries).sum ≤ 2 ^ 24 → pre.admitWith lid x = some t1 →
        Completes (.launchAdmission lid) s (fun t => t = t1 ∧ (t.launch lid).status = .admitted ∧
          (t.launch lid).count.out = (x.stages.map (·.umin)).sum))) ∧
    (l.passed = some since → l.status = .waiting → l.count.isOpen = true → s.predsDone l = true →
      s.phaseActive l.die l.job l.phase = true → since + 2 ^ 24 ≤ s.dcc l.die →
      Completes (.launchBlocking lid) s (fun t => t = s.setLaunch lid { l with blocking := true })) ∧
    (l.count.isOpen = false → l.count.told = false → s.graphs.find (gkey l.job l.graph) = some g →
      Completes (.completionReport lid) s (fun t => (t.launch lid).count.told = true ∧
        ∃ g', t.graphs.find (gkey l.job l.graph) = some g' ∧ g'.count.out = g.count.out - 1)) ∧
    (l.count.isOpen = true → l.count.cancel = true → l.failed = false →
      (∀ u ∈ s.launchUnits lid, (s.unit u).status = .cancelling ∧ s.drained u = true) →
      Completes (.cancelComplete lid) s (fun t => (t.launch lid).count.state = .cancelled)) ∧
    ((s.launches.find lid).isSome = true → l.count.isOpen = false → l.count.sent = false →
      (∀ e ∈ s.units, e.2.place.launch = lid → (s.unit e.1).live = false ∧ s.drained e.1 = true) →
      Completes (.done 0 lid) s (fun t => (t.launch lid).count.sent = true ∧ t.packets.length = s.packets.length + 1)) ∧
    (s.graphs.find lid = some g → g.count.isOpen = false → g.count.sent = false →
      (∀ e ∈ s.launches, gkey e.2.job e.2.graph = lid → e.2.count.sent = true) →
      Completes (.done 1 lid) s (fun t => t.packets.length = s.packets.length + 1 ∧
        ∃ g', t.graphs.find lid = some g' ∧ g'.count.sent = true)) ∧
    (s.phases.find lid = some f → f.count.isOpen = false → f.count.sent = false →
      (∀ e ∈ s.graphs, e.1 / 65536 = lid / 65536 → e.2.phase = lid % 65536 → e.2.count.sent = true) →
      Completes (.done 2 lid) s (fun t => t.packets.length = s.packets.length + 1 ∧
        ∃ f', t.phases.find lid = some f' ∧ f'.count.sent = true)) ∧
    (s.hjobs.find lid = some h → h.count.isOpen = false → (∀ e ∈ s.phases, e.1 / 65536 = lid → e.2.count.sent = true) →
      Completes (.done 3 lid) s (fun t => t.packets.length = s.packets.length + 1 ∧ t.hjobs.find lid = none ∧
        ∀ e ∈ t.jobs, e.1 % 2 ^ 32 ≠ lid))

/-! Units -/

/-- R85, R89, R100 to R103, R106, R117, R421, R422, R453: once the swapped-out units whose events have occurred have joined the
starts, the startable unit that is first of its zone asks it for a grant that it gave up, asserts its requests where its divisors
are not in effect, and else, the zone's gap of control cycles past and its core not held, becomes resident with TCLK and its registers
where they stood, or, where it was away, as its frame in memory has them, and with the waiting instructions complete that
completed while it was away. A request to yield is posted before a slice
that leaves its phase inactive; a neutral sample clears a stage's counts; a high one that has dwelt creates a unit, which its
launch's OUT counts; a low one is counted, and one that has dwelt withdraws the unit that has waited longest, where more than UMIN
stay: its waiting pop of the input queue completes with 2; a slice becomes current at its start. Whose control cycles count the
gap, and that a unit that cannot start yet keeps its turn, are the model's choice (log 94). -/
def Obligations.SchedulerEvents : Prop :=
  ∀ (u lid stg die : Nat) (s : State) (x : Slice) (xs : List Slice) (g : Stage),
    let t0 := s.unit u
    let d := t0.place.die
    let p := s.home u
    let l := s.launch lid
    let w := s.wakeAll d
    let r := w.unit u
    let w' := if r.away then (w.loadFrame u).loadImages u else w
    let low := { g with samples := g.samples + 1, hi := 0, lo := g.lo + 1, pend := false }
    let s1 := s.setStage lid stg low
    let gap := if w.zoneBreath d (p / 12) then 256 else 64
    ((w.units.find u).isSome = true → w.startable u = true →
      (∀ c ∈ w.units, c.2.place.die = d → s.home c.1 / 12 = p / 12 → w.startable c.1 = true → r.ready.getD 0 ≤ c.2.ready.getD 0) →
      (r.regrant ≠ 0 → (∀ a ∈ (w.zoneOf d p).asks, a.1 ≠ u) → Completes (.unitStart u) s (fun t =>
        (t.zoneOf d p).asks = (w.zoneOf d p).asks ++ [(u, 4, r.regrant)] ∧ t.units = w.units)) ∧
      (r.regrant = 0 → w.divsMet u = false ∨ (r.asserted = false ∧ r.clkd ≠ []) → Completes (.unitStart u) s (fun t =>
        t.unit u = { r with asserted := true })) ∧
      (r.regrant = 0 → w.divsMet u = true → (r.asserted = true ∨ r.clkd = []) → w.holding d p = false →
        (∀ c, (w.zoneOf d p).started = some c → (s.core d p).ctl.now c + gap ≤ s.ccyc d p) →
        Completes (.unitStart u) s (fun t => (t.unit u).status = .resident ∧ (t.unit u).ready = none ∧ (t.zoneOf d p).started = some (s.dcc d) ∧
          t.tclk u = (w'.unit u).tclk ∧ ∀ j, ((w'.voice u j).won = none → (t.voice u j).st = (w'.voice u j).st) ∧
            ∀ y, j < 4 → (w'.voice u j).won = some y → (t.voice u j).won = none ∧
              (t.voice u j).st = Stream.advance 16 ((w'.voice u j).st.setX y.1 y.2)))) ∧
    ((s.die d).slices = x :: xs → t0.live = true → (s.units.find u).isSome = true → x.start ≤ s.dcc d + 240000 →
      x.pairs.contains (t0.place.job, (s.unitLaunch u).phase) = false → t0.yreq = none →
      Completes (.yieldRequestPost u) s (fun t => t = s.setUnit u { t0 with yreq := some (1, x.start) })) ∧
    (l.stages[stg]? = some g → l.runs = true → g.inq ≠ 0xFF →
      l.began + 1024 * (g.samples + 1) ≤ s.dcc l.die →
      (s.classify lid g = .neutral → Completes (.dwsSample lid stg) s (fun t =>
        t = (s.setStage lid stg { g with samples := g.samples + 1, hi := 0, lo := 0, pend := false }).serveAll lid)) ∧
      (s.classify lid g = .low →
        (∀ v, s1.idlest lid stg g.inq = some v → g.dwell ≤ g.lo + 1 →
          g.umin < ((s.stageUnits lid stg).filter fun k => !k.2.withdrawn).length → Completes (.dwsSample lid stg) s (fun t =>
            let m := (s1.setStage lid stg { low with lo := 0 }).withdraw lid v g.inq
            t = m.serveAll lid ∧ (t.unit v).withdrawn = true ∧ (∀ k ∈ (t.queue lid g.inq).poppers, k.unit ≠ v) ∧
            ∀ k, ((s.queue lid g.inq).poppers.filter fun x => decide (x.unit = v)) = [k] →
              ((s.unit v).away = false → (m.voice v k.voice).st.getX k.d = (if k.d = 0 then 0 else 2)) ∧
              ((s.unit v).away = true → (m.voice v k.voice).won = some (k.d, 2)))) ∧
        (s1.idlest lid stg g.inq = none ∨ g.lo + 1 < g.dwell ∨
            ((s.stageUnits lid stg).filter fun k => !k.2.withdrawn).length ≤ g.umin →
          Completes (.dwsSample lid stg) s (fun t => t = s1.serveAll lid))) ∧
      (s.classify lid g = .high → g.dwell ≤ g.hi + 1 → (s.stageUnits lid stg).length + (if g.pend then 1 else 0) < g.umax →
        g.next ≤ 65535 → (s.chooseCore l.die l.job g).isSome = true → Completes (.dwsSample lid stg) s (fun t =>
          t.nextUnit = s.nextUnit + 1 ∧ (t.unit s.nextUnit).status = .placed ∧ (t.unit s.nextUnit).place.launch = lid ∧
          (t.unit s.nextUnit).place.stage = stg ∧ (t.unit s.nextUnit).place.inst = g.next ∧
          (t.launch lid).count.out = l.count.out + 1))) ∧
    ((s.die die).slices = x :: xs → x.start ≤ s.dcc die → Completes (.sliceStart die) s (fun t =>
      (t.die die).current = some x ∧ (t.die die).slices = xs))

/-- R108 to R110, R431: a move whose units have all stopped exchanges the two logical cores' physical cores; an attempt past its
deadline with a unit that has not reached its boundary is given up for 24,000,000 cycles; the stopped units of an offline core move to a target. -/
def Obligations.MigrationEvents : Prop :=
  ∀ (die l k : Nat) (s : State),
    let p := s.phys die l
    let us := s.holders die l
    ((s.core die p).mig = some k → k ≠ l → (s.core die p).moveBy ≠ 0 → (∀ c ∈ us, c.2.still = true) → Completes (.migrationMove die l) s (fun t =>
      t.phys die l = s.phys die k ∧ t.phys die k = p)) ∧
    ((s.core die p).mig = some k → (s.core die p).moveBy ≠ 0 → (s.core die p).moveBy ≤ s.dcc die → (∃ c ∈ us, c.2.halted = false) →
      Completes (.migrationAbandon die l) s (fun t => (t.core die p).mig = none ∧ (t.core die p).noMove = s.dcc die + 24000000 ∧
        t.phys die l = p)) ∧
    ((s.core die p).ths = 3 → us ≠ [] → (∀ c ∈ us, (∃ n, c.2.status = .suspended n) ∨ c.2.status = .placed) → s.target die l = some k →
      Completes (.offlineMove die l) s (fun t => t.phys die l = s.phys die k ∧ t.phys die k = p))

/-- R115, R117, R186, R403, R446, R449, R458: a unit whose stop has drained is suspended with its cause and no grant, where no retry
of its launch waits; a failing
unit that has drained ends, its span discarded, and is retried or counted as failed (R89: that FAILS rises past RETRY under both
policies is the model's reading, log 28); a sync wait of 2^20 cycles fails its team; a team whose voices all wait for what has not
occurred yet, one for its threshold, stops to be swapped out; a watch's deadline wakes its voice; an engine
event of an earlier cycle is delivered to the voice that takes events, before its next bundle; data arrive in their register
alone; merging an evicted update line changes nothing (log 10). -/
def Obligations.UnitStops : Prop :=
  ∀ (u j r D w since : Nat) (c x : X) (es : List (X × X)) (s : State),
    let t0 := s.unit u
    let lid := t0.place.launch
    let l := s.launch lid
    (∀ cause, t0.status = .stopping cause → s.stopDrained u cause = true → u < s.nextUnit → l.retries = [] → Completes (.contextSave u) s (fun t =>
      (t.unit u).status = .suspended cause ∧ (t.unit u).pgnt = 0)) ∧
    (t0.status = .failing → s.drained u = true → u < s.nextUnit → l.runs = true → l.retries = [] → t0.charged = false →
      (t0.fails < l.retry → (s.unitStage u).next ≤ 65535 → Completes (.unitFail u) s (fun t => (t.unit u).status = .ended ∧
        (t.unit u).stores = [] ∧ (t.launch lid).count.retries = l.count.retries + 1)) ∧
      (l.retry ≤ t0.fails → Completes (.unitFail u) s (fun t => (t.unit u).status = .ended ∧ (t.unit u).stores = [] ∧
        (t.launch lid).count.fails = l.count.fails + 1))) ∧
    (t0.status = .resident → (∃ v ∈ s.syncWaits u, 2 ^ 20 ≤ v.2) → Completes (.syncStall u) s (fun t =>
      (t.unit u).status = .failing ∧ ∃ k, (t.unit u).fault = some (causeWord 0x04 0 none k))) ∧
    (t0.status = .resident → (∀ k, k < t0.place.voices → (s.voice u k).status.off = false →
        s.woken u k = false ∧ ∃ a b, (s.voice u k).status = .waiting a b) →
      (∃ k a b, k < t0.place.voices ∧ (s.voice u k).status = .waiting a b ∧ t0.wthr.toNat ≤ s.unitCyc u - b) →
      Completes (.swapOut u) s (fun t => (t.unit u).status = .stopping 0x41)) ∧
    ((s.voice u j).status = .waiting (.mwait (some D)) since → D ≤ s.dcc t0.place.die → Completes (.mwaitDeadline u j) s (fun t =>
      (t.voice u j).status = .running ∧ t.mem = s.mem)) ∧
    (t0.status = .resident → s.taker u = some j → t0.events = (c, x) :: es → s.eventDue u = true →
      (s.voice u j).nextAt ≤ s.dcc t0.place.die → s.handler u ≠ 0 → Completes (.engineEventDelivery u) s (fun t =>
      (t.voice u j).xcause = c ∧ (t.voice u j).xinfo = x ∧ (t.voice u j).xpc = (s.voice u j).st.pc ∧ (t.voice u j).hmode = true ∧
      (t.voice u j).st.pc = s.handler u ∧ (t.unit u).events = es)) ∧
    Completes (.dataArrival u j r) s (fun t => r ∉ (t.voice u j).busy ∧ (∀ k ∈ (s.voice u j).busy, k ≠ r → k ∈ (t.voice u j).busy) ∧
      t = { s with voices := t.voices }) ∧
    Completes (.updateLineMerge w) s (fun t => t = s)

/-! Engines at work -/

/-- R104, R105, R256, R337, R365: a free engine that has not yet chosen in its cycle takes the ready command that ranks first,
which is then in flight, and it may choose no more in that cycle: in the array the command's boundary moves by its duration. A
PUB whose tensor is still written, and a WPRG whose region is being measured, wait (R356, R466). A matrix command that needs no part of the
engine is in flight at once, and one that names no object to signal is complete at once. Only a copy engine's CFNC changes
memory as it issues. -/
def Obligations.EngineIssues : Prop :=
  ∀ (die core u j : Nat) (s : State) (c : Ctx) (q : Cmd),
    let v := s.refresh die core 0
    let m := (v.heads die core .matrix).foldl (fun t h => if h.2.2.2.hlimit.isSome then t.closeFull die core h.1 h.2.2.2 else t)
      (v.closeByPrio die core)
    let hs := m.heads die core .matrix
    let inFlight (e : Engine) (t : State) : Prop := ∃ k ∈ (t.ctx u e j).flight, k.cn = q.cn ∧ k.instr = q.instr ∧ k.phase = .issued
    (s.engineOn die core .vector = true → (s.core die core).vnext ≤ v.eclk die core .vector → v.mayChoose die core .vector = true →
      v.moving die core = false →
      pickRank ((v.heads die core .vector).map fun h => (v.rank h.1 .vector h.2.1 (h.2.2.2.readyAt.getD 0), h)) = some (u, j, c, q) →
      Completes (.engineIssue die core .vector) s (fun t => inFlight .vector t ∧ t.mayChoose die core .vector = false ∧
        t.mem = s.mem ∧ t.tiles = s.tiles)) ∧
    (s.engineOn die core .copy = true → (v.heads die core .copy).all (fun h => !Instr.isGather h.2.2.2.instr || h.2.2.2.table.isSome) = true →
      v.channels die core < 8 → v.mayChoose die core .copy = true → q.group = [] →
      pickRank (((v.heads die core .copy).filter fun h =>
        (!Instr.isPub h.2.2.2.instr || v.pubReady h.1 h.2.2.2) && !v.measured h.1 h.2.2.2).map fun h =>
        (v.rank h.1 .copy h.2.1 (h.2.2.2.readyAt.getD 0), h)) = some (u, j, c, q) →
      Completes (.engineIssue die core .copy) s (fun t => inFlight .copy t ∧ t.mayChoose die core .copy = false ∧ t.sp = s.sp ∧
        ((∀ sc, q.instr ≠ .cfnc sc) → t.mem = s.mem))) ∧
    (s.engineOn die core .matrix = true →
      hs.all (fun h => !Instr.isMmag h.2.2.2.instr || h.2.2.2.table.isSome) = true →
      (hs.find? (fun h => Instr.usesNone h.2.2.2.instr && decide (h.2.2.2.stamp = none)) = some (u, j, c, q) →
        Completes (.engineIssue die core .matrix) s (fun t => t.mem = s.mem ∧ t.acc = s.acc ∧
          (q.bareSync = false → inFlight .matrix t) ∧ (q.bareSync = true → t.commandOver u .matrix j q.cn))) ∧
      (hs.find? (fun h => Instr.usesNone h.2.2.2.instr && decide (h.2.2.2.stamp = none)) = none →
        hs.find? (fun h => decide (h.2.2.2.con ≠ 0) && m.consortBad h.1 h.2.2.2) = none → hs.all (fun h => h.2.2.2.hlimit.isNone) = true →
        m.mayChoose die core .matrix = true → m.stamped die core = [] →
        pickRank (m.matrixChoices die core) = some (.cmd u j q) →
        let x := m.choose die core .matrix
        (Instr.usesArray q.instr = true → q.con = 0 → Completes (.engineIssue die core .matrix) s (fun t => t.mem = s.mem ∧ t.acc = s.acc ∧
          t.mayChoose die core .matrix = false ∧
          (t.core die core).bound = s.free die core + x.duration u (x.rowsOf u q) q.level (x.declares u q.level) q ∧
          ∃ k ∈ (t.ctx u .matrix j).flight, k.cn = q.cn ∧ k.phase = .issued ∧ k.enter = s.free die core)) ∧
        (Instr.usesArray q.instr = false → Completes (.engineIssue die core .matrix) s (fun t => t.mem = s.mem ∧ t.acc = s.acc ∧
          inFlight .matrix t ∧ t.mayChoose die core .matrix = false))))

/-- R256, R285, R286, R289 to R294, R298 to R300, R309, R318, R346, R350 to R355: a command whose time has come completes with its
results. A matrix command, and all that run with it, is over, and leaves what `State.matrixLeaves` says: each accumulator word of an
MMA or MMAG is the sum of its row of A and column of B joined to the word before it, unless a tile is poisoned; MZERO, MDCY, MLDZ,
MDRN and MTRQ leave their rows, MSYNC its signal, MSTAT its status. A vector command leaves what its operation gives, and a fault
leaves it without effect; a tensor load reads its lines, and a tensor store lands them, before it completes (line by line: the model's
reading, log 52). A piece of a copy that has not landed lands, with the bytes of its source (`State.pieceLands`); a signal adds one
to its object. -/
def Obligations.EngineCompletions : Prop :=
  ∀ (u j cn piece pa l : Nat) (s t1 : State) (q : Cmd) (qs : List Cmd) (ls : List Nat) (vl : Nat × Nat) (vs : List (Nat × Nat)) (tr : Trap)
    (b : BitVec 6) (sc : BitVec 3) (ln : Nat × Nat),
    let d := (s.unit u).place.die
    let p := s.home u
    ((s.ctx u .matrix j).flight.find? (fun k => decide (k.cn = cn)) = some q → q.phase = .issued → q.fin ≤ s.free d p →
      (s.unit u).onCore = true → (s.core d p).reset.find 0 = none →
      Completes (.matrixCommandComplete u j cn) s (fun t =>
        (∀ m ∈ s.together u j q, t.commandOver m.1 .matrix m.2.1 m.2.2.cn) ∧
        (q.memb = 0 → q.con = 0 → t.commandOver u .matrix j cn ∧ s.matrixLeaves t u j q))) ∧
    ((s.ctx u .vector j).flight = q :: qs → q.fin ≤ s.eclk d p .vector → (s.unit u).onCore = true → (s.core d p).reset.find 1 = none →
      (s.vldLeft u q = [] → s.vstLeft u q = [] → s.landVector u q = .ok t1 →
        Completes (.vectorCommandComplete u j) s (fun t => t.commandOver u .vector j q.cn ∧
          t.tiles = t1.tiles ∧ t.masks = t1.masks ∧ t.sp = t1.sp ∧ t.mem = t1.mem ∧ t.acc = t1.acc ∧
          (t.unit u).fpfl = (t1.unit u).fpfl)) ∧
      (s.vldLeft u q = [] → s.vstLeft u q = [] → s.landVector u q = .error tr →
        Completes (.vectorCommandComplete u j) s (fun t => t.commandOver u .vector j q.cn ∧
          t.tiles = s.tiles ∧ t.masks = s.masks ∧ t.sp = s.sp ∧ t.mem = s.mem)) ∧
      (s.vldLeft u q = vl :: vs → Completes (.vectorCommandComplete u j) s (fun t => ∃ x ∈ vl :: vs,
        t.tiles = s.tiles ∧ ∃ k ∈ (t.ctx u .vector j).flight, k.cn = q.cn ∧ (k.abuf.find x.2).isSome = true)) ∧
      (s.vstLeft u q = l :: ls → Completes (.vectorCommandComplete u j) s (fun t => ∃ x ∈ l :: ls,
        (∃ k ∈ (t.ctx u .vector j).flight, k.cn = q.cn ∧ (k.landed.find x).isSome = true) ∧
        ∀ r a w m z e, q.instr = .vst r a w m e → z ∈ s.vstBytes u q r m e → z.1 / 128 = x → s.poisoned z.1 = false →
          (∀ y ∈ s.vstBytes u q r m e, y.1 = z.1 → y = z) → t.latest (s.unitKey u) z.1 = z.2))) ∧
    (s.copyCmd u j cn = some q →
      (q.landed.find piece = none → Instr.isWprg q.instr = false → (q.group = [] ∨ q.data ≠ none) → q.lineList[piece]? = some ln →
        (∀ m ∈ q.moves, s.locPoison m.1 = none) →
        Completes (.copyPieceLand u j cn piece) s (fun t => s.pieceLands t u q ln ∧
          ∃ k ∈ (t.ctx u .copy j).flight, k.cn = cn ∧ (k.landed.find piece).isSome = true)) ∧
      (s.allLanded u q = true → Completes (.copyCommandComplete u j cn) s (fun t => t.commandOver u .copy j cn ∧
        (q.instr = .csig b sc → q.sync = some pa → q.replay = false → s.poisoned pa = false → pa % 128 ≤ 120 →
          t.latestNat u pa 8 = (s.latestNat u pa 8 + 1) % 2 ^ 64))))

/-- R305, R309, R320 to R326, R329 to R336: what a vector command that lands leaves. Of a masked form each active
element of vd holds the operation of the elements of its sources, each other stays, or is zero under MZ, and the flags of the active
ones join FPFL: moves, FP32 arithmetic, wrapping, clamped and residue integer arithmetic, minima and maxima, bitwise operations,
shifts, seeds, residue conversions and VCVT. VFFMA, VSEL, VTRN, VROT, VPERM, VACR, VDQN and VQNT in tensor mode write every
element of the shape; VQNT of blocks writes its codes to vd and its scale half-words to vb; VSCAN gives each element the operation over
its segment; VRED writes the reductions of its axis and nothing else. VCMP, VFCMP and MLOG write bits of a mask, and VACW words of
an accumulator slot. That VDQN of a NaN block sets NC where its code asks for it is the model's reading (log 83); a VQNT whose vb
is its vd (log 111) is not stated. -/
def Obligations.VectorResults : Prop :=
  ∀ (d a b c m : BitVec 5) (r k2 fs : BitVec 2) (o : BitVec 3) (g z e : BitVec 1) (u : Nat) (s : State) (q : Cmd),
    let h := Shape.of q.vsh
    let n := h.elems
    let w := 8 * h.sz
    let act := s.active u m e
    let el (t : BitVec 5) (k : Nat) : Nat := s.elem u t h.sz k
    let f4 (t : BitVec 5) (k : Nat) : Nat := s.elem u t 4 k
    let every : Nat → Bool := fun _ => true
    let int (t : BitVec 5) (k : Nat) : Int := (BitVec.ofNat w (el t k)).toInt
    let clamp (v : Int) : Nat × X := if (2 : Int) ^ (w - 1) ≤ v then (2 ^ (w - 1) - 1, flSAT)
      else if v < -2 ^ (w - 1) then (2 ^ (w - 1), flSAT) else ((v % 2 ^ w).toNat, 0)
    let wrap (v : Int) : Nat × X := ((v % 2 ^ w).toNat, 0)
    let scale (x : Nat) : Nat := s.elem u b 2 (x / 16)
    let lands (i : Instr) (P : State → Prop) : Prop := q.instr = i → ∃ t, s.landVector u q = .ok t ∧ P t
    (∀ x ∈ ([
      (.vmov d a m z e, h.sz, fun k => (el a k, 0)),
      (.vsplat d a m z e, h.sz, fun _ => ((q.regs.getD 0 0).toNat, 0)),
      (.viota d m 0 z e, h.sz, fun k => (k, 0)),
      (.viota d m 1 z e, h.sz, fun k => (k / h.nc, 0)),
      (.viota d m 2 z e, h.sz, fun k => (k % h.nc, 0)),
      (.vfadd d a b m r z e, 4, fun k => fpAdd fp32 r.toNat (f4 a k) (f4 b k)),
      (.vfsub d a b m r z e, 4, fun k => fpSub fp32 r.toNat (f4 a k) (f4 b k)),
      (.vfmul d a b m r z e, 4, fun k => fpMul fp32 r.toNat (f4 a k) (f4 b k)),
      (.vfmin d a b m z e, 4, fun k => fpMinMax fp32 false (f4 a k) (f4 b k)),
      (.vfmax d a b m z e, 4, fun k => fpMinMax fp32 true (f4 a k) (f4 b k)),
      (.vfabs d a m z e, 4, fun k => fpSetSign fp32 false (f4 a k)),
      (.vfneg d a m z e, 4, fun k => fpSetSign fp32 (!fpSign fp32 (f4 a k)) (f4 a k)),
      (.vadd d a b m 0 0 z e, h.sz, fun k => wrap (el a k + el b k)),
      (.vadd d a b m 0 1 z e, h.sz, fun k => clamp (int a k + int b k)),
      (.vadd d a b m 1 0 z e, h.sz, fun k => residueOp (· + ·) (el a k) (el b k)),
      (.vsub d a b m 0 0 z e, h.sz, fun k => wrap (el a k - el b k)),
      (.vsub d a b m 0 1 z e, h.sz, fun k => clamp (int a k - int b k)),
      (.vsub d a b m 1 0 z e, h.sz, fun k => residueOp (· - ·) (el a k) (el b k)),
      (.vmul d a b m 0 z e, h.sz, fun k => wrap (el a k * el b k)),
      (.vmul d a b m 1 z e, h.sz, fun k => residueOp (· * ·) (el a k) (el b k)),
      (.vmin d a b m 1 z e, h.sz, fun k => (min (el a k) (el b k), 0)),
      (.vmax d a b m 1 z e, h.sz, fun k => (max (el a k) (el b k), 0)),
      (.vmin d a b m 0 z e, h.sz, fun k => (if int a k ≤ int b k then el a k else el b k, 0)),
      (.vmax d a b m 0 z e, h.sz, fun k => (if int a k ≤ int b k then el b k else el a k, 0)),
      (.vand d a b m z e, h.sz, fun k => (el a k &&& el b k, 0)),
      (.vor d a b m z e, h.sz, fun k => (el a k ||| el b k, 0)),
      (.vxor d a b m z e, h.sz, fun k => (el a k ^^^ el b k, 0)),
      (.vshl d a b m z e, h.sz, fun k => (el a k * 2 ^ (el b k % w), 0)),
      (.vshr d a b m z e, h.sz, fun k => (el a k / 2 ^ (el b k % w), 0)),
      (.vsra d a b m z e, h.sz, fun k => (((BitVec.ofNat w (el a k)).sshiftRight (el b k % w)).toNat, 0)),
      (.vrsqs d a m z e, 4, fun k => seedRsqrt (f4 a k)),
      (.vrcps d a m z e, 4, fun k => seedRecip (f4 a k)),
      (.vexs d a m z e, 4, fun k => seedExp2 (f4 a k)),
      (.vlgs d a m z e, 4, fun k => seedLog2 (f4 a k)),
      (.vrns d a m g z e, 4, fun k => toResidue g (f4 a k)),
      (.vcrt d a m g z e, 4, fun k => fromResidue g (f4 a k)),
      (.vcvt d a k2 m fs z e, elemBytes (entCode (q.fents.headD (0, 0)).1), fun k =>
        let v := readElem q.code (s.codeElem u a q.code k)
        let y := (q.fents.headD (0, 0)).1
        ((cvt (entCode y) (entRm y) (entSat y) v.1).1, v.2 ||| (cvt (entCode y) (entRm y) (entSat y) v.1).2))] :
          List (Instr × Nat × (Nat → Nat × X))),
      n * x.2.1 ≤ 4096 → lands x.1 (fun t => s.tileWrote t u d x.2.1 n act z x.2.2)) ∧
    (∀ x ∈ ([
      (.vffma d a b c r, 4, fun k => fpFma fp32 r.toNat (f4 a k) (f4 b k) (f4 c k)),
      (.vsel d a b m, h.sz, fun k => (if s.maskBit u m k = true then el a k else el b k, 0)),
      (.vtrn d a, h.sz, fun k => (el a (k % h.nr * h.nc + k / h.nr), 0)),
      (.vrot d a b 0, h.sz, fun k =>
        (el a (k / h.nc * h.nc + (k % h.nc + (h.nc - (q.regs.getD 0 0).toNat % h.nc)) % h.nc), 0)),
      (.vrot d a b 1, h.sz, fun k =>
        (el a ((k / h.nc + (h.nr - (q.regs.getD 0 0).toNat % h.nr)) % h.nr * h.nc + k % h.nc), 0)),
      (.vperm d a b 0, h.sz, fun k => (el a (k / h.nc * h.nc + el b k % h.nc), 0)),
      (.vperm d a b 1, h.sz, fun k => (el a (el b k % h.nr * h.nc + k % h.nc), 0)),
      (.vacr d a b, 4, fun k => ((s.accWord (s.slotKey u a.toNat) (posRow (q.regs.getD 0 0) + k / h.nc)
        (posCol (q.regs.getD 0 0) + k % h.nc)).toNat, 0)),
      (.vdqn d a b fs, 4, fun k => dequant q.fent q.tsv (scale k) (k % 16) (s.codeElem u a q.code k))] :
        List (Instr × Nat × (Nat → Nat × X))),
      n * x.2.1 ≤ 4096 → lands x.1 (fun t => s.tileWrote t u d x.2.1 n every 0 x.2.2)) ∧
    (q.sm = 0 → n ≤ 4096 → lands (.vqnt d a b fs) (fun t => s.tileWrote t u d 1 n every 0 fun k =>
      cvt q.code (entRm q.fent) true (divVal (unpack fp32 (f4 a k)) (unpack fp32 q.tsv.toNat)))) ∧
    (q.sm = 1 → n ≤ 1024 → d ≠ b →
      let bs := (List.range (n / 16)).map fun k =>
        quantBlock 149 (entRm q.fent) (quantLimit q.code) ((List.range 16).map fun t => quantValue (f4 a (16 * k + t)))
      let codes := packCodes q.code (bs.flatMap fun x => x.codes)
      let scales := bs.flatMap fun x => leBytes x.scale 2
      lands (.vqnt d a b fs) (fun t =>
        (∀ i y, codes[i]? = some y → t.tileByte u d.toNat i = y) ∧ (∀ i y, scales[i]? = some y → t.tileByte u b.toNat i = y) ∧
        ∀ v p i, p < 32 → i < 4096 → ((v, p) = (u, d.toNat) → codes.length ≤ i) → ((v, p) = (u, b.toNat) → scales.length ≤ i) →
          t.tileByte v p i = s.tileByte v p i)) ∧
    (n * h.sz ≤ 4096 → ∀ ax : BitVec 1, lands (.vscan d a g ax o m) (fun t =>
      (∀ v p i, p < 32 → i < 4096 → (v, p) ≠ (u, d.toNat) ∨ n * h.sz ≤ i → t.tileByte v p i = s.tileByte v p i) ∧
      ∀ k p, k < n → p ≤ k →
        let head (i : Nat) : Prop := i = 0 ∨ s.maskBit u m i = true ∨ (ax = 0 ∧ i % h.nc = 0)
        head p → (∀ i, p < i → i ≤ k → ¬ head i) →
        t.elem u d h.sz k = (groupOp o.toNat h.sz ((List.range' p (if g = 1 then k - p else k - p + 1)).map (el a))).1 % 2 ^ w)) ∧
    (n * h.sz ≤ 4096 → ∀ ax : BitVec 2, lands (.vred d a ax o m e) (fun t =>
      let red (is : List Nat) : Nat := (groupOp o.toNat h.sz ((is.filter act).map (el a))).1 % 2 ^ w
      (∀ v p i, p < 32 → i < 4096 → (v, p) ≠ (u, d.toNat) ∨ n * h.sz ≤ i → t.tileByte v p i = s.tileByte v p i) ∧
      (ax = 0 → (∀ i, i < h.nr → t.elem u d h.sz (i * h.nc) = red ((List.range h.nc).map fun j => i * h.nc + j)) ∧
        ∀ k, k < n → k % h.nc ≠ 0 → t.elem u d h.sz k = el d k) ∧
      (ax = 1 → (∀ j, j < h.nc → t.elem u d h.sz j = red ((List.range h.nr).map fun i => i * h.nc + j)) ∧
        ∀ k, k < n → h.nc ≤ k → t.elem u d h.sz k = el d k) ∧
      (ax = 2 → t.elem u d h.sz 0 = red (List.range n) ∧ ∀ k, k < n → k ≠ 0 → t.elem u d h.sz k = el d k))) ∧
    (n ≤ 1024 →
      (∀ y ∈ ([(0, fun k => decide (el a k = el b k)), (1, fun k => decide (el a k ≠ el b k)), (2, fun k => decide (int a k < int b k)),
          (3, fun k => decide (int b k ≤ int a k)), (4, fun k => decide (el a k < el b k)), (5, fun k => decide (el b k ≤ el a k))] :
          List (BitVec 3 × (Nat → Bool))),
        lands (.vcmp d a b m e y.1) (fun t => s.maskWrote t u d n fun k => act k && y.2 k)) ∧
      lands (.vfcmp d a b m e o) (fun t => s.maskWrote t u d n (fun k => act k && (fpCmp fp32 o.toNat (f4 a k) (f4 b k)).1) ∧
        ((s.unit u).recent.find 0x024 = none → (t.unit u).fpfl = (s.unit u).fpfl |||
          ((List.range n).filter act).foldl (fun x k => x ||| (fpCmp fp32 o.toNat (f4 a k) (f4 b k)).2) 0))) ∧
    (∀ y ∈ ([(0, fun x y => x && y), (1, fun x y => x || y), (2, fun x y => x ^^ y), (3, fun x y => x && !y),
        (4, fun x y => x || !y), (5, fun x y => !(x && y)), (6, fun x y => !(x || y)), (7, fun x y => !(x ^^ y))] :
        List (BitVec 3 × (Bool → Bool → Bool))),
      lands (.mlog d a b y.1) (fun t => s.maskWrote t u d 1024 fun k => y.2 (s.maskBit u a k) (s.maskBit u b k))) ∧
    (∀ x ∈ ([(0, 0, fun _ v => v), (0, 1, fun old v => (acc32 old (unpack fp32 v)).1),
        (1, 1, fun old v => (max (-2 ^ 31) (min (2 ^ 31 - 1) ((BitVec.ofNat 32 old).toInt + (BitVec.ofNat 32 v).toInt)) % 2 ^ 32).toNat)] :
        List (BitVec 1 × BitVec 1 × (Nat → Nat → Nat))),
      let at_ := q.regs.getD 0 0
      let slot := s.slotKey u c.toNat
      posRow at_ + h.nr ≤ 96 → posCol at_ + h.nc ≤ 160 → lands (.vacw a c b m x.1 x.2.1 e) (fun t =>
        (∀ k, k < n → t.accWord slot (posRow at_ + k / h.nc) (posCol at_ + k % h.nc) =
          if act k = true then BitVec.ofNat 32 (x.2.2 (s.accWord slot (posRow at_ + k / h.nc) (posCol at_ + k % h.nc)).toNat (f4 a k))
          else s.accWord slot (posRow at_ + k / h.nc) (posCol at_ + k % h.nc)) ∧
        (∀ y i j, i < 96 → j < 160 → y ≠ slot ∨ i < posRow at_ ∨ posRow at_ + h.nr ≤ i ∨ j < posCol at_ ∨ posCol at_ + h.nc ≤ j →
          t.accWord y i j = s.accWord y i j) ∧
        t.lan = s.lan ∧ t.dsc = s.dsc ∧ t.tiles = s.tiles ∧ t.masks = s.masks))

/-- R104, R263, R264, R268, R271, R286, R345, R362: a timed command enters the array at its stamp, where it ranks first of those that
are ready then, and else misses it, an MMAG once it has read its table; an open group closes at its deadline; a consort operation
armed too long breaks; a missed promise is reported once; a collective that does not form times out, on a core that still drains
too (R91). The model's readings here: which of several timed commands enters, and that all armed members of an operation break
(log 47); that a collective times out for all the members that descriptors connect (log 56). -/
def Obligations.EngineDeadlines : Prop :=
  ∀ (u j cn die core g v p : Nat) (s : State) (q : Cmd) (qs : List Cmd) (x : MGroup) (sc : BitVec 3) (k : BitVec 2),
    let d := (s.unit u).place.die
    let c := s.home u
    let s1 := s.closeByPrio d c
    let queued := (s.ctx u .matrix j).queue = q :: qs
    let s2 := if Instr.isMmag q.instr = true ∧ q.table = none ∧ q.readyAt ≠ none then s1.readTable u j q else s1
    let enters := s.tclk u = v ∧ s.mayChoose d c .matrix = true ∧ pickRank (s2.stamped d c) = some (u, j)
    (queued → q.stamp = some v → Instr.usesArray q.instr = true → q.armed = true → (s.unit u).status = .resident →
      s.engineOn d c .matrix = true → v ≤ s.tclk u →
      (∀ x xs, (s2.ctx u .matrix j).queue = x :: xs → x.cn = q.cn →
        (enters → Completes (.timedCommandStamp u j) s (fun t =>
          ∃ k ∈ (t.ctx u .matrix j).flight, k.cn = q.cn ∧ k.phase = .issued ∧ k.enter = s.free d c)) ∧
        (¬enters → (s.unit u).events.length < 32 →
          Completes (.timedCommandStamp u j) s (fun t => t.commandOver u .matrix j q.cn ∧
            (t.unit u).events = (s.unit u).events ++ [(causeWord 0x82 2 (some .matrix) j, BitVec.ofNat 64 q.cn)]))) ∧
      ((∀ x ∈ (s2.ctx u .matrix j).queue.head?, x.cn ≠ q.cn) → Completes (.timedCommandStamp u j) s (fun t => t = s2))) ∧
    ((s.core die core).groups[g]? = some x → x.closed = false → x.deadline ≤ s.free die core →
      Completes (.mergeGroupClose die core g) s (fun t => (t.core die core).groups[g]? = some { x with closed := true } ∧ t.ctxs = s.ctxs)) ∧
    (queued → q.con ≠ 0 → q.armed = true → (s.unit u).status = .resident → 2 ^ 20 ≤ q.waited + (s.free d c - q.armedAt) →
      Completes (.consortTimeout u j) s (fun t => ∀ m ∈ s.consortArmed u q, t.commandOver m.1 .matrix m.2.1 m.2.2.cn)) ∧
    ((s.ctx u .copy j).cmd cn = some q → Instr.copyFields q.instr = some (sc, 0, k) → q.promise = some p → (s.unit u).status = .resident →
      s.holding d c = false → q.missed = false → p < s.tclk u → (s.unit u).events.length < 32 →
      Completes (.missedPromise u j cn) s (fun t =>
        (t.unit u).events = (s.unit u).events ++ [(causeWord 0x81 2 (some .copy) j, BitVec.ofNat 64 cn)] ∧
        ∃ r, (t.ctx u .copy j).cmd cn = some r ∧ r.missed = true)) ∧
    (s.copyCmd u j cn = some q → q.group ≠ [] → q.data = none → (s.unit u).onCore = true →
      2 ^ 28 ≤ q.waited + (s.eclk d q.core .copy - q.enter) →
      Completes (.collectiveTimeout u j cn) s (fun t => ∀ m ∈ s.collWith [(u, j, q)] 1024, ∃ r ∈ (t.ctx m.1 .copy m.2.1).flight,
        r.cn = m.2.2.cn ∧ r.status = 4 ∧ r.data = some []))

/-! The weight tier -/

/-- R240, R241, R244, R245, R250, R253, R295: a swap begins at its stamp in a region whose other bank is released, reaches each
home core by its signal, and lands there at a boundary, and one that cannot begin at its stamp misses it; late beats hold the
core, and the cores of its consorts' members with it, a damaged codeword once for its beat; one read again is to be rewritten, or is
lost; a lasting bus is retired. An MSWP whose region is being measured misses (R466). The model's readings here: that holds add up
while the core is held (log 16), and that a hold reaches the cores held with one of a consort, and theirs (log 64). -/
def Obligations.WeightEvents : Prop :=
  ∀ (u j v ix k die core name bus cw hours : Nat) (ok : Bool) (b : BitVec 6) (n : BitVec 3) (s : State) (q : Cmd) (qs : List Cmd)
    (e : RegEntry) (r : Region) (x : Beat),
    let pl := (s.unit u).place
    let due := (((s.core die core).due.filter fun x => decide (x.slot ≤ s.free die core)).map (·.hold)).sum
    let heldFor (m : Nat) (t : State) : Prop := t.mem = s.mem ∧ t.acc = s.acc ∧ ∀ x ∈ s.heldWith die core,
      (∀ y ∈ s.heldWith die core, pkey y.1 y.2 = pkey x.1 x.2 → y = x) →
      (s.holding x.1 x.2 = false → (t.core x.1 x.2).holdAt = s.mcyc x.1 x.2 ∧ (t.core x.1 x.2).holdLen = m) ∧
      (s.holding x.1 x.2 = true → (t.core x.1 x.2).holdAt = (s.core x.1 x.2).holdAt ∧
        (t.core x.1 x.2).holdLen = (s.core x.1 x.2).holdLen + m)
    ((s.ctx u .matrix j).queue = q :: qs → q.instr = .mswp b n → q.stamp = some v → q.armed = true → (s.unit u).status = .resident →
      s.engineOn pl.die (s.home u) .matrix = true → s.binding u n.toNat = some ix → s.tableRegion pl.die pl.job ix = some (k, e, r) →
      (s.tclk u = v → s.released k r = true → r.popen = false → s.measuring k = false → Completes (.swapBegin u j) s (fun t =>
        t.regions.find k = some { r with gen := r.gen + 1, act := !r.act, pending := (List.range r.groups).map r.homeOf, signalled := [] } ∧
        t.commandOver u .matrix j q.cn ∧ t.wt = s.wt)) ∧
      (v < s.tclk u ∨ (s.tclk u = v ∧ (s.released k r = false ∨ r.popen = true ∨ s.measuring k = true)) → (s.unit u).events.length < 32 →
        Completes (.swapBegin u j) s (fun t => t.regions = s.regions ∧ t.commandOver u .matrix j q.cn ∧
          (t.unit u).events = (s.unit u).events ++ [(causeWord 0x82 2 (some .matrix) j, BitVec.ofNat 64 q.cn)]))) ∧
    (s.regions.find (rkey die name) = some r → core ∈ r.pending →
      (core ∉ r.signalled → Completes (.swapSignalArrival die core name) s (fun t =>
        t.regions.find (rkey die name) = some { r with signalled := core :: r.signalled } ∧
        ∀ x ∈ (t.core die core).groups, x.region = rkey die name → x.gen < r.gen → x.closed = true)) ∧
      (core ∈ r.signalled → s.atBoundary die core = true → s.oldGroups die core (rkey die name) r.gen = false →
        Completes (.swapLand die core name) s (fun t =>
          t.regions.find (rkey die name) = some { r with pending := r.pending.filter fun x => decide (x ≠ core) }))) ∧
    (due ≠ 0 → Completes (.globalHold die core .scheduled) s (heldFor due)) ∧
    (s.beatDue die core cw = some x →
      (x.fixed = false → Completes (.globalHold die core (.corrected cw hours)) s (heldFor 3)) ∧
      (x.fixed = true → Completes (.globalHold die core (.corrected cw hours)) s (fun t => t.cores = s.cores ∧ t.mem = s.mem)) ∧
      Completes (.globalHold die core (.reread cw hours ok)) s (fun t =>
        (x.again = false → heldFor 14 t) ∧ (x.again = true → t.cores = s.cores) ∧
        (ok = true → (t.rewrites.find (rowKey (cw * 64))).isSome = true) ∧ (ok = false → (t.wpoison.find cw).isSome = true))) ∧
    (s.beatDue die core cw = none → Completes (.globalHold die core (.corrected cw hours)) s (fun t => t.cores = s.cores ∧ t.mem = s.mem) ∧
      Completes (.globalHold die core (.reread cw hours ok)) s (fun t => t.cores = s.cores ∧ t.mem = s.mem ∧
        (s.readsElse die core cw = true → ok = false → (t.wpoison.find cw).isSome = true))) ∧
    ((s.lasting.find (faultKey die (.bus core bus))).isSome = true → bus ∉ (s.core die core).buses →
      Completes (.verticalBusRetire die core bus) s (fun t => (t.core die core).buses = bus :: (s.core die core).buses ∧
        (t.core die core).vbr = true))

/-- R245 to R250: a row of a WPRG that takes at most eight pulses, in a bank that no command reads, holds its source's bytes
from then on, the cells that the WPRG does not name keep theirs, and no other row changes; its wear rises by its pulses. A row that was read wrong and is to be rewritten keeps its
contents and adds its pulses, once its bank is idle. -/
def Obligations.VoicerRows : Prop :=
  ∀ (u j cn row passes k : Nat) (bank : Bool) (s : State) (q : Cmd) (r : Region),
    let xs := ((s.weightAddrs u q).zip (q.moves.map (·.1))).filter fun x => decide (rowKey x.1 = row)
    s.usableRow row = true → s.wear.getD (s.wearKey row) 0 < 9 * 10 ^ 9 → 1 ≤ passes → passes ≤ 8 →
    (s.copyCmd u j cn = some q → q.wbank = some (k, bank) → s.regions.find k = some r → Instr.isWprg q.instr = true → xs ≠ [] →
      q.landed.find row = none → q.status = 0 →
      (r.pair = true → r.pending = [] ∧ s.bankReaders k bank = false) →
      (∀ x ∈ xs, s.locPoison x.2 = none) → (∀ w ∈ s.wpoison, rowKey (w.1 * 64) ≠ row) →
      Completes (.voicerRowProgram u j cn row passes) s (fun t =>
        (∀ x ∈ xs, (∀ y ∈ xs, y.1 = x.1 → y.2 = x.2) → t.cell x.1 = s.locRead u x.2) ∧ (∀ wa, rowKey wa ≠ row → t.cell wa = s.cell wa) ∧
        (∀ wa, rowKey wa = row → (∀ x ∈ xs, x.1 ≠ wa) → t.cell wa = s.cell wa) ∧
        t.wear.getD (s.wearKey row) 0 = s.wear.getD (s.wearKey row) 0 + passes)) ∧
    (row ∉ (s.drone (rowDie row)).rows → s.rewrites.find row = some true → s.bankIdle (row / 8192) = true →
      Completes (.voicerRowRewrite ⟨row, passes⟩) s (fun t => t.wt = s.wt ∧ t.mem = s.mem ∧ t.rewrites.find row = none ∧
        t.wear.getD (s.wearKey row) 0 = s.wear.getD (s.wearKey row) 0 + passes)) ∧
    (row ∉ (s.drone (rowDie row)).rows → s.rewrites.find row = none → Completes (.voicerRowRewrite ⟨row, passes⟩) s (fun t => t = s))

/-! Power, heat and errors -/

/-- R6, R421, R425, R427 to R436: a sample takes the readings given, puts a zone with a core at its threshold in THS 1 and a core at
105 degrees offline; a Valve's state is recorded where the form has valves, and a message without answer is sent again, to the
fallback after the third; the head request of a zone whose capacity covers it is granted; a window's regulators rise ahead of its
onset; a pending divisor is taken at the end of a cycle with the count of cycles unbroken, and the control cycles a voice has yet to
wait are of the new length; a bank of one of a die's two interfaces is refreshed at its interval, which a reading of 85 degrees halves
until every one of 10 ms is 82 or less; a domain's voltage steps with its errors, returns to nominal at an uncorrected one, which fails the
units named that it reached, and is enabled again in its time. The model's readings here: how a rise of the regulators is recorded
(log 24), how resends are counted (log 35), which errors UNDERVOLT_INTERVAL names (log 91), and when a Valve is asked for its state
(log 96). -/
def Obligations.Regulation : Prop :=
  ∀ (die zone opening flow inlet u core iface bank temp since n m : Nat) (temps units : List Nat) (bad : Bool) (dom : Domain)
    (a : Nat × Nat × Nat) (b : Breath) (s : State),
    let z := s.zone die zone
    let now := s.dcc die
    let k := Domain.code dom
    let clk := (s.core die core).clk k
    let asks := z.asks.filter s.askStands
    let errs := (z.errs.filter fun t => decide (z.uvLast ≤ t)).length + n
    ((s.die die).sampled + 240000 ≤ now → Completes (.thermalSample die temps) s (fun t => (t.die die).sampled = now ∧
      ∀ p, p < 96 → (t.core die p).temp = temps.getD p (s.core die p).temp ∧
        (1050 ≤ temps.getD p (s.core die p).temp → (t.core die p).ths = 3) ∧
        (10 * (s.die die).tt ≤ temps.getD p (s.core die p).temp → (s.zone die (p / 12)).hot = false → (t.zone die (p / 12)).hot = true))) ∧
    ((s.form = .m12w48 → zone < 8 → Completes (.stat die zone opening flow inlet bad) s (fun t =>
        (t.zone die zone).opening = opening ∧ (t.zone die zone).flow = flow ∧ (t.zone die zone).inlet = inlet ∧
        (t.zone die zone).sent = none ∧ (t.zone die zone).fallback = bad)) ∧
      (s.form = .m12w48 → Completes (.stat 0 8 opening flow inlet bad) s (fun t => t = { s with pump := ⟨opening, none, 0⟩ })) ∧
      (s.form = .p12w48 → Completes (.stat die zone opening flow inlet bad) s (fun t => t = s))) ∧
    (s.form = .m12w48 → zone < 8 → z.sent = some since → since + 4800000 ≤ now → z.sends < 4 →
      Completes (.valveResend die zone) s (fun t =>
      t.valves = s.valves ++ [if z.asked = true then ⟨die, zone, 3, 0⟩ else ⟨die, zone, 1, z.opening⟩] ∧
      (t.zone die zone).sends = z.sends + 1 ∧ (t.zone die zone).sent = some now ∧
      (z.sends = 3 → (t.zone die zone).fallback = true))) ∧
    (s.headAsk asks = some a → s.granted die zone a.1 + a.2.2 ≤ z.capacity → Completes (.bellowsGrant die zone) s (fun t =>
      (t.unit a.1).pgnt = BitVec.ofNat 4 a.2.2 ∧ (t.zone die zone).asks = asks.filter (fun b => decide (b ≠ a)) ∧
      (a.2.1 ≠ 4 → (t.voice a.1 a.2.1).ask = none))) ∧
    ((s.unit u).breath = some b → (s.unit u).status = .resident → b.onset ≤ s.tclk u + 64 → Completes (.breathPreposition u) s (fun t =>
      t = s.setUnit u { s.unit u with breath := some { b with raised := true } })) ∧
    ((s.core die core).switch.find k = some since → since ≤ now → (now - clk.dcc0) % clk.period k = 0 →
      Completes (.clockSwitch die core dom) s (fun t => ((t.core die core).clk k).div = s.wantDiv die core k ∧
        ((t.core die core).clk k).now now = clk.now now ∧ (t.core die core).switch.find k = none ∧
        ∀ v j, j < 4 → (s.unit v).place.die = die → s.home v = core → (t.voice v j).nextAt =
          if k = 0 ∧ now < (s.voice v j).nextAt then now + cdiv ((s.voice v j).nextAt - now) clk.div * s.wantDiv die core k
          else (s.voice v j).nextAt)) ∧
    (iface < 2 → Completes (.refresh die iface bank temp) s (fun t =>
      let was := (s.die die).hotRefresh.find iface
      let hot := (t.die die).hotRefresh.find iface
      let gap := if hot.isSome then 4680 else 9360
      let last := (s.die die).refreshed.find (iface * 64 + bank)
      t.mem = s.mem ∧ (850 ≤ temp ∨ (820 < temp ∧ was ≠ none) → hot = some 0) ∧ (temp < 850 → was = none → hot = none) ∧
        (temp ≤ 820 → ∀ c, was = some c → hot = if c = 0 then some (now + 1) else if c - 1 + 24000000 ≤ now then none else some c) ∧
        ((∀ t0, last = some t0 → t0 + gap ≤ now) → (t.die die).refreshed.find (iface * 64 + bank) = some now) ∧
        (∀ t0, last = some t0 → now < t0 + gap → (t.die die).refreshed = (s.die die).refreshed))) ∧
    (2 ≤ iface → Completes (.refresh die iface bank temp) s (fun t => t = s)) ∧
    (z.uv = true → z.uvAt = none → z.uvLast + 24000000 ≤ now → Completes (.undervoltInterval die zone n m) s (fun t =>
      (t.zone die zone).uvLast = now ∧ (errs = 0 → (recent now z.errs).length + m < 4 → (t.zone die zone).steps = min 12 (z.steps + 1)) ∧
      (2 ≤ errs → (t.zone die zone).steps = z.steps - 1) ∧ (errs = 1 → (t.zone die zone).steps = z.steps))) ∧
    (z.steps ≠ 0 → Completes (.undervoltUe die zone units) s (fun t => (t.zone die zone).steps = 0 ∧
      (t.zone die zone).uvAt = some (now + 144000000000) ∧
      ∀ v ∈ units, (s.units.find v).isSome = true → (s.unit v).live = true → (s.unit v).status ≠ .failing → (s.unit v).status ≠ .cancelling →
        s.inDomain die zone v = true → (t.unit v).status = .failing ∧ (t.unit v).charged = true)) ∧
    (z.uvAt = some since → since ≤ now → Completes (.undervoltReenable die zone) s (fun t =>
      (t.zone die zone).uvAt = none ∧ (t.zone die zone).uvLast = now))

/-- R310, R435 to R438, R454 to R457: a soft error is logged with its hour, one of a row for its bus and bank too, and the third within
the window makes its structure lasting, but one of a domain below nominal is not logged; an error there that leaves a version's line
uncorrectable is charged to the domain, and ends the line's unit without charge; an engine reset puts its commands back, to be replayed, for 1,024
cycles of its domain, after which its contexts go on; an error in a tile register or a mask fails its unit and resets nothing.
-/
def Obligations.FaultsAndResets : Prop :=
  ∀ (die core hours since x : Nat) (w : Structure) (e : Engine) (bad vregs : List (Nat × Nat)) (s : State),
    let k := s.structKey die w
    let l := s.soft.getD k []
    ((∀ z, faultZone w = some z → (s.zone die z).steps = 0) → (∀ row, w = .weightRow row → s.wearKey row < 2 ^ 60) →
      Completes (.correctedError die w hours none) s (fun t =>
      t.soft.getD k [] = (l ++ [hours]).drop (l.length - 1) ∧ t.mem = s.mem ∧
      (∀ row, w = .weightRow row → ∀ b ∈ [faultKey die (.bus (row / 2 ^ 19 % 128) (row / 2 ^ 13 % 4)), 2 ^ 65 + row / 2 ^ 13],
        (t.soft.getD b []).getLast? = some hours) ∧
      (2 ≤ l.length → hours ≤ l.headD 0 + (s.die die).window → (t.lasting.find k).isSome = true))) ∧
    ((∀ z, faultZone w = some z → (s.zone die z).steps ≠ 0) → faultZone w ≠ none →
      Completes (.correctedError die w hours none) s (fun t => t.soft = s.soft ∧ t.lasting = s.lasting)) ∧
    (∀ z, faultZone w = some z → (s.zone die z).steps ≠ 0 → x ∈ (s.unit core).lines →
      Completes (.correctedError die w hours (some (.version core x since))) s (fun t =>
        (t.zone die z).steps = 0 ∧ (t.zone die z).uvAt = some (s.dcc die + 144000000000) ∧ t.soft = s.soft ∧ t.mem = s.mem ∧
        ((s.units.find core).isSome = true → (s.unit core).status = .resident → s.inDomain die z core = true →
          (t.unit core).status = .failing ∧ (t.unit core).charged = true))) ∧
    (e ≠ .vector ∨ vregs = [] → Completes (.engineReset die core e bad vregs hours) s (fun t =>
      (t.core die core).reset.find e.code = some (s.ecyc die core e + 1024) ∧ t.mem = s.mem ∧ t.sp = s.sp ∧
      (∀ u j, j < 4 → ∀ q ∈ (t.ctx u e j).flight, s.runsOn die core e u q = false) ∧
      (e ≠ .copy → bad = [] → ∀ u j, j < 4 → s.unitOn die core u = true → (s.unit u).status = .resident →
        ∀ q ∈ (s.ctx u e j).flight, ∃ c ∈ (t.ctx u e j).queue, c.cn = q.cn ∧ c.phase = .queued ∧ c.replay = true))) ∧
    (∀ u, s.unitOn die core u = true → (s.unit u).status = .resident →
      Completes (.engineReset die core .vector bad [(u, x)] hours) s (fun t => (t.unit u).status = .failing ∧
        t.tiles = s.tiles ∧ t.mem = s.mem ∧ t.ctxs = s.ctxs ∧ (t.core die core).reset = (s.core die core).reset)) ∧
    ((s.core die core).reset.find e.code = some since → since ≤ s.ecyc die core e → Completes (.engineResetEnd die core e) s (fun t =>
      (t.core die core).reset.find e.code = none ∧ t.mem = s.mem))

/-! The machine as a whole -/

/-- R8, R118, R119, R121, R462: the reset values that the spec gives. Every die's DCC reads 0 and every core's divisors are 2,
3, 3 and 4; no unit, launch, job or key is there and no byte of any memory is written; and a new unit, voice and context have
every register at its reset value. What the spec gives no value for is the model's (log 9) and not stated here. -/
def Obligations.ResetState : Prop :=
  let s := State.reset
  (∀ d, s.dcc d = 0) ∧
  (∀ d p, (s.core d p).ctl.div = 2 ∧ (s.core d p).vec.div = 3 ∧ (s.core d p).cpy.div = 3 ∧ (s.core d p).mat.div = 4) ∧
  s.mem = [] ∧ s.sp = [] ∧ s.acc = [] ∧ s.tiles = [] ∧ s.units = [] ∧ s.launches = [] ∧ s.jobs = [] ∧ s.keys = [] ∧
  (∀ u j r, (s.voice u j).st.getX r = 0) ∧
  (∀ u j p, (s.voice u j).st.getP p = decide (p = 0)) ∧
  (∀ u j, (s.voice u j).st.fmsel = 0x03 ∧ (s.voice u j).xpc = 0 ∧ (s.voice u j).xsw = 0 ∧ (s.voice u j).xcause = 0 ∧
    (s.voice u j).xinfo = 0 ∧ (s.voice u j).st.l0.lc = 0 ∧ (s.voice u j).st.l1.lc = 0 ∧ (s.voice u j).st.l2.lc = 0) ∧
  (∀ u e j r, (s.ctx u e j).st.getX r = 0 ∧ (s.ctx u e j).st.fmsel = 0x03 ∧ (s.ctx u e j).nextCn = 1) ∧
  ∀ u, (s.unit u).xhnd = 0 ∧ (s.unit u).wthr = 20000 ∧ (s.unit u).stsc = 1 ∧ (s.unit u).pgnt = 0 ∧ (s.unit u).fpfl = 0 ∧
    (s.unit u).mhl = 64 ∧ (s.unit u).vsh = 0x00021F1F

/-- R112, R114, R123, R124, R140 to R142, R171: where a stream has the turn, can issue, and the word fetched at its PC, under a
repeat the repeat's, decodes, the step is the execution of that instruction by that stream, on the state in which the stream is
in issue, its loop buffer filled and its fetch noted, as read memory of its span (R375); a sync bundle that its one awake voice
meets is executed so too, unless its word traps without effect, and one that another awake voice has not met makes its voice
wait. A word that names a register with data to come only has its fetch noted (R186), and an access it was to make again stays to be
made (R217). What cannot be fetched, and a word that
fails a check of R141, takes that check's trap; of a bundle that cannot be fetched the lowest voice that has reached it reports
(R142). A stream that may not issue lets its turn pass. An event at the head of the agenda happens, a tick advances its die's
clock, and an empty agenda takes the move that the environment chooses (log 2). -/
def Obligations.StepRunsDecodedInstruction : Prop :=
  ∀ (s : State) (u j : Nat) (e : Engine) (ts : List Turn) (f : Fetched) (ws : List Word) (pa : Option Nat) (i : Instr),
    let s0 := { s with agenda := ts, fresh := s.fresh + 1 }
    (s.agenda = .stream (.voice u j) :: ts → s0.mayTurn (.voice u j) = true → (s.unit u).events = [] → (s.voice u j).idle = false →
      let b := s0.begin (.voice u j) u
      let v := b.voice u j
      let n := b.noteFetch u 16 pa
      let w := repeatedWord .voice (n.accCount u) v.st.rep f.word
      (∀ t, b.fetchUnit (.voice u j) v.st.pc = .error t →
        let k := b.reporter u j v.st.pc
        step s = .next (({ b.resume u [.voice u k] with sel := .voice u k }).raiseTrap t)) ∧
      (b.fetchUnit (.voice u j) v.st.pc = .ok (ws, pa) → (sBits ws ≠ 15 ∨ v.met = true) →
        (∀ t, pickWord (.voice u j) v.st.pc.toNat ws pa = .error t → step s = .next (n.raiseTrap t)) ∧
        (pickWord (.voice u j) v.st.pc.toNat ws pa = .ok f →
          (decodeWord .voice (n.accCount u) w = .ok i →
            (n.dataStall u j i = false → step s = Sys2Proof.Machine.exec i { n with ir := f.word, iw := w }) ∧
            (n.dataStall u j i = true → step s = .next n.putBack)) ∧
          (∀ x, decodeWord .voice (n.accCount u) w = .error x →
            step s = .next (n.raiseTrap (State.decodeTrap f.word v.st.pc.toNat x))))) ∧
      (b.fetchUnit (.voice u j) v.st.pc = .ok (ws, pa) → sBits ws = 15 → v.met = false →
        (n.awake u = [j] →
          let b1 := (n.fillLoop (.voice u j)).resume u [.voice u j]
          let w1 := repeatedWord .voice (b1.accCount u) (b1.voice u j).st.rep f.word
          let x : Slot := ⟨j, f.word, w1, i⟩
          ∀ p1, b1.fetchUnit (.voice u j) v.st.pc = .ok (ws, p1) →
          let n1 := b1.noteFetch u 16 p1
          let m : State := { n1.meet u [j] with
            parks := parksOf [x], unparks := n.unparksOf u [x]
            bscope := if b1.reporting u [x] = some j then 0 else b1.boundaryScope x }
          pickWord (.voice u j) v.st.pc.toNat ws p1 = .ok f →
          (∀ y, decodeWord .voice (b1.accCount u) w1 = .error y →
            step s = .next (({ b1 with sel := .voice u j }).raiseTrap (State.decodeTrap f.word v.st.pc.toNat y))) ∧
          (decodeWord .voice (b1.accCount u) w1 = .ok i →
          (b1.dataStall u j i = true → step s = .next n1.putBack) ∧
          (b1.dataStall u j i = false →
          ∀ t, Sys2Proof.Machine.exec i { m with sel := .voice u j, ir := f.word, iw := w1 } = .next t →
            (t.stopTrap = none → step s = .next (t.settleBundle u)) ∧
            (∀ k, t.stopTrap = some k → step s = .next (({ n1 with sel := .voice u j }).raiseTrap k))))) ∧
        (v.status = .running → (∃ k ∈ n.awake u, k ≠ j ∧ n.atSync u k v.st.pc = false) → ∃ t, step s = .next t ∧
          (t.voice u j).st = v.st ∧ (t.voice u j).status = .waiting .sync (n.unitCyc u)))) ∧
    (s.agenda = .stream (.ctx u e j) :: ts → s0.mayTurn (.ctx u e j) = true → s.decodes u e j = true →
      let b := s0.begin (.ctx u e j) u
      let c := b.ctx u e j
      let n := b.noteFetch u 4 f.pa
      let w := repeatedWord (.ctx e) (n.accCount u) c.st.rep f.word
      (∀ t, b.fetchFor (.ctx u e j) c.st.pc = .error t → step s = .next (b.raiseTrap t)) ∧
      (b.fetchFor (.ctx u e j) c.st.pc = .ok f →
        (decodeWord (.ctx e) (n.accCount u) w = .ok i →
          ((∀ r ∈ i.xregs, r.toNat ∉ c.owing) → step s = Sys2Proof.Machine.exec i { n with ir := f.word, iw := w }) ∧
          ((∃ r ∈ i.xregs, r.toNat ∈ c.owing) → step s = .next n.putBack)) ∧
        (∀ x, decodeWord (.ctx e) (n.accCount u) w = .error x →
          step s = .next (n.raiseTrap (State.decodeTrap f.word c.st.pc.toNat x))))) ∧
    (∀ sel, s.agenda = .stream sel :: ts → s0.mayTurn sel = false → step s = .next s0) ∧
    (s.agenda = .event i :: ts → i.home = none → step s = Sys2Proof.Machine.exec i s0) ∧
    (s.agenda = .tick u j :: ts → step s = .next (s0.tick u j)) ∧
    (s.agenda = [] → step s = step { s with agenda := [Config.nextTurn s.fresh] })

/-- R135, R138, R154, R281: words written out bit by bit from the spec's encodings decode, in the stream they are words of, to
the instructions they stand for. -/
def Obligations.DecodeWords : Prop :=
  decodeWord .voice 0 0x01083040 = .ok (.add 0 2 3 1) ∧
  decodeWord .voice 0 0x02145FFF = .ok (.addi 0 5 5 0xFFF) ∧
  decodeWord .voice 0 0x09152346 = .ok (.lui 0 5 0x12346) ∧
  decodeWord (.ctx .copy) 0 0x19000000 = .ok (.halt 0) ∧
  decodeWord (.ctx .matrix) 16 0x80310689 = .ok (.mma 3 4 6 1 0 0 0 1 0 1) ∧
  decodeWord (.ctx .matrix) 16 0x86320906 = .ok (.mdrn 3 8 9 0 1 2) ∧
  decodeWord (.ctx .copy) 0 0x80084199 = .ok (.cpy 2 4 6 3 0 1) ∧
  decodeWord (.ctx .matrix) 16 0x8E028009 = .ok (.msync 10 1 1) ∧
  decodeWord (.ctx .vector) 0 0x80010000 = .ok (.vshp 4) ∧
  decodeWord (.ctx .copy) 0 0x8D002000 = .ok (.cwait 2) ∧
  decodeWord (.ctx .copy) 0 0x8E008008 = .ok (.csig 8 1) ∧
  decodeWord (.ctx .copy) 0 0x40000000 = .error .syncBit ∧
  decodeWord .voice 0 0x3F000000 = .error .poolGuard

/-- R131 to R140: an instruction that a stream's word may be, encoded, decodes to itself with every operand; and a word that
decodes is the encoding of what it decodes to, which is an instruction of that stream. -/
def Obligations.DecodeEncode : Prop :=
  ∀ (k : StreamKind) (acc : Nat),
    (∀ i : Instr, i.wf k acc = true → decodeWord k acc (encode i) = .ok i) ∧
    (∀ (w : Word) (i : Instr), decodeWord k acc w = .ok i → i.wf k acc = true ∧ encode i = w)

/-- Global memory and the weight tier list nothing at reset, and so are in their canonical form. That an unlisted byte of memory has
no value of its own (log 1), and that an unlisted cell of the tier reads 0 (log 9), are the model's choices; R462 gives neither. -/
def Obligations.MemoryWfAtReset : Prop :=
  Memory.wf State.reset.mem ∧ Weights.wf State.reset.wt ∧ State.reset.mem = [] ∧ State.reset.wt = []

/-- R207, R231: every step keeps global memory and the weight tier in their one canonical form: addresses strictly rising and,
of the weight tier, no cell listed that reads as an unlisted one does. -/
def Obligations.StepKeepsMemoryWf : Prop :=
  ∀ s t : State, Memory.wf s.mem → Weights.wf s.wt → step s = Host.Outcome.next t → Memory.wf t.mem ∧ Weights.wf t.wt

/-- R246: the Voicer performs every write to the weight tier, at the request of a WPRG and of the Drone. An instruction word,
and every event but a Voicer's programming of a row, the making of a region and the writing of a row of a recovery image (row by
row: log 44), leaves the tier's cells as they were; and so does every step whose move is no such event. -/
def Obligations.WeightTierWriters : Prop :=
  (∀ (i : Instr) (s t : State), s.writesTier i = false → Sys2Proof.Machine.exec i s = Host.Outcome.next t → t.wt = s.wt) ∧
  ∀ s t : State,
    (∀ i, (s.agenda.head?).getD (Config.nextTurn s.fresh) = .event i → s.writesTier i = false) →
    step s = Host.Outcome.next t → t.wt = s.wt

/-- The frame of what regulates, arbitrates and counts beside the programs (R84, R106, R186, R244, R271, R420, R425, R428, R432,
R434 to R436): it changes no byte of global memory, no storage of a core, no cell of the weight tier, and no register of any
stream. -/
def Obligations.RegulationFrame : Prop :=
  ∀ (a b c n : Nat) (d : Domain) (h : Bool) (us : List Nat) (s t : State),
    ∀ i ∈ ([.breathPreposition a, .dataArrival a b c, .mergeGroupClose a b c, .launchBlocking a, .refresh a b c n,
        .stat a b c n n h, .swapLand a b c, .swapSignalArrival a b c, .valveResend a b, .yieldRequestPost a,
        .undervoltInterval a b c n, .undervoltUe a b us, .undervoltReenable a b, .updateLineMerge a, .bellowsGrant a b,
        .clockSwitch a b d, .sliceStart a] : List Instr),
      Sys2Proof.Machine.exec i s = Host.Outcome.next t → s.keepsMemory t ∧ s.keepsCores t ∧ t.wt = s.wt ∧
        (∀ u j r, (t.voice u j).st.getX r = (s.voice u j).st.getX r ∧ (t.voice u j).st.getP = (s.voice u j).st.getP) ∧
        ∀ u e j r, (t.ctx u e j).st.getX r = (s.ctx u e j).st.getX r
end

