-- ==== Sys2Proof/Laws/NMap.lean ====
section
/-! SUPPORT. Laws of sparse maps: a read after a write, and the canonical form, which every operation keeps. Laws of
little-endian byte strings. -/
namespace Sys2Proof.NMap

variable {α β : Type}

@[simp] theorem find_nil (k : Nat) : find ([] : NMap α) k = none := rfl
theorem find_cons (k' : Nat) (v : α) (t : NMap α) (k : Nat) :
    find ((k', v) :: t) k = if k' = k then some v else find t k := rfl

/-- A read after a write to the same key gives the value written. -/
@[simp] theorem find_put_self (m : NMap α) (k : Nat) (v : α) : (m.put k v).find k = some v := by
  induction m with
  | nil => simp [put, find]
  | cons c t ih =>
    obtain ⟨k', w⟩ := c
    by_cases h1 : k < k'
    · simp [put, h1, find]
    · by_cases h2 : k = k'
      · simp [put, h2, find]
      · have h3 : ¬ k' = k := fun h => h2 h.symm
        simp [put, h1, h2, h3, find, ih]

/-- A write leaves every other key alone. -/
theorem find_put_ne {m : NMap α} {k j : Nat} {v : α} (h : j ≠ k) : (m.put k v).find j = m.find j := by
  have hk : ¬ k = j := fun e => h e.symm
  induction m with
  | nil => simp [put, find, hk]
  | cons c t ih =>
    obtain ⟨k', w⟩ := c
    by_cases h1 : k < k'
    · simp [put, h1, find, hk]
    · by_cases h2 : k = k'
      · subst h2
        simp [put, find, hk]
      · rw [put, if_neg h1, if_neg h2, find_cons, find_cons, ih]

theorem find_put (m : NMap α) (k j : Nat) (v : α) : (m.put k v).find j = if j = k then some v else m.find j := by
  by_cases h : j = k
  · subst h; simp
  · simp [h, find_put_ne h]

/-- A filter on keys keeps what it lets through. -/
theorem find_filter_key (m : NMap α) (f : Nat → Bool) (k : Nat) :
    NMap.find (m.filter fun c => f c.1) k = if f k then m.find k else none := by
  induction m with
  | nil => simp
  | cons c t ih =>
    obtain ⟨k', v⟩ := c
    by_cases hf : f k'
    · by_cases h : k' = k
      · subst h; simp [List.filter, hf, find]
      · simp [List.filter, hf, find, h, ih]
    · by_cases h : k' = k
      · subst h; simp [List.filter, hf, ih]
      · simp [List.filter, hf, find, h, ih]

@[simp] theorem find_del_self (m : NMap α) (k : Nat) : (m.del k).find k = none := by
  unfold del
  simpa using find_filter_key m (fun j => j != k) k

theorem find_del_ne {m : NMap α} {k j : Nat} (h : j ≠ k) : (m.del k).find j = m.find j := by
  unfold del
  simpa [h] using find_filter_key m (fun j => j != k) j

@[simp] theorem getD_put_self (m : NMap α) (k : Nat) (v d : α) : (m.put k v).getD k d = v := by simp [NMap.getD]
theorem getD_put_ne {m : NMap α} {k j : Nat} {v d : α} (h : j ≠ k) : (m.put k v).getD j d = m.getD j d := by
  simp [NMap.getD, find_put_ne h]

/-- Writing the value an unlisted key reads removes the entry; either way the key then reads what was written. -/
@[simp] theorem getD_putD_self [DecidableEq α] (m : NMap α) (k : Nat) (v d : α) : (m.putD d k v).getD k d = v := by
  unfold putD
  by_cases h : v = d
  · subst h; simp [NMap.getD]
  · simp [h]
theorem getD_putD_ne [DecidableEq α] {m : NMap α} {k j : Nat} {v d : α} (h : j ≠ k) : (m.putD d k v).getD j d = m.getD j d := by
  unfold putD
  by_cases e : v = d
  · simp [e, NMap.getD, find_del_ne h]
  · simp [e, getD_put_ne h]

/-! The canonical form: keys strictly rising -/

theorem rising_iff (m : NMap α) : m.rising = true ↔ m.Pairwise fun a b => a.1 < b.1 := by
  induction m with
  | nil => simp [rising]
  | cons c t ih =>
    obtain ⟨k, v⟩ := c
    cases t with
    | nil => simp [rising]
    | cons c' t' =>
      obtain ⟨k', v'⟩ := c'
      rw [rising, Bool.and_eq_true, decide_eq_true_eq, ih, List.pairwise_cons (a := (k, v))]
      constructor
      · rintro ⟨h, hp⟩
        refine ⟨?_, hp⟩
        intro b hb
        rcases List.mem_cons.1 hb with rfl | hb'
        · exact h
        · exact Nat.lt_trans h ((List.pairwise_cons.1 hp).1 b hb')
      · rintro ⟨h, hp⟩
        exact ⟨h _ List.mem_cons_self, hp⟩

@[simp] theorem rising_nil : rising ([] : NMap α) = true := rfl

/-- A filter keeps the canonical form. -/
theorem rising_filter {m : NMap α} (f : Nat × α → Bool) (h : m.rising = true) : NMap.rising (m.filter f) = true := by
  rw [rising_iff] at h ⊢
  exact h.filter f

theorem rising_del {m : NMap α} (k : Nat) (h : m.rising = true) : (m.del k).rising = true := rising_filter _ h

theorem mem_put {m : NMap α} {k : Nat} {v : α} {c : Nat × α} (h : c ∈ m.put k v) : c = (k, v) ∨ c ∈ m := by
  induction m with
  | nil => simpa [put] using h
  | cons a t ih =>
    obtain ⟨k', w⟩ := a
    unfold put at h
    split at h
    · rcases List.mem_cons.1 h with h | h
      · exact .inl h
      · exact .inr h
    · split at h
      · rcases List.mem_cons.1 h with h | h
        · exact .inl h
        · exact .inr (List.mem_cons_of_mem _ h)
      · rcases List.mem_cons.1 h with h | h
        · exact .inr (h ▸ List.mem_cons_self)
        · rcases ih h with h | h
          · exact .inl h
          · exact .inr (List.mem_cons_of_mem _ h)

/-- A write keeps the canonical form. -/
theorem rising_put {m : NMap α} (k : Nat) (v : α) (h : m.rising = true) : (m.put k v).rising = true := by
  rw [rising_iff] at h ⊢
  induction m with
  | nil => simp [put]
  | cons a t ih =>
    obtain ⟨k', w⟩ := a
    obtain ⟨hlt, ht⟩ := List.pairwise_cons.1 h
    unfold put
    split
    · rename_i hk
      refine List.pairwise_cons.2 ⟨?_, h⟩
      intro b hb
      rcases List.mem_cons.1 hb with rfl | hb
      · exact hk
      · exact Nat.lt_trans hk (hlt b hb)
    · split
      · rename_i _ hk
        subst hk
        exact List.pairwise_cons.2 ⟨hlt, ht⟩
      · rename_i h1 h2
        refine List.pairwise_cons.2 ⟨?_, ih ht⟩
        intro b hb
        rcases mem_put hb with rfl | hb
        · show k' < k
          omega
        · exact hlt b hb

theorem rising_putD [DecidableEq α] {m : NMap α} (d : α) (k : Nat) (v : α) (h : m.rising = true) :
    (m.putD d k v).rising = true := by
  unfold putD
  split
  · exact rising_del k h
  · exact rising_put k v h

/-- A map over values keeps the canonical form. -/
theorem rising_map {m : NMap α} (f : Nat × α → Nat × β) (hf : ∀ c, (f c).1 = c.1) (h : m.rising = true) :
    NMap.rising (m.map f) = true := by
  rw [rising_iff] at h ⊢
  exact List.pairwise_map.2 (h.imp fun hab => by simpa [hf] using hab)

end Sys2Proof.NMap

namespace Sys2Proof

@[simp] theorem leBytes_length (v n : Nat) : (leBytes v n).length = n := by
  induction n generalizing v with
  | zero => rfl
  | succ n ih => simp [leBytes, ih]

/-- Bytes of a number, read back (R13). -/
theorem leNat_leBytes (v n : Nat) (h : v < 256 ^ n) : leNat (leBytes v n) = v := by
  induction n generalizing v with
  | zero => simp [leBytes, leNat] at *; omega
  | succ n ih =>
    have h1 : v / 256 < 256 ^ n := by
      rw [Nat.div_lt_iff_lt_mul (by norm_num)]
      simpa [pow_succ] using h
    simp only [leBytes, leNat, ih _ h1, BitVec.toNat_ofNat]
    omega

end Sys2Proof
end

