-- ==== Sys2Proof/Laws/Memory.lean ====
section
/-! SUPPORT. What each operation over global memory and the weight tier does: it keeps their canonical forms, a read after a
write gives what was written, and every other place reads as before. -/
namespace Sys2Proof.Machine
open Sys2Proof

/-! The canonical form of global memory -/

theorem claim_wf {s : State} (key pa : Nat) (h : Memory.wf s.mem) : Memory.wf (s.claim key pa).mem := by
  unfold State.claim
  split
  · exact h
  · exact NMap.rising_filter _ h
theorem writeSys_wf {s : State} (key pa : Nat) (b : Byte) (h : Memory.wf s.mem) : Memory.wf (s.writeSys key pa b).mem :=
  NMap.rising_put _ _ (claim_wf key pa h)
theorem writeAt_wf {s : State} (u scope key pa : Nat) (b : Byte) (h : Memory.wf s.mem) :
    Memory.wf (s.writeAt u scope key pa b).mem := by
  unfold State.writeAt
  split
  · exact writeSys_wf key pa b h
  · exact claim_wf key pa h
theorem writeList_wf {s : State} (u scope key : Nat) (l : List (Nat × Byte)) (h : Memory.wf s.mem) :
    Memory.wf (s.writeList u scope key l).mem := by
  induction l generalizing s with
  | nil => exact h
  | cons c t ih => exact ih (writeAt_wf u scope key c.1 c.2 h)
@[simp] theorem unpoison_mem (s : State) (pas : List Nat) : (s.unpoison pas).mem = s.mem := rfl
theorem land_wf {s : State} (u scope key : Nat) (l : List (Nat × Byte)) (h : Memory.wf s.mem) :
    Memory.wf (s.land u scope key l).mem := writeList_wf u scope key l h
theorem writeSysList_wf {s : State} (key : Nat) (l : List (Nat × Byte)) (h : Memory.wf s.mem) :
    Memory.wf (s.writeSysList key l).mem := by
  induction l generalizing s with
  | nil => exact h
  | cons c t ih => exact ih (writeSys_wf key c.1 c.2 h)
theorem landSys_wf {s : State} (key : Nat) (l : List (Nat × Byte)) (h : Memory.wf s.mem) : Memory.wf (s.landSys key l).mem :=
  writeSysList_wf key l h
theorem widenStep_wf (u S : Nat) (f : Nat → Bool) (acc : List NWrite × List Host.Cell) (w : NWrite) (h : Memory.wf acc.2) :
    Memory.wf (widenStep u S f acc w).2 := by
  unfold widenStep
  split
  · split
    · exact NMap.rising_put _ _ h
    · exact h
  · exact h
theorem widenAt_wf {s : State} (u S : Nat) (f : Nat → Bool) (h : Memory.wf s.mem) : Memory.wf (s.widenAt u S f).mem := by
  have key : ∀ (l : List NWrite) (acc : List NWrite × List Host.Cell), Memory.wf acc.2 →
      Memory.wf (l.foldl (widenStep u S f) acc).2 := by
    intro l
    induction l with
    | nil => exact fun acc ha => ha
    | cons w t ih => exact fun acc ha => ih _ (widenStep_wf u S f acc w ha)
  exact key s.narrow ([], s.mem) h
theorem widen_wf {s : State} (u S : Nat) (h : Memory.wf s.mem) : Memory.wf (s.widen u S).mem := widenAt_wf u S _ h
theorem commitList_wf {s : State} (u S key : Nat) (l : List SWrite) (h : Memory.wf s.mem) :
    Memory.wf (s.commitList u S key l).mem := by
  induction l generalizing s with
  | nil => exact h
  | cons c t ih => exact ih (writeAt_wf u _ key c.pa c.byte h)
@[simp] theorem dropVersion_mem (s : State) (u : Nat) : (s.dropVersion u).mem = s.mem := rfl
@[simp] theorem dropSnaps_mem (s : State) (pas : List Nat) : (s.dropSnaps pas).mem = s.mem := rfl
@[simp] theorem fire_mem (s : State) (ok : Nat → Nat → Bool) (pas : List Nat) : (s.fire ok pas).mem = s.mem := rfl
/-- A commit that ends no suspension keeps the canonical form. -/
theorem commit_wf {s t : State} (u S : Nat) (h : Memory.wf s.mem) (e : s.commit u S = .ok t) : Memory.wf t.mem := by
  unfold State.commit at e
  split at e
  · cases e
  · injection e with e
    subst e
    exact widen_wf u S (commitList_wf u S _ _ h)
theorem atomicWrite_wf {s : State} (u scope pa : Nat) (bs : List Byte) (h : Memory.wf s.mem) :
    Memory.wf (s.atomicWrite u scope pa bs).mem := land_wf u scope _ _ h
theorem engineWrite_wf {s : State} (u scope : Nat) (l : List (Nat × Byte)) (h : Memory.wf s.mem) :
    Memory.wf (s.engineWrite u scope l).mem := land_wf u scope _ _ h
theorem putBarrier_wf {s : State} (u scope pa : Nat) (b : Barrier) (h : Memory.wf s.mem) :
    Memory.wf (s.putBarrier u scope pa b).mem := atomicWrite_wf u _ pa _ h
theorem putSem_wf {s : State} (u scope pa : Nat) (v : Int) (h : Memory.wf s.mem) : Memory.wf (s.putSem u scope pa v).mem :=
  atomicWrite_wf u _ pa _ h

/-- What moves in a map keeps the canonical form. -/
theorem rising_moveRange {α : Type} {m : NMap α} (lo n dst : Nat) (h : m.rising = true) : (moveRange m lo n dst).rising = true := by
  have key : ∀ (l : List (Nat × α)) (a : NMap α), a.rising = true →
      NMap.rising (l.foldl (fun a c => NMap.put a (c.1 - lo + dst) c.2) a) = true := by
    intro l
    induction l with
    | nil => exact fun a ha => ha
    | cons c t ih => exact fun a ha => ih _ (NMap.rising_put _ _ ha)
  exact key _ _ (NMap.rising_filter _ h)

/-! The canonical form of the weight tier -/

theorem weights_putD {m : NMap Byte} (k : Nat) (v : Byte) (h : Weights.wf m) : Weights.wf (m.putD 0 k v) := by
  refine ⟨NMap.rising_putD _ _ _ h.1, ?_⟩
  unfold NMap.putD
  split
  · intro c hc
    exact h.2 c (List.mem_of_mem_filter hc)
  · rename_i hv
    intro c hc
    rcases NMap.mem_put hc with rfl | hc
    · exact hv
    · exact h.2 c hc
theorem weights_filter {m : NMap Byte} (f : Nat × Byte → Bool) (h : Weights.wf m) : Weights.wf (m.filter f) :=
  ⟨NMap.rising_filter _ h.1, fun c hc => h.2 c (List.mem_of_mem_filter hc)⟩
theorem putCells_wf {s : State} (l : List (Nat × Byte)) (h : Weights.wf s.wt) : Weights.wf (s.putCells l).wt := by
  have key : ∀ (l : List (Nat × Byte)) (m : NMap Byte), Weights.wf m →
      Weights.wf (l.foldl (fun m c => NMap.putD 0 m c.1 c.2) m) := by
    intro l
    induction l with
    | nil => exact fun m hm => hm
    | cons c t ih => exact fun m hm => ih _ (weights_putD c.1 c.2 hm)
  exact key l s.wt h

/-! Reads after writes -/

@[simp] theorem claim_mpoison (s : State) (key pa : Nat) : (s.claim key pa).mpoison = s.mpoison := by
  unfold State.claim; split <;> rfl
@[simp] theorem claim_fresh (s : State) (key pa : Nat) : (s.claim key pa).fresh = s.fresh := by
  unfold State.claim; split <;> rfl
@[simp] theorem claim_units (s : State) (key pa : Nat) : (s.claim key pa).units = s.units := by
  unfold State.claim; split <;> rfl
/-- A line that a write claims is under the writer's key. -/
theorem claim_keyOk (s : State) (key pa : Nat) : (s.claim key pa).keyOk key pa = true := by
  unfold State.claim
  split
  · assumption
  · simp [State.keyOk]
/-- A claim of one line leaves the key of every other line alone. -/
theorem claim_keyOk_ne (s : State) {key pa q : Nat} (k : Nat) (h : q / 128 ≠ pa / 128) :
    (s.claim key pa).keyOk k q = s.keyOk k q := by
  unfold State.claim
  split
  · rfl
  · simp [State.keyOk, NMap.find_put_ne h]

theorem findLast_filter_none {α : Type} (f g : α → Bool) (l : List α) (h : ∀ x ∈ l, g x = true → f x = false) :
    findLast f (l.filter g) = none := by
  induction l with
  | nil => rfl
  | cons a t ih =>
    have ih := ih fun x hx => h x (List.mem_cons_of_mem _ hx)
    by_cases hg : g a = true
    · have hf := h a List.mem_cons_self hg
      simp [List.filter, hg, findLast, ih, hf]
    · simp [List.filter, hg, ih]
theorem findLast_none {α : Type} (f : α → Bool) (l : List α) (h : ∀ x ∈ l, f x = false) : findLast f l = none := by
  induction l with
  | nil => rfl
  | cons a t ih => simp [findLast, ih fun x hx => h x (List.mem_cons_of_mem _ hx), h a List.mem_cons_self]
/-- The last of a list with one more. -/
theorem findLast_append {α : Type} (f : α → Bool) (l : List α) (a : α) :
    findLast f (l ++ [a]) = if f a = true then some a else findLast f l := by
  induction l with
  | nil => simp [findLast]
  | cons b t ih =>
    by_cases h : f a = true
    · rw [if_pos h] at ih ⊢
      simp only [List.cons_append, findLast, ih]
    · rw [if_neg h] at ih ⊢
      simp only [List.cons_append, findLast, ih]
/-- What a filter lets through stays the last. -/
theorem findLast_filter {α : Type} (f g : α → Bool) (l : List α) (h : ∀ x ∈ l, f x = true → g x = true) :
    findLast f (l.filter g) = findLast f l := by
  induction l with
  | nil => rfl
  | cons a t ih =>
    have ih := ih fun x hx => h x (List.mem_cons_of_mem _ hx)
    by_cases hg : g a = true
    · simp [List.filter, hg, findLast, ih]
    · have hf : f a = false := by
        by_contra hc
        exact hg (h a List.mem_cons_self (by simpa using hc))
      simp only [List.filter, hg, findLast, ih, hf]
      cases findLast f t <;> simp

/-- A write that all see is read by every agent under its key, but where the line is poisoned. -/
theorem writeSys_seen_self (s : State) (ag : Agent) (key pa : Nat) (b : Byte) (h : s.poisoned pa = false) :
    (s.writeSys key pa b).seen ag key pa = b := by
  have hk := claim_keyOk s key pa
  have hp : (s.writeSys key pa b).poisoned pa = false := by
    simpa [State.poisoned, State.writeSys] using h
  have hn : findLast (fun w => decide (w.pa = pa) && (s.writeSys key pa b).reaches w ag) (s.writeSys key pa b).narrow = none := by
    refine findLast_filter_none _ _ _ fun x _ hx => ?_
    have hx : x.pa ≠ pa := by simpa using hx
    simp only [hx, decide_false, Bool.false_and]
  have hk' : (s.writeSys key pa b).keyOk key pa = true := by simpa [State.writeSys, State.keyOk] using hk
  unfold State.seen
  rw [hp, hn]
  simp only [Bool.false_eq_true, if_false, State.memByte, hk', if_true]
  simp [State.writeSys]
/-- It leaves every byte of every other line alone. -/
theorem writeSys_seen_ne (s : State) (ag : Agent) {key pa q : Nat} (k : Nat) (b : Byte) (h : q / 128 ≠ pa / 128) :
    (s.writeSys key pa b).seen ag k q = s.seen ag k q := by
  have hq : q ≠ pa := fun e => h (by rw [e])
  have hr : ∀ w, (s.writeSys key pa b).reaches w ag = s.reaches w ag := by
    intro w
    have hu : ∀ u, (s.writeSys key pa b).unit u = s.unit u := fun u => by simp [State.unit, State.writeSys]
    cases ag <;> simp only [State.reaches, hu]
  have hc : (s.writeSys key pa b).keyOk k q = s.keyOk k q := by
    simpa [State.writeSys, State.keyOk] using claim_keyOk_ne s k h
  have hm : NMap.find (s.writeSys key pa b).mem q = NMap.find s.mem q := by
    show NMap.find (NMap.put (s.claim key pa).mem pa b) q = _
    rw [NMap.find_put_ne hq]
    unfold State.claim
    split
    · rfl
    · exact (NMap.find_filter_key s.mem (fun a => decide (a / 128 ≠ pa / 128)) q).trans (by simp [h])
  have hn : findLast (fun w => decide (w.pa = q) && (s.writeSys key pa b).reaches w ag) (s.writeSys key pa b).narrow =
      findLast (fun w => decide (w.pa = q) && s.reaches w ag) s.narrow := by
    simp only [hr]
    show findLast _ ((s.claim key pa).narrow.filter fun w => decide (w.pa ≠ pa)) = _
    rw [findLast_filter _ _ _ (by
      intro x _ hx
      simp only [Bool.and_eq_true, decide_eq_true_eq] at hx
      simp [hx.1, hq])]
    unfold State.claim
    split
    · rfl
    · refine findLast_filter _ _ _ ?_
      intro x _ hx
      simp only [Bool.and_eq_true, decide_eq_true_eq] at hx
      simpa [hx.1] using h
  unfold State.seen
  rw [hn]
  have hp : (s.writeSys key pa b).poisoned q = s.poisoned q := by simp [State.poisoned, State.writeSys]
  have hf : (s.writeSys key pa b).freeByte q = s.freeByte q := by simp [State.freeByte, State.writeSys]
  simp only [hp, hf, hc, State.memByte, hm]

/-- One more write in the coherence order. -/
theorem latest_append (s : State) (w : NWrite) (key q : Nat) :
    State.latest { s with narrow := s.narrow ++ [w] } key q =
      if w.pa = q then (if s.poisoned q then s.freeByte q else if s.keyOk key q then w.byte else s.freeByte q) else s.latest key q := by
  show (if s.poisoned q = true then s.freeByte q else match findLast (fun w => decide (w.pa = q)) (s.narrow ++ [w]) with
    | some w => if s.keyOk key q = true then w.byte else s.freeByte q
    | none => s.memByte key q) = _
  rw [findLast_append]
  by_cases h : w.pa = q
  · simp [h]
  · simp only [h, decide_false, Bool.false_eq_true, if_false]
    rfl

/-- A write at a scope is the last in the coherence order (R371). -/
theorem writeAt_latest_self (s : State) (u scope key pa : Nat) (b : Byte) (h : s.poisoned pa = false) :
    (s.writeAt u scope key pa b).latest key pa = b := by
  unfold State.writeAt
  split
  · have hk := claim_keyOk s key pa
    have hp : (s.writeSys key pa b).poisoned pa = false := by simpa [State.poisoned, State.writeSys] using h
    have hn : findLast (fun w => decide (w.pa = pa)) (s.writeSys key pa b).narrow = none := by
      unfold State.writeSys
      exact findLast_filter_none _ _ _ fun x _ hx => by simpa using hx
    have hk' : (s.writeSys key pa b).keyOk key pa = true := by simpa [State.writeSys, State.keyOk] using hk
    unfold State.latest
    rw [hp, hn]
    simp only [Bool.false_eq_true, if_false, State.memByte, hk', if_true]
    simp [State.writeSys]
  · rw [latest_append, if_pos rfl]
    have hp : (s.claim key pa).poisoned pa = false := by simpa [State.poisoned] using h
    simp [hp, claim_keyOk]
/-- It leaves every byte of every other line alone. -/
theorem writeAt_latest_ne (s : State) {key pa q : Nat} (u scope k : Nat) (b : Byte) (h : q / 128 ≠ pa / 128) :
    (s.writeAt u scope key pa b).latest k q = s.latest k q := by
  have hq : q ≠ pa := fun e => h (by rw [e])
  have hc := claim_keyOk_ne s (key := key) (pa := pa) k h
  have hm : NMap.find (s.claim key pa).mem q = NMap.find s.mem q := by
    unfold State.claim
    split
    · rfl
    · exact (NMap.find_filter_key s.mem (fun a => decide (a / 128 ≠ pa / 128)) q).trans (by simp [h])
  have hn : findLast (fun w => decide (w.pa = q)) (s.claim key pa).narrow = findLast (fun w => decide (w.pa = q)) s.narrow := by
    unfold State.claim
    split
    · rfl
    · refine findLast_filter _ _ _ ?_
      intro x _ hx
      simp only [decide_eq_true_eq] at hx
      simpa [hx] using h
  unfold State.writeAt
  split
  · have e1 : (s.writeSys key pa b).keyOk k q = s.keyOk k q := by simpa [State.writeSys, State.keyOk] using hc
    have e2 : NMap.find (s.writeSys key pa b).mem q = NMap.find s.mem q := by
      show NMap.find (NMap.put (s.claim key pa).mem pa b) q = _
      rw [NMap.find_put_ne hq, hm]
    have e3 : findLast (fun w => decide (w.pa = q)) (s.writeSys key pa b).narrow = findLast (fun w => decide (w.pa = q)) s.narrow := by
      show findLast _ ((s.claim key pa).narrow.filter fun w => decide (w.pa ≠ pa)) = _
      rw [findLast_filter _ _ _ (by
        intro x _ hx
        simp only [decide_eq_true_eq] at hx
        simp [hx, hq]), hn]
    have e4 : (s.writeSys key pa b).poisoned q = s.poisoned q := by simp [State.poisoned, State.writeSys]
    have e5 : (s.writeSys key pa b).freeByte q = s.freeByte q := by simp [State.freeByte, State.writeSys]
    unfold State.latest
    simp only [e1, e3, e4, e5, State.memByte, e2]
  · rw [latest_append, if_neg fun e => hq e.symm]
    simp only [State.latest, State.memByte, State.poisoned, State.freeByte, hn, claim_mpoison, claim_fresh, hc, hm]
    rfl

end Sys2Proof.Machine
end

