-- ==== Sys2Proof/Laws/PerInstr.lean ====
section
/-! SUPPORT. One family of statements for every constructor of `Instr`: its encoding fits in a word, so that nothing of it is lost
where the word is made (R129). -/
namespace Sys2Proof.Laws

/-- The fields of an instruction lie within the 32 bits of its word (R129, R133). -/
def Fits.Statement (i : Instr) : Prop := encodeNat i < 2 ^ 32

theorem Fits.nop (s : BitVec 1) : Fits.Statement (.nop s) := by
  have := s.isLt
  dsimp only [Fits.Statement, encodeNat]
  omega
theorem Fits.add (s : BitVec 1) (d a b : BitVec 6) : Fits.Statement (.add s d a b) := by
  have := s.isLt
  have := d.isLt
  have := a.isLt
  have := b.isLt
  dsimp only [Fits.Statement, encodeNat]
  omega
theorem Fits.sub (s : BitVec 1) (d a b : BitVec 6) : Fits.Statement (.sub s d a b) := by
  have := s.isLt
  have := d.isLt
  have := a.isLt
  have := b.isLt
  dsimp only [Fits.Statement, encodeNat]
  omega
theorem Fits.and (s : BitVec 1) (d a b : BitVec 6) : Fits.Statement (.and s d a b) := by
  have := s.isLt
  have := d.isLt
  have := a.isLt
  have := b.isLt
  dsimp only [Fits.Statement, encodeNat]
  omega
theorem Fits.or (s : BitVec 1) (d a b : BitVec 6) : Fits.Statement (.or s d a b) := by
  have := s.isLt
  have := d.isLt
  have := a.isLt
  have := b.isLt
  dsimp only [Fits.Statement, encodeNat]
  omega
theorem Fits.xor (s : BitVec 1) (d a b : BitVec 6) : Fits.Statement (.xor s d a b) := by
  have := s.isLt
  have := d.isLt
  have := a.isLt
  have := b.isLt
  dsimp only [Fits.Statement, encodeNat]
  omega
theorem Fits.shl (s : BitVec 1) (d a b : BitVec 6) : Fits.Statement (.shl s d a b) := by
  have := s.isLt
  have := d.isLt
  have := a.isLt
  have := b.isLt
  dsimp only [Fits.Statement, encodeNat]
  omega
theorem Fits.shr (s : BitVec 1) (d a b : BitVec 6) : Fits.Statement (.shr s d a b) := by
  have := s.isLt
  have := d.isLt
  have := a.isLt
  have := b.isLt
  dsimp only [Fits.Statement, encodeNat]
  omega
theorem Fits.sra (s : BitVec 1) (d a b : BitVec 6) : Fits.Statement (.sra s d a b) := by
  have := s.isLt
  have := d.isLt
  have := a.isLt
  have := b.isLt
  dsimp only [Fits.Statement, encodeNat]
  omega
theorem Fits.mul (s : BitVec 1) (d a b : BitVec 6) : Fits.Statement (.mul s d a b) := by
  have := s.isLt
  have := d.isLt
  have := a.isLt
  have := b.isLt
  dsimp only [Fits.Statement, encodeNat]
  omega
theorem Fits.mulh (s : BitVec 1) (d a b : BitVec 6) : Fits.Statement (.mulh s d a b) := by
  have := s.isLt
  have := d.isLt
  have := a.isLt
  have := b.isLt
  dsimp only [Fits.Statement, encodeNat]
  omega
theorem Fits.min (s : BitVec 1) (d a b : BitVec 6) : Fits.Statement (.min s d a b) := by
  have := s.isLt
  have := d.isLt
  have := a.isLt
  have := b.isLt
  dsimp only [Fits.Statement, encodeNat]
  omega
theorem Fits.max (s : BitVec 1) (d a b : BitVec 6) : Fits.Statement (.max s d a b) := by
  have := s.isLt
  have := d.isLt
  have := a.isLt
  have := b.isLt
  dsimp only [Fits.Statement, encodeNat]
  omega
theorem Fits.agen (s : BitVec 1) (d a b : BitVec 6) (h : BitVec 2) : Fits.Statement (.agen s d a b h) := by
  have := s.isLt
  have := d.isLt
  have := a.isLt
  have := b.isLt
  have := h.isLt
  dsimp only [Fits.Statement, encodeNat]
  omega
theorem Fits.addi (s : BitVec 1) (d a : BitVec 6) (i : BitVec 12) : Fits.Statement (.addi s d a i) := by
  have := s.isLt
  have := d.isLt
  have := a.isLt
  have := i.isLt
  dsimp only [Fits.Statement, encodeNat]
  omega
theorem Fits.andi (s : BitVec 1) (d a : BitVec 6) (i : BitVec 12) : Fits.Statement (.andi s d a i) := by
  have := s.isLt
  have := d.isLt
  have := a.isLt
  have := i.isLt
  dsimp only [Fits.Statement, encodeNat]
  omega
theorem Fits.ori (s : BitVec 1) (d a : BitVec 6) (i : BitVec 12) : Fits.Statement (.ori s d a i) := by
  have := s.isLt
  have := d.isLt
  have := a.isLt
  have := i.isLt
  dsimp only [Fits.Statement, encodeNat]
  omega
theorem Fits.xori (s : BitVec 1) (d a : BitVec 6) (i : BitVec 12) : Fits.Statement (.xori s d a i) := by
  have := s.isLt
  have := d.isLt
  have := a.isLt
  have := i.isLt
  dsimp only [Fits.Statement, encodeNat]
  omega
theorem Fits.shli (s : BitVec 1) (d a h : BitVec 6) : Fits.Statement (.shli s d a h) := by
  have := s.isLt
  have := d.isLt
  have := a.isLt
  have := h.isLt
  dsimp only [Fits.Statement, encodeNat]
  omega
theorem Fits.shri (s : BitVec 1) (d a h : BitVec 6) : Fits.Statement (.shri s d a h) := by
  have := s.isLt
  have := d.isLt
  have := a.isLt
  have := h.isLt
  dsimp only [Fits.Statement, encodeNat]
  omega
theorem Fits.srai (s : BitVec 1) (d a h : BitVec 6) : Fits.Statement (.srai s d a h) := by
  have := s.isLt
  have := d.isLt
  have := a.isLt
  have := h.isLt
  dsimp only [Fits.Statement, encodeNat]
  omega
theorem Fits.lui (s : BitVec 1) (d : BitVec 6) (i : BitVec 18) : Fits.Statement (.lui s d i) := by
  have := s.isLt
  have := d.isLt
  have := i.isLt
  dsimp only [Fits.Statement, encodeNat]
  omega
theorem Fits.cmp (s : BitVec 1) (p : BitVec 7) (a b : BitVec 6) (c : BitVec 3) : Fits.Statement (.cmp s p a b c) := by
  have := s.isLt
  have := p.isLt
  have := a.isLt
  have := b.isLt
  have := c.isLt
  dsimp only [Fits.Statement, encodeNat]
  omega
theorem Fits.cmpi (s : BitVec 1) (p : BitVec 7) (a i : BitVec 6) (c : BitVec 3) : Fits.Statement (.cmpi s p a i c) := by
  have := s.isLt
  have := p.isLt
  have := a.isLt
  have := i.isLt
  have := c.isLt
  dsimp only [Fits.Statement, encodeNat]
  omega
theorem Fits.plog (s : BitVec 1) (d a b : BitVec 7) (f : BitVec 3) : Fits.Statement (.plog s d a b f) := by
  have := s.isLt
  have := d.isLt
  have := a.isLt
  have := b.isLt
  have := f.isLt
  dsimp only [Fits.Statement, encodeNat]
  omega
theorem Fits.sel (s : BitVec 1) (d a b p : BitVec 6) : Fits.Statement (.sel s d a b p) := by
  have := s.isLt
  have := d.isLt
  have := a.isLt
  have := b.isLt
  have := p.isLt
  dsimp only [Fits.Statement, encodeNat]
  omega
theorem Fits.br (s : BitVec 1) (o : BitVec 24) : Fits.Statement (.br s o) := by
  have := s.isLt
  have := o.isLt
  dsimp only [Fits.Statement, encodeNat]
  omega
theorem Fits.brp (s : BitVec 1) (p : BitVec 7) (n : BitVec 1) (o : BitVec 16) : Fits.Statement (.brp s p n o) := by
  have := s.isLt
  have := p.isLt
  have := n.isLt
  have := o.isLt
  dsimp only [Fits.Statement, encodeNat]
  omega
theorem Fits.call (s : BitVec 1) (o : BitVec 24) : Fits.Statement (.call s o) := by
  have := s.isLt
  have := o.isLt
  dsimp only [Fits.Statement, encodeNat]
  omega
theorem Fits.jr (s : BitVec 1) (a : BitVec 6) : Fits.Statement (.jr s a) := by
  have := s.isLt
  have := a.isLt
  dsimp only [Fits.Statement, encodeNat]
  omega
theorem Fits.ret (s : BitVec 1) : Fits.Statement (.ret s) := by
  have := s.isLt
  dsimp only [Fits.Statement, encodeNat]
  omega
theorem Fits.loopImm (s : BitVec 1) (l : BitVec 2) (n : BitVec 13) (e : BitVec 8) : Fits.Statement (.loopImm s l n e) := by
  have := s.isLt
  have := l.isLt
  have := n.isLt
  have := e.isLt
  dsimp only [Fits.Statement, encodeNat]
  omega
theorem Fits.loopReg (s : BitVec 1) (l : BitVec 2) (r : BitVec 6) (e : BitVec 8) : Fits.Statement (.loopReg s l r e) := by
  have := s.isLt
  have := l.isLt
  have := r.isLt
  have := e.isLt
  dsimp only [Fits.Statement, encodeNat]
  omega
theorem Fits.loopxImm (s : BitVec 1) (l : BitVec 2) (n : BitVec 13) (e : BitVec 8) : Fits.Statement (.loopxImm s l n e) := by
  have := s.isLt
  have := l.isLt
  have := n.isLt
  have := e.isLt
  dsimp only [Fits.Statement, encodeNat]
  omega
theorem Fits.loopxReg (s : BitVec 1) (l : BitVec 2) (r : BitVec 6) (e : BitVec 8) : Fits.Statement (.loopxReg s l r e) := by
  have := s.isLt
  have := l.isLt
  have := r.isLt
  have := e.isLt
  dsimp only [Fits.Statement, encodeNat]
  omega
theorem Fits.lbrk (s : BitVec 1) (p : BitVec 7) (n : BitVec 1) (l : BitVec 2) : Fits.Statement (.lbrk s p n l) := by
  have := s.isLt
  have := p.isLt
  have := n.isLt
  have := l.isLt
  dsimp only [Fits.Statement, encodeNat]
  omega
theorem Fits.rep (s : BitVec 1) (c : BitVec 6) (d a b : BitVec 3) : Fits.Statement (.rep s c d a b) := by
  have := s.isLt
  have := c.isLt
  have := d.isLt
  have := a.isLt
  have := b.isLt
  dsimp only [Fits.Statement, encodeNat]
  omega
theorem Fits.mfs (s : BitVec 1) (d : BitVec 6) (i : BitVec 12) : Fits.Statement (.mfs s d i) := by
  have := s.isLt
  have := d.isLt
  have := i.isLt
  dsimp only [Fits.Statement, encodeNat]
  omega
theorem Fits.mts (s : BitVec 1) (a : BitVec 6) (i : BitVec 12) : Fits.Statement (.mts s a i) := by
  have := s.isLt
  have := a.isLt
  have := i.isLt
  dsimp only [Fits.Statement, encodeNat]
  omega
theorem Fits.halt (s : BitVec 1) : Fits.Statement (.halt s) := by
  have := s.isLt
  dsimp only [Fits.Statement, encodeNat]
  omega
theorem Fits.ld (s : BitVec 1) (d a : BitVec 6) (w : BitVec 2) (x : BitVec 1) (o : BitVec 9) : Fits.Statement (.ld s d a w x o) := by
  have := s.isLt
  have := d.isLt
  have := a.isLt
  have := w.isLt
  have := x.isLt
  have := o.isLt
  dsimp only [Fits.Statement, encodeNat]
  omega
theorem Fits.st (s : BitVec 1) (d a : BitVec 6) (w : BitVec 2) (o : BitVec 9) : Fits.Statement (.st s d a w o) := by
  have := s.isLt
  have := d.isLt
  have := a.isLt
  have := w.isLt
  have := o.isLt
  dsimp only [Fits.Statement, encodeNat]
  omega
theorem Fits.lds (s : BitVec 1) (d a : BitVec 6) (w : BitVec 2) (x : BitVec 1) (o : BitVec 9) : Fits.Statement (.lds s d a w x o) := by
  have := s.isLt
  have := d.isLt
  have := a.isLt
  have := w.isLt
  have := x.isLt
  have := o.isLt
  dsimp only [Fits.Statement, encodeNat]
  omega
theorem Fits.sts (s : BitVec 1) (d a : BitVec 6) (w : BitVec 2) (o : BitVec 9) : Fits.Statement (.sts s d a w o) := by
  have := s.isLt
  have := d.isLt
  have := a.isLt
  have := w.isLt
  have := o.isLt
  dsimp only [Fits.Statement, encodeNat]
  omega
theorem Fits.ldw (s : BitVec 1) (d a : BitVec 6) (w : BitVec 2) (x : BitVec 1) (o : BitVec 9) : Fits.Statement (.ldw s d a w x o) := by
  have := s.isLt
  have := d.isLt
  have := a.isLt
  have := w.isLt
  have := x.isLt
  have := o.isLt
  dsimp only [Fits.Statement, encodeNat]
  omega
theorem Fits.amo (s w : BitVec 1) (a b : BitVec 6) (f c : BitVec 3) : Fits.Statement (.amo s w a b f c) := by
  have := s.isLt
  have := w.isLt
  have := a.isLt
  have := b.isLt
  have := f.isLt
  have := c.isLt
  dsimp only [Fits.Statement, encodeNat]
  omega
theorem Fits.amr (s : BitVec 1) (d a b : BitVec 6) (f c : BitVec 3) : Fits.Statement (.amr s d a b f c) := by
  have := s.isLt
  have := d.isLt
  have := a.isLt
  have := b.isLt
  have := f.isLt
  have := c.isLt
  dsimp only [Fits.Statement, encodeNat]
  omega
theorem Fits.fadd (s : BitVec 1) (d a b : BitVec 6) (r : BitVec 2) (p : BitVec 1) : Fits.Statement (.fadd s d a b r p) := by
  have := s.isLt
  have := d.isLt
  have := a.isLt
  have := b.isLt
  have := r.isLt
  have := p.isLt
  dsimp only [Fits.Statement, encodeNat]
  omega
theorem Fits.fsub (s : BitVec 1) (d a b : BitVec 6) (r : BitVec 2) (p : BitVec 1) : Fits.Statement (.fsub s d a b r p) := by
  have := s.isLt
  have := d.isLt
  have := a.isLt
  have := b.isLt
  have := r.isLt
  have := p.isLt
  dsimp only [Fits.Statement, encodeNat]
  omega
theorem Fits.fmul (s : BitVec 1) (d a b : BitVec 6) (r : BitVec 2) (p : BitVec 1) : Fits.Statement (.fmul s d a b r p) := by
  have := s.isLt
  have := d.isLt
  have := a.isLt
  have := b.isLt
  have := r.isLt
  have := p.isLt
  dsimp only [Fits.Statement, encodeNat]
  omega
theorem Fits.ffma (s : BitVec 1) (d a b : BitVec 6) (r : BitVec 2) (p : BitVec 1) : Fits.Statement (.ffma s d a b r p) := by
  have := s.isLt
  have := d.isLt
  have := a.isLt
  have := b.isLt
  have := r.isLt
  have := p.isLt
  dsimp only [Fits.Statement, encodeNat]
  omega
theorem Fits.fmin (s : BitVec 1) (d a b : BitVec 6) (p : BitVec 1) : Fits.Statement (.fmin s d a b p) := by
  have := s.isLt
  have := d.isLt
  have := a.isLt
  have := b.isLt
  have := p.isLt
  dsimp only [Fits.Statement, encodeNat]
  omega
theorem Fits.fmax (s : BitVec 1) (d a b : BitVec 6) (p : BitVec 1) : Fits.Statement (.fmax s d a b p) := by
  have := s.isLt
  have := d.isLt
  have := a.isLt
  have := b.isLt
  have := p.isLt
  dsimp only [Fits.Statement, encodeNat]
  omega
theorem Fits.fsgn (s : BitVec 1) (d a b : BitVec 6) (m : BitVec 2) (p : BitVec 1) : Fits.Statement (.fsgn s d a b m p) := by
  have := s.isLt
  have := d.isLt
  have := a.isLt
  have := b.isLt
  have := m.isLt
  have := p.isLt
  dsimp only [Fits.Statement, encodeNat]
  omega
theorem Fits.fcmp (s : BitVec 1) (d : BitVec 7) (a b : BitVec 6) (c : BitVec 3) (p : BitVec 1) : Fits.Statement (.fcmp s d a b c p) := by
  have := s.isLt
  have := d.isLt
  have := a.isLt
  have := b.isLt
  have := c.isLt
  have := p.isLt
  dsimp only [Fits.Statement, encodeNat]
  omega
theorem Fits.fcvt (s : BitVec 1) (d a : BitVec 6) (r : BitVec 2) (t : BitVec 1) (f g : BitVec 3) : Fits.Statement (.fcvt s d a r t f g) := by
  have := s.isLt
  have := d.isLt
  have := a.isLt
  have := r.isLt
  have := t.isLt
  have := f.isLt
  have := g.isLt
  dsimp only [Fits.Statement, encodeNat]
  omega
theorem Fits.fsqs (s : BitVec 1) (d a : BitVec 6) : Fits.Statement (.fsqs s d a) := by
  have := s.isLt
  have := d.isLt
  have := a.isLt
  dsimp only [Fits.Statement, encodeNat]
  omega
theorem Fits.frcs (s : BitVec 1) (d a : BitVec 6) : Fits.Statement (.frcs s d a) := by
  have := s.isLt
  have := d.isLt
  have := a.isLt
  dsimp only [Fits.Statement, encodeNat]
  omega
theorem Fits.fcls (s : BitVec 1) (d a : BitVec 6) (p : BitVec 1) : Fits.Statement (.fcls s d a p) := by
  have := s.isLt
  have := d.isLt
  have := a.isLt
  have := p.isLt
  dsimp only [Fits.Statement, encodeNat]
  omega
theorem Fits.popc (s : BitVec 1) (d a : BitVec 6) : Fits.Statement (.popc s d a) := by
  have := s.isLt
  have := d.isLt
  have := a.isLt
  dsimp only [Fits.Statement, encodeNat]
  omega
theorem Fits.clz (s : BitVec 1) (d a : BitVec 6) : Fits.Statement (.clz s d a) := by
  have := s.isLt
  have := d.isLt
  have := a.isLt
  dsimp only [Fits.Statement, encodeNat]
  omega
theorem Fits.bext (s : BitVec 1) (d a b w : BitVec 6) : Fits.Statement (.bext s d a b w) := by
  have := s.isLt
  have := d.isLt
  have := a.isLt
  have := b.isLt
  have := w.isLt
  dsimp only [Fits.Statement, encodeNat]
  omega
theorem Fits.span (s : BitVec 1) (c : BitVec 3) : Fits.Statement (.span s c) := by
  have := s.isLt
  have := c.isLt
  dsimp only [Fits.Statement, encodeNat]
  omega
theorem Fits.fence (s : BitVec 1) (c : BitVec 3) : Fits.Statement (.fence s c) := by
  have := s.isLt
  have := c.isLt
  dsimp only [Fits.Statement, encodeNat]
  omega
theorem Fits.cflush (s : BitVec 1) (a : BitVec 6) (c : BitVec 3) : Fits.Statement (.cflush s a c) := by
  have := s.isLt
  have := a.isLt
  have := c.isLt
  dsimp only [Fits.Statement, encodeNat]
  omega
theorem Fits.bari (s : BitVec 1) (a b : BitVec 6) (c : BitVec 3) : Fits.Statement (.bari s a b c) := by
  have := s.isLt
  have := a.isLt
  have := b.isLt
  have := c.isLt
  dsimp only [Fits.Statement, encodeNat]
  omega
theorem Fits.bara (s : BitVec 1) (a : BitVec 6) : Fits.Statement (.bara s a) := by
  have := s.isLt
  have := a.isLt
  dsimp only [Fits.Statement, encodeNat]
  omega
theorem Fits.barw (s : BitVec 1) (a : BitVec 6) : Fits.Statement (.barw s a) := by
  have := s.isLt
  have := a.isLt
  dsimp only [Fits.Statement, encodeNat]
  omega
theorem Fits.mon (s : BitVec 1) (a : BitVec 6) : Fits.Statement (.mon s a) := by
  have := s.isLt
  have := a.isLt
  dsimp only [Fits.Statement, encodeNat]
  omega
theorem Fits.mwait (s : BitVec 1) (d a : BitVec 6) : Fits.Statement (.mwait s d a) := by
  have := s.isLt
  have := d.isLt
  have := a.isLt
  dsimp only [Fits.Statement, encodeNat]
  omega
theorem Fits.semw (s : BitVec 1) (a b : BitVec 6) (c : BitVec 3) : Fits.Statement (.semw s a b c) := by
  have := s.isLt
  have := a.isLt
  have := b.isLt
  have := c.isLt
  dsimp only [Fits.Statement, encodeNat]
  omega
theorem Fits.semp (s : BitVec 1) (a b : BitVec 6) (c : BitVec 3) : Fits.Statement (.semp s a b c) := by
  have := s.isLt
  have := a.isLt
  have := b.isLt
  have := c.isLt
  dsimp only [Fits.Statement, encodeNat]
  omega
theorem Fits.qpush (s : BitVec 1) (d a b : BitVec 6) : Fits.Statement (.qpush s d a b) := by
  have := s.isLt
  have := d.isLt
  have := a.isLt
  have := b.isLt
  dsimp only [Fits.Statement, encodeNat]
  omega
theorem Fits.qpop (s : BitVec 1) (d a b : BitVec 6) : Fits.Statement (.qpop s d a b) := by
  have := s.isLt
  have := d.isLt
  have := a.isLt
  have := b.isLt
  dsimp only [Fits.Statement, encodeNat]
  omega
theorem Fits.qtryPop (s : BitVec 1) (d a b : BitVec 6) : Fits.Statement (.qtryPop s d a b) := by
  have := s.isLt
  have := d.isLt
  have := a.isLt
  have := b.isLt
  dsimp only [Fits.Statement, encodeNat]
  omega
theorem Fits.qtryPush (s : BitVec 1) (d a b : BitVec 6) : Fits.Statement (.qtryPush s d a b) := by
  have := s.isLt
  have := d.isLt
  have := a.isLt
  have := b.isLt
  dsimp only [Fits.Statement, encodeNat]
  omega
theorem Fits.fork (s : BitVec 1) (c m v : BitVec 6) : Fits.Statement (.fork s c m v) := by
  have := s.isLt
  have := c.isLt
  have := m.isLt
  have := v.isLt
  dsimp only [Fits.Statement, encodeNat]
  omega
theorem Fits.rdv (s : BitVec 1) (e : BitVec 3) : Fits.Statement (.rdv s e) := by
  have := s.isLt
  have := e.isLt
  dsimp only [Fits.Statement, encodeNat]
  omega
theorem Fits.ekill (s : BitVec 1) (e : BitVec 3) : Fits.Statement (.ekill s e) := by
  have := s.isLt
  have := e.isLt
  dsimp only [Fits.Statement, encodeNat]
  omega
theorem Fits.yield (s : BitVec 1) : Fits.Statement (.yield s) := by
  have := s.isLt
  dsimp only [Fits.Statement, encodeNat]
  omega
theorem Fits.park (s : BitVec 1) : Fits.Statement (.park s) := by
  have := s.isLt
  dsimp only [Fits.Statement, encodeNat]
  omega
theorem Fits.parkUn (s : BitVec 1) (k : BitVec 2) : Fits.Statement (.parkUn s k) := by
  have := s.isLt
  have := k.isLt
  dsimp only [Fits.Statement, encodeNat]
  omega
theorem Fits.retire (s : BitVec 1) : Fits.Statement (.retire s) := by
  have := s.isLt
  dsimp only [Fits.Statement, encodeNat]
  omega
theorem Fits.cncl (s : BitVec 1) (d a : BitVec 6) (l : BitVec 2) : Fits.Statement (.cncl s d a l) := by
  have := s.isLt
  have := d.isLt
  have := a.isLt
  have := l.isLt
  dsimp only [Fits.Statement, encodeNat]
  omega
theorem Fits.cmplr (s : BitVec 1) (d a : BitVec 6) (l : BitVec 2) : Fits.Statement (.cmplr s d a l) := by
  have := s.isLt
  have := d.isLt
  have := a.isLt
  have := l.isLt
  dsimp only [Fits.Statement, encodeNat]
  omega
theorem Fits.brth (s : BitVec 1) (a b : BitVec 6) (n : BitVec 4) : Fits.Statement (.brth s a b n) := by
  have := s.isLt
  have := a.isLt
  have := b.isLt
  have := n.isLt
  dsimp only [Fits.Statement, encodeNat]
  omega
theorem Fits.acqp (s : BitVec 1) (a : BitVec 6) : Fits.Statement (.acqp s a) := by
  have := s.isLt
  have := a.isLt
  dsimp only [Fits.Statement, encodeNat]
  omega
theorem Fits.relp (s : BitVec 1) : Fits.Statement (.relp s) := by
  have := s.isLt
  dsimp only [Fits.Statement, encodeNat]
  omega
theorem Fits.clkd (s : BitVec 1) (a : BitVec 6) (l : BitVec 2) : Fits.Statement (.clkd s a l) := by
  have := s.isLt
  have := a.isLt
  have := l.isLt
  dsimp only [Fits.Statement, encodeNat]
  omega
theorem Fits.trap (s : BitVec 1) (i : BitVec 18) : Fits.Statement (.trap s i) := by
  have := s.isLt
  have := i.isLt
  dsimp only [Fits.Statement, encodeNat]
  omega
theorem Fits.tret (s : BitVec 1) : Fits.Statement (.tret s) := by
  have := s.isLt
  dsimp only [Fits.Statement, encodeNat]
  omega
theorem Fits.probe (s : BitVec 1) (d : BitVec 6) (w : BitVec 3) : Fits.Statement (.probe s d w) := by
  have := s.isLt
  have := d.isLt
  have := w.isLt
  dsimp only [Fits.Statement, encodeNat]
  omega
theorem Fits.mma (z : BitVec 4) (a w : BitVec 6) (p q d m t c : BitVec 1) (f : BitVec 2) : Fits.Statement (.mma z a w p q d m t c f) := by
  have := z.isLt
  have := a.isLt
  have := w.isLt
  have := p.isLt
  have := q.isLt
  have := d.isLt
  have := m.isLt
  have := t.isLt
  have := c.isLt
  have := f.isLt
  dsimp only [Fits.Statement, encodeNat]
  omega
theorem Fits.mmag (z : BitVec 4) (a w : BitVec 6) (p q t : BitVec 1) (f : BitVec 2) : Fits.Statement (.mmag z a w p q t f) := by
  have := z.isLt
  have := a.isLt
  have := w.isLt
  have := p.isLt
  have := q.isLt
  have := t.isLt
  have := f.isLt
  dsimp only [Fits.Statement, encodeNat]
  omega
theorem Fits.mfmt (b : BitVec 6) (r : BitVec 4) (s : BitVec 2) : Fits.Statement (.mfmt b r s) := by
  have := b.isLt
  have := r.isLt
  have := s.isLt
  dsimp only [Fits.Statement, encodeNat]
  omega
theorem Fits.mfmtTs (a b : BitVec 6) : Fits.Statement (.mfmtTs a b) := by
  have := a.isLt
  have := b.isLt
  dsimp only [Fits.Statement, encodeNat]
  omega
theorem Fits.mfsel (b : BitVec 4) (s : BitVec 2) : Fits.Statement (.mfsel b s) := by
  have := b.isLt
  have := s.isLt
  dsimp only [Fits.Statement, encodeNat]
  omega
theorem Fits.mzero (z : BitVec 4) (b : BitVec 6) : Fits.Statement (.mzero z b) := by
  have := z.isLt
  have := b.isLt
  dsimp only [Fits.Statement, encodeNat]
  omega
theorem Fits.mdcy (z : BitVec 4) (a b : BitVec 6) : Fits.Statement (.mdcy z a b) := by
  have := z.isLt
  have := a.isLt
  have := b.isLt
  dsimp only [Fits.Statement, encodeNat]
  omega
theorem Fits.mdcySet (z : BitVec 4) (a : BitVec 6) : Fits.Statement (.mdcySet z a) := by
  have := z.isLt
  have := a.isLt
  dsimp only [Fits.Statement, encodeNat]
  omega
theorem Fits.mdrn (z : BitVec 4) (a b : BitVec 6) (c i : BitVec 1) (f : BitVec 2) : Fits.Statement (.mdrn z a b c i f) := by
  have := z.isLt
  have := a.isLt
  have := b.isLt
  have := c.isLt
  have := i.isLt
  have := f.isLt
  dsimp only [Fits.Statement, encodeNat]
  omega
theorem Fits.mldz (z : BitVec 4) (a b : BitVec 6) : Fits.Statement (.mldz z a b) := by
  have := z.isLt
  have := a.isLt
  have := b.isLt
  dsimp only [Fits.Statement, encodeNat]
  omega
theorem Fits.mpref (a : BitVec 6) : Fits.Statement (.mpref a) := by
  have := a.isLt
  dsimp only [Fits.Statement, encodeNat]
  omega
theorem Fits.mprefW (a b : BitVec 6) : Fits.Statement (.mprefW a b) := by
  have := a.isLt
  have := b.isLt
  dsimp only [Fits.Statement, encodeNat]
  omega
theorem Fits.munp (a : BitVec 6) : Fits.Statement (.munp a) := by
  have := a.isLt
  dsimp only [Fits.Statement, encodeNat]
  omega
theorem Fits.mswp (b : BitVec 6) (n : BitVec 3) : Fits.Statement (.mswp b n) := by
  have := b.isLt
  have := n.isLt
  dsimp only [Fits.Statement, encodeNat]
  omega
theorem Fits.mbnk (a : BitVec 6) (n : BitVec 3) : Fits.Statement (.mbnk a n) := by
  have := a.isLt
  have := n.isLt
  dsimp only [Fits.Statement, encodeNat]
  omega
theorem Fits.mhold (b : BitVec 6) : Fits.Statement (.mhold b) := by
  have := b.isLt
  dsimp only [Fits.Statement, encodeNat]
  omega
theorem Fits.mholdRel : Fits.Statement (.mholdRel) := by
  dsimp only [Fits.Statement, encodeNat]
  omega
theorem Fits.mtrq (a b : BitVec 6) : Fits.Statement (.mtrq a b) := by
  have := a.isLt
  have := b.isLt
  dsimp only [Fits.Statement, encodeNat]
  omega
theorem Fits.msync (a : BitVec 6) (w : BitVec 1) (s : BitVec 3) : Fits.Statement (.msync a w s) := by
  have := a.isLt
  have := w.isLt
  have := s.isLt
  dsimp only [Fits.Statement, encodeNat]
  omega
theorem Fits.mstat (a : BitVec 6) : Fits.Statement (.mstat a) := by
  have := a.isLt
  dsimp only [Fits.Statement, encodeNat]
  omega
theorem Fits.mnop (n : BitVec 8) : Fits.Statement (.mnop n) := by
  have := n.isLt
  dsimp only [Fits.Statement, encodeNat]
  omega
theorem Fits.vshp (a : BitVec 5) : Fits.Statement (.vshp a) := by
  have := a.isLt
  dsimp only [Fits.Statement, encodeNat]
  omega
theorem Fits.vld (d a b m : BitVec 5) (z e : BitVec 1) : Fits.Statement (.vld d a b m z e) := by
  have := d.isLt
  have := a.isLt
  have := b.isLt
  have := m.isLt
  have := z.isLt
  have := e.isLt
  dsimp only [Fits.Statement, encodeNat]
  omega
theorem Fits.vst (s a b m : BitVec 5) (e : BitVec 1) : Fits.Statement (.vst s a b m e) := by
  have := s.isLt
  have := a.isLt
  have := b.isLt
  have := m.isLt
  have := e.isLt
  dsimp only [Fits.Statement, encodeNat]
  omega
theorem Fits.vldg (d a b m : BitVec 5) (z e : BitVec 1) : Fits.Statement (.vldg d a b m z e) := by
  have := d.isLt
  have := a.isLt
  have := b.isLt
  have := m.isLt
  have := z.isLt
  have := e.isLt
  dsimp only [Fits.Statement, encodeNat]
  omega
theorem Fits.vstg (s a b m : BitVec 5) (e : BitVec 1) : Fits.Statement (.vstg s a b m e) := by
  have := s.isLt
  have := a.isLt
  have := b.isLt
  have := m.isLt
  have := e.isLt
  dsimp only [Fits.Statement, encodeNat]
  omega
theorem Fits.vmov (d a m : BitVec 5) (z e : BitVec 1) : Fits.Statement (.vmov d a m z e) := by
  have := d.isLt
  have := a.isLt
  have := m.isLt
  have := z.isLt
  have := e.isLt
  dsimp only [Fits.Statement, encodeNat]
  omega
theorem Fits.vsplat (d a m : BitVec 5) (z e : BitVec 1) : Fits.Statement (.vsplat d a m z e) := by
  have := d.isLt
  have := a.isLt
  have := m.isLt
  have := z.isLt
  have := e.isLt
  dsimp only [Fits.Statement, encodeNat]
  omega
theorem Fits.viota (d m : BitVec 5) (k : BitVec 2) (z e : BitVec 1) : Fits.Statement (.viota d m k z e) := by
  have := d.isLt
  have := m.isLt
  have := k.isLt
  have := z.isLt
  have := e.isLt
  dsimp only [Fits.Statement, encodeNat]
  omega
theorem Fits.vfadd (d a b m : BitVec 5) (r : BitVec 2) (z e : BitVec 1) : Fits.Statement (.vfadd d a b m r z e) := by
  have := d.isLt
  have := a.isLt
  have := b.isLt
  have := m.isLt
  have := r.isLt
  have := z.isLt
  have := e.isLt
  dsimp only [Fits.Statement, encodeNat]
  omega
theorem Fits.vfsub (d a b m : BitVec 5) (r : BitVec 2) (z e : BitVec 1) : Fits.Statement (.vfsub d a b m r z e) := by
  have := d.isLt
  have := a.isLt
  have := b.isLt
  have := m.isLt
  have := r.isLt
  have := z.isLt
  have := e.isLt
  dsimp only [Fits.Statement, encodeNat]
  omega
theorem Fits.vfmul (d a b m : BitVec 5) (r : BitVec 2) (z e : BitVec 1) : Fits.Statement (.vfmul d a b m r z e) := by
  have := d.isLt
  have := a.isLt
  have := b.isLt
  have := m.isLt
  have := r.isLt
  have := z.isLt
  have := e.isLt
  dsimp only [Fits.Statement, encodeNat]
  omega
theorem Fits.vffma (d a b c : BitVec 5) (r : BitVec 2) : Fits.Statement (.vffma d a b c r) := by
  have := d.isLt
  have := a.isLt
  have := b.isLt
  have := c.isLt
  have := r.isLt
  dsimp only [Fits.Statement, encodeNat]
  omega
theorem Fits.vfmin (d a b m : BitVec 5) (z e : BitVec 1) : Fits.Statement (.vfmin d a b m z e) := by
  have := d.isLt
  have := a.isLt
  have := b.isLt
  have := m.isLt
  have := z.isLt
  have := e.isLt
  dsimp only [Fits.Statement, encodeNat]
  omega
theorem Fits.vfmax (d a b m : BitVec 5) (z e : BitVec 1) : Fits.Statement (.vfmax d a b m z e) := by
  have := d.isLt
  have := a.isLt
  have := b.isLt
  have := m.isLt
  have := z.isLt
  have := e.isLt
  dsimp only [Fits.Statement, encodeNat]
  omega
theorem Fits.vfabs (d a m : BitVec 5) (z e : BitVec 1) : Fits.Statement (.vfabs d a m z e) := by
  have := d.isLt
  have := a.isLt
  have := m.isLt
  have := z.isLt
  have := e.isLt
  dsimp only [Fits.Statement, encodeNat]
  omega
theorem Fits.vfneg (d a m : BitVec 5) (z e : BitVec 1) : Fits.Statement (.vfneg d a m z e) := by
  have := d.isLt
  have := a.isLt
  have := m.isLt
  have := z.isLt
  have := e.isLt
  dsimp only [Fits.Statement, encodeNat]
  omega
theorem Fits.vadd (d a b m : BitVec 5) (r s z e : BitVec 1) : Fits.Statement (.vadd d a b m r s z e) := by
  have := d.isLt
  have := a.isLt
  have := b.isLt
  have := m.isLt
  have := r.isLt
  have := s.isLt
  have := z.isLt
  have := e.isLt
  dsimp only [Fits.Statement, encodeNat]
  omega
theorem Fits.vsub (d a b m : BitVec 5) (r s z e : BitVec 1) : Fits.Statement (.vsub d a b m r s z e) := by
  have := d.isLt
  have := a.isLt
  have := b.isLt
  have := m.isLt
  have := r.isLt
  have := s.isLt
  have := z.isLt
  have := e.isLt
  dsimp only [Fits.Statement, encodeNat]
  omega
theorem Fits.vmul (d a b m : BitVec 5) (r z e : BitVec 1) : Fits.Statement (.vmul d a b m r z e) := by
  have := d.isLt
  have := a.isLt
  have := b.isLt
  have := m.isLt
  have := r.isLt
  have := z.isLt
  have := e.isLt
  dsimp only [Fits.Statement, encodeNat]
  omega
theorem Fits.vmin (d a b m : BitVec 5) (u z e : BitVec 1) : Fits.Statement (.vmin d a b m u z e) := by
  have := d.isLt
  have := a.isLt
  have := b.isLt
  have := m.isLt
  have := u.isLt
  have := z.isLt
  have := e.isLt
  dsimp only [Fits.Statement, encodeNat]
  omega
theorem Fits.vmax (d a b m : BitVec 5) (u z e : BitVec 1) : Fits.Statement (.vmax d a b m u z e) := by
  have := d.isLt
  have := a.isLt
  have := b.isLt
  have := m.isLt
  have := u.isLt
  have := z.isLt
  have := e.isLt
  dsimp only [Fits.Statement, encodeNat]
  omega
theorem Fits.vand (d a b m : BitVec 5) (z e : BitVec 1) : Fits.Statement (.vand d a b m z e) := by
  have := d.isLt
  have := a.isLt
  have := b.isLt
  have := m.isLt
  have := z.isLt
  have := e.isLt
  dsimp only [Fits.Statement, encodeNat]
  omega
theorem Fits.vor (d a b m : BitVec 5) (z e : BitVec 1) : Fits.Statement (.vor d a b m z e) := by
  have := d.isLt
  have := a.isLt
  have := b.isLt
  have := m.isLt
  have := z.isLt
  have := e.isLt
  dsimp only [Fits.Statement, encodeNat]
  omega
theorem Fits.vxor (d a b m : BitVec 5) (z e : BitVec 1) : Fits.Statement (.vxor d a b m z e) := by
  have := d.isLt
  have := a.isLt
  have := b.isLt
  have := m.isLt
  have := z.isLt
  have := e.isLt
  dsimp only [Fits.Statement, encodeNat]
  omega
theorem Fits.vshl (d a b m : BitVec 5) (z e : BitVec 1) : Fits.Statement (.vshl d a b m z e) := by
  have := d.isLt
  have := a.isLt
  have := b.isLt
  have := m.isLt
  have := z.isLt
  have := e.isLt
  dsimp only [Fits.Statement, encodeNat]
  omega
theorem Fits.vshr (d a b m : BitVec 5) (z e : BitVec 1) : Fits.Statement (.vshr d a b m z e) := by
  have := d.isLt
  have := a.isLt
  have := b.isLt
  have := m.isLt
  have := z.isLt
  have := e.isLt
  dsimp only [Fits.Statement, encodeNat]
  omega
theorem Fits.vsra (d a b m : BitVec 5) (z e : BitVec 1) : Fits.Statement (.vsra d a b m z e) := by
  have := d.isLt
  have := a.isLt
  have := b.isLt
  have := m.isLt
  have := z.isLt
  have := e.isLt
  dsimp only [Fits.Statement, encodeNat]
  omega
theorem Fits.vfcmp (d a b m : BitVec 5) (e : BitVec 1) (c : BitVec 3) : Fits.Statement (.vfcmp d a b m e c) := by
  have := d.isLt
  have := a.isLt
  have := b.isLt
  have := m.isLt
  have := e.isLt
  have := c.isLt
  dsimp only [Fits.Statement, encodeNat]
  omega
theorem Fits.vcmp (d a b m : BitVec 5) (e : BitVec 1) (c : BitVec 3) : Fits.Statement (.vcmp d a b m e c) := by
  have := d.isLt
  have := a.isLt
  have := b.isLt
  have := m.isLt
  have := e.isLt
  have := c.isLt
  dsimp only [Fits.Statement, encodeNat]
  omega
theorem Fits.vsel (d a b m : BitVec 5) : Fits.Statement (.vsel d a b m) := by
  have := d.isLt
  have := a.isLt
  have := b.isLt
  have := m.isLt
  dsimp only [Fits.Statement, encodeNat]
  omega
theorem Fits.mlog (d a b : BitVec 5) (f : BitVec 3) : Fits.Statement (.mlog d a b f) := by
  have := d.isLt
  have := a.isLt
  have := b.isLt
  have := f.isLt
  dsimp only [Fits.Statement, encodeNat]
  omega
theorem Fits.vrsqs (d a m : BitVec 5) (z e : BitVec 1) : Fits.Statement (.vrsqs d a m z e) := by
  have := d.isLt
  have := a.isLt
  have := m.isLt
  have := z.isLt
  have := e.isLt
  dsimp only [Fits.Statement, encodeNat]
  omega
theorem Fits.vrcps (d a m : BitVec 5) (z e : BitVec 1) : Fits.Statement (.vrcps d a m z e) := by
  have := d.isLt
  have := a.isLt
  have := m.isLt
  have := z.isLt
  have := e.isLt
  dsimp only [Fits.Statement, encodeNat]
  omega
theorem Fits.vexs (d a m : BitVec 5) (z e : BitVec 1) : Fits.Statement (.vexs d a m z e) := by
  have := d.isLt
  have := a.isLt
  have := m.isLt
  have := z.isLt
  have := e.isLt
  dsimp only [Fits.Statement, encodeNat]
  omega
theorem Fits.vlgs (d a m : BitVec 5) (z e : BitVec 1) : Fits.Statement (.vlgs d a m z e) := by
  have := d.isLt
  have := a.isLt
  have := m.isLt
  have := z.isLt
  have := e.isLt
  dsimp only [Fits.Statement, encodeNat]
  omega
theorem Fits.vred (d a : BitVec 5) (x : BitVec 2) (o : BitVec 3) (m : BitVec 5) (e : BitVec 1) : Fits.Statement (.vred d a x o m e) := by
  have := d.isLt
  have := a.isLt
  have := x.isLt
  have := o.isLt
  have := m.isLt
  have := e.isLt
  dsimp only [Fits.Statement, encodeNat]
  omega
theorem Fits.vscan (d a : BitVec 5) (x y : BitVec 1) (o : BitVec 3) (h : BitVec 5) : Fits.Statement (.vscan d a x y o h) := by
  have := d.isLt
  have := a.isLt
  have := x.isLt
  have := y.isLt
  have := o.isLt
  have := h.isLt
  dsimp only [Fits.Statement, encodeNat]
  omega
theorem Fits.vtrn (d a : BitVec 5) : Fits.Statement (.vtrn d a) := by
  have := d.isLt
  have := a.isLt
  dsimp only [Fits.Statement, encodeNat]
  omega
theorem Fits.vrot (d a b : BitVec 5) (x : BitVec 1) : Fits.Statement (.vrot d a b x) := by
  have := d.isLt
  have := a.isLt
  have := b.isLt
  have := x.isLt
  dsimp only [Fits.Statement, encodeNat]
  omega
theorem Fits.vperm (d a b : BitVec 5) (x : BitVec 1) : Fits.Statement (.vperm d a b x) := by
  have := d.isLt
  have := a.isLt
  have := b.isLt
  have := x.isLt
  dsimp only [Fits.Statement, encodeNat]
  omega
theorem Fits.vcvt (d a : BitVec 5) (s : BitVec 2) (m : BitVec 5) (f : BitVec 2) (z e : BitVec 1) : Fits.Statement (.vcvt d a s m f z e) := by
  have := d.isLt
  have := a.isLt
  have := s.isLt
  have := m.isLt
  have := f.isLt
  have := z.isLt
  have := e.isLt
  dsimp only [Fits.Statement, encodeNat]
  omega
theorem Fits.vqnt (d a b : BitVec 5) (f : BitVec 2) : Fits.Statement (.vqnt d a b f) := by
  have := d.isLt
  have := a.isLt
  have := b.isLt
  have := f.isLt
  dsimp only [Fits.Statement, encodeNat]
  omega
theorem Fits.vdqn (d a b : BitVec 5) (f : BitVec 2) : Fits.Statement (.vdqn d a b f) := by
  have := d.isLt
  have := a.isLt
  have := b.isLt
  have := f.isLt
  dsimp only [Fits.Statement, encodeNat]
  omega
theorem Fits.vrns (d a m : BitVec 5) (f z e : BitVec 1) : Fits.Statement (.vrns d a m f z e) := by
  have := d.isLt
  have := a.isLt
  have := m.isLt
  have := f.isLt
  have := z.isLt
  have := e.isLt
  dsimp only [Fits.Statement, encodeNat]
  omega
theorem Fits.vcrt (d a m : BitVec 5) (f z e : BitVec 1) : Fits.Statement (.vcrt d a m f z e) := by
  have := d.isLt
  have := a.isLt
  have := m.isLt
  have := f.isLt
  have := z.isLt
  have := e.isLt
  dsimp only [Fits.Statement, encodeNat]
  omega
theorem Fits.vacr (d z b : BitVec 5) : Fits.Statement (.vacr d z b) := by
  have := d.isLt
  have := z.isLt
  have := b.isLt
  dsimp only [Fits.Statement, encodeNat]
  omega
theorem Fits.vacw (s z b m : BitVec 5) (i n e : BitVec 1) : Fits.Statement (.vacw s z b m i n e) := by
  have := s.isLt
  have := z.isLt
  have := b.isLt
  have := m.isLt
  have := i.isLt
  have := n.isLt
  have := e.isLt
  dsimp only [Fits.Statement, encodeNat]
  omega
theorem Fits.cpy (d a b : BitVec 6) (c : BitVec 3) (n : BitVec 1) (k : BitVec 2) : Fits.Statement (.cpy d a b c n k) := by
  have := d.isLt
  have := a.isLt
  have := b.isLt
  have := c.isLt
  have := n.isLt
  have := k.isLt
  dsimp only [Fits.Statement, encodeNat]
  omega
theorem Fits.cpy2 (d a b : BitVec 6) (c : BitVec 3) (n : BitVec 1) (k : BitVec 2) : Fits.Statement (.cpy2 d a b c n k) := by
  have := d.isLt
  have := a.isLt
  have := b.isLt
  have := c.isLt
  have := n.isLt
  have := k.isLt
  dsimp only [Fits.Statement, encodeNat]
  omega
theorem Fits.cpyt (d a b : BitVec 6) (c : BitVec 3) (n : BitVec 1) (k : BitVec 2) : Fits.Statement (.cpyt d a b c n k) := by
  have := d.isLt
  have := a.isLt
  have := b.isLt
  have := c.isLt
  have := n.isLt
  have := k.isLt
  dsimp only [Fits.Statement, encodeNat]
  omega
theorem Fits.gth (d a b : BitVec 6) (c : BitVec 3) (n : BitVec 1) (k : BitVec 2) : Fits.Statement (.gth d a b c n k) := by
  have := d.isLt
  have := a.isLt
  have := b.isLt
  have := c.isLt
  have := n.isLt
  have := k.isLt
  dsimp only [Fits.Statement, encodeNat]
  omega
theorem Fits.sct (d a b : BitVec 6) (c : BitVec 3) (n : BitVec 1) (k : BitVec 2) : Fits.Statement (.sct d a b c n k) := by
  have := d.isLt
  have := a.isLt
  have := b.isLt
  have := c.isLt
  have := n.isLt
  have := k.isLt
  dsimp only [Fits.Statement, encodeNat]
  omega
theorem Fits.cpys (d a b : BitVec 6) (c : BitVec 3) (n : BitVec 1) (k : BitVec 2) : Fits.Statement (.cpys d a b c n k) := by
  have := d.isLt
  have := a.isLt
  have := b.isLt
  have := c.isLt
  have := n.isLt
  have := k.isLt
  dsimp only [Fits.Statement, encodeNat]
  omega
theorem Fits.pub (d a b : BitVec 6) (c : BitVec 3) (n : BitVec 1) (k : BitVec 2) : Fits.Statement (.pub d a b c n k) := by
  have := d.isLt
  have := a.isLt
  have := b.isLt
  have := c.isLt
  have := n.isLt
  have := k.isLt
  dsimp only [Fits.Statement, encodeNat]
  omega
theorem Fits.wprg (d a b : BitVec 6) (c : BitVec 3) (n : BitVec 1) (k : BitVec 2) : Fits.Statement (.wprg d a b c n k) := by
  have := d.isLt
  have := a.isLt
  have := b.isLt
  have := c.isLt
  have := n.isLt
  have := k.isLt
  dsimp only [Fits.Statement, encodeNat]
  omega
theorem Fits.wvfy (d a b : BitVec 6) (c : BitVec 3) (n : BitVec 1) (k : BitVec 2) : Fits.Statement (.wvfy d a b c n k) := by
  have := d.isLt
  have := a.isLt
  have := b.isLt
  have := c.isLt
  have := n.isLt
  have := k.isLt
  dsimp only [Fits.Statement, encodeNat]
  omega
theorem Fits.wdig (d a b : BitVec 6) (c : BitVec 3) (n : BitVec 1) (k : BitVec 2) : Fits.Statement (.wdig d a b c n k) := by
  have := d.isLt
  have := a.isLt
  have := b.isLt
  have := c.isLt
  have := n.isLt
  have := k.isLt
  dsimp only [Fits.Statement, encodeNat]
  omega
theorem Fits.cred (d a b : BitVec 6) (c : BitVec 3) (n : BitVec 1) (k : BitVec 2) : Fits.Statement (.cred d a b c n k) := by
  have := d.isLt
  have := a.isLt
  have := b.isLt
  have := c.isLt
  have := n.isLt
  have := k.isLt
  dsimp only [Fits.Statement, encodeNat]
  omega
theorem Fits.cag (d a b : BitVec 6) (c : BitVec 3) (n : BitVec 1) (k : BitVec 2) : Fits.Statement (.cag d a b c n k) := by
  have := d.isLt
  have := a.isLt
  have := b.isLt
  have := c.isLt
  have := n.isLt
  have := k.isLt
  dsimp only [Fits.Statement, encodeNat]
  omega
theorem Fits.cbct (d a b : BitVec 6) (c : BitVec 3) (n : BitVec 1) (k : BitVec 2) : Fits.Statement (.cbct d a b c n k) := by
  have := d.isLt
  have := a.isLt
  have := b.isLt
  have := c.isLt
  have := n.isLt
  have := k.isLt
  dsimp only [Fits.Statement, encodeNat]
  omega
theorem Fits.cwait (a : BitVec 6) : Fits.Statement (.cwait a) := by
  have := a.isLt
  dsimp only [Fits.Statement, encodeNat]
  omega
theorem Fits.csig (a : BitVec 6) (c : BitVec 3) : Fits.Statement (.csig a c) := by
  have := a.isLt
  have := c.isLt
  dsimp only [Fits.Statement, encodeNat]
  omega
theorem Fits.cfnc (c : BitVec 3) : Fits.Statement (.cfnc c) := by
  have := c.isLt
  dsimp only [Fits.Statement, encodeNat]
  omega
theorem Fits.cprq (d a : BitVec 6) : Fits.Statement (.cprq d a) := by
  have := d.isLt
  have := a.isLt
  dsimp only [Fits.Statement, encodeNat]
  omega
theorem Fits.jobopen (p : Packet) : Fits.Statement (.jobopen p) := by
  dsimp only [Fits.Statement, encodeNat]
  omega
theorem Fits.jobclose (p : Packet) : Fits.Statement (.jobclose p) := by
  dsimp only [Fits.Statement, encodeNat]
  omega
theorem Fits.phasedef (p : Packet) : Fits.Statement (.phasedef p) := by
  dsimp only [Fits.Statement, encodeNat]
  omega
theorem Fits.graphdef (p : Packet) : Fits.Statement (.graphdef p) := by
  dsimp only [Fits.Statement, encodeNat]
  omega
theorem Fits.launch (p : Packet) : Fits.Statement (.launch p) := by
  dsimp only [Fits.Statement, encodeNat]
  omega
theorem Fits.cancel (p : Packet) : Fits.Statement (.cancel p) := by
  dsimp only [Fits.Statement, encodeNat]
  omega
theorem Fits.slice (p : Packet) : Fits.Statement (.slice p) := by
  dsimp only [Fits.Statement, encodeNat]
  omega
theorem Fits.query (p : Packet) : Fits.Statement (.query p) := by
  dsimp only [Fits.Statement, encodeNat]
  omega
theorem Fits.launchAdmission (lid : Nat) : Fits.Statement (.launchAdmission lid) := by
  dsimp only [Fits.Statement, encodeNat]
  omega
theorem Fits.launchBlocking (lid : Nat) : Fits.Statement (.launchBlocking lid) := by
  dsimp only [Fits.Statement, encodeNat]
  omega
theorem Fits.sliceStart (die : Nat) : Fits.Statement (.sliceStart die) := by
  dsimp only [Fits.Statement, encodeNat]
  omega
theorem Fits.yieldRequestPost (u : Nat) : Fits.Statement (.yieldRequestPost u) := by
  dsimp only [Fits.Statement, encodeNat]
  omega
theorem Fits.unitStart (u : Nat) : Fits.Statement (.unitStart u) := by
  dsimp only [Fits.Statement, encodeNat]
  omega
theorem Fits.dwsSample (lid stg : Nat) : Fits.Statement (.dwsSample lid stg) := by
  dsimp only [Fits.Statement, encodeNat]
  omega
theorem Fits.thermalSample (die : Nat) (temps : List Nat) : Fits.Statement (.thermalSample die temps) := by
  dsimp only [Fits.Statement, encodeNat]
  omega
theorem Fits.stat (die zone opening flow inlet : Nat) (bad : Bool) : Fits.Statement (.stat die zone opening flow inlet bad) := by
  dsimp only [Fits.Statement, encodeNat]
  omega
theorem Fits.valveResend (die zone : Nat) : Fits.Statement (.valveResend die zone) := by
  dsimp only [Fits.Statement, encodeNat]
  omega
theorem Fits.migrationMove (die core : Nat) : Fits.Statement (.migrationMove die core) := by
  dsimp only [Fits.Statement, encodeNat]
  omega
theorem Fits.migrationAbandon (die core : Nat) : Fits.Statement (.migrationAbandon die core) := by
  dsimp only [Fits.Statement, encodeNat]
  omega
theorem Fits.offlineMove (die core : Nat) : Fits.Statement (.offlineMove die core) := by
  dsimp only [Fits.Statement, encodeNat]
  omega
theorem Fits.syncStall (u : Nat) : Fits.Statement (.syncStall u) := by
  dsimp only [Fits.Statement, encodeNat]
  omega
theorem Fits.swapOut (u : Nat) : Fits.Statement (.swapOut u) := by
  dsimp only [Fits.Statement, encodeNat]
  omega
theorem Fits.pready (m : XlatMsg) : Fits.Statement (.pready m) := by
  dsimp only [Fits.Statement, encodeNat]
  omega
theorem Fits.inval (m : XlatMsg) : Fits.Statement (.inval m) := by
  dsimp only [Fits.Statement, encodeNat]
  omega
theorem Fits.invack (die : Nat) : Fits.Statement (.invack die) := by
  dsimp only [Fits.Statement, encodeNat]
  omega
theorem Fits.engineIssue (die core : Nat) (e : Engine) : Fits.Statement (.engineIssue die core e) := by
  dsimp only [Fits.Statement, encodeNat]
  omega
theorem Fits.matrixCommandComplete (u j cn : Nat) : Fits.Statement (.matrixCommandComplete u j cn) := by
  dsimp only [Fits.Statement, encodeNat]
  omega
theorem Fits.vectorCommandComplete (u j : Nat) : Fits.Statement (.vectorCommandComplete u j) := by
  dsimp only [Fits.Statement, encodeNat]
  omega
theorem Fits.copyPieceLand (u j cn piece : Nat) : Fits.Statement (.copyPieceLand u j cn piece) := by
  dsimp only [Fits.Statement, encodeNat]
  omega
theorem Fits.copyCommandComplete (u j cn : Nat) : Fits.Statement (.copyCommandComplete u j cn) := by
  dsimp only [Fits.Statement, encodeNat]
  omega
theorem Fits.timedCommandStamp (u j : Nat) : Fits.Statement (.timedCommandStamp u j) := by
  dsimp only [Fits.Statement, encodeNat]
  omega
theorem Fits.mergeGroupClose (die core g : Nat) : Fits.Statement (.mergeGroupClose die core g) := by
  dsimp only [Fits.Statement, encodeNat]
  omega
theorem Fits.consortTimeout (u j : Nat) : Fits.Statement (.consortTimeout u j) := by
  dsimp only [Fits.Statement, encodeNat]
  omega
theorem Fits.missedPromise (u j cn : Nat) : Fits.Statement (.missedPromise u j cn) := by
  dsimp only [Fits.Statement, encodeNat]
  omega
theorem Fits.collectiveTimeout (u j cn : Nat) : Fits.Statement (.collectiveTimeout u j cn) := by
  dsimp only [Fits.Statement, encodeNat]
  omega
theorem Fits.swapBegin (u j : Nat) : Fits.Statement (.swapBegin u j) := by
  dsimp only [Fits.Statement, encodeNat]
  omega
theorem Fits.swapLand (die core : Nat) (region : Nat) : Fits.Statement (.swapLand die core region) := by
  dsimp only [Fits.Statement, encodeNat]
  omega
theorem Fits.globalHold (die core : Nat) (cause : HoldCause) : Fits.Statement (.globalHold die core cause) := by
  dsimp only [Fits.Statement, encodeNat]
  omega
theorem Fits.voicerRowProgram (u j cn : Nat) (row : Nat) (passes : Nat) : Fits.Statement (.voicerRowProgram u j cn row passes) := by
  dsimp only [Fits.Statement, encodeNat]
  omega
theorem Fits.voicerRowRewrite (w : RowWrite) : Fits.Statement (.voicerRowRewrite w) := by
  dsimp only [Fits.Statement, encodeNat]
  omega
theorem Fits.verticalBusRetire (die core bus : Nat) : Fits.Statement (.verticalBusRetire die core bus) := by
  dsimp only [Fits.Statement, encodeNat]
  omega
theorem Fits.correctedError (die : Nat) (w : Structure) (hours : Nat) (lost : Option Lost) : Fits.Statement (.correctedError die w hours lost) := by
  dsimp only [Fits.Statement, encodeNat]
  omega
theorem Fits.engineReset (die core : Nat) (e : Engine) (bad vregs : List (Nat × Nat)) (hours : Nat) : Fits.Statement (.engineReset die core e bad vregs hours) := by
  dsimp only [Fits.Statement, encodeNat]
  omega
theorem Fits.engineResetEnd (die core : Nat) (e : Engine) : Fits.Statement (.engineResetEnd die core e) := by
  dsimp only [Fits.Statement, encodeNat]
  omega
theorem Fits.undervoltInterval (die zone errs lastSecond : Nat) : Fits.Statement (.undervoltInterval die zone errs lastSecond) := by
  dsimp only [Fits.Statement, encodeNat]
  omega
theorem Fits.undervoltUe (die zone : Nat) (units : List Nat) : Fits.Statement (.undervoltUe die zone units) := by
  dsimp only [Fits.Statement, encodeNat]
  omega
theorem Fits.undervoltReenable (die zone : Nat) : Fits.Statement (.undervoltReenable die zone) := by
  dsimp only [Fits.Statement, encodeNat]
  omega
theorem Fits.refresh (die iface bank temp : Nat) : Fits.Statement (.refresh die iface bank temp) := by
  dsimp only [Fits.Statement, encodeNat]
  omega
theorem Fits.clockSwitch (die core : Nat) (dom : Domain) : Fits.Statement (.clockSwitch die core dom) := by
  dsimp only [Fits.Statement, encodeNat]
  omega
theorem Fits.bellowsGrant (die zone : Nat) : Fits.Statement (.bellowsGrant die zone) := by
  dsimp only [Fits.Statement, encodeNat]
  omega
theorem Fits.breathPreposition (u : Nat) : Fits.Statement (.breathPreposition u) := by
  dsimp only [Fits.Statement, encodeNat]
  omega
theorem Fits.contextSave (u : Nat) : Fits.Statement (.contextSave u) := by
  dsimp only [Fits.Statement, encodeNat]
  omega
theorem Fits.engineEventDelivery (u : Nat) : Fits.Statement (.engineEventDelivery u) := by
  dsimp only [Fits.Statement, encodeNat]
  omega
theorem Fits.unitFail (u : Nat) : Fits.Statement (.unitFail u) := by
  dsimp only [Fits.Statement, encodeNat]
  omega
theorem Fits.mwaitDeadline (u j : Nat) : Fits.Statement (.mwaitDeadline u j) := by
  dsimp only [Fits.Statement, encodeNat]
  omega
theorem Fits.cancelComplete (lid : Nat) : Fits.Statement (.cancelComplete lid) := by
  dsimp only [Fits.Statement, encodeNat]
  omega
theorem Fits.completionReport (lid : Nat) : Fits.Statement (.completionReport lid) := by
  dsimp only [Fits.Statement, encodeNat]
  omega
theorem Fits.done (level : Nat) (id : Nat) : Fits.Statement (.done level id) := by
  dsimp only [Fits.Statement, encodeNat]
  omega
theorem Fits.updateLineMerge (line : Nat) : Fits.Statement (.updateLineMerge line) := by
  dsimp only [Fits.Statement, encodeNat]
  omega
theorem Fits.hostWrite (pa : Nat) (bytes : List Byte) (key : Nat) : Fits.Statement (.hostWrite pa bytes key) := by
  dsimp only [Fits.Statement, encodeNat]
  omega
theorem Fits.ualinkReadRequest (die port : Nat) : Fits.Statement (.ualinkReadRequest die port) := by
  dsimp only [Fits.Statement, encodeNat]
  omega
theorem Fits.powerOnReset (x : Found) : Fits.Statement (.powerOnReset x) := by
  dsimp only [Fits.Statement, encodeNat]
  omega
theorem Fits.getVersion (die : Nat) : Fits.Statement (.getVersion die) := by
  dsimp only [Fits.Statement, encodeNat]
  omega
theorem Fits.getCapabilities (die : Nat) : Fits.Statement (.getCapabilities die) := by
  dsimp only [Fits.Statement, encodeNat]
  omega
theorem Fits.negotiateAlgorithms (die : Nat) : Fits.Statement (.negotiateAlgorithms die) := by
  dsimp only [Fits.Statement, encodeNat]
  omega
theorem Fits.getDigests (die : Nat) : Fits.Statement (.getDigests die) := by
  dsimp only [Fits.Statement, encodeNat]
  omega
theorem Fits.getCertificate (die slot : Nat) : Fits.Statement (.getCertificate die slot) := by
  dsimp only [Fits.Statement, encodeNat]
  omega
theorem Fits.challenge (die : Nat) (nonce : List Byte) : Fits.Statement (.challenge die nonce) := by
  dsimp only [Fits.Statement, encodeNat]
  omega
theorem Fits.getMeasurements (die index : Nat) : Fits.Statement (.getMeasurements die index) := by
  dsimp only [Fits.Statement, encodeNat]
  omega
theorem Fits.keyExchange (die : Nat) : Fits.Statement (.keyExchange die) := by
  dsimp only [Fits.Statement, encodeNat]
  omega
theorem Fits.finish (die : Nat) : Fits.Statement (.finish die) := by
  dsimp only [Fits.Statement, encodeNat]
  omega
theorem Fits.endSession (die : Nat) : Fits.Statement (.endSession die) := by
  dsimp only [Fits.Statement, encodeNat]
  omega
theorem Fits.keyset (die jobid keyid : Nat) (xts1 xts2 onDie : BitVec 128) : Fits.Statement (.keyset die jobid keyid xts1 xts2 onDie) := by
  dsimp only [Fits.Statement, encodeNat]
  omega
theorem Fits.keydel (die jobid : Nat) : Fits.Statement (.keydel die jobid) := by
  dsimp only [Fits.Statement, encodeNat]
  omega
theorem Fits.regmk (die : Nat) (r : RegionSpec) : Fits.Statement (.regmk die r) := by
  dsimp only [Fits.Statement, encodeNat]
  omega
theorem Fits.regdel (die name : Nat) : Fits.Statement (.regdel die name) := by
  dsimp only [Fits.Statement, encodeNat]
  omega
theorem Fits.reglist (die first count : Nat) : Fits.Statement (.reglist die first count) := by
  dsimp only [Fits.Statement, encodeNat]
  omega
theorem Fits.remeas (die name : Nat) : Fits.Statement (.remeas die name) := by
  dsimp only [Fits.Statement, encodeNat]
  omega
theorem Fits.cntrd (die : Nat) : Fits.Statement (.cntrd die) := by
  dsimp only [Fits.Statement, encodeNat]
  omega
theorem Fits.cfgset (die tt window : Nat) (undervolt : List Bool) : Fits.Statement (.cfgset die tt window undervolt) := by
  dsimp only [Fits.Statement, encodeNat]
  omega
theorem Fits.rcvdata (die off : Nat) (bytes : List Byte) (last : Bool) : Fits.Statement (.rcvdata die off bytes last) := by
  dsimp only [Fits.Statement, encodeNat]
  omega
theorem Fits.powerLoss : Fits.Statement (.powerLoss) := by
  dsimp only [Fits.Statement, encodeNat]
  omega
theorem Fits.swapSignalArrival (die core : Nat) (region : Nat) : Fits.Statement (.swapSignalArrival die core region) := by
  dsimp only [Fits.Statement, encodeNat]
  omega
theorem Fits.dataArrival (u j r : Nat) : Fits.Statement (.dataArrival u j r) := by
  dsimp only [Fits.Statement, encodeNat]
  omega
theorem Fits.holdingDieAnswer (u j : Nat) : Fits.Statement (.holdingDieAnswer u j) := by
  dsimp only [Fits.Statement, encodeNat]
  omega
theorem Fits.hostReadRequest (pa n key : Nat) : Fits.Statement (.hostReadRequest pa n key) := by
  dsimp only [Fits.Statement, encodeNat]
  omega

end Sys2Proof.Laws
end

