-- ==== Sys2Proof/Laws/State.lean ====
section
/-! SUPPORT. What each update of the state leaves alone, one lemma for a field and an update, and what reads of the updated
place give. -/
namespace Sys2Proof.Machine
open Sys2Proof

/-! `setUnit` -/
@[simp] theorem setUnit_form (s : State) (u : Nat) (t : TeamUnit) : (s.setUnit u t).form = s.form := rfl
@[simp] theorem setUnit_sel (s : State) (u : Nat) (t : TeamUnit) : (s.setUnit u t).sel = s.sel := rfl
@[simp] theorem setUnit_agenda (s : State) (u : Nat) (t : TeamUnit) : (s.setUnit u t).agenda = s.agenda := rfl
@[simp] theorem setUnit_fresh (s : State) (u : Nat) (t : TeamUnit) : (s.setUnit u t).fresh = s.fresh := rfl
@[simp] theorem setUnit_ir (s : State) (u : Nat) (t : TeamUnit) : (s.setUnit u t).ir = s.ir := rfl
@[simp] theorem setUnit_iw (s : State) (u : Nat) (t : TeamUnit) : (s.setUnit u t).iw = s.iw := rfl
@[simp] theorem setUnit_stopTrap (s : State) (u : Nat) (t : TeamUnit) : (s.setUnit u t).stopTrap = s.stopTrap := rfl
@[simp] theorem setUnit_resumed (s : State) (u : Nat) (t : TeamUnit) : (s.setUnit u t).resumed = s.resumed := rfl
@[simp] theorem setUnit_parks (s : State) (u : Nat) (t : TeamUnit) : (s.setUnit u t).parks = s.parks := rfl
@[simp] theorem setUnit_unparks (s : State) (u : Nat) (t : TeamUnit) : (s.setUnit u t).unparks = s.unparks := rfl
@[simp] theorem setUnit_bscope (s : State) (u : Nat) (t : TeamUnit) : (s.setUnit u t).bscope = s.bscope := rfl
@[simp] theorem setUnit_mem (s : State) (u : Nat) (t : TeamUnit) : (s.setUnit u t).mem = s.mem := rfl
@[simp] theorem setUnit_lineKey (s : State) (u : Nat) (t : TeamUnit) : (s.setUnit u t).lineKey = s.lineKey := rfl
@[simp] theorem setUnit_mpoison (s : State) (u : Nat) (t : TeamUnit) : (s.setUnit u t).mpoison = s.mpoison := rfl
@[simp] theorem setUnit_narrow (s : State) (u : Nat) (t : TeamUnit) : (s.setUnit u t).narrow = s.narrow := rfl
@[simp] theorem setUnit_sp (s : State) (u : Nat) (t : TeamUnit) : (s.setUnit u t).sp = s.sp := rfl
@[simp] theorem setUnit_acc (s : State) (u : Nat) (t : TeamUnit) : (s.setUnit u t).acc = s.acc := rfl
@[simp] theorem setUnit_tiles (s : State) (u : Nat) (t : TeamUnit) : (s.setUnit u t).tiles = s.tiles := rfl
@[simp] theorem setUnit_masks (s : State) (u : Nat) (t : TeamUnit) : (s.setUnit u t).masks = s.masks := rfl
@[simp] theorem setUnit_lan (s : State) (u : Nat) (t : TeamUnit) : (s.setUnit u t).lan = s.lan := rfl
@[simp] theorem setUnit_dsc (s : State) (u : Nat) (t : TeamUnit) : (s.setUnit u t).dsc = s.dsc := rfl
@[simp] theorem setUnit_wt (s : State) (u : Nat) (t : TeamUnit) : (s.setUnit u t).wt = s.wt := rfl
@[simp] theorem setUnit_wpoison (s : State) (u : Nat) (t : TeamUnit) : (s.setUnit u t).wpoison = s.wpoison := rfl
@[simp] theorem setUnit_wear (s : State) (u : Nat) (t : TeamUnit) : (s.setUnit u t).wear = s.wear := rfl
@[simp] theorem setUnit_remap (s : State) (u : Nat) (t : TeamUnit) : (s.setUnit u t).remap = s.remap := rfl
@[simp] theorem setUnit_unusable (s : State) (u : Nat) (t : TeamUnit) : (s.setUnit u t).unusable = s.unusable := rfl
@[simp] theorem setUnit_rtabs (s : State) (u : Nat) (t : TeamUnit) : (s.setUnit u t).rtabs = s.rtabs := rfl
@[simp] theorem setUnit_rdigest (s : State) (u : Nat) (t : TeamUnit) : (s.setUnit u t).rdigest = s.rdigest := rfl
@[simp] theorem setUnit_rcache (s : State) (u : Nat) (t : TeamUnit) : (s.setUnit u t).rcache = s.rcache := rfl
@[simp] theorem setUnit_rewrites (s : State) (u : Nat) (t : TeamUnit) : (s.setUnit u t).rewrites = s.rewrites := rfl
@[simp] theorem setUnit_regions (s : State) (u : Nat) (t : TeamUnit) : (s.setUnit u t).regions = s.regions := rfl
@[simp] theorem setUnit_barRel (s : State) (u : Nat) (t : TeamUnit) : (s.setUnit u t).barRel = s.barRel := rfl
@[simp] theorem setUnit_applied (s : State) (u : Nat) (t : TeamUnit) : (s.setUnit u t).applied = s.applied := rfl
@[simp] theorem setUnit_voices (s : State) (u : Nat) (t : TeamUnit) : (s.setUnit u t).voices = s.voices := rfl
@[simp] theorem setUnit_ctxs (s : State) (u : Nat) (t : TeamUnit) : (s.setUnit u t).ctxs = s.ctxs := rfl
@[simp] theorem setUnit_launches (s : State) (u : Nat) (t : TeamUnit) : (s.setUnit u t).launches = s.launches := rfl
@[simp] theorem setUnit_jobs (s : State) (u : Nat) (t : TeamUnit) : (s.setUnit u t).jobs = s.jobs := rfl
@[simp] theorem setUnit_keys (s : State) (u : Nat) (t : TeamUnit) : (s.setUnit u t).keys = s.keys := rfl
@[simp] theorem setUnit_pfaults (s : State) (u : Nat) (t : TeamUnit) : (s.setUnit u t).pfaults = s.pfaults := rfl
@[simp] theorem setUnit_graphs (s : State) (u : Nat) (t : TeamUnit) : (s.setUnit u t).graphs = s.graphs := rfl
@[simp] theorem setUnit_phases (s : State) (u : Nat) (t : TeamUnit) : (s.setUnit u t).phases = s.phases := rfl
@[simp] theorem setUnit_hjobs (s : State) (u : Nat) (t : TeamUnit) : (s.setUnit u t).hjobs = s.hjobs := rfl
@[simp] theorem setUnit_semq (s : State) (u : Nat) (t : TeamUnit) : (s.setUnit u t).semq = s.semq := rfl
@[simp] theorem setUnit_invals (s : State) (u : Nat) (t : TeamUnit) : (s.setUnit u t).invals = s.invals := rfl
@[simp] theorem setUnit_dies (s : State) (u : Nat) (t : TeamUnit) : (s.setUnit u t).dies = s.dies := rfl
@[simp] theorem setUnit_cores (s : State) (u : Nat) (t : TeamUnit) : (s.setUnit u t).cores = s.cores := rfl
@[simp] theorem setUnit_zones (s : State) (u : Nat) (t : TeamUnit) : (s.setUnit u t).zones = s.zones := rfl
@[simp] theorem setUnit_drones (s : State) (u : Nat) (t : TeamUnit) : (s.setUnit u t).drones = s.drones := rfl
@[simp] theorem setUnit_soft (s : State) (u : Nat) (t : TeamUnit) : (s.setUnit u t).soft = s.soft := rfl
@[simp] theorem setUnit_lasting (s : State) (u : Nat) (t : TeamUnit) : (s.setUnit u t).lasting = s.lasting := rfl
@[simp] theorem setUnit_nextUnit (s : State) (u : Nat) (t : TeamUnit) : (s.setUnit u t).nextUnit = s.nextUnit := rfl
@[simp] theorem setUnit_nextLaunch (s : State) (u : Nat) (t : TeamUnit) : (s.setUnit u t).nextLaunch = s.nextLaunch := rfl
@[simp] theorem setUnit_order (s : State) (u : Nat) (t : TeamUnit) : (s.setUnit u t).order = s.order := rfl
@[simp] theorem setUnit_xlatOut (s : State) (u : Nat) (t : TeamUnit) : (s.setUnit u t).xlatOut = s.xlatOut := rfl
@[simp] theorem setUnit_packets (s : State) (u : Nat) (t : TeamUnit) : (s.setUnit u t).packets = s.packets := rfl
@[simp] theorem setUnit_valves (s : State) (u : Nat) (t : TeamUnit) : (s.setUnit u t).valves = s.valves := rfl
@[simp] theorem setUnit_pump (s : State) (u : Nat) (t : TeamUnit) : (s.setUnit u t).pump = s.pump := rfl
@[simp] theorem setUnit_answers (s : State) (u : Nat) (t : TeamUnit) : (s.setUnit u t).answers = s.answers := rfl
@[simp] theorem setUnit_hostReads (s : State) (u : Nat) (t : TeamUnit) : (s.setUnit u t).hostReads = s.hostReads := rfl
@[simp] theorem setUnit_unsupported (s : State) (u : Nat) (t : TeamUnit) : (s.setUnit u t).unsupported = s.unsupported := rfl
@[simp] theorem setUnit_badFrames (s : State) (u : Nat) (t : TeamUnit) : (s.setUnit u t).badFrames = s.badFrames := rfl
@[simp] theorem setUnit_badLinks (s : State) (u : Nat) (t : TeamUnit) : (s.setUnit u t).badLinks = s.badLinks := rfl
@[simp] theorem setUnit_unreached (s : State) (u : Nat) (t : TeamUnit) : (s.setUnit u t).unreached = s.unreached := rfl
@[simp] theorem setUnit_badPorts (s : State) (u : Nat) (t : TeamUnit) : (s.setUnit u t).badPorts = s.badPorts := rfl

/-! `setVoice` -/
@[simp] theorem setVoice_form (s : State) (u j : Nat) (v : Voice) : (s.setVoice u j v).form = s.form := rfl
@[simp] theorem setVoice_sel (s : State) (u j : Nat) (v : Voice) : (s.setVoice u j v).sel = s.sel := rfl
@[simp] theorem setVoice_agenda (s : State) (u j : Nat) (v : Voice) : (s.setVoice u j v).agenda = s.agenda := rfl
@[simp] theorem setVoice_fresh (s : State) (u j : Nat) (v : Voice) : (s.setVoice u j v).fresh = s.fresh := rfl
@[simp] theorem setVoice_ir (s : State) (u j : Nat) (v : Voice) : (s.setVoice u j v).ir = s.ir := rfl
@[simp] theorem setVoice_iw (s : State) (u j : Nat) (v : Voice) : (s.setVoice u j v).iw = s.iw := rfl
@[simp] theorem setVoice_stopTrap (s : State) (u j : Nat) (v : Voice) : (s.setVoice u j v).stopTrap = s.stopTrap := rfl
@[simp] theorem setVoice_resumed (s : State) (u j : Nat) (v : Voice) : (s.setVoice u j v).resumed = s.resumed := rfl
@[simp] theorem setVoice_parks (s : State) (u j : Nat) (v : Voice) : (s.setVoice u j v).parks = s.parks := rfl
@[simp] theorem setVoice_unparks (s : State) (u j : Nat) (v : Voice) : (s.setVoice u j v).unparks = s.unparks := rfl
@[simp] theorem setVoice_bscope (s : State) (u j : Nat) (v : Voice) : (s.setVoice u j v).bscope = s.bscope := rfl
@[simp] theorem setVoice_mem (s : State) (u j : Nat) (v : Voice) : (s.setVoice u j v).mem = s.mem := rfl
@[simp] theorem setVoice_lineKey (s : State) (u j : Nat) (v : Voice) : (s.setVoice u j v).lineKey = s.lineKey := rfl
@[simp] theorem setVoice_mpoison (s : State) (u j : Nat) (v : Voice) : (s.setVoice u j v).mpoison = s.mpoison := rfl
@[simp] theorem setVoice_narrow (s : State) (u j : Nat) (v : Voice) : (s.setVoice u j v).narrow = s.narrow := rfl
@[simp] theorem setVoice_sp (s : State) (u j : Nat) (v : Voice) : (s.setVoice u j v).sp = s.sp := rfl
@[simp] theorem setVoice_acc (s : State) (u j : Nat) (v : Voice) : (s.setVoice u j v).acc = s.acc := rfl
@[simp] theorem setVoice_tiles (s : State) (u j : Nat) (v : Voice) : (s.setVoice u j v).tiles = s.tiles := rfl
@[simp] theorem setVoice_masks (s : State) (u j : Nat) (v : Voice) : (s.setVoice u j v).masks = s.masks := rfl
@[simp] theorem setVoice_lan (s : State) (u j : Nat) (v : Voice) : (s.setVoice u j v).lan = s.lan := rfl
@[simp] theorem setVoice_dsc (s : State) (u j : Nat) (v : Voice) : (s.setVoice u j v).dsc = s.dsc := rfl
@[simp] theorem setVoice_wt (s : State) (u j : Nat) (v : Voice) : (s.setVoice u j v).wt = s.wt := rfl
@[simp] theorem setVoice_wpoison (s : State) (u j : Nat) (v : Voice) : (s.setVoice u j v).wpoison = s.wpoison := rfl
@[simp] theorem setVoice_wear (s : State) (u j : Nat) (v : Voice) : (s.setVoice u j v).wear = s.wear := rfl
@[simp] theorem setVoice_remap (s : State) (u j : Nat) (v : Voice) : (s.setVoice u j v).remap = s.remap := rfl
@[simp] theorem setVoice_unusable (s : State) (u j : Nat) (v : Voice) : (s.setVoice u j v).unusable = s.unusable := rfl
@[simp] theorem setVoice_rtabs (s : State) (u j : Nat) (v : Voice) : (s.setVoice u j v).rtabs = s.rtabs := rfl
@[simp] theorem setVoice_rdigest (s : State) (u j : Nat) (v : Voice) : (s.setVoice u j v).rdigest = s.rdigest := rfl
@[simp] theorem setVoice_rcache (s : State) (u j : Nat) (v : Voice) : (s.setVoice u j v).rcache = s.rcache := rfl
@[simp] theorem setVoice_rewrites (s : State) (u j : Nat) (v : Voice) : (s.setVoice u j v).rewrites = s.rewrites := rfl
@[simp] theorem setVoice_regions (s : State) (u j : Nat) (v : Voice) : (s.setVoice u j v).regions = s.regions := rfl
@[simp] theorem setVoice_barRel (s : State) (u j : Nat) (v : Voice) : (s.setVoice u j v).barRel = s.barRel := rfl
@[simp] theorem setVoice_applied (s : State) (u j : Nat) (v : Voice) : (s.setVoice u j v).applied = s.applied := rfl
@[simp] theorem setVoice_units (s : State) (u j : Nat) (v : Voice) : (s.setVoice u j v).units = s.units := rfl
@[simp] theorem setVoice_ctxs (s : State) (u j : Nat) (v : Voice) : (s.setVoice u j v).ctxs = s.ctxs := rfl
@[simp] theorem setVoice_launches (s : State) (u j : Nat) (v : Voice) : (s.setVoice u j v).launches = s.launches := rfl
@[simp] theorem setVoice_jobs (s : State) (u j : Nat) (v : Voice) : (s.setVoice u j v).jobs = s.jobs := rfl
@[simp] theorem setVoice_keys (s : State) (u j : Nat) (v : Voice) : (s.setVoice u j v).keys = s.keys := rfl
@[simp] theorem setVoice_pfaults (s : State) (u j : Nat) (v : Voice) : (s.setVoice u j v).pfaults = s.pfaults := rfl
@[simp] theorem setVoice_graphs (s : State) (u j : Nat) (v : Voice) : (s.setVoice u j v).graphs = s.graphs := rfl
@[simp] theorem setVoice_phases (s : State) (u j : Nat) (v : Voice) : (s.setVoice u j v).phases = s.phases := rfl
@[simp] theorem setVoice_hjobs (s : State) (u j : Nat) (v : Voice) : (s.setVoice u j v).hjobs = s.hjobs := rfl
@[simp] theorem setVoice_semq (s : State) (u j : Nat) (v : Voice) : (s.setVoice u j v).semq = s.semq := rfl
@[simp] theorem setVoice_invals (s : State) (u j : Nat) (v : Voice) : (s.setVoice u j v).invals = s.invals := rfl
@[simp] theorem setVoice_dies (s : State) (u j : Nat) (v : Voice) : (s.setVoice u j v).dies = s.dies := rfl
@[simp] theorem setVoice_cores (s : State) (u j : Nat) (v : Voice) : (s.setVoice u j v).cores = s.cores := rfl
@[simp] theorem setVoice_zones (s : State) (u j : Nat) (v : Voice) : (s.setVoice u j v).zones = s.zones := rfl
@[simp] theorem setVoice_drones (s : State) (u j : Nat) (v : Voice) : (s.setVoice u j v).drones = s.drones := rfl
@[simp] theorem setVoice_soft (s : State) (u j : Nat) (v : Voice) : (s.setVoice u j v).soft = s.soft := rfl
@[simp] theorem setVoice_lasting (s : State) (u j : Nat) (v : Voice) : (s.setVoice u j v).lasting = s.lasting := rfl
@[simp] theorem setVoice_nextUnit (s : State) (u j : Nat) (v : Voice) : (s.setVoice u j v).nextUnit = s.nextUnit := rfl
@[simp] theorem setVoice_nextLaunch (s : State) (u j : Nat) (v : Voice) : (s.setVoice u j v).nextLaunch = s.nextLaunch := rfl
@[simp] theorem setVoice_order (s : State) (u j : Nat) (v : Voice) : (s.setVoice u j v).order = s.order := rfl
@[simp] theorem setVoice_xlatOut (s : State) (u j : Nat) (v : Voice) : (s.setVoice u j v).xlatOut = s.xlatOut := rfl
@[simp] theorem setVoice_packets (s : State) (u j : Nat) (v : Voice) : (s.setVoice u j v).packets = s.packets := rfl
@[simp] theorem setVoice_valves (s : State) (u j : Nat) (v : Voice) : (s.setVoice u j v).valves = s.valves := rfl
@[simp] theorem setVoice_pump (s : State) (u j : Nat) (v : Voice) : (s.setVoice u j v).pump = s.pump := rfl
@[simp] theorem setVoice_answers (s : State) (u j : Nat) (v : Voice) : (s.setVoice u j v).answers = s.answers := rfl
@[simp] theorem setVoice_hostReads (s : State) (u j : Nat) (v : Voice) : (s.setVoice u j v).hostReads = s.hostReads := rfl
@[simp] theorem setVoice_unsupported (s : State) (u j : Nat) (v : Voice) : (s.setVoice u j v).unsupported = s.unsupported := rfl
@[simp] theorem setVoice_badFrames (s : State) (u j : Nat) (v : Voice) : (s.setVoice u j v).badFrames = s.badFrames := rfl
@[simp] theorem setVoice_badLinks (s : State) (u j : Nat) (v : Voice) : (s.setVoice u j v).badLinks = s.badLinks := rfl
@[simp] theorem setVoice_unreached (s : State) (u j : Nat) (v : Voice) : (s.setVoice u j v).unreached = s.unreached := rfl
@[simp] theorem setVoice_badPorts (s : State) (u j : Nat) (v : Voice) : (s.setVoice u j v).badPorts = s.badPorts := rfl

/-! `setCtx` -/
@[simp] theorem setCtx_form (s : State) (u : Nat) (e : Engine) (j : Nat) (c : Ctx) : (s.setCtx u e j c).form = s.form := rfl
@[simp] theorem setCtx_sel (s : State) (u : Nat) (e : Engine) (j : Nat) (c : Ctx) : (s.setCtx u e j c).sel = s.sel := rfl
@[simp] theorem setCtx_agenda (s : State) (u : Nat) (e : Engine) (j : Nat) (c : Ctx) : (s.setCtx u e j c).agenda = s.agenda := rfl
@[simp] theorem setCtx_fresh (s : State) (u : Nat) (e : Engine) (j : Nat) (c : Ctx) : (s.setCtx u e j c).fresh = s.fresh := rfl
@[simp] theorem setCtx_ir (s : State) (u : Nat) (e : Engine) (j : Nat) (c : Ctx) : (s.setCtx u e j c).ir = s.ir := rfl
@[simp] theorem setCtx_iw (s : State) (u : Nat) (e : Engine) (j : Nat) (c : Ctx) : (s.setCtx u e j c).iw = s.iw := rfl
@[simp] theorem setCtx_stopTrap (s : State) (u : Nat) (e : Engine) (j : Nat) (c : Ctx) : (s.setCtx u e j c).stopTrap = s.stopTrap := rfl
@[simp] theorem setCtx_resumed (s : State) (u : Nat) (e : Engine) (j : Nat) (c : Ctx) : (s.setCtx u e j c).resumed = s.resumed := rfl
@[simp] theorem setCtx_parks (s : State) (u : Nat) (e : Engine) (j : Nat) (c : Ctx) : (s.setCtx u e j c).parks = s.parks := rfl
@[simp] theorem setCtx_unparks (s : State) (u : Nat) (e : Engine) (j : Nat) (c : Ctx) : (s.setCtx u e j c).unparks = s.unparks := rfl
@[simp] theorem setCtx_bscope (s : State) (u : Nat) (e : Engine) (j : Nat) (c : Ctx) : (s.setCtx u e j c).bscope = s.bscope := rfl
@[simp] theorem setCtx_mem (s : State) (u : Nat) (e : Engine) (j : Nat) (c : Ctx) : (s.setCtx u e j c).mem = s.mem := rfl
@[simp] theorem setCtx_lineKey (s : State) (u : Nat) (e : Engine) (j : Nat) (c : Ctx) : (s.setCtx u e j c).lineKey = s.lineKey := rfl
@[simp] theorem setCtx_mpoison (s : State) (u : Nat) (e : Engine) (j : Nat) (c : Ctx) : (s.setCtx u e j c).mpoison = s.mpoison := rfl
@[simp] theorem setCtx_narrow (s : State) (u : Nat) (e : Engine) (j : Nat) (c : Ctx) : (s.setCtx u e j c).narrow = s.narrow := rfl
@[simp] theorem setCtx_sp (s : State) (u : Nat) (e : Engine) (j : Nat) (c : Ctx) : (s.setCtx u e j c).sp = s.sp := rfl
@[simp] theorem setCtx_acc (s : State) (u : Nat) (e : Engine) (j : Nat) (c : Ctx) : (s.setCtx u e j c).acc = s.acc := rfl
@[simp] theorem setCtx_tiles (s : State) (u : Nat) (e : Engine) (j : Nat) (c : Ctx) : (s.setCtx u e j c).tiles = s.tiles := rfl
@[simp] theorem setCtx_masks (s : State) (u : Nat) (e : Engine) (j : Nat) (c : Ctx) : (s.setCtx u e j c).masks = s.masks := rfl
@[simp] theorem setCtx_lan (s : State) (u : Nat) (e : Engine) (j : Nat) (c : Ctx) : (s.setCtx u e j c).lan = s.lan := rfl
@[simp] theorem setCtx_dsc (s : State) (u : Nat) (e : Engine) (j : Nat) (c : Ctx) : (s.setCtx u e j c).dsc = s.dsc := rfl
@[simp] theorem setCtx_wt (s : State) (u : Nat) (e : Engine) (j : Nat) (c : Ctx) : (s.setCtx u e j c).wt = s.wt := rfl
@[simp] theorem setCtx_wpoison (s : State) (u : Nat) (e : Engine) (j : Nat) (c : Ctx) : (s.setCtx u e j c).wpoison = s.wpoison := rfl
@[simp] theorem setCtx_wear (s : State) (u : Nat) (e : Engine) (j : Nat) (c : Ctx) : (s.setCtx u e j c).wear = s.wear := rfl
@[simp] theorem setCtx_remap (s : State) (u : Nat) (e : Engine) (j : Nat) (c : Ctx) : (s.setCtx u e j c).remap = s.remap := rfl
@[simp] theorem setCtx_unusable (s : State) (u : Nat) (e : Engine) (j : Nat) (c : Ctx) : (s.setCtx u e j c).unusable = s.unusable := rfl
@[simp] theorem setCtx_rtabs (s : State) (u : Nat) (e : Engine) (j : Nat) (c : Ctx) : (s.setCtx u e j c).rtabs = s.rtabs := rfl
@[simp] theorem setCtx_rdigest (s : State) (u : Nat) (e : Engine) (j : Nat) (c : Ctx) : (s.setCtx u e j c).rdigest = s.rdigest := rfl
@[simp] theorem setCtx_rcache (s : State) (u : Nat) (e : Engine) (j : Nat) (c : Ctx) : (s.setCtx u e j c).rcache = s.rcache := rfl
@[simp] theorem setCtx_rewrites (s : State) (u : Nat) (e : Engine) (j : Nat) (c : Ctx) : (s.setCtx u e j c).rewrites = s.rewrites := rfl
@[simp] theorem setCtx_regions (s : State) (u : Nat) (e : Engine) (j : Nat) (c : Ctx) : (s.setCtx u e j c).regions = s.regions := rfl
@[simp] theorem setCtx_barRel (s : State) (u : Nat) (e : Engine) (j : Nat) (c : Ctx) : (s.setCtx u e j c).barRel = s.barRel := rfl
@[simp] theorem setCtx_applied (s : State) (u : Nat) (e : Engine) (j : Nat) (c : Ctx) : (s.setCtx u e j c).applied = s.applied := rfl
@[simp] theorem setCtx_units (s : State) (u : Nat) (e : Engine) (j : Nat) (c : Ctx) : (s.setCtx u e j c).units = s.units := rfl
@[simp] theorem setCtx_voices (s : State) (u : Nat) (e : Engine) (j : Nat) (c : Ctx) : (s.setCtx u e j c).voices = s.voices := rfl
@[simp] theorem setCtx_launches (s : State) (u : Nat) (e : Engine) (j : Nat) (c : Ctx) : (s.setCtx u e j c).launches = s.launches := rfl
@[simp] theorem setCtx_jobs (s : State) (u : Nat) (e : Engine) (j : Nat) (c : Ctx) : (s.setCtx u e j c).jobs = s.jobs := rfl
@[simp] theorem setCtx_keys (s : State) (u : Nat) (e : Engine) (j : Nat) (c : Ctx) : (s.setCtx u e j c).keys = s.keys := rfl
@[simp] theorem setCtx_pfaults (s : State) (u : Nat) (e : Engine) (j : Nat) (c : Ctx) : (s.setCtx u e j c).pfaults = s.pfaults := rfl
@[simp] theorem setCtx_graphs (s : State) (u : Nat) (e : Engine) (j : Nat) (c : Ctx) : (s.setCtx u e j c).graphs = s.graphs := rfl
@[simp] theorem setCtx_phases (s : State) (u : Nat) (e : Engine) (j : Nat) (c : Ctx) : (s.setCtx u e j c).phases = s.phases := rfl
@[simp] theorem setCtx_hjobs (s : State) (u : Nat) (e : Engine) (j : Nat) (c : Ctx) : (s.setCtx u e j c).hjobs = s.hjobs := rfl
@[simp] theorem setCtx_semq (s : State) (u : Nat) (e : Engine) (j : Nat) (c : Ctx) : (s.setCtx u e j c).semq = s.semq := rfl
@[simp] theorem setCtx_invals (s : State) (u : Nat) (e : Engine) (j : Nat) (c : Ctx) : (s.setCtx u e j c).invals = s.invals := rfl
@[simp] theorem setCtx_dies (s : State) (u : Nat) (e : Engine) (j : Nat) (c : Ctx) : (s.setCtx u e j c).dies = s.dies := rfl
@[simp] theorem setCtx_cores (s : State) (u : Nat) (e : Engine) (j : Nat) (c : Ctx) : (s.setCtx u e j c).cores = s.cores := rfl
@[simp] theorem setCtx_zones (s : State) (u : Nat) (e : Engine) (j : Nat) (c : Ctx) : (s.setCtx u e j c).zones = s.zones := rfl
@[simp] theorem setCtx_drones (s : State) (u : Nat) (e : Engine) (j : Nat) (c : Ctx) : (s.setCtx u e j c).drones = s.drones := rfl
@[simp] theorem setCtx_soft (s : State) (u : Nat) (e : Engine) (j : Nat) (c : Ctx) : (s.setCtx u e j c).soft = s.soft := rfl
@[simp] theorem setCtx_lasting (s : State) (u : Nat) (e : Engine) (j : Nat) (c : Ctx) : (s.setCtx u e j c).lasting = s.lasting := rfl
@[simp] theorem setCtx_nextUnit (s : State) (u : Nat) (e : Engine) (j : Nat) (c : Ctx) : (s.setCtx u e j c).nextUnit = s.nextUnit := rfl
@[simp] theorem setCtx_nextLaunch (s : State) (u : Nat) (e : Engine) (j : Nat) (c : Ctx) : (s.setCtx u e j c).nextLaunch = s.nextLaunch := rfl
@[simp] theorem setCtx_order (s : State) (u : Nat) (e : Engine) (j : Nat) (c : Ctx) : (s.setCtx u e j c).order = s.order := rfl
@[simp] theorem setCtx_xlatOut (s : State) (u : Nat) (e : Engine) (j : Nat) (c : Ctx) : (s.setCtx u e j c).xlatOut = s.xlatOut := rfl
@[simp] theorem setCtx_packets (s : State) (u : Nat) (e : Engine) (j : Nat) (c : Ctx) : (s.setCtx u e j c).packets = s.packets := rfl
@[simp] theorem setCtx_valves (s : State) (u : Nat) (e : Engine) (j : Nat) (c : Ctx) : (s.setCtx u e j c).valves = s.valves := rfl
@[simp] theorem setCtx_pump (s : State) (u : Nat) (e : Engine) (j : Nat) (c : Ctx) : (s.setCtx u e j c).pump = s.pump := rfl
@[simp] theorem setCtx_answers (s : State) (u : Nat) (e : Engine) (j : Nat) (c : Ctx) : (s.setCtx u e j c).answers = s.answers := rfl
@[simp] theorem setCtx_hostReads (s : State) (u : Nat) (e : Engine) (j : Nat) (c : Ctx) : (s.setCtx u e j c).hostReads = s.hostReads := rfl
@[simp] theorem setCtx_unsupported (s : State) (u : Nat) (e : Engine) (j : Nat) (c : Ctx) : (s.setCtx u e j c).unsupported = s.unsupported := rfl
@[simp] theorem setCtx_badFrames (s : State) (u : Nat) (e : Engine) (j : Nat) (c : Ctx) : (s.setCtx u e j c).badFrames = s.badFrames := rfl
@[simp] theorem setCtx_badLinks (s : State) (u : Nat) (e : Engine) (j : Nat) (c : Ctx) : (s.setCtx u e j c).badLinks = s.badLinks := rfl
@[simp] theorem setCtx_unreached (s : State) (u : Nat) (e : Engine) (j : Nat) (c : Ctx) : (s.setCtx u e j c).unreached = s.unreached := rfl
@[simp] theorem setCtx_badPorts (s : State) (u : Nat) (e : Engine) (j : Nat) (c : Ctx) : (s.setCtx u e j c).badPorts = s.badPorts := rfl

/-! `setDie` -/
@[simp] theorem setDie_form (s : State) (d : Nat) (x : Die) : (s.setDie d x).form = s.form := rfl
@[simp] theorem setDie_sel (s : State) (d : Nat) (x : Die) : (s.setDie d x).sel = s.sel := rfl
@[simp] theorem setDie_agenda (s : State) (d : Nat) (x : Die) : (s.setDie d x).agenda = s.agenda := rfl
@[simp] theorem setDie_fresh (s : State) (d : Nat) (x : Die) : (s.setDie d x).fresh = s.fresh := rfl
@[simp] theorem setDie_ir (s : State) (d : Nat) (x : Die) : (s.setDie d x).ir = s.ir := rfl
@[simp] theorem setDie_iw (s : State) (d : Nat) (x : Die) : (s.setDie d x).iw = s.iw := rfl
@[simp] theorem setDie_stopTrap (s : State) (d : Nat) (x : Die) : (s.setDie d x).stopTrap = s.stopTrap := rfl
@[simp] theorem setDie_resumed (s : State) (d : Nat) (x : Die) : (s.setDie d x).resumed = s.resumed := rfl
@[simp] theorem setDie_parks (s : State) (d : Nat) (x : Die) : (s.setDie d x).parks = s.parks := rfl
@[simp] theorem setDie_unparks (s : State) (d : Nat) (x : Die) : (s.setDie d x).unparks = s.unparks := rfl
@[simp] theorem setDie_bscope (s : State) (d : Nat) (x : Die) : (s.setDie d x).bscope = s.bscope := rfl
@[simp] theorem setDie_mem (s : State) (d : Nat) (x : Die) : (s.setDie d x).mem = s.mem := rfl
@[simp] theorem setDie_lineKey (s : State) (d : Nat) (x : Die) : (s.setDie d x).lineKey = s.lineKey := rfl
@[simp] theorem setDie_mpoison (s : State) (d : Nat) (x : Die) : (s.setDie d x).mpoison = s.mpoison := rfl
@[simp] theorem setDie_narrow (s : State) (d : Nat) (x : Die) : (s.setDie d x).narrow = s.narrow := rfl
@[simp] theorem setDie_sp (s : State) (d : Nat) (x : Die) : (s.setDie d x).sp = s.sp := rfl
@[simp] theorem setDie_acc (s : State) (d : Nat) (x : Die) : (s.setDie d x).acc = s.acc := rfl
@[simp] theorem setDie_tiles (s : State) (d : Nat) (x : Die) : (s.setDie d x).tiles = s.tiles := rfl
@[simp] theorem setDie_masks (s : State) (d : Nat) (x : Die) : (s.setDie d x).masks = s.masks := rfl
@[simp] theorem setDie_lan (s : State) (d : Nat) (x : Die) : (s.setDie d x).lan = s.lan := rfl
@[simp] theorem setDie_dsc (s : State) (d : Nat) (x : Die) : (s.setDie d x).dsc = s.dsc := rfl
@[simp] theorem setDie_wt (s : State) (d : Nat) (x : Die) : (s.setDie d x).wt = s.wt := rfl
@[simp] theorem setDie_wpoison (s : State) (d : Nat) (x : Die) : (s.setDie d x).wpoison = s.wpoison := rfl
@[simp] theorem setDie_wear (s : State) (d : Nat) (x : Die) : (s.setDie d x).wear = s.wear := rfl
@[simp] theorem setDie_remap (s : State) (d : Nat) (x : Die) : (s.setDie d x).remap = s.remap := rfl
@[simp] theorem setDie_unusable (s : State) (d : Nat) (x : Die) : (s.setDie d x).unusable = s.unusable := rfl
@[simp] theorem setDie_rtabs (s : State) (d : Nat) (x : Die) : (s.setDie d x).rtabs = s.rtabs := rfl
@[simp] theorem setDie_rdigest (s : State) (d : Nat) (x : Die) : (s.setDie d x).rdigest = s.rdigest := rfl
@[simp] theorem setDie_rcache (s : State) (d : Nat) (x : Die) : (s.setDie d x).rcache = s.rcache := rfl
@[simp] theorem setDie_rewrites (s : State) (d : Nat) (x : Die) : (s.setDie d x).rewrites = s.rewrites := rfl
@[simp] theorem setDie_regions (s : State) (d : Nat) (x : Die) : (s.setDie d x).regions = s.regions := rfl
@[simp] theorem setDie_barRel (s : State) (d : Nat) (x : Die) : (s.setDie d x).barRel = s.barRel := rfl
@[simp] theorem setDie_applied (s : State) (d : Nat) (x : Die) : (s.setDie d x).applied = s.applied := rfl
@[simp] theorem setDie_units (s : State) (d : Nat) (x : Die) : (s.setDie d x).units = s.units := rfl
@[simp] theorem setDie_voices (s : State) (d : Nat) (x : Die) : (s.setDie d x).voices = s.voices := rfl
@[simp] theorem setDie_ctxs (s : State) (d : Nat) (x : Die) : (s.setDie d x).ctxs = s.ctxs := rfl
@[simp] theorem setDie_launches (s : State) (d : Nat) (x : Die) : (s.setDie d x).launches = s.launches := rfl
@[simp] theorem setDie_jobs (s : State) (d : Nat) (x : Die) : (s.setDie d x).jobs = s.jobs := rfl
@[simp] theorem setDie_keys (s : State) (d : Nat) (x : Die) : (s.setDie d x).keys = s.keys := rfl
@[simp] theorem setDie_pfaults (s : State) (d : Nat) (x : Die) : (s.setDie d x).pfaults = s.pfaults := rfl
@[simp] theorem setDie_graphs (s : State) (d : Nat) (x : Die) : (s.setDie d x).graphs = s.graphs := rfl
@[simp] theorem setDie_phases (s : State) (d : Nat) (x : Die) : (s.setDie d x).phases = s.phases := rfl
@[simp] theorem setDie_hjobs (s : State) (d : Nat) (x : Die) : (s.setDie d x).hjobs = s.hjobs := rfl
@[simp] theorem setDie_semq (s : State) (d : Nat) (x : Die) : (s.setDie d x).semq = s.semq := rfl
@[simp] theorem setDie_invals (s : State) (d : Nat) (x : Die) : (s.setDie d x).invals = s.invals := rfl
@[simp] theorem setDie_cores (s : State) (d : Nat) (x : Die) : (s.setDie d x).cores = s.cores := rfl
@[simp] theorem setDie_zones (s : State) (d : Nat) (x : Die) : (s.setDie d x).zones = s.zones := rfl
@[simp] theorem setDie_drones (s : State) (d : Nat) (x : Die) : (s.setDie d x).drones = s.drones := rfl
@[simp] theorem setDie_soft (s : State) (d : Nat) (x : Die) : (s.setDie d x).soft = s.soft := rfl
@[simp] theorem setDie_lasting (s : State) (d : Nat) (x : Die) : (s.setDie d x).lasting = s.lasting := rfl
@[simp] theorem setDie_nextUnit (s : State) (d : Nat) (x : Die) : (s.setDie d x).nextUnit = s.nextUnit := rfl
@[simp] theorem setDie_nextLaunch (s : State) (d : Nat) (x : Die) : (s.setDie d x).nextLaunch = s.nextLaunch := rfl
@[simp] theorem setDie_order (s : State) (d : Nat) (x : Die) : (s.setDie d x).order = s.order := rfl
@[simp] theorem setDie_xlatOut (s : State) (d : Nat) (x : Die) : (s.setDie d x).xlatOut = s.xlatOut := rfl
@[simp] theorem setDie_packets (s : State) (d : Nat) (x : Die) : (s.setDie d x).packets = s.packets := rfl
@[simp] theorem setDie_valves (s : State) (d : Nat) (x : Die) : (s.setDie d x).valves = s.valves := rfl
@[simp] theorem setDie_pump (s : State) (d : Nat) (x : Die) : (s.setDie d x).pump = s.pump := rfl
@[simp] theorem setDie_answers (s : State) (d : Nat) (x : Die) : (s.setDie d x).answers = s.answers := rfl
@[simp] theorem setDie_hostReads (s : State) (d : Nat) (x : Die) : (s.setDie d x).hostReads = s.hostReads := rfl
@[simp] theorem setDie_unsupported (s : State) (d : Nat) (x : Die) : (s.setDie d x).unsupported = s.unsupported := rfl
@[simp] theorem setDie_badFrames (s : State) (d : Nat) (x : Die) : (s.setDie d x).badFrames = s.badFrames := rfl
@[simp] theorem setDie_badLinks (s : State) (d : Nat) (x : Die) : (s.setDie d x).badLinks = s.badLinks := rfl
@[simp] theorem setDie_unreached (s : State) (d : Nat) (x : Die) : (s.setDie d x).unreached = s.unreached := rfl
@[simp] theorem setDie_badPorts (s : State) (d : Nat) (x : Die) : (s.setDie d x).badPorts = s.badPorts := rfl

/-! `setCore` -/
@[simp] theorem setCore_form (s : State) (d p : Nat) (c : Core) : (s.setCore d p c).form = s.form := rfl
@[simp] theorem setCore_sel (s : State) (d p : Nat) (c : Core) : (s.setCore d p c).sel = s.sel := rfl
@[simp] theorem setCore_agenda (s : State) (d p : Nat) (c : Core) : (s.setCore d p c).agenda = s.agenda := rfl
@[simp] theorem setCore_fresh (s : State) (d p : Nat) (c : Core) : (s.setCore d p c).fresh = s.fresh := rfl
@[simp] theorem setCore_ir (s : State) (d p : Nat) (c : Core) : (s.setCore d p c).ir = s.ir := rfl
@[simp] theorem setCore_iw (s : State) (d p : Nat) (c : Core) : (s.setCore d p c).iw = s.iw := rfl
@[simp] theorem setCore_stopTrap (s : State) (d p : Nat) (c : Core) : (s.setCore d p c).stopTrap = s.stopTrap := rfl
@[simp] theorem setCore_resumed (s : State) (d p : Nat) (c : Core) : (s.setCore d p c).resumed = s.resumed := rfl
@[simp] theorem setCore_parks (s : State) (d p : Nat) (c : Core) : (s.setCore d p c).parks = s.parks := rfl
@[simp] theorem setCore_unparks (s : State) (d p : Nat) (c : Core) : (s.setCore d p c).unparks = s.unparks := rfl
@[simp] theorem setCore_bscope (s : State) (d p : Nat) (c : Core) : (s.setCore d p c).bscope = s.bscope := rfl
@[simp] theorem setCore_mem (s : State) (d p : Nat) (c : Core) : (s.setCore d p c).mem = s.mem := rfl
@[simp] theorem setCore_lineKey (s : State) (d p : Nat) (c : Core) : (s.setCore d p c).lineKey = s.lineKey := rfl
@[simp] theorem setCore_mpoison (s : State) (d p : Nat) (c : Core) : (s.setCore d p c).mpoison = s.mpoison := rfl
@[simp] theorem setCore_narrow (s : State) (d p : Nat) (c : Core) : (s.setCore d p c).narrow = s.narrow := rfl
@[simp] theorem setCore_sp (s : State) (d p : Nat) (c : Core) : (s.setCore d p c).sp = s.sp := rfl
@[simp] theorem setCore_acc (s : State) (d p : Nat) (c : Core) : (s.setCore d p c).acc = s.acc := rfl
@[simp] theorem setCore_tiles (s : State) (d p : Nat) (c : Core) : (s.setCore d p c).tiles = s.tiles := rfl
@[simp] theorem setCore_masks (s : State) (d p : Nat) (c : Core) : (s.setCore d p c).masks = s.masks := rfl
@[simp] theorem setCore_lan (s : State) (d p : Nat) (c : Core) : (s.setCore d p c).lan = s.lan := rfl
@[simp] theorem setCore_dsc (s : State) (d p : Nat) (c : Core) : (s.setCore d p c).dsc = s.dsc := rfl
@[simp] theorem setCore_wt (s : State) (d p : Nat) (c : Core) : (s.setCore d p c).wt = s.wt := rfl
@[simp] theorem setCore_wpoison (s : State) (d p : Nat) (c : Core) : (s.setCore d p c).wpoison = s.wpoison := rfl
@[simp] theorem setCore_wear (s : State) (d p : Nat) (c : Core) : (s.setCore d p c).wear = s.wear := rfl
@[simp] theorem setCore_remap (s : State) (d p : Nat) (c : Core) : (s.setCore d p c).remap = s.remap := rfl
@[simp] theorem setCore_unusable (s : State) (d p : Nat) (c : Core) : (s.setCore d p c).unusable = s.unusable := rfl
@[simp] theorem setCore_rtabs (s : State) (d p : Nat) (c : Core) : (s.setCore d p c).rtabs = s.rtabs := rfl
@[simp] theorem setCore_rdigest (s : State) (d p : Nat) (c : Core) : (s.setCore d p c).rdigest = s.rdigest := rfl
@[simp] theorem setCore_rcache (s : State) (d p : Nat) (c : Core) : (s.setCore d p c).rcache = s.rcache := rfl
@[simp] theorem setCore_rewrites (s : State) (d p : Nat) (c : Core) : (s.setCore d p c).rewrites = s.rewrites := rfl
@[simp] theorem setCore_regions (s : State) (d p : Nat) (c : Core) : (s.setCore d p c).regions = s.regions := rfl
@[simp] theorem setCore_barRel (s : State) (d p : Nat) (c : Core) : (s.setCore d p c).barRel = s.barRel := rfl
@[simp] theorem setCore_applied (s : State) (d p : Nat) (c : Core) : (s.setCore d p c).applied = s.applied := rfl
@[simp] theorem setCore_units (s : State) (d p : Nat) (c : Core) : (s.setCore d p c).units = s.units := rfl
@[simp] theorem setCore_voices (s : State) (d p : Nat) (c : Core) : (s.setCore d p c).voices = s.voices := rfl
@[simp] theorem setCore_ctxs (s : State) (d p : Nat) (c : Core) : (s.setCore d p c).ctxs = s.ctxs := rfl
@[simp] theorem setCore_launches (s : State) (d p : Nat) (c : Core) : (s.setCore d p c).launches = s.launches := rfl
@[simp] theorem setCore_jobs (s : State) (d p : Nat) (c : Core) : (s.setCore d p c).jobs = s.jobs := rfl
@[simp] theorem setCore_keys (s : State) (d p : Nat) (c : Core) : (s.setCore d p c).keys = s.keys := rfl
@[simp] theorem setCore_pfaults (s : State) (d p : Nat) (c : Core) : (s.setCore d p c).pfaults = s.pfaults := rfl
@[simp] theorem setCore_graphs (s : State) (d p : Nat) (c : Core) : (s.setCore d p c).graphs = s.graphs := rfl
@[simp] theorem setCore_phases (s : State) (d p : Nat) (c : Core) : (s.setCore d p c).phases = s.phases := rfl
@[simp] theorem setCore_hjobs (s : State) (d p : Nat) (c : Core) : (s.setCore d p c).hjobs = s.hjobs := rfl
@[simp] theorem setCore_semq (s : State) (d p : Nat) (c : Core) : (s.setCore d p c).semq = s.semq := rfl
@[simp] theorem setCore_invals (s : State) (d p : Nat) (c : Core) : (s.setCore d p c).invals = s.invals := rfl
@[simp] theorem setCore_dies (s : State) (d p : Nat) (c : Core) : (s.setCore d p c).dies = s.dies := rfl
@[simp] theorem setCore_zones (s : State) (d p : Nat) (c : Core) : (s.setCore d p c).zones = s.zones := rfl
@[simp] theorem setCore_drones (s : State) (d p : Nat) (c : Core) : (s.setCore d p c).drones = s.drones := rfl
@[simp] theorem setCore_soft (s : State) (d p : Nat) (c : Core) : (s.setCore d p c).soft = s.soft := rfl
@[simp] theorem setCore_lasting (s : State) (d p : Nat) (c : Core) : (s.setCore d p c).lasting = s.lasting := rfl
@[simp] theorem setCore_nextUnit (s : State) (d p : Nat) (c : Core) : (s.setCore d p c).nextUnit = s.nextUnit := rfl
@[simp] theorem setCore_nextLaunch (s : State) (d p : Nat) (c : Core) : (s.setCore d p c).nextLaunch = s.nextLaunch := rfl
@[simp] theorem setCore_order (s : State) (d p : Nat) (c : Core) : (s.setCore d p c).order = s.order := rfl
@[simp] theorem setCore_xlatOut (s : State) (d p : Nat) (c : Core) : (s.setCore d p c).xlatOut = s.xlatOut := rfl
@[simp] theorem setCore_packets (s : State) (d p : Nat) (c : Core) : (s.setCore d p c).packets = s.packets := rfl
@[simp] theorem setCore_valves (s : State) (d p : Nat) (c : Core) : (s.setCore d p c).valves = s.valves := rfl
@[simp] theorem setCore_pump (s : State) (d p : Nat) (c : Core) : (s.setCore d p c).pump = s.pump := rfl
@[simp] theorem setCore_answers (s : State) (d p : Nat) (c : Core) : (s.setCore d p c).answers = s.answers := rfl
@[simp] theorem setCore_hostReads (s : State) (d p : Nat) (c : Core) : (s.setCore d p c).hostReads = s.hostReads := rfl
@[simp] theorem setCore_unsupported (s : State) (d p : Nat) (c : Core) : (s.setCore d p c).unsupported = s.unsupported := rfl
@[simp] theorem setCore_badFrames (s : State) (d p : Nat) (c : Core) : (s.setCore d p c).badFrames = s.badFrames := rfl
@[simp] theorem setCore_badLinks (s : State) (d p : Nat) (c : Core) : (s.setCore d p c).badLinks = s.badLinks := rfl
@[simp] theorem setCore_unreached (s : State) (d p : Nat) (c : Core) : (s.setCore d p c).unreached = s.unreached := rfl
@[simp] theorem setCore_badPorts (s : State) (d p : Nat) (c : Core) : (s.setCore d p c).badPorts = s.badPorts := rfl

/-! `setLaunch` -/
@[simp] theorem setLaunch_form (s : State) (l : Nat) (x : Launch) : (s.setLaunch l x).form = s.form := rfl
@[simp] theorem setLaunch_sel (s : State) (l : Nat) (x : Launch) : (s.setLaunch l x).sel = s.sel := rfl
@[simp] theorem setLaunch_agenda (s : State) (l : Nat) (x : Launch) : (s.setLaunch l x).agenda = s.agenda := rfl
@[simp] theorem setLaunch_fresh (s : State) (l : Nat) (x : Launch) : (s.setLaunch l x).fresh = s.fresh := rfl
@[simp] theorem setLaunch_ir (s : State) (l : Nat) (x : Launch) : (s.setLaunch l x).ir = s.ir := rfl
@[simp] theorem setLaunch_iw (s : State) (l : Nat) (x : Launch) : (s.setLaunch l x).iw = s.iw := rfl
@[simp] theorem setLaunch_stopTrap (s : State) (l : Nat) (x : Launch) : (s.setLaunch l x).stopTrap = s.stopTrap := rfl
@[simp] theorem setLaunch_resumed (s : State) (l : Nat) (x : Launch) : (s.setLaunch l x).resumed = s.resumed := rfl
@[simp] theorem setLaunch_parks (s : State) (l : Nat) (x : Launch) : (s.setLaunch l x).parks = s.parks := rfl
@[simp] theorem setLaunch_unparks (s : State) (l : Nat) (x : Launch) : (s.setLaunch l x).unparks = s.unparks := rfl
@[simp] theorem setLaunch_bscope (s : State) (l : Nat) (x : Launch) : (s.setLaunch l x).bscope = s.bscope := rfl
@[simp] theorem setLaunch_mem (s : State) (l : Nat) (x : Launch) : (s.setLaunch l x).mem = s.mem := rfl
@[simp] theorem setLaunch_lineKey (s : State) (l : Nat) (x : Launch) : (s.setLaunch l x).lineKey = s.lineKey := rfl
@[simp] theorem setLaunch_mpoison (s : State) (l : Nat) (x : Launch) : (s.setLaunch l x).mpoison = s.mpoison := rfl
@[simp] theorem setLaunch_narrow (s : State) (l : Nat) (x : Launch) : (s.setLaunch l x).narrow = s.narrow := rfl
@[simp] theorem setLaunch_sp (s : State) (l : Nat) (x : Launch) : (s.setLaunch l x).sp = s.sp := rfl
@[simp] theorem setLaunch_acc (s : State) (l : Nat) (x : Launch) : (s.setLaunch l x).acc = s.acc := rfl
@[simp] theorem setLaunch_tiles (s : State) (l : Nat) (x : Launch) : (s.setLaunch l x).tiles = s.tiles := rfl
@[simp] theorem setLaunch_masks (s : State) (l : Nat) (x : Launch) : (s.setLaunch l x).masks = s.masks := rfl
@[simp] theorem setLaunch_lan (s : State) (l : Nat) (x : Launch) : (s.setLaunch l x).lan = s.lan := rfl
@[simp] theorem setLaunch_dsc (s : State) (l : Nat) (x : Launch) : (s.setLaunch l x).dsc = s.dsc := rfl
@[simp] theorem setLaunch_wt (s : State) (l : Nat) (x : Launch) : (s.setLaunch l x).wt = s.wt := rfl
@[simp] theorem setLaunch_wpoison (s : State) (l : Nat) (x : Launch) : (s.setLaunch l x).wpoison = s.wpoison := rfl
@[simp] theorem setLaunch_wear (s : State) (l : Nat) (x : Launch) : (s.setLaunch l x).wear = s.wear := rfl
@[simp] theorem setLaunch_remap (s : State) (l : Nat) (x : Launch) : (s.setLaunch l x).remap = s.remap := rfl
@[simp] theorem setLaunch_unusable (s : State) (l : Nat) (x : Launch) : (s.setLaunch l x).unusable = s.unusable := rfl
@[simp] theorem setLaunch_rtabs (s : State) (l : Nat) (x : Launch) : (s.setLaunch l x).rtabs = s.rtabs := rfl
@[simp] theorem setLaunch_rdigest (s : State) (l : Nat) (x : Launch) : (s.setLaunch l x).rdigest = s.rdigest := rfl
@[simp] theorem setLaunch_rcache (s : State) (l : Nat) (x : Launch) : (s.setLaunch l x).rcache = s.rcache := rfl
@[simp] theorem setLaunch_rewrites (s : State) (l : Nat) (x : Launch) : (s.setLaunch l x).rewrites = s.rewrites := rfl
@[simp] theorem setLaunch_regions (s : State) (l : Nat) (x : Launch) : (s.setLaunch l x).regions = s.regions := rfl
@[simp] theorem setLaunch_barRel (s : State) (l : Nat) (x : Launch) : (s.setLaunch l x).barRel = s.barRel := rfl
@[simp] theorem setLaunch_applied (s : State) (l : Nat) (x : Launch) : (s.setLaunch l x).applied = s.applied := rfl
@[simp] theorem setLaunch_units (s : State) (l : Nat) (x : Launch) : (s.setLaunch l x).units = s.units := rfl
@[simp] theorem setLaunch_voices (s : State) (l : Nat) (x : Launch) : (s.setLaunch l x).voices = s.voices := rfl
@[simp] theorem setLaunch_ctxs (s : State) (l : Nat) (x : Launch) : (s.setLaunch l x).ctxs = s.ctxs := rfl
@[simp] theorem setLaunch_jobs (s : State) (l : Nat) (x : Launch) : (s.setLaunch l x).jobs = s.jobs := rfl
@[simp] theorem setLaunch_keys (s : State) (l : Nat) (x : Launch) : (s.setLaunch l x).keys = s.keys := rfl
@[simp] theorem setLaunch_pfaults (s : State) (l : Nat) (x : Launch) : (s.setLaunch l x).pfaults = s.pfaults := rfl
@[simp] theorem setLaunch_graphs (s : State) (l : Nat) (x : Launch) : (s.setLaunch l x).graphs = s.graphs := rfl
@[simp] theorem setLaunch_phases (s : State) (l : Nat) (x : Launch) : (s.setLaunch l x).phases = s.phases := rfl
@[simp] theorem setLaunch_hjobs (s : State) (l : Nat) (x : Launch) : (s.setLaunch l x).hjobs = s.hjobs := rfl
@[simp] theorem setLaunch_semq (s : State) (l : Nat) (x : Launch) : (s.setLaunch l x).semq = s.semq := rfl
@[simp] theorem setLaunch_invals (s : State) (l : Nat) (x : Launch) : (s.setLaunch l x).invals = s.invals := rfl
@[simp] theorem setLaunch_dies (s : State) (l : Nat) (x : Launch) : (s.setLaunch l x).dies = s.dies := rfl
@[simp] theorem setLaunch_cores (s : State) (l : Nat) (x : Launch) : (s.setLaunch l x).cores = s.cores := rfl
@[simp] theorem setLaunch_zones (s : State) (l : Nat) (x : Launch) : (s.setLaunch l x).zones = s.zones := rfl
@[simp] theorem setLaunch_drones (s : State) (l : Nat) (x : Launch) : (s.setLaunch l x).drones = s.drones := rfl
@[simp] theorem setLaunch_soft (s : State) (l : Nat) (x : Launch) : (s.setLaunch l x).soft = s.soft := rfl
@[simp] theorem setLaunch_lasting (s : State) (l : Nat) (x : Launch) : (s.setLaunch l x).lasting = s.lasting := rfl
@[simp] theorem setLaunch_nextUnit (s : State) (l : Nat) (x : Launch) : (s.setLaunch l x).nextUnit = s.nextUnit := rfl
@[simp] theorem setLaunch_nextLaunch (s : State) (l : Nat) (x : Launch) : (s.setLaunch l x).nextLaunch = s.nextLaunch := rfl
@[simp] theorem setLaunch_order (s : State) (l : Nat) (x : Launch) : (s.setLaunch l x).order = s.order := rfl
@[simp] theorem setLaunch_xlatOut (s : State) (l : Nat) (x : Launch) : (s.setLaunch l x).xlatOut = s.xlatOut := rfl
@[simp] theorem setLaunch_packets (s : State) (l : Nat) (x : Launch) : (s.setLaunch l x).packets = s.packets := rfl
@[simp] theorem setLaunch_valves (s : State) (l : Nat) (x : Launch) : (s.setLaunch l x).valves = s.valves := rfl
@[simp] theorem setLaunch_pump (s : State) (l : Nat) (x : Launch) : (s.setLaunch l x).pump = s.pump := rfl
@[simp] theorem setLaunch_answers (s : State) (l : Nat) (x : Launch) : (s.setLaunch l x).answers = s.answers := rfl
@[simp] theorem setLaunch_hostReads (s : State) (l : Nat) (x : Launch) : (s.setLaunch l x).hostReads = s.hostReads := rfl
@[simp] theorem setLaunch_unsupported (s : State) (l : Nat) (x : Launch) : (s.setLaunch l x).unsupported = s.unsupported := rfl
@[simp] theorem setLaunch_badFrames (s : State) (l : Nat) (x : Launch) : (s.setLaunch l x).badFrames = s.badFrames := rfl
@[simp] theorem setLaunch_badLinks (s : State) (l : Nat) (x : Launch) : (s.setLaunch l x).badLinks = s.badLinks := rfl
@[simp] theorem setLaunch_unreached (s : State) (l : Nat) (x : Launch) : (s.setLaunch l x).unreached = s.unreached := rfl
@[simp] theorem setLaunch_badPorts (s : State) (l : Nat) (x : Launch) : (s.setLaunch l x).badPorts = s.badPorts := rfl

/-! `mapStream` -/
@[simp] theorem mapStream_form (s : State) (f : Nat → Stream → Stream) : (s.mapStream f).form = s.form := by unfold State.mapStream; split <;> rfl
@[simp] theorem mapStream_sel (s : State) (f : Nat → Stream → Stream) : (s.mapStream f).sel = s.sel := by unfold State.mapStream; split <;> rfl
@[simp] theorem mapStream_agenda (s : State) (f : Nat → Stream → Stream) : (s.mapStream f).agenda = s.agenda := by unfold State.mapStream; split <;> rfl
@[simp] theorem mapStream_fresh (s : State) (f : Nat → Stream → Stream) : (s.mapStream f).fresh = s.fresh := by unfold State.mapStream; split <;> rfl
@[simp] theorem mapStream_ir (s : State) (f : Nat → Stream → Stream) : (s.mapStream f).ir = s.ir := by unfold State.mapStream; split <;> rfl
@[simp] theorem mapStream_iw (s : State) (f : Nat → Stream → Stream) : (s.mapStream f).iw = s.iw := by unfold State.mapStream; split <;> rfl
@[simp] theorem mapStream_stopTrap (s : State) (f : Nat → Stream → Stream) : (s.mapStream f).stopTrap = s.stopTrap := by unfold State.mapStream; split <;> rfl
@[simp] theorem mapStream_resumed (s : State) (f : Nat → Stream → Stream) : (s.mapStream f).resumed = s.resumed := by unfold State.mapStream; split <;> rfl
@[simp] theorem mapStream_parks (s : State) (f : Nat → Stream → Stream) : (s.mapStream f).parks = s.parks := by unfold State.mapStream; split <;> rfl
@[simp] theorem mapStream_unparks (s : State) (f : Nat → Stream → Stream) : (s.mapStream f).unparks = s.unparks := by unfold State.mapStream; split <;> rfl
@[simp] theorem mapStream_bscope (s : State) (f : Nat → Stream → Stream) : (s.mapStream f).bscope = s.bscope := by unfold State.mapStream; split <;> rfl
@[simp] theorem mapStream_mem (s : State) (f : Nat → Stream → Stream) : (s.mapStream f).mem = s.mem := by unfold State.mapStream; split <;> rfl
@[simp] theorem mapStream_lineKey (s : State) (f : Nat → Stream → Stream) : (s.mapStream f).lineKey = s.lineKey := by unfold State.mapStream; split <;> rfl
@[simp] theorem mapStream_mpoison (s : State) (f : Nat → Stream → Stream) : (s.mapStream f).mpoison = s.mpoison := by unfold State.mapStream; split <;> rfl
@[simp] theorem mapStream_narrow (s : State) (f : Nat → Stream → Stream) : (s.mapStream f).narrow = s.narrow := by unfold State.mapStream; split <;> rfl
@[simp] theorem mapStream_sp (s : State) (f : Nat → Stream → Stream) : (s.mapStream f).sp = s.sp := by unfold State.mapStream; split <;> rfl
@[simp] theorem mapStream_acc (s : State) (f : Nat → Stream → Stream) : (s.mapStream f).acc = s.acc := by unfold State.mapStream; split <;> rfl
@[simp] theorem mapStream_tiles (s : State) (f : Nat → Stream → Stream) : (s.mapStream f).tiles = s.tiles := by unfold State.mapStream; split <;> rfl
@[simp] theorem mapStream_masks (s : State) (f : Nat → Stream → Stream) : (s.mapStream f).masks = s.masks := by unfold State.mapStream; split <;> rfl
@[simp] theorem mapStream_lan (s : State) (f : Nat → Stream → Stream) : (s.mapStream f).lan = s.lan := by unfold State.mapStream; split <;> rfl
@[simp] theorem mapStream_dsc (s : State) (f : Nat → Stream → Stream) : (s.mapStream f).dsc = s.dsc := by unfold State.mapStream; split <;> rfl
@[simp] theorem mapStream_wt (s : State) (f : Nat → Stream → Stream) : (s.mapStream f).wt = s.wt := by unfold State.mapStream; split <;> rfl
@[simp] theorem mapStream_wpoison (s : State) (f : Nat → Stream → Stream) : (s.mapStream f).wpoison = s.wpoison := by unfold State.mapStream; split <;> rfl
@[simp] theorem mapStream_wear (s : State) (f : Nat → Stream → Stream) : (s.mapStream f).wear = s.wear := by unfold State.mapStream; split <;> rfl
@[simp] theorem mapStream_remap (s : State) (f : Nat → Stream → Stream) : (s.mapStream f).remap = s.remap := by unfold State.mapStream; split <;> rfl
@[simp] theorem mapStream_unusable (s : State) (f : Nat → Stream → Stream) : (s.mapStream f).unusable = s.unusable := by unfold State.mapStream; split <;> rfl
@[simp] theorem mapStream_rtabs (s : State) (f : Nat → Stream → Stream) : (s.mapStream f).rtabs = s.rtabs := by unfold State.mapStream; split <;> rfl
@[simp] theorem mapStream_rdigest (s : State) (f : Nat → Stream → Stream) : (s.mapStream f).rdigest = s.rdigest := by unfold State.mapStream; split <;> rfl
@[simp] theorem mapStream_rcache (s : State) (f : Nat → Stream → Stream) : (s.mapStream f).rcache = s.rcache := by unfold State.mapStream; split <;> rfl
@[simp] theorem mapStream_rewrites (s : State) (f : Nat → Stream → Stream) : (s.mapStream f).rewrites = s.rewrites := by unfold State.mapStream; split <;> rfl
@[simp] theorem mapStream_regions (s : State) (f : Nat → Stream → Stream) : (s.mapStream f).regions = s.regions := by unfold State.mapStream; split <;> rfl
@[simp] theorem mapStream_barRel (s : State) (f : Nat → Stream → Stream) : (s.mapStream f).barRel = s.barRel := by unfold State.mapStream; split <;> rfl
@[simp] theorem mapStream_applied (s : State) (f : Nat → Stream → Stream) : (s.mapStream f).applied = s.applied := by unfold State.mapStream; split <;> rfl
@[simp] theorem mapStream_units (s : State) (f : Nat → Stream → Stream) : (s.mapStream f).units = s.units := by unfold State.mapStream; split <;> rfl
@[simp] theorem mapStream_launches (s : State) (f : Nat → Stream → Stream) : (s.mapStream f).launches = s.launches := by unfold State.mapStream; split <;> rfl
@[simp] theorem mapStream_jobs (s : State) (f : Nat → Stream → Stream) : (s.mapStream f).jobs = s.jobs := by unfold State.mapStream; split <;> rfl
@[simp] theorem mapStream_keys (s : State) (f : Nat → Stream → Stream) : (s.mapStream f).keys = s.keys := by unfold State.mapStream; split <;> rfl
@[simp] theorem mapStream_pfaults (s : State) (f : Nat → Stream → Stream) : (s.mapStream f).pfaults = s.pfaults := by unfold State.mapStream; split <;> rfl
@[simp] theorem mapStream_graphs (s : State) (f : Nat → Stream → Stream) : (s.mapStream f).graphs = s.graphs := by unfold State.mapStream; split <;> rfl
@[simp] theorem mapStream_phases (s : State) (f : Nat → Stream → Stream) : (s.mapStream f).phases = s.phases := by unfold State.mapStream; split <;> rfl
@[simp] theorem mapStream_hjobs (s : State) (f : Nat → Stream → Stream) : (s.mapStream f).hjobs = s.hjobs := by unfold State.mapStream; split <;> rfl
@[simp] theorem mapStream_semq (s : State) (f : Nat → Stream → Stream) : (s.mapStream f).semq = s.semq := by unfold State.mapStream; split <;> rfl
@[simp] theorem mapStream_invals (s : State) (f : Nat → Stream → Stream) : (s.mapStream f).invals = s.invals := by unfold State.mapStream; split <;> rfl
@[simp] theorem mapStream_dies (s : State) (f : Nat → Stream → Stream) : (s.mapStream f).dies = s.dies := by unfold State.mapStream; split <;> rfl
@[simp] theorem mapStream_cores (s : State) (f : Nat → Stream → Stream) : (s.mapStream f).cores = s.cores := by unfold State.mapStream; split <;> rfl
@[simp] theorem mapStream_zones (s : State) (f : Nat → Stream → Stream) : (s.mapStream f).zones = s.zones := by unfold State.mapStream; split <;> rfl
@[simp] theorem mapStream_drones (s : State) (f : Nat → Stream → Stream) : (s.mapStream f).drones = s.drones := by unfold State.mapStream; split <;> rfl
@[simp] theorem mapStream_soft (s : State) (f : Nat → Stream → Stream) : (s.mapStream f).soft = s.soft := by unfold State.mapStream; split <;> rfl
@[simp] theorem mapStream_lasting (s : State) (f : Nat → Stream → Stream) : (s.mapStream f).lasting = s.lasting := by unfold State.mapStream; split <;> rfl
@[simp] theorem mapStream_nextUnit (s : State) (f : Nat → Stream → Stream) : (s.mapStream f).nextUnit = s.nextUnit := by unfold State.mapStream; split <;> rfl
@[simp] theorem mapStream_nextLaunch (s : State) (f : Nat → Stream → Stream) : (s.mapStream f).nextLaunch = s.nextLaunch := by unfold State.mapStream; split <;> rfl
@[simp] theorem mapStream_order (s : State) (f : Nat → Stream → Stream) : (s.mapStream f).order = s.order := by unfold State.mapStream; split <;> rfl
@[simp] theorem mapStream_xlatOut (s : State) (f : Nat → Stream → Stream) : (s.mapStream f).xlatOut = s.xlatOut := by unfold State.mapStream; split <;> rfl
@[simp] theorem mapStream_packets (s : State) (f : Nat → Stream → Stream) : (s.mapStream f).packets = s.packets := by unfold State.mapStream; split <;> rfl
@[simp] theorem mapStream_valves (s : State) (f : Nat → Stream → Stream) : (s.mapStream f).valves = s.valves := by unfold State.mapStream; split <;> rfl
@[simp] theorem mapStream_pump (s : State) (f : Nat → Stream → Stream) : (s.mapStream f).pump = s.pump := by unfold State.mapStream; split <;> rfl
@[simp] theorem mapStream_answers (s : State) (f : Nat → Stream → Stream) : (s.mapStream f).answers = s.answers := by unfold State.mapStream; split <;> rfl
@[simp] theorem mapStream_hostReads (s : State) (f : Nat → Stream → Stream) : (s.mapStream f).hostReads = s.hostReads := by unfold State.mapStream; split <;> rfl
@[simp] theorem mapStream_unsupported (s : State) (f : Nat → Stream → Stream) : (s.mapStream f).unsupported = s.unsupported := by unfold State.mapStream; split <;> rfl
@[simp] theorem mapStream_badFrames (s : State) (f : Nat → Stream → Stream) : (s.mapStream f).badFrames = s.badFrames := by unfold State.mapStream; split <;> rfl
@[simp] theorem mapStream_badLinks (s : State) (f : Nat → Stream → Stream) : (s.mapStream f).badLinks = s.badLinks := by unfold State.mapStream; split <;> rfl
@[simp] theorem mapStream_unreached (s : State) (f : Nat → Stream → Stream) : (s.mapStream f).unreached = s.unreached := by unfold State.mapStream; split <;> rfl
@[simp] theorem mapStream_badPorts (s : State) (f : Nat → Stream → Stream) : (s.mapStream f).badPorts = s.badPorts := by unfold State.mapStream; split <;> rfl

/-! `advance` -/
@[simp] theorem advance_form (s : State)  : s.advance.form = s.form := mapStream_form s _
@[simp] theorem advance_sel (s : State)  : s.advance.sel = s.sel := mapStream_sel s _
@[simp] theorem advance_agenda (s : State)  : s.advance.agenda = s.agenda := mapStream_agenda s _
@[simp] theorem advance_fresh (s : State)  : s.advance.fresh = s.fresh := mapStream_fresh s _
@[simp] theorem advance_ir (s : State)  : s.advance.ir = s.ir := mapStream_ir s _
@[simp] theorem advance_iw (s : State)  : s.advance.iw = s.iw := mapStream_iw s _
@[simp] theorem advance_stopTrap (s : State)  : s.advance.stopTrap = s.stopTrap := mapStream_stopTrap s _
@[simp] theorem advance_resumed (s : State)  : s.advance.resumed = s.resumed := mapStream_resumed s _
@[simp] theorem advance_parks (s : State)  : s.advance.parks = s.parks := mapStream_parks s _
@[simp] theorem advance_unparks (s : State)  : s.advance.unparks = s.unparks := mapStream_unparks s _
@[simp] theorem advance_bscope (s : State)  : s.advance.bscope = s.bscope := mapStream_bscope s _
@[simp] theorem advance_mem (s : State)  : s.advance.mem = s.mem := mapStream_mem s _
@[simp] theorem advance_lineKey (s : State)  : s.advance.lineKey = s.lineKey := mapStream_lineKey s _
@[simp] theorem advance_mpoison (s : State)  : s.advance.mpoison = s.mpoison := mapStream_mpoison s _
@[simp] theorem advance_narrow (s : State)  : s.advance.narrow = s.narrow := mapStream_narrow s _
@[simp] theorem advance_sp (s : State)  : s.advance.sp = s.sp := mapStream_sp s _
@[simp] theorem advance_acc (s : State)  : s.advance.acc = s.acc := mapStream_acc s _
@[simp] theorem advance_tiles (s : State)  : s.advance.tiles = s.tiles := mapStream_tiles s _
@[simp] theorem advance_masks (s : State)  : s.advance.masks = s.masks := mapStream_masks s _
@[simp] theorem advance_lan (s : State)  : s.advance.lan = s.lan := mapStream_lan s _
@[simp] theorem advance_dsc (s : State)  : s.advance.dsc = s.dsc := mapStream_dsc s _
@[simp] theorem advance_wt (s : State)  : s.advance.wt = s.wt := mapStream_wt s _
@[simp] theorem advance_wpoison (s : State)  : s.advance.wpoison = s.wpoison := mapStream_wpoison s _
@[simp] theorem advance_wear (s : State)  : s.advance.wear = s.wear := mapStream_wear s _
@[simp] theorem advance_remap (s : State)  : s.advance.remap = s.remap := mapStream_remap s _
@[simp] theorem advance_unusable (s : State)  : s.advance.unusable = s.unusable := mapStream_unusable s _
@[simp] theorem advance_rtabs (s : State)  : s.advance.rtabs = s.rtabs := mapStream_rtabs s _
@[simp] theorem advance_rdigest (s : State)  : s.advance.rdigest = s.rdigest := mapStream_rdigest s _
@[simp] theorem advance_rcache (s : State)  : s.advance.rcache = s.rcache := mapStream_rcache s _
@[simp] theorem advance_rewrites (s : State)  : s.advance.rewrites = s.rewrites := mapStream_rewrites s _
@[simp] theorem advance_regions (s : State)  : s.advance.regions = s.regions := mapStream_regions s _
@[simp] theorem advance_barRel (s : State)  : s.advance.barRel = s.barRel := mapStream_barRel s _
@[simp] theorem advance_applied (s : State)  : s.advance.applied = s.applied := mapStream_applied s _
@[simp] theorem advance_units (s : State)  : s.advance.units = s.units := mapStream_units s _
@[simp] theorem advance_launches (s : State)  : s.advance.launches = s.launches := mapStream_launches s _
@[simp] theorem advance_jobs (s : State)  : s.advance.jobs = s.jobs := mapStream_jobs s _
@[simp] theorem advance_keys (s : State)  : s.advance.keys = s.keys := mapStream_keys s _
@[simp] theorem advance_pfaults (s : State)  : s.advance.pfaults = s.pfaults := mapStream_pfaults s _
@[simp] theorem advance_graphs (s : State)  : s.advance.graphs = s.graphs := mapStream_graphs s _
@[simp] theorem advance_phases (s : State)  : s.advance.phases = s.phases := mapStream_phases s _
@[simp] theorem advance_hjobs (s : State)  : s.advance.hjobs = s.hjobs := mapStream_hjobs s _
@[simp] theorem advance_semq (s : State)  : s.advance.semq = s.semq := mapStream_semq s _
@[simp] theorem advance_invals (s : State)  : s.advance.invals = s.invals := mapStream_invals s _
@[simp] theorem advance_dies (s : State)  : s.advance.dies = s.dies := mapStream_dies s _
@[simp] theorem advance_cores (s : State)  : s.advance.cores = s.cores := mapStream_cores s _
@[simp] theorem advance_zones (s : State)  : s.advance.zones = s.zones := mapStream_zones s _
@[simp] theorem advance_drones (s : State)  : s.advance.drones = s.drones := mapStream_drones s _
@[simp] theorem advance_soft (s : State)  : s.advance.soft = s.soft := mapStream_soft s _
@[simp] theorem advance_lasting (s : State)  : s.advance.lasting = s.lasting := mapStream_lasting s _
@[simp] theorem advance_nextUnit (s : State)  : s.advance.nextUnit = s.nextUnit := mapStream_nextUnit s _
@[simp] theorem advance_nextLaunch (s : State)  : s.advance.nextLaunch = s.nextLaunch := mapStream_nextLaunch s _
@[simp] theorem advance_order (s : State)  : s.advance.order = s.order := mapStream_order s _
@[simp] theorem advance_xlatOut (s : State)  : s.advance.xlatOut = s.xlatOut := mapStream_xlatOut s _
@[simp] theorem advance_packets (s : State)  : s.advance.packets = s.packets := mapStream_packets s _
@[simp] theorem advance_valves (s : State)  : s.advance.valves = s.valves := mapStream_valves s _
@[simp] theorem advance_pump (s : State)  : s.advance.pump = s.pump := mapStream_pump s _
@[simp] theorem advance_answers (s : State)  : s.advance.answers = s.answers := mapStream_answers s _
@[simp] theorem advance_hostReads (s : State)  : s.advance.hostReads = s.hostReads := mapStream_hostReads s _
@[simp] theorem advance_unsupported (s : State)  : s.advance.unsupported = s.unsupported := mapStream_unsupported s _
@[simp] theorem advance_badFrames (s : State)  : s.advance.badFrames = s.badFrames := mapStream_badFrames s _
@[simp] theorem advance_badLinks (s : State)  : s.advance.badLinks = s.badLinks := mapStream_badLinks s _
@[simp] theorem advance_unreached (s : State)  : s.advance.unreached = s.unreached := mapStream_unreached s _
@[simp] theorem advance_badPorts (s : State)  : s.advance.badPorts = s.badPorts := mapStream_badPorts s _

/-! `raise` -/
@[simp] theorem raise_form (s : State) (fl : X) : (s.raise fl).form = s.form := rfl
@[simp] theorem raise_sel (s : State) (fl : X) : (s.raise fl).sel = s.sel := rfl
@[simp] theorem raise_agenda (s : State) (fl : X) : (s.raise fl).agenda = s.agenda := rfl
@[simp] theorem raise_fresh (s : State) (fl : X) : (s.raise fl).fresh = s.fresh := rfl
@[simp] theorem raise_ir (s : State) (fl : X) : (s.raise fl).ir = s.ir := rfl
@[simp] theorem raise_iw (s : State) (fl : X) : (s.raise fl).iw = s.iw := rfl
@[simp] theorem raise_stopTrap (s : State) (fl : X) : (s.raise fl).stopTrap = s.stopTrap := rfl
@[simp] theorem raise_resumed (s : State) (fl : X) : (s.raise fl).resumed = s.resumed := rfl
@[simp] theorem raise_parks (s : State) (fl : X) : (s.raise fl).parks = s.parks := rfl
@[simp] theorem raise_unparks (s : State) (fl : X) : (s.raise fl).unparks = s.unparks := rfl
@[simp] theorem raise_bscope (s : State) (fl : X) : (s.raise fl).bscope = s.bscope := rfl
@[simp] theorem raise_mem (s : State) (fl : X) : (s.raise fl).mem = s.mem := rfl
@[simp] theorem raise_lineKey (s : State) (fl : X) : (s.raise fl).lineKey = s.lineKey := rfl
@[simp] theorem raise_mpoison (s : State) (fl : X) : (s.raise fl).mpoison = s.mpoison := rfl
@[simp] theorem raise_narrow (s : State) (fl : X) : (s.raise fl).narrow = s.narrow := rfl
@[simp] theorem raise_sp (s : State) (fl : X) : (s.raise fl).sp = s.sp := rfl
@[simp] theorem raise_acc (s : State) (fl : X) : (s.raise fl).acc = s.acc := rfl
@[simp] theorem raise_tiles (s : State) (fl : X) : (s.raise fl).tiles = s.tiles := rfl
@[simp] theorem raise_masks (s : State) (fl : X) : (s.raise fl).masks = s.masks := rfl
@[simp] theorem raise_lan (s : State) (fl : X) : (s.raise fl).lan = s.lan := rfl
@[simp] theorem raise_dsc (s : State) (fl : X) : (s.raise fl).dsc = s.dsc := rfl
@[simp] theorem raise_wt (s : State) (fl : X) : (s.raise fl).wt = s.wt := rfl
@[simp] theorem raise_wpoison (s : State) (fl : X) : (s.raise fl).wpoison = s.wpoison := rfl
@[simp] theorem raise_wear (s : State) (fl : X) : (s.raise fl).wear = s.wear := rfl
@[simp] theorem raise_remap (s : State) (fl : X) : (s.raise fl).remap = s.remap := rfl
@[simp] theorem raise_unusable (s : State) (fl : X) : (s.raise fl).unusable = s.unusable := rfl
@[simp] theorem raise_rtabs (s : State) (fl : X) : (s.raise fl).rtabs = s.rtabs := rfl
@[simp] theorem raise_rdigest (s : State) (fl : X) : (s.raise fl).rdigest = s.rdigest := rfl
@[simp] theorem raise_rcache (s : State) (fl : X) : (s.raise fl).rcache = s.rcache := rfl
@[simp] theorem raise_rewrites (s : State) (fl : X) : (s.raise fl).rewrites = s.rewrites := rfl
@[simp] theorem raise_regions (s : State) (fl : X) : (s.raise fl).regions = s.regions := rfl
@[simp] theorem raise_barRel (s : State) (fl : X) : (s.raise fl).barRel = s.barRel := rfl
@[simp] theorem raise_applied (s : State) (fl : X) : (s.raise fl).applied = s.applied := rfl
@[simp] theorem raise_voices (s : State) (fl : X) : (s.raise fl).voices = s.voices := rfl
@[simp] theorem raise_ctxs (s : State) (fl : X) : (s.raise fl).ctxs = s.ctxs := rfl
@[simp] theorem raise_launches (s : State) (fl : X) : (s.raise fl).launches = s.launches := rfl
@[simp] theorem raise_jobs (s : State) (fl : X) : (s.raise fl).jobs = s.jobs := rfl
@[simp] theorem raise_keys (s : State) (fl : X) : (s.raise fl).keys = s.keys := rfl
@[simp] theorem raise_pfaults (s : State) (fl : X) : (s.raise fl).pfaults = s.pfaults := rfl
@[simp] theorem raise_graphs (s : State) (fl : X) : (s.raise fl).graphs = s.graphs := rfl
@[simp] theorem raise_phases (s : State) (fl : X) : (s.raise fl).phases = s.phases := rfl
@[simp] theorem raise_hjobs (s : State) (fl : X) : (s.raise fl).hjobs = s.hjobs := rfl
@[simp] theorem raise_semq (s : State) (fl : X) : (s.raise fl).semq = s.semq := rfl
@[simp] theorem raise_invals (s : State) (fl : X) : (s.raise fl).invals = s.invals := rfl
@[simp] theorem raise_dies (s : State) (fl : X) : (s.raise fl).dies = s.dies := rfl
@[simp] theorem raise_cores (s : State) (fl : X) : (s.raise fl).cores = s.cores := rfl
@[simp] theorem raise_zones (s : State) (fl : X) : (s.raise fl).zones = s.zones := rfl
@[simp] theorem raise_drones (s : State) (fl : X) : (s.raise fl).drones = s.drones := rfl
@[simp] theorem raise_soft (s : State) (fl : X) : (s.raise fl).soft = s.soft := rfl
@[simp] theorem raise_lasting (s : State) (fl : X) : (s.raise fl).lasting = s.lasting := rfl
@[simp] theorem raise_nextUnit (s : State) (fl : X) : (s.raise fl).nextUnit = s.nextUnit := rfl
@[simp] theorem raise_nextLaunch (s : State) (fl : X) : (s.raise fl).nextLaunch = s.nextLaunch := rfl
@[simp] theorem raise_order (s : State) (fl : X) : (s.raise fl).order = s.order := rfl
@[simp] theorem raise_xlatOut (s : State) (fl : X) : (s.raise fl).xlatOut = s.xlatOut := rfl
@[simp] theorem raise_packets (s : State) (fl : X) : (s.raise fl).packets = s.packets := rfl
@[simp] theorem raise_valves (s : State) (fl : X) : (s.raise fl).valves = s.valves := rfl
@[simp] theorem raise_pump (s : State) (fl : X) : (s.raise fl).pump = s.pump := rfl
@[simp] theorem raise_answers (s : State) (fl : X) : (s.raise fl).answers = s.answers := rfl
@[simp] theorem raise_hostReads (s : State) (fl : X) : (s.raise fl).hostReads = s.hostReads := rfl
@[simp] theorem raise_unsupported (s : State) (fl : X) : (s.raise fl).unsupported = s.unsupported := rfl
@[simp] theorem raise_badFrames (s : State) (fl : X) : (s.raise fl).badFrames = s.badFrames := rfl
@[simp] theorem raise_badLinks (s : State) (fl : X) : (s.raise fl).badLinks = s.badLinks := rfl
@[simp] theorem raise_unreached (s : State) (fl : X) : (s.raise fl).unreached = s.unreached := rfl
@[simp] theorem raise_badPorts (s : State) (fl : X) : (s.raise fl).badPorts = s.badPorts := rfl

/-! Reads of an updated place -/

@[simp] theorem unit_setUnit (s : State) (u : Nat) (t : TeamUnit) : (s.setUnit u t).unit u = t := by
  simp [State.unit, State.setUnit]
theorem unit_setUnit_ne (s : State) {u k : Nat} (t : TeamUnit) (h : k ≠ u) : (s.setUnit u t).unit k = s.unit k := by
  simp [State.unit, State.setUnit, NMap.getD_put_ne h]
@[simp] theorem voice_setVoice (s : State) (u j : Nat) (v : Voice) : (s.setVoice u j v).voice u j = v := by
  simp [State.voice, State.setVoice]
theorem voice_setVoice_ne (s : State) {u j u' j' : Nat} (v : Voice) (h : vkey u' j' ≠ vkey u j) :
    (s.setVoice u j v).voice u' j' = s.voice u' j' := by
  simp [State.voice, State.setVoice, NMap.getD_put_ne h]
@[simp] theorem ctx_setCtx (s : State) (u : Nat) (e : Engine) (j : Nat) (c : Ctx) : (s.setCtx u e j c).ctx u e j = c := by
  simp [State.ctx, State.setCtx]
theorem ctx_setCtx_ne (s : State) {u u' : Nat} {e e' : Engine} {j j' : Nat} (c : Ctx) (h : ckey u' e' j' ≠ ckey u e j) :
    (s.setCtx u e j c).ctx u' e' j' = s.ctx u' e' j' := by
  simp [State.ctx, State.setCtx, NMap.getD_put_ne h]
@[simp] theorem die_setDie (s : State) (d : Nat) (x : Die) : (s.setDie d x).die d = x := by simp [State.die, State.setDie]
theorem die_setDie_ne (s : State) {d k : Nat} (x : Die) (h : k ≠ d) : (s.setDie d x).die k = s.die k := by
  simp [State.die, State.setDie, NMap.getD_put_ne h]
@[simp] theorem core_setCore (s : State) (d p : Nat) (c : Core) : (s.setCore d p c).core d p = c := by
  simp [State.core, State.setCore]
theorem core_setCore_ne (s : State) {d p d' p' : Nat} (c : Core) (h : pkey d' p' ≠ pkey d p) :
    (s.setCore d p c).core d' p' = s.core d' p' := by
  simp [State.core, State.setCore, NMap.getD_put_ne h]
@[simp] theorem launch_setLaunch (s : State) (l : Nat) (x : Launch) : (s.setLaunch l x).launch l = x := by
  simp [State.launch, State.setLaunch]
theorem launch_setLaunch_ne (s : State) {l k : Nat} (x : Launch) (h : k ≠ l) : (s.setLaunch l x).launch k = s.launch k := by
  simp [State.launch, State.setLaunch, NMap.getD_put_ne h]

/-! Reads of another kind of place -/

@[simp] theorem voice_setUnit (s : State) (u : Nat) (t : TeamUnit) (k i : Nat) : (s.setUnit u t).voice k i = s.voice k i := rfl
@[simp] theorem ctx_setUnit (s : State) (u : Nat) (t : TeamUnit) (k : Nat) (g : Engine) (i : Nat) : (s.setUnit u t).ctx k g i = s.ctx k g i := rfl
@[simp] theorem die_setUnit (s : State) (u : Nat) (t : TeamUnit) (k : Nat) : (s.setUnit u t).die k = s.die k := rfl
@[simp] theorem core_setUnit (s : State) (u : Nat) (t : TeamUnit) (k i : Nat) : (s.setUnit u t).core k i = s.core k i := rfl
@[simp] theorem launch_setUnit (s : State) (u : Nat) (t : TeamUnit) (k : Nat) : (s.setUnit u t).launch k = s.launch k := rfl
@[simp] theorem job_setUnit (s : State) (u : Nat) (t : TeamUnit) (k i : Nat) : (s.setUnit u t).job k i = s.job k i := rfl
@[simp] theorem unit_setVoice (s : State) (u j : Nat) (v : Voice) (k : Nat) : (s.setVoice u j v).unit k = s.unit k := rfl
@[simp] theorem ctx_setVoice (s : State) (u j : Nat) (v : Voice) (k : Nat) (g : Engine) (i : Nat) : (s.setVoice u j v).ctx k g i = s.ctx k g i := rfl
@[simp] theorem die_setVoice (s : State) (u j : Nat) (v : Voice) (k : Nat) : (s.setVoice u j v).die k = s.die k := rfl
@[simp] theorem core_setVoice (s : State) (u j : Nat) (v : Voice) (k i : Nat) : (s.setVoice u j v).core k i = s.core k i := rfl
@[simp] theorem launch_setVoice (s : State) (u j : Nat) (v : Voice) (k : Nat) : (s.setVoice u j v).launch k = s.launch k := rfl
@[simp] theorem job_setVoice (s : State) (u j : Nat) (v : Voice) (k i : Nat) : (s.setVoice u j v).job k i = s.job k i := rfl
@[simp] theorem unit_setCtx (s : State) (u : Nat) (e : Engine) (j : Nat) (c : Ctx) (k : Nat) : (s.setCtx u e j c).unit k = s.unit k := rfl
@[simp] theorem voice_setCtx (s : State) (u : Nat) (e : Engine) (j : Nat) (c : Ctx) (k i : Nat) : (s.setCtx u e j c).voice k i = s.voice k i := rfl
@[simp] theorem die_setCtx (s : State) (u : Nat) (e : Engine) (j : Nat) (c : Ctx) (k : Nat) : (s.setCtx u e j c).die k = s.die k := rfl
@[simp] theorem core_setCtx (s : State) (u : Nat) (e : Engine) (j : Nat) (c : Ctx) (k i : Nat) : (s.setCtx u e j c).core k i = s.core k i := rfl
@[simp] theorem launch_setCtx (s : State) (u : Nat) (e : Engine) (j : Nat) (c : Ctx) (k : Nat) : (s.setCtx u e j c).launch k = s.launch k := rfl
@[simp] theorem job_setCtx (s : State) (u : Nat) (e : Engine) (j : Nat) (c : Ctx) (k i : Nat) : (s.setCtx u e j c).job k i = s.job k i := rfl
@[simp] theorem unit_setDie (s : State) (d : Nat) (x : Die) (k : Nat) : (s.setDie d x).unit k = s.unit k := rfl
@[simp] theorem voice_setDie (s : State) (d : Nat) (x : Die) (k i : Nat) : (s.setDie d x).voice k i = s.voice k i := rfl
@[simp] theorem ctx_setDie (s : State) (d : Nat) (x : Die) (k : Nat) (g : Engine) (i : Nat) : (s.setDie d x).ctx k g i = s.ctx k g i := rfl
@[simp] theorem core_setDie (s : State) (d : Nat) (x : Die) (k i : Nat) : (s.setDie d x).core k i = s.core k i := rfl
@[simp] theorem launch_setDie (s : State) (d : Nat) (x : Die) (k : Nat) : (s.setDie d x).launch k = s.launch k := rfl
@[simp] theorem job_setDie (s : State) (d : Nat) (x : Die) (k i : Nat) : (s.setDie d x).job k i = s.job k i := rfl
@[simp] theorem unit_setCore (s : State) (d p : Nat) (c : Core) (k : Nat) : (s.setCore d p c).unit k = s.unit k := rfl
@[simp] theorem voice_setCore (s : State) (d p : Nat) (c : Core) (k i : Nat) : (s.setCore d p c).voice k i = s.voice k i := rfl
@[simp] theorem ctx_setCore (s : State) (d p : Nat) (c : Core) (k : Nat) (g : Engine) (i : Nat) : (s.setCore d p c).ctx k g i = s.ctx k g i := rfl
@[simp] theorem die_setCore (s : State) (d p : Nat) (c : Core) (k : Nat) : (s.setCore d p c).die k = s.die k := rfl
@[simp] theorem launch_setCore (s : State) (d p : Nat) (c : Core) (k : Nat) : (s.setCore d p c).launch k = s.launch k := rfl
@[simp] theorem job_setCore (s : State) (d p : Nat) (c : Core) (k i : Nat) : (s.setCore d p c).job k i = s.job k i := rfl
@[simp] theorem unit_setLaunch (s : State) (l : Nat) (x : Launch) (k : Nat) : (s.setLaunch l x).unit k = s.unit k := rfl
@[simp] theorem voice_setLaunch (s : State) (l : Nat) (x : Launch) (k i : Nat) : (s.setLaunch l x).voice k i = s.voice k i := rfl
@[simp] theorem ctx_setLaunch (s : State) (l : Nat) (x : Launch) (k : Nat) (g : Engine) (i : Nat) : (s.setLaunch l x).ctx k g i = s.ctx k g i := rfl
@[simp] theorem die_setLaunch (s : State) (l : Nat) (x : Launch) (k : Nat) : (s.setLaunch l x).die k = s.die k := rfl
@[simp] theorem core_setLaunch (s : State) (l : Nat) (x : Launch) (k i : Nat) : (s.setLaunch l x).core k i = s.core k i := rfl
@[simp] theorem job_setLaunch (s : State) (l : Nat) (x : Launch) (k i : Nat) : (s.setLaunch l x).job k i = s.job k i := rfl
@[simp] theorem unit_mapStream (s : State) (f : Nat → Stream → Stream) (k : Nat) : (s.mapStream f).unit k = s.unit k := by
  simp [State.unit]
@[simp] theorem unit_advance (s : State) (k : Nat) : s.advance.unit k = s.unit k := unit_mapStream s _ k
@[simp] theorem die_mapStream (s : State) (f : Nat → Stream → Stream) (k : Nat) : (s.mapStream f).die k = s.die k := by
  simp [State.die]
@[simp] theorem die_advance (s : State) (k : Nat) : s.advance.die k = s.die k := die_mapStream s _ k
@[simp] theorem core_mapStream (s : State) (f : Nat → Stream → Stream) (k i : Nat) : (s.mapStream f).core k i = s.core k i := by
  simp [State.core]
@[simp] theorem core_advance (s : State) (k i : Nat) : s.advance.core k i = s.core k i := core_mapStream s _ k i
@[simp] theorem launch_mapStream (s : State) (f : Nat → Stream → Stream) (k : Nat) : (s.mapStream f).launch k = s.launch k := by
  simp [State.launch]
@[simp] theorem launch_advance (s : State) (k : Nat) : s.advance.launch k = s.launch k := launch_mapStream s _ k
@[simp] theorem job_mapStream (s : State) (f : Nat → Stream → Stream) (k i : Nat) : (s.mapStream f).job k i = s.job k i := by
  simp [State.job]
@[simp] theorem job_advance (s : State) (k i : Nat) : s.advance.job k i = s.job k i := job_mapStream s _ k i

/-! The stream in issue -/

@[simp] theorem selUnit_mapStream (s : State) (f : Nat → Stream → Stream) : (s.mapStream f).selUnit = s.selUnit := by
  simp [State.selUnit]
@[simp] theorem selUnit_advance (s : State) : s.advance.selUnit = s.selUnit := selUnit_mapStream s _

/-- What `mapStream` makes of the stream in issue. -/
@[simp] theorem stream_mapStream (s : State) (f : Nat → Stream → Stream) :
    (s.mapStream f).stream = f (selSize s.sel) s.stream := by
  unfold State.stream
  rw [mapStream_sel]
  unfold State.mapStream
  cases s.sel <;> simp [selSize]
@[simp] theorem stream_advance (s : State) : s.advance.stream = s.stream.advance (selSize s.sel) := stream_mapStream s _
/-- Another stream is as it was. -/
theorem voice_mapStream_ne (s : State) (f : Nat → Stream → Stream) (u j : Nat)
    (h : ∀ u' j', s.sel = .voice u' j' → vkey u j ≠ vkey u' j') : (s.mapStream f).voice u j = s.voice u j := by
  unfold State.mapStream
  split
  · rename_i u' j' hs
    exact voice_setVoice_ne s _ (h u' j' hs)
  · rfl
theorem ctx_mapStream_ne (s : State) (f : Nat → Stream → Stream) (u : Nat) (e : Engine) (j : Nat)
    (h : ∀ u' e' j', s.sel = .ctx u' e' j' → ckey u e j ≠ ckey u' e' j') : (s.mapStream f).ctx u e j = s.ctx u e j := by
  unfold State.mapStream
  split
  · rfl
  · rename_i u' e' j' hs
    exact ctx_setCtx_ne s _ (h u' e' j' hs)

/-! Registers of a stream (R118, R156) -/

/-- The constant register discards a write and reads as zero. -/
@[simp] theorem getX_zero (st : Stream) : st.getX 0#6 = 0#64 := by simp [Stream.getX]
@[simp] theorem setX_zero (st : Stream) (v : X) : st.setX 0#6 v = st := by simp [Stream.setX]
theorem getX_setX_self (st : Stream) {d : BitVec 6} (v : X) (h : d ≠ 0) : (st.setX d v).getX d = v := by
  unfold Stream.getX Stream.setX
  rw [if_neg h, if_neg h]
  exact NMap.getD_putD_self _ _ _ _
theorem getX_setX_ne (st : Stream) {d r : BitVec 6} (v : X) (h : r ≠ d) : (st.setX d v).getX r = st.getX r := by
  have hn : r.toNat ≠ d.toNat := fun e => h (BitVec.eq_of_toNat_eq e)
  unfold Stream.getX Stream.setX
  by_cases hd : d = 0
  · rw [if_pos hd]
  · rw [if_neg hd]
    exact congrArg _ (NMap.getD_putD_ne hn)
@[simp] theorem setX_p (st : Stream) (d : BitVec 6) (v : X) : (st.setX d v).p = st.p := by unfold Stream.setX; split <;> rfl
@[simp] theorem setX_pc (st : Stream) (d : BitVec 6) (v : X) : (st.setX d v).pc = st.pc := by unfold Stream.setX; split <;> rfl
@[simp] theorem setX_rep (st : Stream) (d : BitVec 6) (v : X) : (st.setX d v).rep = st.rep := by unfold Stream.setX; split <;> rfl
@[simp] theorem setX_fmsel (st : Stream) (d : BitVec 6) (v : X) : (st.setX d v).fmsel = st.fmsel := by
  unfold Stream.setX; split <;> rfl
@[simp] theorem getP_zero (st : Stream) : st.getP 0#7 = true := by simp [Stream.getP]
theorem getP_setP_self (st : Stream) {p : BitVec 7} (v : Bool) (h : p ≠ 0) : (st.setP p v).getP p = v := by
  unfold Stream.getP Stream.setP
  rw [if_neg h, if_neg h]
  exact NMap.getD_putD_self _ _ _ _
theorem getP_setP_ne (st : Stream) {p q : BitVec 7} (v : Bool) (h : q ≠ p) : (st.setP p v).getP q = st.getP q := by
  have hn : q.toNat ≠ p.toNat := fun e => h (BitVec.eq_of_toNat_eq e)
  unfold Stream.getP Stream.setP
  by_cases hp : p = 0
  · rw [if_pos hp]
  · rw [if_neg hp]
    exact congrArg _ (NMap.getD_putD_ne hn)
@[simp] theorem setP_zero (st : Stream) (v : Bool) : st.setP 0#7 v = st := by simp [Stream.setP]
@[simp] theorem setP_x (st : Stream) (p : BitVec 7) (v : Bool) : (st.setP p v).x = st.x := by unfold Stream.setP; split <;> rfl

end Sys2Proof.Machine
end

