-- ==== Sys2Proof/Laws/Stream.lean ====
section
/-! SUPPORT. What moving on, looping and transferring change of a stream, and what a word that writes one register does to
the machine. -/
namespace Sys2Proof.Machine
open Sys2Proof

@[simp] theorem clearFrom_x (st : Stream) (l : Nat) : (st.clearFrom l).x = st.x := rfl
@[simp] theorem clearFrom_p (st : Stream) (l : Nat) : (st.clearFrom l).p = st.p := rfl
@[simp] theorem clearFrom_fmsel (st : Stream) (l : Nat) : (st.clearFrom l).fmsel = st.fmsel := rfl
@[simp] theorem clearFrom_rep (st : Stream) (l : Nat) : (st.clearFrom l).rep = st.rep := rfl
@[simp] theorem clearFrom_pc (st : Stream) (l : Nat) : (st.clearFrom l).pc = st.pc := rfl
@[simp] theorem setLvl_x (st : Stream) (l : Nat) (v : Loop) : (st.setLvl l v).x = st.x := by unfold Stream.setLvl; split <;> rfl
@[simp] theorem setLvl_p (st : Stream) (l : Nat) (v : Loop) : (st.setLvl l v).p = st.p := by unfold Stream.setLvl; split <;> rfl
@[simp] theorem setLvl_fmsel (st : Stream) (l : Nat) (v : Loop) : (st.setLvl l v).fmsel = st.fmsel := by
  unfold Stream.setLvl; split <;> rfl
@[simp] theorem setLvl_rep (st : Stream) (l : Nat) (v : Loop) : (st.setLvl l v).rep = st.rep := by
  unfold Stream.setLvl; split <;> rfl
@[simp] theorem loopEnd_x (st : Stream) (l : Nat) : (st.loopEnd l).1.x = st.x := by
  unfold Stream.loopEnd; simp only; split <;> simp
@[simp] theorem loopEnd_p (st : Stream) (l : Nat) : (st.loopEnd l).1.p = st.p := by
  unfold Stream.loopEnd; simp only; split <;> simp
@[simp] theorem loopEnd_fmsel (st : Stream) (l : Nat) : (st.loopEnd l).1.fmsel = st.fmsel := by
  unfold Stream.loopEnd; simp only; split <;> simp

/-- Looping back changes no register. -/
theorem loopBack_keeps (st : Stream) (u : Nat) (a : X) (n : Nat) :
    (st.loopBack u a n).x = st.x ∧ (st.loopBack u a n).p = st.p ∧ (st.loopBack u a n).fmsel = st.fmsel := by
  induction n generalizing st with
  | zero => exact ⟨rfl, rfl, rfl⟩
  | succ n ih =>
    unfold Stream.loopBack
    split
    · exact ih st
    · split
      · exact ⟨rfl, rfl, rfl⟩
      · simp only
        split
        · exact ⟨loopEnd_x st n, loopEnd_p st n, loopEnd_fmsel st n⟩
        · obtain ⟨h1, h2, h3⟩ := ih (st.loopEnd n).1
          exact ⟨h1.trans (loopEnd_x st n), h2.trans (loopEnd_p st n), h3.trans (loopEnd_fmsel st n)⟩
@[simp] theorem loopBack_x (st : Stream) (u : Nat) (a : X) (n : Nat) : (st.loopBack u a n).x = st.x := (loopBack_keeps st u a n).1
@[simp] theorem loopBack_p (st : Stream) (u : Nat) (a : X) (n : Nat) : (st.loopBack u a n).p = st.p := (loopBack_keeps st u a n).2.1
@[simp] theorem loopBack_fmsel (st : Stream) (u : Nat) (a : X) (n : Nat) : (st.loopBack u a n).fmsel = st.fmsel :=
  (loopBack_keeps st u a n).2.2

/-- A word that has issued leaves the registers of its stream alone. -/
@[simp] theorem advance_x (u : Nat) (st : Stream) : (st.advance u).x = st.x := by
  unfold Stream.advance Stream.next
  split
  · simp
  · split <;> simp
@[simp] theorem advance_p (u : Nat) (st : Stream) : (st.advance u).p = st.p := by
  unfold Stream.advance Stream.next
  split
  · simp
  · split <;> simp
@[simp] theorem advance_fmsel (u : Nat) (st : Stream) : (st.advance u).fmsel = st.fmsel := by
  unfold Stream.advance Stream.next
  split
  · simp
  · split <;> simp
@[simp] theorem getX_advance (u : Nat) (st : Stream) (r : BitVec 6) : (st.advance u).getX r = st.getX r := by simp [Stream.getX]
@[simp] theorem getP_advance (u : Nat) (st : Stream) (p : BitVec 7) : (st.advance u).getP p = st.getP p := by simp [Stream.getP]

/-- In no loop and under no repeat the PC moves to the next unit (R132). -/
theorem advance_pc {st : Stream} (u : Nat) (h : st.plain) : (st.advance u).pc = st.pc + BitVec.ofNat 64 u := by
  obtain ⟨h0, h1, h2, hr⟩ := h
  unfold Stream.advance Stream.next
  rw [hr]
  simp [Stream.loopBack, Stream.lvl, h0, h1, h2]

/-- A transfer changes no register (R164). -/
theorem jump_keeps (st : Stream) (a : X) : (st.jump a).x = st.x ∧ (st.jump a).p = st.p ∧ (st.jump a).fmsel = st.fmsel := by
  unfold Stream.jump
  simp only
  split
  · exact ⟨rfl, rfl, rfl⟩
  · split
    · exact ⟨rfl, rfl, rfl⟩
    · split <;> exact ⟨rfl, rfl, rfl⟩
@[simp] theorem jump_pc (st : Stream) (a : X) : (st.jump a).pc = a := rfl
@[simp] theorem getX_jump (st : Stream) (a : X) (r : BitVec 6) : (st.jump a).getX r = st.getX r := by
  simp [Stream.getX, (jump_keeps st a).1]
@[simp] theorem getP_jump (st : Stream) (a : X) (p : BitVec 7) : (st.jump a).getP p = st.getP p := by
  simp [Stream.getP, (jump_keeps st a).2.1]
@[simp] theorem jump_fmsel (st : Stream) (a : X) : (st.jump a).fmsel = st.fmsel := (jump_keeps st a).2.2

/-! What changes no more than the stream in issue -/

theorem unit_congr {s t : State} (h : t.units = s.units) (u : Nat) : t.unit u = s.unit u := by simp [State.unit, h]
theorem reaches_congr {s t : State} (h : t.units = s.units) (w : NWrite) (a : Agent) : t.reaches w a = s.reaches w a := by
  cases a <;> simp [State.reaches, unit_congr h]
/-- Global memory reads alike in two states that agree on its stores, on where the units are, and on the free values. -/
theorem seen_congr {s t : State} (hm : t.mem = s.mem) (hk : t.lineKey = s.lineKey) (hp : t.mpoison = s.mpoison)
    (hn : t.narrow = s.narrow) (hf : t.fresh = s.fresh) (hu : ∀ u, (t.unit u).place = (s.unit u).place)
    (ag : Agent) (key pa : Nat) : t.seen ag key pa = s.seen ag key pa := by
  have hr : ∀ w, t.reaches w ag = s.reaches w ag := by
    intro w
    cases ag <;> simp [State.reaches, hu]
  simp [State.seen, State.poisoned, State.freeByte, State.memByte, State.keyOk, hm, hk, hp, hn, hf, hr]

theorem keepsMemory_mapStream (s : State) (f : Nat → Stream → Stream) : s.keepsMemory (s.mapStream f) := fun ag key pa =>
  seen_congr (mapStream_mem s f) (mapStream_lineKey s f) (mapStream_mpoison s f) (mapStream_narrow s f) (mapStream_fresh s f)
    (fun u => by rw [unit_mapStream]) ag key pa

/-- Whatever `mapStream` does, it changes no more than the stream in issue. -/
theorem onlyStream_mapStream (s : State) (f : Nat → Stream → Stream) : s.onlyStream (s.mapStream f) := by
  refine ⟨⟨f (selSize s.sel) s.stream, ?_⟩, keepsMemory_mapStream s f⟩
  unfold State.mapStream State.stream
  cases s.sel <;> rfl

/-- A word that writes a register and moves on. -/
theorem result_wroteX (s : State) (d : BitVec 6) (f : Stream → X) : s.wroteX (s.result d f) d (f s.stream) := by
  unfold State.result
  refine ⟨onlyStream_mapStream s _, ?_, ?_, ?_, ?_⟩
  · by_cases h : d = 0
    · subst h
      simp
    · rw [if_neg h, stream_mapStream, getX_advance, getX_setX_self _ _ h]
  · intro r hr
    simp [getX_setX_ne _ _ hr]
  · intro p
    simp [Stream.getP]
  · simp
/-- A word that writes a predicate and moves on. -/
theorem resultP_wroteP (s : State) (p : BitVec 7) (f : Stream → Bool) : s.wroteP (s.resultP p f) p (f s.stream) := by
  unfold State.resultP
  refine ⟨onlyStream_mapStream s _, ?_, ?_, ?_, ?_⟩
  · by_cases h : p = 0
    · subst h
      simp
    · rw [if_neg h, stream_mapStream, getP_advance, getP_setP_self _ _ h]
  · intro q hq
    simp [getP_setP_ne _ _ hq]
  · intro r
    simp [Stream.getX]
  · unfold Stream.setP
    split <;> simp
/-- A word that only moves on. -/
theorem advance_movedOn (s : State) : s.movedOn s.advance :=
  ⟨onlyStream_mapStream s _, fun r => by simp, fun p => by simp, by simp⟩

end Sys2Proof.Machine
end

