-- ==== Sys2Proof/Laws/Storage.lean ====
section
/-! SUPPORT. What taking a trap, submitting a command, noting a read and the other shared operations leave alone: every store of
the machine. And what failing a team and entering a handler write. -/
namespace Sys2Proof.Machine
open Sys2Proof

theorem sameStore_refl (s : State) : s.sameStore s := ⟨rfl, rfl, rfl, rfl, rfl, rfl, rfl, rfl, rfl, rfl, rfl, rfl, fun _ => rfl⟩
theorem sameStore_trans {s t r : State} (h : s.sameStore t) (k : t.sameStore r) : s.sameStore r :=
  ⟨k.mem.trans h.mem, k.lineKey.trans h.lineKey, k.mpoison.trans h.mpoison, k.narrow.trans h.narrow, k.fresh.trans h.fresh,
    k.sp.trans h.sp, k.acc.trans h.acc, k.tiles.trans h.tiles, k.masks.trans h.masks, k.lan.trans h.lan, k.dsc.trans h.dsc,
    k.wt.trans h.wt, fun u => (k.place u).trans (h.place u)⟩
theorem sameStore_keepsMemory {s t : State} (h : s.sameStore t) : s.keepsMemory t := fun ag key pa =>
  seen_congr h.mem h.lineKey h.mpoison h.narrow h.fresh h.place ag key pa
theorem sameStore_keepsCores {s t : State} (h : s.sameStore t) : s.keepsCores t := ⟨h.sp, h.acc, h.tiles, h.masks, h.lan, h.dsc⟩

/-! The elementary updates -/

theorem setUnit_sameStore (s : State) (u : Nat) (t : TeamUnit) (h : t.place = (s.unit u).place) : s.sameStore (s.setUnit u t) := by
  refine ⟨rfl, rfl, rfl, rfl, rfl, rfl, rfl, rfl, rfl, rfl, rfl, rfl, fun k => ?_⟩
  by_cases hk : k = u
  · subst hk
    rw [unit_setUnit]
    exact h
  · rw [unit_setUnit_ne _ _ hk]
theorem setVoice_sameStore (s : State) (u j : Nat) (v : Voice) : s.sameStore (s.setVoice u j v) :=
  ⟨rfl, rfl, rfl, rfl, rfl, rfl, rfl, rfl, rfl, rfl, rfl, rfl, fun _ => rfl⟩
theorem setCtx_sameStore (s : State) (u : Nat) (e : Engine) (j : Nat) (c : Ctx) : s.sameStore (s.setCtx u e j c) :=
  ⟨rfl, rfl, rfl, rfl, rfl, rfl, rfl, rfl, rfl, rfl, rfl, rfl, fun _ => rfl⟩
theorem setDie_sameStore (s : State) (d : Nat) (x : Die) : s.sameStore (s.setDie d x) :=
  ⟨rfl, rfl, rfl, rfl, rfl, rfl, rfl, rfl, rfl, rfl, rfl, rfl, fun _ => rfl⟩
theorem setCore_sameStore (s : State) (d p : Nat) (c : Core) : s.sameStore (s.setCore d p c) :=
  ⟨rfl, rfl, rfl, rfl, rfl, rfl, rfl, rfl, rfl, rfl, rfl, rfl, fun _ => rfl⟩
theorem setLaunch_sameStore (s : State) (l : Nat) (x : Launch) : s.sameStore (s.setLaunch l x) :=
  ⟨rfl, rfl, rfl, rfl, rfl, rfl, rfl, rfl, rfl, rfl, rfl, rfl, fun _ => rfl⟩
theorem setUnitCore_sameStore (s : State) (u : Nat) (c : Core) : s.sameStore (s.setUnitCore u c) := by
  unfold State.setUnitCore
  exact setCore_sameStore _ _ _ _
theorem mapStream_sameStore (s : State) (f : Nat → Stream → Stream) : s.sameStore (s.mapStream f) :=
  ⟨by simp, by simp, by simp, by simp, by simp, by simp, by simp, by simp, by simp, by simp, by simp, by simp, fun u => by simp⟩
theorem advance_sameStore (s : State) : s.sameStore s.advance := mapStream_sameStore s _
theorem noteReads_sameStore (s : State) (u pa n : Nat) : s.sameStore (s.noteReads u pa n) := by
  induction n generalizing s pa with
  | zero => exact sameStore_refl s
  | succ n ih =>
    have h1 : s.sameStore (s.noteRead u pa) := by
      unfold State.noteRead
      split
      · exact sameStore_refl s
      · exact setUnit_sameStore s u _ rfl
    exact sameStore_trans h1 (ih _ _)

/-! Traps (R440 to R449) -/

theorem freeze_sameStore (s : State) (u : Nat) : s.sameStore (s.freeze u) := setUnit_sameStore s u _ rfl
theorem abandon_sameStore (s : State) (u : Nat) (ok : Nat → Bool) : s.sameStore (s.abandon u ok) :=
  ⟨rfl, rfl, rfl, rfl, rfl, rfl, rfl, rfl, rfl, rfl, rfl, rfl, fun _ => rfl⟩
theorem failUnit_sameStore (s : State) (u j : Nat) (pc : Option X) (cause info : X) :
    s.sameStore (s.failUnit u j pc cause info) := by
  have key : ∀ v : Voice, s.sameStore ((((s.freeze u).abandon u fun _ => true).setVoice u j v).setUnit u
      { (((s.freeze u).abandon u fun _ => true).setVoice u j v).unit u with status := .failing, fault := some cause }) := fun v =>
    sameStore_trans (freeze_sameStore s u) (sameStore_trans (abandon_sameStore _ u _)
      (sameStore_trans (setVoice_sameStore _ u j v) (setUnit_sameStore _ u _ rfl)))
  unfold State.failUnit
  split
  · exact sameStore_refl s
  · exact sameStore_refl s
  · exact sameStore_refl s
  · exact key _
/-- A class F trap of a team that is not ending already: the team fails, and the voice that reports it keeps cause, detail and
place (R440, R441). -/
theorem failUnit_fails (s : State) (u j : Nat) (pc : Option X) (cause info : X) (h : (s.unit u).status = .resident) :
    ((s.failUnit u j pc cause info).unit u).status = .failing ∧
    ((s.failUnit u j pc cause info).unit u).fault = some cause ∧
    ((s.failUnit u j pc cause info).voice u j).xcause = cause ∧
    ((s.failUnit u j pc cause info).voice u j).xinfo = info ∧
    ((s.failUnit u j pc cause info).voice u j).xpc = pc.getD (s.voice u j).xpc ∧
    ((s.failUnit u j pc cause info).voice u j).st = (s.voice u j).st := by
  unfold State.failUnit
  rw [h]
  simp
theorem stopUnit_sameStore (s : State) (u cause info : Nat) : s.sameStore (s.stopUnit u cause info) := by
  unfold State.stopUnit
  split
  · refine sameStore_trans (t := if cause = 0x41 then s.freeze u else (s.freeze u).abandon u fun _ => true) ?_ ?_
    · split
      · exact freeze_sameStore s u
      · exact sameStore_trans (freeze_sameStore s u) (abandon_sameStore _ _ _)
    · refine sameStore_trans ?_ (setUnit_sameStore _ u _ rfl)
      exact ⟨rfl, rfl, rfl, rfl, rfl, rfl, rfl, rfl, rfl, rfl, rfl, rfl, fun _ => rfl⟩
  · exact sameStore_refl s
/-- A class S trap of a resident team: it stops for its cause (R449). -/
theorem stopUnit_stops (s : State) (u cause info : Nat) (h : (s.unit u).status = .resident) :
    ((s.stopUnit u cause info).unit u).status = .stopping cause := by
  unfold State.stopUnit
  rw [h]
  simp
theorem storm_sameStore (s : State) (u page : Nat) (x : Sel) : s.sameStore (s.storm u page x) := by
  cases x <;> exact failUnit_sameStore _ _ _ _ _ _
theorem pageFault_sameStore (s : State) (sel : Sel) (u info : Nat) : s.sameStore (s.pageFault sel u info) := by
  have many : ∀ (l : List Nat) (p : Nat) (r : State),
      r.sameStore (l.foldl (fun t w => t.storm w p (((t.unit w).page.map (·.2)).getD (.voice w 0))) r) := by
    intro l p
    induction l with
    | nil => exact sameStore_refl
    | cons w t ih => exact fun r => sameStore_trans (storm_sameStore r w p _) (ih _)
  unfold State.pageFault
  extract_lets die job page k pf n s1 tag s2
  split
  · have h1 : s.sameStore s1 := ⟨rfl, rfl, rfl, rfl, rfl, rfl, rfl, rfl, rfl, rfl, rfl, rfl, fun _ => rfl⟩
    exact sameStore_trans h1 (sameStore_trans (many _ _ _) (storm_sameStore _ _ _ _))
  · have h1 : s.sameStore s2 := ⟨rfl, rfl, rfl, rfl, rfl, rfl, rfl, rfl, rfl, rfl, rfl, rfl, fun _ => rfl⟩
    refine sameStore_trans ?_ (stopUnit_sameStore _ u 0x40 _)
    refine sameStore_trans h1 ?_
    exact setUnit_sameStore s2 u _ rfl
theorem enterHandler_sameStore (s : State) (u j : Nat) (cause info : X) : s.sameStore (s.enterHandler u j cause info) := by
  have key : ∀ (v : Voice) (t : TeamUnit), t.place = (s.unit u).place → s.sameStore ((s.setVoice u j v).setUnit u t) :=
    fun v t h => sameStore_trans (setVoice_sameStore s u j v) (setUnit_sameStore _ u t h)
  unfold State.enterHandler
  refine sameStore_trans ?_ (abandon_sameStore _ _ _)
  apply key
  rfl
/-- What entering the handler writes of its voice (R444). -/
theorem enterHandler_voice (s : State) (u j : Nat) (cause info : X) :
    ((s.enterHandler u j cause info).voice u j).xpc = (s.voice u j).st.pc ∧
    ((s.enterHandler u j cause info).voice u j).xcause = cause ∧
    ((s.enterHandler u j cause info).voice u j).xinfo = info ∧
    ((s.enterHandler u j cause info).voice u j).hmode = true ∧
    ((s.enterHandler u j cause info).voice u j).st.pc = s.handler u ∧
    ((s.enterHandler u j cause info).voice u j).st.x = (s.voice u j).st.x ∧
    ((s.enterHandler u j cause info).voice u j).st.p = (s.voice u j).st.p := by
  refine ⟨?_, ?_, ?_, ?_, ?_, ?_, ?_⟩ <;> simp [State.enterHandler, State.abandon, State.setUnit, State.setVoice, State.voice]
theorem takeH_sameStore (s : State) (u j : Nat) (eng : Option Engine) (vx : Nat) (t : Trap) :
    s.sameStore (s.takeH u j eng vx t) := by
  unfold State.takeH
  simp only
  split
  · exact failUnit_sameStore _ _ _ _ _ _
  · split
    · exact failUnit_sameStore _ _ _ _ _ _
    · exact enterHandler_sameStore _ _ _ _ _
theorem event_sameStore (s : State) (u : Nat) (e : Engine) (j : Nat) (t : Trap) : s.sameStore (s.event u e j t) := by
  unfold State.event
  simp only
  split <;> exact setUnit_sameStore _ _ _ rfl
/-- Taking a trap changes no store of the machine, whatever its class and whatever stream takes it. -/
theorem takeTrap_sameStore (s : State) (t : Trap) : s.sameStore (s.takeTrap t) := by
  unfold State.takeTrap
  split
  · split
    · exact failUnit_sameStore _ _ _ _ _ _
    · split
      · exact pageFault_sameStore _ _ _ _
      · split
        · exact stopUnit_sameStore _ _ _ _
        · exact takeH_sameStore _ _ _ _ _ _
  · split
    · exact failUnit_sameStore _ _ _ _ _ _
    · split
      · exact pageFault_sameStore _ _ _ _
      · split
        · exact stopUnit_sameStore _ _ _ _
        · exact event_sameStore _ _ _ _ _
theorem putBack_sameStore (s : State) : s.sameStore s.putBack := by
  unfold State.putBack
  split
  · exact sameStore_refl s
  · exact setUnit_sameStore _ _ _ rfl
@[simp] theorem putBack_sel (s : State) : s.putBack.sel = s.sel := by unfold State.putBack; split <;> rfl
@[simp] theorem putBack_voice (s : State) (u j : Nat) : s.putBack.voice u j = s.voice u j := by
  unfold State.putBack; split <;> rfl
@[simp] theorem putBack_ctx (s : State) (u : Nat) (e : Engine) (j : Nat) : s.putBack.ctx u e j = s.ctx u e j := by
  unfold State.putBack; split <;> rfl
@[simp] theorem putBack_status (s : State) (u : Nat) : (s.putBack.unit u).status = (s.unit u).status := by
  unfold State.putBack
  split
  · rfl
  · by_cases h : u = s.selUnit
    · subst h; rw [unit_setUnit]
    · rw [unit_setUnit_ne _ _ h]
theorem raiseTrap_sameStore (s : State) (t : Trap) : s.sameStore (s.raiseTrap t) := by
  refine sameStore_trans (sameStore_trans (putBack_sameStore s) (takeTrap_sameStore s.putBack t)) ?_
  exact ⟨rfl, rfl, rfl, rfl, rfl, rfl, rfl, rfl, rfl, rfl, rfl, rfl, fun _ => rfl⟩
/-- A class F trap raised by a voice of a resident team (R440, R441). -/
theorem raiseTrap_classF (s : State) (u j : Nat) (t : Trap) (hs : s.sel = .voice u j) (h : (s.unit u).status = .resident)
    (hc : t.code < 0x40) :
    ((s.raiseTrap t).unit u).status = .failing ∧ ((s.raiseTrap t).voice u j).xpc = (s.voice u j).st.pc ∧
    ((s.raiseTrap t).voice u j).xcause = causeWord t.code 0 none j ∧
    ((s.raiseTrap t).voice u j).xinfo = BitVec.ofNat 64 t.info ∧ ((s.raiseTrap t).voice u j).st = (s.voice u j).st := by
  have e : s.putBack.takeTrap t =
      s.putBack.failUnit u j (some (s.voice u j).st.pc) (causeWord t.code 0 none j) (BitVec.ofNat 64 t.info) := by
    have hcl : t.cls = 0 := by simp [Trap.cls, hc]
    unfold State.takeTrap
    rw [putBack_sel, hs]
    simp [hcl]
  obtain ⟨h1, _, h3, h4, h5, h6⟩ := failUnit_fails s.putBack u j (some (s.voice u j).st.pc) (causeWord t.code 0 none j)
    (BitVec.ofNat 64 t.info) (by rw [putBack_status]; exact h)
  rw [← e] at h1 h3 h4 h5 h6
  rw [putBack_voice] at h6
  exact ⟨h1, h5, h3, h4, h6⟩

theorem failUnit_sel (s : State) (u j : Nat) (pc : Option X) (c i : X) : (s.failUnit u j pc c i).sel = s.sel := by
  unfold State.failUnit; split <;> rfl
theorem failUnit_ctx (s : State) (u j v k : Nat) (e : Engine) (pc : Option X) (c i : X) :
    (s.failUnit u j pc c i).ctx v e k = s.ctx v e k := by
  unfold State.failUnit; split <;> rfl
/-- A class F trap of a word of a resident team, a voice's or a context's, is all that the word does (R15, R440, R441). -/
theorem raiseTrap_faultsWith (s : State) (t : Trap) (h : (s.unit s.selUnit).status = .resident) (hc : t.code < 0x40) :
    s.faultsWith (s.raiseTrap t) t.code (BitVec.ofNat 64 t.info) := by
  have e : s.putBack.takeTrap t = s.putBack.failUnit s.selUnit s.selVoice (some s.stream.pc)
      (causeWord t.code 0 (selEngine s.sel) s.selVoice) (BitVec.ofNat 64 t.info) := by
    have hcl : t.cls = 0 := by simp [Trap.cls, hc]
    unfold State.takeTrap
    rw [putBack_sel]
    cases hs : s.sel <;> simp [hcl, hs, State.selUnit, State.selVoice, State.stream, selEngine]
  obtain ⟨h1, _, h3, h4, h5, h6⟩ := failUnit_fails s.putBack s.selUnit s.selVoice (some s.stream.pc)
    (causeWord t.code 0 (selEngine s.sel) s.selVoice) (BitVec.ofNat 64 t.info) (by rw [putBack_status]; exact h)
  rw [← e] at h1 h3 h4 h5 h6
  rw [putBack_voice] at h6
  refine ⟨h1, h3, h4, h5, ?_, sameStore_keepsMemory (raiseTrap_sameStore s t), sameStore_keepsCores (raiseTrap_sameStore s t)⟩
  have hv : (s.raiseTrap t).voice = (s.putBack.takeTrap t).voice := rfl
  have hx : (s.raiseTrap t).ctx = (s.putBack.takeTrap t).ctx := rfl
  have hsel : (s.raiseTrap t).sel = s.sel := by
    rw [← putBack_sel s]
    show (s.putBack.takeTrap t).sel = _
    rw [e, failUnit_sel]
  unfold State.stream
  rw [hsel]
  cases hs : s.sel with
  | voice u j => rw [hv]; simpa [State.selUnit, State.selVoice, hs] using h6
  | ctx u k j => rw [hx]; simp only [e, failUnit_ctx, putBack_ctx]

/-! Submission (R125 to R127) -/

theorem refresh_sameStore (s : State) (d p late : Nat) : s.sameStore (s.refresh d p late) :=
  ⟨rfl, rfl, rfl, rfl, rfl, rfl, rfl, rfl, rfl, rfl, rfl, rfl, fun _ => rfl⟩
/-- Bytes written to the scratchpad of a unit change those bytes of it and nothing else. -/
theorem spPuts_eq (s : State) (u a : Nat) (bs : List Byte) : ∃ m, s.spPuts u a bs = { s with sp := m } ∧
    ∀ k, (∀ n, n < bs.length → k ≠ spKey (s.unit u).place.die (s.home u) (a + n)) → m.find k = s.sp.find k := by
  induction bs generalizing s a with
  | nil => exact ⟨s.sp, rfl, fun _ _ => rfl⟩
  | cons b t ih =>
    have step : ∃ m, s.spPut u a b = { s with sp := m } ∧
        ∀ k, k ≠ spKey (s.unit u).place.die (s.home u) a → m.find k = s.sp.find k := by
      unfold State.spPut
      split
      · exact ⟨s.sp, rfl, fun _ _ => rfl⟩
      · exact ⟨_, rfl, fun k hk => NMap.find_put_ne hk⟩
    obtain ⟨m, hm, hk⟩ := step
    obtain ⟨m2, hm2, hk2⟩ := ih { s with sp := m } (a + 1)
    refine ⟨m2, by rw [State.spPuts, hm, hm2], fun k h => ?_⟩
    refine (hk2 k fun n hn => ?_).trans (hk k (h 0 (by simp)))
    have := h (n + 1) (by simpa using hn)
    rwa [← Nat.add_assoc, Nat.add_right_comm] at this
/-- Journal entries change their ring and nothing else. -/
theorem putEntries_eq (s : State) (u : Nat) (e : Engine) (j i : Nat) (l : List (List Byte)) (hl : ∀ b ∈ l, b.length ≤ 16) :
    ∃ m, s.putEntries u e j i l = { s with sp := m } ∧
    ∀ k, (∀ i b, b < 16 → k ≠ spKey (s.unit u).place.die (s.home u) ((s.unit u).place.journalEntry e j i + b)) →
      m.find k = s.sp.find k := by
  induction l generalizing s i with
  | nil => exact ⟨s.sp, rfl, fun _ _ => rfl⟩
  | cons b t ih =>
    obtain ⟨m, hm, hk⟩ := spPuts_eq s u ((s.unit u).place.journalEntry e j i) b
    obtain ⟨m2, hm2, hk2⟩ := ih { s with sp := m } (i + 1) fun x hx => hl x (List.mem_cons_of_mem _ hx)
    refine ⟨m2, by rw [State.putEntries, hm, hm2], fun k h => (hk2 k h).trans (hk k fun n hn => h i n ?_)⟩
    have := hl b List.mem_cons_self
    omega
theorem journalEntries_length (q : Cmd) : ∀ b ∈ q.journalEntries, b.length ≤ 16 := by
  intro b hb
  unfold Cmd.journalEntries at hb
  rcases List.mem_cons.1 hb with rfl | hb
  · simp [leBytes]
  · obtain ⟨k, _, rfl⟩ := List.mem_map.1 hb
    simp [leBytes]
/-- Nothing but a journal ring, then no store at all. -/
theorem sameButJournal_trans {s t r : State} {u j : Nat} {e : Engine} (h : s.sameButJournal t u e j) (k : t.sameStore r) :
    s.sameButJournal r u e j :=
  ⟨k.mem.trans h.mem, k.lineKey.trans h.lineKey, k.mpoison.trans h.mpoison, k.narrow.trans h.narrow, k.fresh.trans h.fresh,
    fun a ha => k.sp ▸ h.sp a ha, k.acc.trans h.acc, k.tiles.trans h.tiles, k.masks.trans h.masks, k.lan.trans h.lan,
    k.dsc.trans h.dsc, k.wt.trans h.wt, fun u => (k.place u).trans (h.place u)⟩
theorem sameStore_sameButJournal {s t : State} (u : Nat) (e : Engine) (j : Nat) (h : s.sameStore t) : s.sameButJournal t u e j :=
  ⟨h.mem, h.lineKey, h.mpoison, h.narrow, h.fresh, fun _ _ => by rw [h.sp], h.acc, h.tiles, h.masks, h.lan, h.dsc, h.wt, h.place⟩
theorem sameButJournal_keepsMemory {s t : State} {u j : Nat} {e : Engine} (h : s.sameButJournal t u e j) : s.keepsMemory t :=
  fun ag key pa => seen_congr h.mem h.lineKey h.mpoison h.narrow h.fresh h.place ag key pa
theorem journal_sameButJournal (s : State) (u : Nat) (e : Engine) (j : Nat) (q : Cmd) : s.sameButJournal (s.journal u e j q) u e j := by
  obtain ⟨m, hm, hk⟩ := putEntries_eq s u e j (s.ctx u e j).jpos q.journalEntries (journalEntries_length q)
  refine sameButJournal_trans ?_ (setCtx_sameStore _ _ _ _ _)
  rw [hm]
  exact ⟨rfl, rfl, rfl, rfl, rfl, hk, rfl, rfl, rfl, rfl, rfl, rfl, fun _ => rfl⟩
theorem enqueue_sameButJournal (s : State) (c : Cmd) (u : Nat) (e : Engine) (j : Nat) (h : s.sel = .ctx u e j) :
    s.sameButJournal (s.enqueue c) u e j := by
  unfold State.enqueue
  rw [h]
  simp only
  split
  · exact sameButJournal_trans (journal_sameButJournal s u e j _) (setCtx_sameStore _ _ _ _ _)
  · exact sameButJournal_trans (journal_sameButJournal s u e j _)
      (sameStore_trans (setCtx_sameStore _ _ _ _ _) (setUnit_sameStore _ _ _ rfl))
theorem instant_sameButJournal (s : State) (u : Nat) (e : Engine) (j : Nat) (h : s.sel = .ctx u e j) :
    s.sameButJournal s.instant u e j := by
  unfold State.instant
  rw [h]
  exact sameButJournal_trans (journal_sameButJournal s u e j _) (setCtx_sameStore _ _ _ _ _)
/-- A command that is submitted, waits for the page-lock table or passes the tile limit changes no store of the machine but its
context's journal ring. -/
theorem submit_sameButJournal {s t : State} {c : Cmd} {u : Nat} {e : Engine} {j : Nat} (hs : s.sel = .ctx u e j)
    (h : s.submit c = .next t) : s.sameButJournal t u e j := by
  unfold State.submit at h
  simp only at h
  split at h
  · injection h with h
    subst h
    exact sameStore_sameButJournal _ _ _ (raiseTrap_sameStore _ _)
  · split at h
    · injection h with h
      subst h
      exact sameStore_sameButJournal _ _ _ (sameStore_refl s)
    · injection h with h
      subst h
      exact sameButJournal_trans (enqueue_sameButJournal s c u e j hs)
        (sameStore_trans (advance_sameStore _) (refresh_sameStore _ _ _ _))

end Sys2Proof.Machine
end

