-- ==== Sys2Proof/Laws/Tile.lean ====
section
/-! SUPPORT. What writing the elements of a tile register does, and what it leaves alone. -/
namespace Sys2Proof.Machine
open Sys2Proof

theorem tileKey_inj {u r k v q i : Nat} (hr : r < 32) (hk : k < 4096) (hq : q < 32) (hi : i < 4096)
    (h : tileKey u r k = tileKey v q i) : u = v ∧ r = q ∧ k = i := by
  unfold tileKey at h
  omega
/-- Bytes written to a tile register are those bytes of it, and nothing else changes. -/
theorem putTile_eq (s : State) (u r k : Nat) (bs : List Byte) : ∃ m, s.putTile u r k bs = { s with tiles := m } ∧
    (∀ i b, bs[i]? = some b → NMap.find m (tileKey u r (k + i)) = some b) ∧
    ∀ a, (∀ i, i < bs.length → a ≠ tileKey u r (k + i)) → NMap.find m a = s.tiles.find a := by
  induction bs generalizing s k with
  | nil => exact ⟨s.tiles, rfl, by simp, fun _ _ => rfl⟩
  | cons b t ih =>
    obtain ⟨m, hm, h1, h2⟩ := ih { s with tiles := s.tiles.put (tileKey u r k) b } (k + 1)
    refine ⟨m, hm, fun i c hc => ?_, fun a ha => ?_⟩
    · cases i with
      | zero =>
        simp only [List.getElem?_cons_zero, Option.some.injEq] at hc
        subst hc
        rw [Nat.add_zero, h2 _ fun i _ => by unfold tileKey; omega, NMap.find_put_self]
      | succ i =>
        rw [List.getElem?_cons_succ] at hc
        have := h1 i c hc
        rwa [Nat.add_right_comm, Nat.add_assoc] at this
    · rw [h2 a fun i hi => ?_, NMap.find_put_ne]
      · exact ha 0 (by simp)
      · have := ha (i + 1) (by simpa using hi)
        rwa [Nat.add_right_comm, Nat.add_assoc]
theorem leNat_leBytes_mod (v n : Nat) : leNat (leBytes v n) = v % 2 ^ (8 * n) := by
  induction n generalizing v with
  | zero => simp [leBytes, leNat, Nat.mod_one]
  | succ n ih =>
    rw [leBytes, leNat, ih, BitVec.toNat_ofNat, Nat.mul_succ, Nat.pow_add, Nat.mul_comm (2 ^ (8 * n)), Nat.mod_mul]
/-- An element written is that element, and every other byte of every register is as it was. -/
theorem putElem_eq (s : State) (u : Nat) (d : BitVec 5) (sz e v : Nat) : ∃ m, s.putElem u d sz e v = { s with tiles := m } ∧
    (s.putElem u d sz e v).elem u d sz e = v % 2 ^ (8 * sz) ∧
    ∀ a, (∀ i, i < sz → a ≠ tileKey u d.toNat (sz * e + i)) → NMap.find m a = s.tiles.find a := by
  obtain ⟨m, hm, h1, h2⟩ := putTile_eq s u d.toNat (sz * e) (leBytes v sz)
  rw [leBytes_length] at h2
  refine ⟨m, hm, ?_, h2⟩
  unfold State.putElem State.elem State.tileNat
  rw [hm, ← leNat_leBytes_mod]
  congr 1
  refine List.ext_getElem (by simp) fun i hi _ => ?_
  simp only [List.getElem_map, List.getElem_range]
  have hi' : i < (leBytes v sz).length := by simpa using hi
  unfold State.tileByte
  simp [h1 i _ (List.getElem?_eq_getElem hi')]
/-- Elements of one size do not overlap. -/
theorem elemKey_ne {u sz k e i j : Nat} {d : BitVec 5} (hk : k ≠ e) (hi : i < sz) (hj : j < sz) :
    tileKey u d.toNat (sz * k + i) ≠ tileKey u d.toNat (sz * e + j) := by
  unfold tileKey
  rcases Nat.lt_or_gt_of_ne hk with h | h
  · have := Nat.mul_le_mul_left sz h
    rw [Nat.mul_succ] at this
    omega
  · have := Nat.mul_le_mul_left sz h
    rw [Nat.mul_succ] at this
    omega
theorem elem_congr {s t : State} {u sz k : Nat} {d : BitVec 5} (hf : t.fresh = s.fresh)
    (h : ∀ i, i < sz → t.tiles.find (tileKey u d.toNat (sz * k + i)) = s.tiles.find (tileKey u d.toNat (sz * k + i))) :
    t.elem u d sz k = s.elem u d sz k := by
  unfold State.elem State.tileNat State.tileByte
  congr 1
  refine List.map_congr_left fun i hi => ?_
  rw [h i (List.mem_range.1 hi), hf]
/-- Elements of a list of different numbers written one after another: each stands, and nothing else changed. -/
theorem putElems_eq (l : List (Nat × (Nat × X))) (s : State) (u : Nat) (d : BitVec 5) (sz : Nat) (hl : (l.map (·.1)).Nodup) :
    ∃ m, l.foldl (fun t x => t.putElem u d sz x.1 x.2.1) s = { s with tiles := m } ∧
    (∀ x ∈ l, ({ s with tiles := m } : State).elem u d sz x.1 = x.2.1 % 2 ^ (8 * sz)) ∧
    ∀ a, (∀ x ∈ l, ∀ i, i < sz → a ≠ tileKey u d.toNat (sz * x.1 + i)) → NMap.find m a = s.tiles.find a := by
  induction l generalizing s with
  | nil => exact ⟨s.tiles, rfl, by simp, fun _ _ => rfl⟩
  | cons x t ih =>
    rw [List.map_cons, List.nodup_cons] at hl
    obtain ⟨m1, e1, h1, k1⟩ := putElem_eq s u d sz x.1 x.2.1
    obtain ⟨m, e, h, k⟩ := ih { s with tiles := m1 } hl.2
    refine ⟨m, by rw [List.foldl_cons, e1, e], fun y hy => ?_, fun a ha => ?_⟩
    · rcases List.mem_cons.1 hy with rfl | hy
      · rw [e1] at h1
        rw [← h1]
        refine elem_congr rfl fun i hi => k _ fun z hz j hj => elemKey_ne (fun hc => hl.1 ?_) hi hj
        rw [hc]
        exact List.mem_map_of_mem hz
      · exact h y hy
    · rw [k a fun y hy => ha y (List.mem_cons_of_mem _ hy)]
      exact k1 a (ha x List.mem_cons_self)

/-- What `mapElems` can do (R305): where no other write of FPFL is on its way it writes the elements, joins the flags, and changes no
other store. -/
theorem mapElems_tileWrote (s : State) (u : Nat) (d : BitVec 5) (sz n : Nat) (act : Nat → Bool) (z : BitVec 1) (f : Nat → Nat × X)
    (hn : n * sz ≤ 4096) : s.tileWrote (s.mapElems u d sz n act z f) u d sz n act z f := by
  let g : Nat → Option (Nat × (Nat × X)) := fun e => if act e then some (e, f e) else if z = 1 then some (e, (0, 0)) else none
  let o := (List.range n).filterMap g
  have hg : ∀ e y, g e = some y → y.1 = e := by
    intro e y h
    simp only [g] at h
    split at h
    · injection h with h; rw [← h]
    · split at h
      · injection h with h; rw [← h]
      · exact absurd h (by simp)
  have hkeys : ∀ l : List Nat, l.Nodup → ((l.filterMap g).map (·.1)).Nodup := by
    intro l hl
    induction l with
    | nil => simp
    | cons a t ih =>
      rw [List.nodup_cons] at hl
      rw [List.filterMap_cons]
      split
      · exact ih hl.2
      · rename_i y hy
        rw [List.map_cons, List.nodup_cons]
        refine ⟨fun hc => hl.1 ?_, ih hl.2⟩
        obtain ⟨w, hw, hwy⟩ := List.mem_map.1 hc
        obtain ⟨b, hb, hbw⟩ := List.mem_filterMap.1 hw
        rw [← hg a y hy, ← hwy, hg b w hbw]
        exact hb
  obtain ⟨m, e, h, k⟩ := putElems_eq o s u d sz (hkeys _ List.nodup_range)
  have hm : s.mapElems u d sz n act z f = ({ s with tiles := m } : State).raiseAt u (o.foldl (fun a x => a ||| x.2.2) 0) := by
    unfold State.mapElems
    show ((o.foldl (fun t x => t.putElem u d sz x.1 x.2.1) s).raiseAt u _) = _
    rw [e]
  have ht : (s.mapElems u d sz n act z f).tiles = m := by rw [hm]; rfl
  have hf : (s.mapElems u d sz n act z f).fresh = s.fresh := by rw [hm]; rfl
  refine ⟨fun j hj => ?_, fun v r i hr hi hvr => ?_, fun hrec => ?_, ?_⟩
  · have hel : (s.mapElems u d sz n act z f).elem u d sz j = ({ s with tiles := m } : State).elem u d sz j :=
      elem_congr hf fun i _ => by rw [ht]
    rw [hel]
    by_cases ha : act j = true
    · rw [if_pos ha]
      exact h (j, f j) (List.mem_filterMap.2 ⟨j, List.mem_range.2 hj, by simp [g, ha]⟩)
    · rw [if_neg ha]
      by_cases hz : z = 1
      · rw [if_pos hz]
        have := h (j, (0, 0)) (List.mem_filterMap.2 ⟨j, List.mem_range.2 hj, by simp [g, ha, hz]⟩)
        simpa using this
      · rw [if_neg hz]
        refine elem_congr rfl fun i hi => k _ fun x hx b hb => ?_
        obtain ⟨c, _, hc⟩ := List.mem_filterMap.1 hx
        refine elemKey_ne (fun hjc => ?_) hi hb
        rw [hg c x hc] at hjc
        subst hjc
        rw [show g j = none from by show (if _ then _ else _) = _; rw [if_neg ha, if_neg hz]] at hc
        exact absurd hc (by simp)
  · unfold State.tileByte
    rw [ht, hf, k _ fun x hx b hb hc => ?_]
    obtain ⟨c, hcn, hcx⟩ := List.mem_filterMap.1 hx
    rw [hg c x hcx] at hc
    have hcn := List.mem_range.1 hcn
    have hb2 : sz * c + b < n * sz := by
      have := Nat.mul_le_mul_left sz (Nat.succ_le_of_lt hcn)
      rw [Nat.mul_succ, Nat.mul_comm sz n] at this
      omega
    obtain ⟨h1, h2, h3⟩ := tileKey_inj hr hi d.isLt (by omega) hc
    rcases hvr with hvr | hvr
    · exact hvr (by rw [h1, h2])
    · omega
  · have hfl : o.foldl (fun a x => a ||| x.2.2) 0 = ((List.range n).filter act).foldl (fun a k => a ||| (f k).2) (0 : X) := by
      have gen : ∀ (l : List Nat) (a : X), (l.filterMap g).foldl (fun a x => a ||| x.2.2) a =
          (l.filter act).foldl (fun a k => a ||| (f k).2) a := by
        intro l
        induction l with
        | nil => intro a; rfl
        | cons b t ih =>
          intro a
          by_cases hb : act b = true
          · have hgb : g b = some (b, f b) := if_pos hb
            rw [List.filterMap_cons, hgb, List.filter_cons_of_pos hb]
            exact ih _
          · rw [List.filter_cons_of_neg hb]
            by_cases hz : z = 1
            · have hgb : g b = some (b, (0, 0)) := (if_neg hb).trans (if_pos hz)
              rw [List.filterMap_cons, hgb]
              exact (congrArg (fun x => (t.filterMap g).foldl (fun a x => a ||| x.2.2) x) (BitVec.or_zero (x := a))).trans (ih a)
            · have hgb : g b = none := (if_neg hb).trans (if_neg hz)
              rw [List.filterMap_cons, hgb]
              exact ih _
      exact gen _ _
    rw [hm, hfl]
    generalize ((List.range n).filter act).foldl (fun a k => a ||| (f k).2) (0 : X) = fl
    simp only [State.raiseAt, State.raiseFrom, unit_setUnit]
    have hu : ({ s with tiles := m } : State).unit u = s.unit u := rfl
    rw [hu]
    unfold TeamUnit.raise
    split
    · rename_i h0
      simp [h0]
    · simp [TeamUnit.wrote, hrec, Recent.final, Recent.fold]
  · rw [hm]
    exact ⟨rfl, rfl, rfl, rfl, rfl⟩

end Sys2Proof.Machine
end

