-- ==== Sys2Proof/Tests/Slice0.lean ====
section
/-! SUPPORT. Tests of the model on words and numbers of the spec: ill-formed terms, words written out from the encodings, single
steps and the spec's worked numbers. Each cites where its expected result stands. -/
namespace Sys2Proof.Tests
open Sys2Proof Sys2Proof.Machine
set_option Elab.async false

/-! Ill-formed terms, one for each check of R141 -/

/-- Check 5: condition 6 of CMP is unassigned (R158). -/
theorem test_wf_condition : Instr.wf .voice 16 (.cmp 0 1 2 3 6) = false := by decide
/-- Check 5: a double word is not sign-extended (R190). -/
theorem test_wf_width : Instr.wf .voice 16 (.ld 0 1 2 3 1 0) = false := by decide
/-- Check 5: scope 6 is unassigned (R395). -/
theorem test_wf_scope : Instr.wf .voice 16 (.span 0 6) = false := by decide
/-- Check 5: A pairs begin at an even register (R283). -/
theorem test_wf_pair : Instr.wf (.ctx .matrix) 16 (.mma 0 5 6 1 0 0 0 0 0 0) = false := by decide
/-- Check 5: exactly one of Z and A is set (R284). -/
theorem test_wf_ctl : Instr.wf (.ctx .matrix) 16 (.mma 0 4 6 1 1 0 0 0 0 0) = false := by decide
/-- Check 5: a mask above m7 (R308). -/
theorem test_wf_mask : Instr.wf (.ctx .vector) 16 (.vmov 1 2 8 0 1) = false := by decide
/-- Check 6: a mask without E (R308). -/
theorem test_wf_unused_mask : Instr.wf (.ctx .vector) 16 (.vmov 1 2 3 0 0) = false := by decide
/-- Check 7: a context has x0 to x31 (R118). -/
theorem test_wf_register : Instr.wf (.ctx .copy) 16 (.add 0 32 1 2) = false := by decide
/-- Check 7: a context has p0 to p15 (R118). -/
theorem test_wf_predicate : Instr.wf (.ctx .copy) 16 (.cmp 0 16 1 2 0) = false := by decide
/-- Check 7: slot 2 of a team with two slots (R118). -/
theorem test_wf_slot : Instr.wf (.ctx .matrix) 2 (.mzero 2 1) = false := by decide
/-- The S bit belongs to bundles (R131). -/
theorem test_wf_sync : Instr.wf (.ctx .vector) 16 (.nop 1) = false := by decide
/-- A copy word is no word of a voice (R130). -/
theorem test_wf_stream : Instr.wf .voice 16 (.cwait 1) = false := by decide
/-- An event is no word of any stream. -/
theorem test_wf_event : ∀ k ∈ ([.voice, .ctx .matrix, .ctx .vector, .ctx .copy] : List StreamKind),
    Instr.wf k 16 (.refresh 0 0 0 0) = false := by decide

/-! Words of the spec, bit by bit -/

/-- 07 R157, R165 and R169: the words of the worked example of loops; 06, the worked example of bundles. -/
theorem test_decode_common :
    decodeWord .voice 16 0x09152346 = .ok (.lui 0 5 0x12346) ∧ decodeWord .voice 16 0x02145FFF = .ok (.addi 0 5 5 0xFFF) ∧
    decodeWord .voice 16 0x13200A03 = .ok (.loopReg 0 0 10 3) ∧ decodeWord .voice 16 0x172C0040 = .ok (.mfs 0 11 0x040) ∧
    decodeWord .voice 16 0x0B0828CC = .ok (.cmpi 0 4 5 6 3) ∧ decodeWord .voice 16 0x15090000 = .ok (.lbrk 0 4 1 0) ∧
    decodeWord .voice 16 0x41105180 = .ok (.add 1 4 5 6) ∧ decodeWord .voice 16 0x0A063910 = .ok (.cmp 0 3 7 8 4) ∧
    decodeWord .voice 16 0x0F060002 = .ok (.brp 0 3 0 2) ∧ decodeWord .voice 16 0x160C9000 = .ok (.rep 0 3 1 1 0) := by
  decide +kernel
/-- 08: BEXT x5, x6, x7, 12 (R205); 16: RETIRE; the base words of LD, AMO and SPAN with fields placed as R136 and R138 say. -/
theorem test_decode_control :
    decodeWord .voice 16 0x961461CB = .ok (.bext 0 5 6 7 11) ∧ decodeWord .voice 16 0xAE000000 = .ok (.retire 0) ∧
    decodeWord .voice 16 0x98000005 = .ok (.span 0 5) := by decide +kernel
/-- 12: the words of the worked example. -/
theorem test_decode_matrix :
    decodeWord (.ctx .matrix) 16 0x80310689 = .ok (.mma 3 4 6 1 0 0 0 1 0 1) ∧
    decodeWord (.ctx .matrix) 16 0x86320906 = .ok (.mdrn 3 8 9 0 1 2) ∧
    decodeWord (.ctx .matrix) 16 0x8E028009 = .ok (.msync 10 1 1) := by decide +kernel
/-- 13: the words of the worked examples of VSHP and VSCAN. -/
theorem test_decode_vector :
    decodeWord (.ctx .vector) 16 0x80010000 = .ok (.vshp 4) ∧ decodeWord (.ctx .vector) 16 0xA4186020 = .ok (.vscan 3 1 1 0 0 2) ∧
    decodeWord (.ctx .vector) 16 0xA4104020 = .ok (.vscan 2 1 0 0 0 2) := by decide +kernel
/-- 14: the words of the worked example. -/
theorem test_decode_copy :
    decodeWord (.ctx .copy) 16 0x80084199 = .ok (.cpy 2 4 6 3 0 1) ∧ decodeWord (.ctx .copy) 16 0x8D002000 = .ok (.cwait 2) ∧
    decodeWord (.ctx .copy) 16 0x8E008008 = .ok (.csig 8 1) ∧ decodeWord (.ctx .copy) 16 0x19000000 = .ok (.halt 0) := by
  decide +kernel
/-- R131, R141: the checks a word may fail, in their order. -/
theorem test_decode_checks :
    decodeWord .voice 16 0x3F000003 = .error .poolGuard ∧ decodeWord (.ctx .copy) 16 0x40000000 = .error .syncBit ∧
    decodeWord .voice 16 0x1A000000 = .error .majUnassigned ∧ decodeWord .voice 16 0x0A000018 = .error .subUnassigned ∧
    decodeWord .voice 16 0x00000001 = .error .zeroField ∧ decodeWord (.ctx .copy) 16 0x01800000 = .error .registerFile := by
  decide +kernel

/-! Small states -/

/-- What a meaning leaves, where it answers a next state. -/
def after (o : Host.Outcome State Fault Refusal) : State :=
  match o with
  | .next t => t
  | _ => State.reset
/-- The fault in which a step ends. -/
def faultOf (o : Host.Outcome State Fault Refusal) : Option Fault :=
  match o with
  | .fault f => some f
  | _ => none
/-- A one-voice team on core 0 of die 0 with the x registers given and one page of code and data at VA 0. -/
def voiceOf (xs : List (Nat × X)) : State :=
  State.reset.install.setVoice 0 0 { st := { pc := 0x100, x := xs }, status := .running }
/-- The same with two voices, both running. -/
def twoVoices (xs : List (Nat × X)) : State :=
  let s := voiceOf xs
  (s.setUnit 0 { s.unit 0 with place := { (s.unit 0).place with voices := 2 } }).setVoice 0 1 { st := { pc := 0x100 }, status := .running }
/-- Its team's context of an engine, running, with the x registers given. -/
def ctxOf (e : Engine) (xs : List (Nat × X)) : State :=
  (State.reset.loader (.ctx e)).setCtx 0 e 0 { st := { pc := 0x100, x := xs }, status := .running }
/-- The same team with a trap handler. -/
def withHandler (s : State) : State := s.setUnit 0 { s.unit 0 with xhnd := 0x200 }
/-- Bytes at the physical address of VA 0x200 of that page, under the job's key. -/
def withData (s : State) (bs : List Byte) : State := s.landSys (s.unitKey 0) (bs.zipIdx.map fun p => (0x6200 + p.2, p.1))

/-- The word raises the class F fault: its team fails, with code, detail and place in its voice, and the stream stands. -/
def faults (s : State) (i : Instr) (code : Nat) (info pc : X) : Bool :=
  let t := after (exec i s)
  let v := t.voice s.selUnit s.selVoice
  decide ((t.unit s.selUnit).status = .failing) && decide (v.xcause.toNat % 1024 = code) && decide (v.xinfo = info) && decide (v.xpc = pc)
    && decide (t.stream = s.stream)

/-! Single steps -/

/-- R152: sums wrap modulo 2^64. -/
theorem test_add_wraps : (after (exec (.add 0 5 6 7) (voiceOf [(6, 0xFFFFFFFFFFFFFFFF), (7, 2)]))).stream.getX 5 = 1 := by
  decide +kernel
/-- R155: MULH is signed: the high half of (-1) × 2 is all ones. -/
theorem test_mulh_signed :
    (after (exec (.mulh 0 5 6 7) (voiceOf [(6, 0xFFFFFFFFFFFFFFFF), (7, 2)]))).stream.getX 5 = 0xFFFFFFFFFFFFFFFF := by decide +kernel
/-- R152: a shift takes bits 5:0 of its amount. -/
theorem test_sra_amount :
    (after (exec (.sra 0 5 6 7) (voiceOf [(6, 0x8000000000000000), (7, 0x7F)]))).stream.getX 5 = 0xFFFFFFFFFFFFFFFF := by decide +kernel
/-- R155: MIN is signed. -/
theorem test_min_signed :
    (after (exec (.min 0 5 6 7) (voiceOf [(6, 0xFFFFFFFFFFFFFFFF), (7, 2)]))).stream.getX 5 = 0xFFFFFFFFFFFFFFFF := by decide +kernel
/-- R118: a write to x0 is discarded. -/
theorem test_x0 : (after (exec (.addi 0 0 0 5) (voiceOf []))).stream.getX 0 = 0 := by decide +kernel
/-- R157: the worked example LUI then ADDI: 0x1234_6000 and 0x1234_5FFF. -/
theorem test_lui : (after (exec (.lui 0 5 0x12346) (voiceOf []))).stream.getX 5 = 0x12346000 := by decide +kernel
theorem test_addi : (after (exec (.addi 0 5 5 0xFFF) (voiceOf [(5, 0x12346000)]))).stream.getX 5 = 0x12345FFF := by decide +kernel
/-- R158: .lt is signed, .ult is not. -/
theorem test_cmp :
    (after (exec (.cmp 0 3 6 7 2) (voiceOf [(6, 0xFFFFFFFFFFFFFFFF), (7, 2)]))).stream.getP 3 = true ∧
    (after (exec (.cmp 0 3 6 7 4) (voiceOf [(6, 0xFFFFFFFFFFFFFFFF), (7, 2)]))).stream.getP 3 = false := by decide +kernel
/-- R161: offset 0xFFFFFE is two bundles back. -/
theorem test_br : (after (exec (.br 0 0xFFFFFE) (voiceOf []))).stream.pc = 0xE0 := by decide +kernel
/-- R162: the link is the next unit, in a context 4 bytes on. -/
theorem test_call :
    (after (exec (.call 0 4) (ctxOf .copy []))).stream.getX 31 = 0x104 ∧ (after (exec (.call 0 4) (ctxOf .copy []))).stream.pc = 0x110 := by
  decide +kernel
/-- R163: JR to an address that is no bundle's fails the team, and the PC stays. -/
theorem test_jr_misaligned :
    ((after (exec (.jr 0 5) (voiceOf [(5, 0x108)]))).unit 0).status = .failing ∧
    (after (exec (.jr 0 5) (voiceOf [(5, 0x108)]))).stream.pc = 0x100 := by decide +kernel
/-- R165: a count of 0 skips the body of four bundles. -/
theorem test_loop_zero : (after (exec (.loopImm 0 0 0 3) (voiceOf []))).stream.pc = 0x150 := by decide +kernel
/-- R167: at the end of a body with iterations left, lc counts and the PC is TOP. -/
theorem test_loop_back :
    let s := (voiceOf []).mapStream fun _ st => { st with l0 := ⟨true, 0x20, 0x100, 3, 1⟩ }
    (after (exec (.nop 0) s)).stream.pc = 0x20 ∧ (after (exec (.nop 0) s)).stream.l0.lc = 2 := by decide +kernel
/-- R121: a write below 256 to WTHR stores 256. -/
theorem test_wthr : ((after (exec (.mts 0 5 0x020) (voiceOf [(5, 9)]))).unit 0).wthr = 256 := by decide +kernel
/-- 08, the table of seeds: 0x4040_0FFF gives 0x3F13_CC00 and 0x3EAA_AC00. -/
theorem test_fsqs : (after (exec (.fsqs 0 5 6) (voiceOf [(6, 0x40400FFF)]))).stream.getX 5 = 0x3F13CC00 := by decide +kernel
theorem test_frcs : (after (exec (.frcs 0 5 6) (voiceOf [(6, 0x40400FFF)]))).stream.getX 5 = 0x3EAAAC00 := by decide +kernel
/-- The same table: the seed of -4.0 is the canonical NaN with NV (FPFL bit 0, R72). -/
theorem test_fsqs_negative :
    (after (exec (.fsqs 0 5 6) (voiceOf [(6, 0xC0800000)]))).stream.getX 5 = 0x7FC00000 ∧
    ((after (exec (.fsqs 0 5 6) (voiceOf [(6, 0xC0800000)]))).unit 0).fpfl ≠ 0 := by decide +kernel
/-- R205: the worked example of BEXT. -/
theorem test_bext : (after (exec (.bext 0 5 6 7 11) (voiceOf [(6, 0xABCDEF), (7, 8)]))).stream.getX 5 = 0xBCD := by decide +kernel
/-- R205: CLZ of zero is 64. -/
theorem test_clz : (after (exec (.clz 0 5 6) (voiceOf []))).stream.getX 5 = 64 := by decide +kernel
/-- R190: a byte stored is loaded again, sign-extended, in the cycle after. -/
theorem test_sts_lds :
    let t := (after (exec (.sts 0 6 7 0 0) (voiceOf [(6, 0x80), (7, 0x2000)]))).tick 0 2
    (after (exec (.lds 0 5 7 0 1 0) t)).stream.getX 5 = 0xFFFFFFFFFFFFFF80 := by decide +kernel
/-- R187: a word at an address that is no multiple of 4 fails the team. -/
theorem test_ld_misaligned : ((after (exec (.ld 0 5 7 2 0 0) (voiceOf [(7, 0x202)]))).unit 0).status = .failing := by decide +kernel
/-- R189, R375, R376: a team reads its own store from the next cycle on, before any commit; the host does not see it. -/
theorem test_st_ld :
    let t := (after (exec (.st 0 6 7 3 0) (withData (voiceOf [(6, 0x1122334455667788), (7, 0x200)]) (leBytes 9 8)))).tick 0 2
    (after (exec (.ld 0 5 7 3 0 0) t)).stream.getX 5 = 0x1122334455667788 ∧
    leNat (t.seenBytes .host (t.unitKey 0) 0x6200 8) = 9 := by decide +kernel
/-- R194: AMO.add updates the doubleword at its home. -/
theorem test_amo :
    let t := after (exec (.amo 0 1 7 6 0 5) (withData (voiceOf [(6, 5), (7, 0x200)]) (leBytes 9 8)))
    leNat (t.seenBytes .host (t.unitKey 0) 0x6200 8) = 14 := by decide +kernel
/-- R195: a compare and exchange that fails writes nothing and returns the old value. -/
theorem test_amr_cas :
    let t := after (exec (.amr 0 5 7 6 3 5) (withData (voiceOf [(5, 8), (6, 5), (7, 0x200)]) (leBytes 9 8)))
    t.stream.getX 5 = 9 ∧ leNat (t.seenBytes .host (t.unitKey 0) 0x6200 8) = 9 := by decide +kernel
/-- R398, R399: a barrier of one party with nothing pending, initialised, has generation one above and is not done. -/
theorem test_bari :
    let t := after (exec (.bari 0 7 6 5) (withData (voiceOf [(6, 1), (7, 0x200)]) (leBytes 0 16)))
    (t.barrier 0 0x6200).parties = 1 ∧ (t.barrier 0 0x6200).gen = 1 ∧ (t.barrier 0 0x6200).fin = false := by decide +kernel
/-- R400: the only party's arrival completes it. -/
theorem test_bara :
    let t := after (exec (.bari 0 7 6 5) (withData (voiceOf [(6, 1), (7, 0x200)]) (leBytes 0 16)))
    ((after (exec (.bara 0 7) t)).barrier 0 0x6200).fin = true := by decide +kernel
/-- R403: MWAIT without a watch answers 2. -/
theorem test_mwait : (after (exec (.mwait 0 5 0) (voiceOf []))).stream.getX 5 = 2 := by decide +kernel
/-- R444, R423: TRAP enters the handler with its immediate in XINFO and the next bundle in XPC; TRET comes back. -/
theorem test_trap :
    let t := after (exec (.trap 0 0x1234) (withHandler (voiceOf [])))
    t.stream.pc = 0x200 ∧ (t.voice 0 0).xpc = 0x110 ∧ (t.voice 0 0).xinfo = 0x1234 ∧ (t.voice 0 0).hmode = true ∧
    (after (exec (.tret 0) t)).stream.pc = 0x110 := by decide +kernel
/-- R423, R447: without a handler it fails the team. -/
theorem test_trap_unhandled : ((after (exec (.trap 0 7) (voiceOf []))).unit 0).status = .failing := by decide +kernel
/-- R444: TRET outside handler mode is illegal. -/
theorem test_tret : ((after (exec (.tret 0) (voiceOf []))).unit 0).status = .failing := by decide +kernel
/-- R410: FORK of the copy engine starts its context at the entry with the voice's x1. -/
theorem test_fork :
    let t := after (exec (.fork 0 8 0 0) (voiceOf [(1, 77), (8, 0x400)]))
    (t.ctx 0 .copy 0).st.pc = 0x400 ∧ (t.ctx 0 .copy 0).st.getX 1 = 77 ∧ (t.ctx 0 .matrix 0).status = .idle := by decide +kernel
/-- R415: a parked voice is past its word. -/
theorem test_park : ((after (exec (.park 0) (twoVoices []))).voice 0 0).status = .parked ∧ (after (exec (.park 0) (twoVoices []))).stream.pc = 0x110 := by
  decide +kernel
/-- R120, R289: MZERO is queued with cn 1 and takes its slot. -/
theorem test_mzero :
    ((after (exec (.mzero 2 6) (ctxOf .matrix [(6, 0x6000)]))).ctx 0 .matrix 0).queue.map (·.claims) = [[slotClaim 2 true]] := by
  decide +kernel
/-- R316: the shape of VSHP is in force at once. -/
theorem test_vshp : ((after (exec (.vshp 4) (ctxOf .vector [(4, 0x00021F1F)]))).unit 0).vsh = 0x00021F1F := by decide +kernel
/-- R127, R320: VADD queues claims on the tiles it reads and writes. -/
theorem test_vadd :
    (((after (exec (.vadd 3 1 2 0 0 0 0 0) (ctxOf .vector []))).ctx 0 .vector 0).queue.map fun c => c.claims.length) = [3] := by decide +kernel
/-- R364: CWAIT with nothing outstanding goes on and takes a cn. -/
theorem test_cwait :
    ((after (exec (.cwait 0) (ctxOf .copy []))).ctx 0 .copy 0).nextCn = 2 ∧ (after (exec (.cwait 0) (ctxOf .copy []))).stream.pc = 0x104 := by
  decide +kernel
/-- R464: SM3 of "abc", the standard's example. -/
theorem test_sm3 : (Sm3.hash [0x61, 0x62, 0x63]).take 8 = [0x66, 0xC7, 0xF0, 0xF4, 0x62, 0xEE, 0xED, 0xD9] := by decide +kernel
/-- R434: an 85 °C device halves its refresh interval, and nothing else of the state's memory changes. -/
theorem test_refresh : (after (exec (.refresh 0 1 2 850) State.reset)).mem = [] := by decide +kernel
/-- R460: bytes that the host writes it reads back. -/
theorem test_host :
    (after (exec (.hostReadRequest 0x9000 2 0) (after (exec (.hostWrite 0x9000 [0xAB, 0xCD] 0) State.reset)))).hostReads = [(0x9000, [0xAB, 0xCD])] := by
  decide +kernel
/-- R207: an address the map leaves unassigned ends in the fault of that name. -/
theorem test_host_absent : faultOf (exec (.hostReadRequest (2 ^ 52) 1 0) State.reset) = some .absentAddress := by decide +kernel
/-- Log 3: a word placed by the host's interface is the next to run. -/
theorem test_step : (after (step (State.reset.withFetchWord 32 0x02145FFF))).stream.getX 5 = 0xFFFFFFFFFFFFFFFF := by decide +kernel
theorem test_step_engine :
    ((after (step (State.reset.withFetchWord 32 0x90000000))).ctx 0 .matrix 0).nextCn = 2 := by decide +kernel

/-! Witnesses: states and operands that meet the hypotheses of the statements, clause by clause -/

/-- A read, write or atomic access that translates, from its parts. -/
theorem reachesGlobal_of {s : State} {u : Nat} {acc : Access} {ea n pa : Nat} (l : Leaf)
    (h : (ea % n = 0 ∧ ea < 2 ^ 57 ∧ (s.unitLaunch u).aperture ea = none) ∧ s.translate u acc ea = .ok l ∧ l.ww = false ∧ l.pa = pa) :
    s.reachesGlobal u acc ea n pa := ⟨h.1.1, h.1.2.1, h.1.2.2, l, h.2⟩
/-- Transfers: a sense that holds and one that does not, aligned and misaligned targets. -/
theorem witness_Transfers :
    (voiceOf []).stream.getP 0 = decide ((1 : BitVec 1) = 1) ∧
    ((voiceOf []).stream.getP 1 ≠ decide ((1 : BitVec 1) = 1) ∧ (voiceOf []).stream.plain) ∧
    ((voiceOf [(5, 0x40)]).stream.getX 5).toNat % selSize (voiceOf [(5, 0x40)]).sel = 0 ∧
    ((ctxOf .copy [(31, 0x44)]).stream.getX 31).toNat % selSize (ctxOf .copy [(31, 0x44)]).sel = 0 ∧
    ((voiceOf [(5, 0x48)]).sel = .voice 0 0 ∧ ((voiceOf [(5, 0x48)]).unit 0).status = .resident ∧
      ((voiceOf [(5, 0x48)]).stream.getX 5).toNat % 16 ≠ 0) := by
  unfold Stream.plain; decide +kernel
/-- A stream in a loop of level 0 over 0x100 to 0x140. -/
def inLoop : State := (voiceOf [(5, 7)]).mapStream fun _ st => { st with l0 := ⟨true, 0x100, 0x140, 0, 0⟩ }
/-- A stream at 0x100 with loops of levels 0 and 1. -/
def atEnd (l0 l1 : Loop) : State := (voiceOf []).mapStream fun _ st => { st with l0 := l0, l1 := l1 }
/-- Loops: breaks of an inner level in an active one that ends elsewhere, or with it, and of a level that is not active; the end of a
body with rounds left, of the unlimited kind, with none left, and with none left where an outer level ends too. -/
theorem witness_LoopEnds :
    (((atEnd ⟨true, 0x20, 0x180, 3, 1⟩ ⟨true, 0x40, 0x140, 2, 0⟩).stream.lvl 1).act = true ∧
      ((atEnd ⟨true, 0x20, 0x180, 3, 1⟩ ⟨true, 0x40, 0x140, 2, 0⟩).stream.lvl 0).fin ≠ 0x140) ∧
    (atEnd ⟨true, 0x20, 0x140, 3, 1⟩ ⟨true, 0x40, 0x140, 2, 0⟩).stream.loopsBack 0 0x140 ∧
    (((voiceOf []).stream.lvl 1).act = false ∧ (voiceOf []).sel = .voice 0 0 ∧ ((voiceOf []).unit 0).status = .resident) ∧
    (∀ n ∈ [0, 3], (atEnd ⟨true, 0x20, 0x100, n, 1⟩ {}).stream.rep = none ∧ (atEnd ⟨true, 0x20, 0x100, n, 1⟩ {}).stream.loopsBack 0 0x100 ∧
      ((atEnd ⟨true, 0x20, 0x100, n, 1⟩ {}).stream.lvl 1).act = false ∧ ((atEnd ⟨true, 0x20, 0x100, n, 1⟩ {}).stream.lvl 2).act = false) ∧
    (let v := (atEnd ⟨true, 0x20, 0x100, 3, 2⟩ {}).stream.lvl 0
     v.n ≠ 0 ∧ v.n ≤ v.lc.toNat + 1 ∧ v.fin = 0x100) ∧
    ((atEnd ⟨true, 0x20, 0x100, 3, 0⟩ ⟨true, 0x40, 0x100, 1, 0⟩).stream.loopsBack 0 0x100 ∧
      ((atEnd ⟨true, 0x20, 0x100, 3, 0⟩ ⟨true, 0x40, 0x100, 1, 0⟩).stream.lvl 1).fin = 0x100) := by
  unfold Stream.loopsBack; decide +kernel
/-- A stream in loops of levels 0 and 1, the inner over 0x100 to 0x140. -/
def twoDeep : State := atEnd ⟨true, 0xC0, 0x180, 3, 1⟩ ⟨true, 0x100, 0x140, 2, 0⟩
/-- Transfers: misaligned targets of a voice and of a context; a branch inside both bodies, one out of the inner one to the outer's end,
and one out of both (R168), each with what it leaves active and its counter. -/
theorem witness_Transfers_bodies :
    (∀ s ∈ [voiceOf [(5, 0x48), (31, 0x48)], ctxOf .copy [(5, 0x46), (31, 0x46)]],
      (s.unit s.selUnit).status = .resident ∧ (s.stream.getX 5).toNat % selSize s.sel ≠ 0 ∧ (s.stream.getX 31).toNat % selSize s.sel ≠ 0 ∧
      ∀ i ∈ ([.jr 0 5, .ret 0] : List Instr), faults s i 0x06 (s.stream.getX 5) 0x100 = true) ∧
    (∀ x ∈ [(4, true, true), (8, true, false), (0x7F, false, false)],
      let t := (after (exec (.br 0 (BitVec.ofNat 24 x.1)) twoDeep)).stream
      (t.lvl 0).act = x.2.1 ∧ (t.lvl 1).act = x.2.2 ∧ (t.lvl 0).lc = 1) := by decide +kernel
/-- Loops: counts of 2^32 and above, a level that is active, one with none outside it, and bodies that end past the outer's and at it. -/
theorem witness_Loops_faults :
    faults (voiceOf [(5, 0x100000000)]) (.loopReg 0 0 5 3) 0x07 0x100000000 0x100 = true ∧
    faults (voiceOf [(5, 0x10000000000)]) (.loopxReg 0 0 5 3) 0x07 0x10000000000 0x100 = true ∧
    ((inLoop.stream.lvl 0).act = true ∧ faults inLoop (.loopImm 0 0 4 0) 0x08 0 0x100 = true) ∧
    (((voiceOf []).stream.lvl 0).act = false ∧ faults (voiceOf []) (.loopxImm 0 1 4 0) 0x08 1 0x100 = true) ∧
    ((inLoop.stream.lvl 0).fin < 0x100 + BitVec.ofNat 64 ((4 + 1) * 16) ∧
      faults inLoop (.loopReg 0 1 5 4) 0x08 1 0x100 = true ∧
      ((after (exec (.loopReg 0 1 5 3) inLoop)).stream.lvl 1).act = true) := by decide +kernel
/-- Loops: a first entry with counts of 7, 1 and 0, an inner one, and a break that is taken or not. -/
theorem witness_Loops :
    let s := voiceOf [(5, 7), (6, 0xFFFFFFFF)]
    ((0 : BitVec 2) ≠ 3 ∧ s.stream.nestBad 0 0x110 0x140 = false) ∧ (1 : BitVec 13) ≠ 0 ∧
    (s.stream.getX 6 ≠ 0 ∧ (s.stream.getX 6).toNat < 2 ^ 32) ∧ ((1 : BitVec 2) ≠ 3 ∧ inLoop.stream.nestBad 1 0x110 0x140 = false) ∧
    (s.stream.plain ∧ s.stream.getX 7 = 0) ∧
    (inLoop.stream.getP 0 = decide ((1 : BitVec 1) = 1) ∧ (inLoop.stream.lvl 0).act = true ∧ ∀ k, k < 0 → (inLoop.stream.lvl k).act = false) ∧
    inLoop.stream.getP 1 ≠ decide ((1 : BitVec 1) = 1) := by
  refine ⟨by decide +kernel, by decide, by decide +kernel, by decide +kernel, ?_, ?_, by decide +kernel⟩
  · unfold Stream.plain; decide +kernel
  · exact ⟨by decide +kernel, by decide +kernel, fun k h => absurd h (Nat.not_lt_zero k)⟩
/-- RepeatPrefix: ADDI x5, x5, -1 in the next bundle, repeated four times with a step of its destination. -/
theorem witness_RepeatPrefix :
    let s := (voiceOf []).placeCode 0 0x6110 (bundleOf 0x02145FFF 0)
    s.stream.atLoopEnd = false ∧ s.fetchFor s.sel (s.stream.pc + BitVec.ofNat 64 (selSize s.sel)) = .ok ⟨0x02145FFF, false, some 0x6110⟩ ∧
    s.repRefused ⟨0x02145FFF, false, some 0x6110⟩ 3 1 0 0 = false := by decide +kernel
/-- RepeatPrefix: refused before a branch, before a word of a sync bundle, with a step of a field below 0, and as the end of a body;
not before the ADDI. -/
theorem witness_RepeatPrefix_refused :
    let s (w : Nat) : State := { (voiceOf []).placeCode 0 0x6110 (bundleOf w 0) with ir := 0x160C9000 }
    let e : State := (s 0x02145FFF).mapStream fun _ st => { st with l0 := ⟨true, 0x20, 0x100, 3, 1⟩ }
    let no (d : BitVec 3) (t : State) : Bool := faults t (.rep 0 3 d 0 0) 0x01 0x160C900000000000 0x100
    (decodeWord .voice 16 0x0F060002 = .ok (.brp 0 3 0 2) ∧ Instr.repFields (.brp 0 3 0 2) = none ∧ no 0 (s 0x0F060002) = true) ∧
    no 0 (s 0x42145FFF) = true ∧ no 6 (s 0x02145FFF) = true ∧ no 0 e = true ∧ no 0 (s 0x02145FFF) = false := by decide +kernel
/-- A context with one command queued. -/
def queued : State := after (exec (.mzero 2 6) (ctxOf .matrix [(6, 0x6000)]))
/-- NopAndHalt: one voice of two, a context with nothing queued, and one with a command. -/
theorem witness_NopAndHalt :
    ((twoVoices []).sel = .voice 0 0 ∧ (twoVoices []).allOff 0 0 = false) ∧ (voiceOf []).stream.plain ∧
    ((ctxOf .copy []).sel = .ctx 0 .copy 0 ∧ ((ctxOf .copy []).ctx 0 .copy 0).queue = [] ∧ ((ctxOf .copy []).ctx 0 .copy 0).flight = []) ∧
    (queued.sel = .ctx 0 .matrix 0 ∧ (queued.ctx 0 .matrix 0).queue ≠ []) := by
  refine ⟨by decide +kernel, ?_, by decide +kernel, by decide +kernel⟩
  unfold Stream.plain; decide +kernel
/-- A voice in handler mode. -/
def inHandler : State := after (exec (.trap 0 7) (withHandler (voiceOf [])))
/-- SpecialRegisters: a listed register, a voice with no write on its way, in handler mode and not. -/
theorem witness_SpecialRegisters :
    (voiceOf []).readSreg 0x020 = some 20000 ∧ ((voiceOf []).unit 0).recent = [] ∧ (voiceOf []).sel = .voice 0 0 ∧ (inHandler.voice 0 0).hmode = true ∧
    (((voiceOf []).voice 0 0).hmode = false ∧ ((voiceOf []).unit 0).status = .resident) ∧
    (((voiceOf [(5, 5)]).stream.getX 5).toNat % 8 < 6 ∧ ((voiceOf [(5, 0x1F)]).stream.getX 5).toNat % 8 = 7 ∧
      ((voiceOf [(5, 0xF3)]).stream.getX 5).setWidth 8 &&& (0x0C : BitVec 8) = 0 ∧
      ((voiceOf [(5, 0x1F)]).stream.getX 5).setWidth 8 &&& (0x0C : BitVec 8) ≠ 0) := by decide +kernel
/-- ScratchpadLoad, ScratchpadStores: the last doubleword off the guard, and a byte of the first guard granule. -/
theorem witness_Scratchpad :
    ((voiceOf [(7, 0xFEF8)]).issues 0 0 ∧ (voiceOf [(7, 0xFEF8)]).reachesSp 0 0xFEF8 8 8 ∧ (voiceOf [(7, 0xFEF8)]).unguarded 0 0xFEF8 8 ∧
      ((voiceOf [(7, 0xFEF8)]).unit 0).spOld = []) ∧
    ((voiceOf [(7, 0xFF)]).reachesSp 0 0xFF 1 1 ∧ ((voiceOf []).unit 0).place.guarded 0xFF = true ∧ ((voiceOf []).unit 0).guard = none) := by
  unfold State.issues State.reachesSp State.unguarded
  decide +kernel
/-- A tensor of 1,024 words with an aperture from 0x10000, whose one tile is held. -/
def tileHeld : Tensor := { aper := 0x10000, ext := [1024, 1, 1, 1], str := [4096, 4096, 4096], fmt := 0, snap := [(0, List.replicate 1024 1)] }
def apertured : State := (voiceOf []).setLaunch 0 { (voiceOf []).launch 0 with tensors := [tileHeld] }
/-- GlobalLoad, GlobalStore: the last doubleword of the page, with no store yet and with one of the same cycle; a byte of the last
element of a tile that an aperture holds. -/
theorem witness_Global :
    ((voiceOf [(7, 0xFF8)]).issues 0 0 ∧ (voiceOf [(7, 0xFF8)]).reachesGlobal 0 .read 0xFF8 8 0x6FF8 ∧
      (voiceOf [(7, 0xFF8)]).versionFull 0 0x6FF8 = false ∧ ∀ i, i < 8 → (voiceOf [(7, 0xFF8)]).inWork 0 (0xFF8 + i) (0x6FF8 + i) = false) ∧
    (voiceOf [(7, 0xFF8)]).reachesGlobal 0 .write 0xFF8 8 0x6FF8 ∧
    (let t := after (exec (.st 0 6 7 3 0) (voiceOf [(7, 0xFF8)]))
     (t.unit 0).stores ≠ [] ∧ ∀ e ∈ (t.unit 0).stores, e.seenAt = t.cycleEnd ∧ e.voice ≤ 0) ∧
    (0x10FFF % 1 = 0 ∧ (apertured.unitLaunch 0).aperture 0x10FFF = some (0, tileHeld) ∧
      (tileHeld.snap.find ((0x10FFF - tileHeld.aper) / 4096)).isSome = true) := by
  refine ⟨⟨rfl, reachesGlobal_of ⟨0x6FF8, true, true, true, true, false⟩ (by decide +kernel), by decide +kernel⟩,
    reachesGlobal_of ⟨0x6FF8, true, true, true, true, false⟩ (by decide +kernel), by decide +kernel, by decide +kernel⟩
/-- The one-voice team whose page at VA 0 has the leaf entry given. -/
def pageOf (e : Nat) (xs : List (Nat × X)) : State := (voiceOf xs).writeSysList 0 ((leBytes e 8).zipIdx.map fun p => (0x5000 + p.2, p.1))
/-- AccessFaults: addresses no multiple of 8, at 2^57, in the aperture, in a page of no reading, in a weight window that nothing
binds, in a page that is none; at 2^21 and past the allocation's end. -/
theorem witness_AccessFaults :
    let g : List Instr := [.ld 0 5 7 3 0 0, .st 0 5 7 3 0, .ldw 0 5 7 3 0 0, .amo 0 1 7 5 0 5, .amr 0 5 7 6 3 5]
    let near : List Instr := [.lds 0 5 7 3 0 0, .sts 0 5 7 3 0]
    let codes (is : List Instr) (s : State) (cs : List Nat) : Bool := (is.zip cs).all fun x =>
      if x.2 = 0 then decide (((after (exec x.1 s)).unit 0).status = .resident) else faults s x.1 x.2 (s.stream.getX 7) 0x100
    let ap : State := { apertured with voices := (voiceOf [(7, 0x10000)]).voices }
    codes (g ++ near) (voiceOf [(7, 0x202)]) (List.replicate 7 9) = true ∧ codes g (voiceOf [(7, 0x200000000000000)]) (List.replicate 5 0x0A) = true ∧
    codes g ap [0, 0x0B, 0x0B, 0x0B, 0x0B] = true ∧ codes g (pageOf 0x6033 [(7, 0x200)]) (List.replicate 5 0x0B) = true ∧
    codes g (pageOf 0x6067 [(7, 0x200)]) [0x0D, 0x0D, 0x0E, 0x0D, 0x0D] = true ∧ codes g (withData (voiceOf [(7, 0x200)]) (leBytes 9 8)) [0, 0, 0x0D, 0, 0] = true ∧
    codes near (voiceOf [(7, 0x200000)]) [0x0A, 0x0A] = true ∧ codes near (voiceOf [(7, 0x1FFFF8)]) [0x10, 0x10] = true := by decide +kernel
/-- Atomics: the last doubleword of a line, which holds 9, and the last word; a comparison that is met and one that is not. -/
theorem witness_Atomics :
    let s := (voiceOf [(5, 9), (6, 8), (7, 0x278)]).landSys 1 ((leBytes 9 8).zipIdx.map fun p => (0x6278 + p.2, p.1))
    s.issues 0 0 ∧ s.reachesAtomic 0 0x278 8 0x6278 ∧ s.poisoned 0x6278 = false ∧ 0x6278 % 128 ≤ 120 ∧
    (BitVec.ofNat 64 (s.latestNat 0 0x6278 8) = s.stream.getX 5 ∧ BitVec.ofNat 64 (s.latestNat 0 0x6278 8) ≠ s.stream.getX 6) ∧
    (∀ i, i < 8 → s.inWork 0 (0x278 + i) (0x6278 + i) = false) ∧
    (let t := (voiceOf [(5, 9), (6, 8), (7, 0x27C)]).landSys 1 ((leBytes 9 4).zipIdx.map fun p => (0x627C + p.2, p.1))
     t.reachesAtomic 0 0x27C 4 0x627C ∧ 0x627C % 128 ≤ 124 ∧ t.latestNat 0 0x627C 4 = (t.stream.getX 5).toNat % 2 ^ 32 ∧
       t.latestNat 0 0x627C 4 ≠ (t.stream.getX 6).toNat % 2 ^ 32) := by
  refine ⟨by unfold State.issues; decide +kernel, ⟨reachesGlobal_of ⟨0x6278, true, true, true, true, false⟩ (by decide +kernel), by decide +kernel⟩, by decide +kernel,
    by decide, by decide +kernel, by decide +kernel,
    ⟨reachesGlobal_of ⟨0x627C, true, true, true, true, false⟩ (by decide +kernel), by decide +kernel⟩, by decide, by decide +kernel, by decide +kernel⟩
/-- SpansAndFences: a team with a store in its version, which nothing keeps from its boundary. -/
def stored : State := after (exec (.st 0 6 7 3 0) (voiceOf [(6, 5), (7, 0x200)]))
theorem witness_SpansAndFences :
    (stored.issues 0 0 ∧ stored.owed = none ∧ (stored.unit 0).vlost = none ∧ (stored.unitCore 0).mig = none ∧
      findLast (fun e => decide (e.pa = 0x6200)) (stored.unit 0).stores = some ⟨0x6200, 5, 1, 2, 0⟩) ∧
    stored.reachesGlobal 0 .read 0x200 1 0x6200 ∧ (apertured.unitLaunch 0).aperture 0x10000 ≠ none := by
  refine ⟨?_, reachesGlobal_of ⟨0x6200, true, true, true, true, false⟩ (by decide +kernel), by decide +kernel⟩
  unfold State.issues; decide +kernel
/-- AccessFaults: an atomic of the last byte of a store of the open version, and one past it. -/
theorem witness_AccessFaults_span :
    let s (a : X) : State := stored.setVoice 0 0 ((voiceOf [(7, a)]).voice 0 0)
    (s 0x200).reachesGlobal 0 .atomic 0x200 4 0x6200 ∧
    faults (s 0x204) (.amo 0 0 7 5 0 5) 0x11 0x204 0x100 = true ∧ ((after (exec (.amo 0 0 7 5 0 5) (s 0x208))).unit 0).status = .resident :=
  ⟨reachesGlobal_of ⟨0x6200, true, true, true, true, false⟩ (by decide +kernel), by decide +kernel, by decide +kernel⟩
/-- SpansAndFences: writes of scopes 1 and 2 of this team, the second over another team's, and one under another team's of scope 4: what the
host, the team and the other team read after a fence of scope 5 and after one of scope 2. -/
theorem witness_SpansAndFences_widened :
    let s : State := { withData (voiceOf [(7, 0x200)]) (leBytes 9 8) with
      narrow := [⟨0x6200, 5, 1, 0, 0, 0⟩, ⟨0x6201, 7, 2, 1, 0, 5⟩, ⟨0x6201, 8, 1, 0, 0, 0⟩, ⟨0x6202, 8, 1, 0, 0, 0⟩, ⟨0x6202, 3, 4, 1, 0, 5⟩] }
    let see (t : State) : List (List Byte) := [.host, .team 0, .team 1].map fun a => t.seenBytes a (t.unitKey 0) 0x6200 3
    see s = [[9, 0, 0], [5, 8, 3], [9, 7, 3]] ∧ see (after (exec (.fence 0 5) s)) = [[5, 8, 8], [5, 8, 3], [5, 8, 3]] ∧
    see (after (exec (.fence 0 2) s)) = [[9, 0, 0], [5, 8, 3], [5, 8, 3]] := by decide +kernel
/-- Sixteen zero bytes at VA 0x200, a barrier's or a semaphore's. -/
def object (xs : List (Nat × X)) (bs : List Byte) : State := withData (voiceOf ((7, 0x200) :: xs)) bs
theorem object_atomic (xs : List (Nat × X)) (bs : List Byte) (n : Nat) (hn : 0x200 % n = 0)
    (h : (object xs bs).translate 0 .atomic 0x200 = .ok ⟨0x6200, true, true, true, true, false⟩ ∧
      ((object xs bs).unitLaunch 0).aperture 0x200 = none ∧ (object xs bs).overSpan 0 0x6200 n = false) :
    (object xs bs).reachesAtomic 0 0x200 n 0x6200 := ⟨⟨hn, by decide, h.2.1, _, h.1, rfl, rfl⟩, h.2.2⟩
/-- BarrierInitialise: one party, as many bytes as the word holds. -/
theorem witness_BarrierInitialise :
    (object [(6, 0x0FFFFFFFFFFFF001)] (leBytes 0 16)).issues 0 0 ∧ (object [(6, 0x0FFFFFFFFFFFF001)] (leBytes 0 16)).reachesAtomic 0 0x200 16 0x6200 ∧
    bits 0x0FFFFFFFFFFFF001 0 12 ≠ 0 ∧ bits 0x0FFFFFFFFFFFF001 60 4 = 0 ∧ (object [(6, 0x0FFFFFFFFFFFF001)] (leBytes 0 16)).poisoned 0x6200 = false := by
  exact ⟨by unfold State.issues; decide +kernel, object_atomic _ _ 16 (by decide) (by decide +kernel), by decide, by decide, by decide +kernel⟩
/-- BarrierArriveAndWait: two parties and one arrived; done; none left to arrive; and a voice that waits there already. -/
def barrierOf (b : Barrier) : State := object [] (leBytes b.toNat 16)
theorem witness_BarrierArriveAndWait :
    (let w := (barrierOf ⟨0, 1, false, false, 2, 5, 1⟩).setVoice 0 0 { (voiceOf [(7, 0x200)]).voice 0 0 with status := .waiting (.barrier 0x6200 1) 0 }
     w.issues 0 0 ∧ (w.unit 0).vlost = none ∧ (w.voice 0 0).status = .waiting (.barrier 0x6200 1) 0 ∧ (w.barrier 0 0x6200).fin = false ∧
       (w.barrier 0 0x6200).gen = 1) ∧
    ∀ b ∈ ([⟨0, 1, false, false, 2, 5, 1⟩, ⟨0, 2, true, false, 2, 5, 1⟩] : List Barrier),
      ((barrierOf b).issues 0 0 ∧ (barrierOf b).owed = none ∧ ((barrierOf b).unit 0).vlost = none ∧ ((barrierOf b).unit 0).stores = [] ∧
        ((barrierOf b).unit 0).status = .resident ∧ (barrierOf b).poisoned 0x6200 = false ∧ ((barrierOf b).voice 0 0).status = .running) ∧
      (barrierOf b).reachesAtomic 0 0x200 16 0x6200 ∧ (barrierOf b).barrier 0 0x6200 = b := by
  refine ⟨by unfold State.issues; decide +kernel, ?_⟩
  intro b hb
  simp only [List.mem_cons, List.not_mem_nil, or_false] at hb
  rcases hb with rfl | rfl
  all_goals
    refine ⟨?_, object_atomic _ _ 16 (by decide) (by decide +kernel), by decide +kernel⟩
    unfold State.issues; decide +kernel
/-- MonitorAndWait: a line to watch, no watch, one that has fired, one past its deadline and one before it. -/
theorem witness_MonitorAndWait :
    let w (f : Bool) (xs : List (Nat × X)) : State := (voiceOf xs).setVoice 0 0 { (voiceOf xs).voice 0 0 with watch := some ⟨196, 0x200, f⟩ }
    ((object [] []).issues 0 0 ∧ ((object [] []).voice 0 0).watch = none) ∧ (object [] []).reachesGlobal 0 .read 0x200 1 0x6200 ∧
    ((w true []).voice 0 0).watch = some ⟨196, 0x200, true⟩ ∧
    ((w false []).stream.getX 5).toNat ≤ (w false []).dcc ((w false []).unit 0).place.die ∧
    ((w false [(5, 1)]).dcc ((w false [(5, 1)]).unit 0).place.die < ((w false [(5, 1)]).stream.getX 5).toNat ∧
      ((w false [(5, 1)]).voice 0 0).status = .running) := by
  refine ⟨⟨by unfold State.issues; decide +kernel, by decide +kernel⟩, reachesGlobal_of ⟨0x6200, true, true, true, true, false⟩ (by decide +kernel), by decide +kernel,
    by decide +kernel, by decide +kernel⟩
/-- Semaphores: the count is what is asked for. -/
theorem witness_Semaphores :
    let s := object [(6, 3)] (leBytes 3 8)
    s.issues 0 0 ∧ s.reachesAtomic 0 0x200 8 0x6200 ∧ s.poisoned 0x6200 = false ∧ s.semq = [] ∧ (3 : Int) ≤ s.semCount 0 0x6200 ∧
    s.semCount 0 0x6200 + 3 < 2 ^ 63 ∧ s.narrow = [] := by
  exact ⟨by unfold State.issues; decide +kernel, object_atomic _ _ 8 (by decide) (by decide +kernel), by decide +kernel, by decide +kernel, by decide +kernel,
    by decide +kernel, by decide +kernel⟩
/-- A team whose stage pushes to and pops from queue 0, with the entries given. -/
def queueOf (items : List (List Byte)) : State :=
  let s := voiceOf [(7, 0x2000)]
  let l := s.launch 0
  s.setLaunch 0 { l with
    queues := [{ qent := 2, qsize := 8, items := items }]
    stages := l.stages.map fun g => { g with pushm := 1, popm := 1 } }
/-- The same whose queue no stage pushes to. -/
def unpushed : State :=
  let l := (queueOf []).launch 0
  (queueOf []).setLaunch 0 { l with stages := l.stages.map fun g => { g with pushm := 0 } }
/-- StageQueues: room for a push, a full queue, an entry to pop, an empty queue that is open, and one that is closed. -/
theorem witness_StageQueues :
    ((queueOf []).issues 0 0 ∧ ((queueOf []).voice 0 0).status = .running ∧ (queueOf []).queueCheck true 7 0 = .ok 0 ∧
      ((queueOf []).queue 0 0).items.length < ((queueOf []).queue 0 0).qent ∧ ((queueOf []).queue 0 0).pushers = [] ∧
      ((queueOf []).queue 0 0).poppers = []) ∧
    ((queueOf [leBytes 1 8, leBytes 2 8]).queueCheck true 7 0 = .ok 0 ∧
      ((queueOf [leBytes 1 8, leBytes 2 8]).queue 0 0).items.length = ((queueOf [leBytes 1 8, leBytes 2 8]).queue 0 0).qent) ∧
    ((queueOf [leBytes 1 8]).queueCheck false 7 0 = .ok 0 ∧ ((queueOf [leBytes 1 8]).unit 0).withdrawn = false ∧
      (leBytes 1 8).length = ((queueOf [leBytes 1 8]).queue 0 0).qsize ∧ (queueOf [leBytes 1 8]).unguarded 0 0x2000 8) ∧
    (let w := (queueOf [leBytes 1 8]).setUnit 0 { (voiceOf []).unit 0 with withdrawn := true }
     let t := w.setLaunch 0 { w.launch 0 with stages := (w.launch 0).stages.map fun g => { g with inq := 0 } }
     t.queueCheck false 7 0 = .ok 0 ∧ (t.queue 0 0).items ≠ [] ∧ (t.unit 0).withdrawn = true ∧ (t.unitStage 0).inq = 0) ∧
    ((queueOf []).queueCheck false 7 0 = .ok 0 ∧ (queueOf []).queueOpen 0 0 = true) ∧
    (unpushed.queueCheck false 7 0 = .ok 0 ∧ (unpushed.queue 0 0).items = [] ∧ unpushed.queueOpen 0 0 = false) := by
  unfold State.issues State.unguarded; decide +kernel

/-- What is answered, with what holds of it. -/
theorem of_ok {α : Type} {x : Except Trap α} (p : α → Bool) (h : (match x with | .ok v => p v | .error _ => false) = true) :
    ∃ v, x = .ok v ∧ p v = true := by
  cases x with
  | error t => simp at h
  | ok v => exact ⟨v, rfl, h⟩
/-- `State.takes` as a test. -/
def takesB (s : State) (u : Nat) (e : Engine) (j n : Nat) (pins : List Nat) : Bool :=
  decide (s.sel = .ctx u e j) && s.room n && decide (pins.eraseDups.length ≤ 4096) && !s.pltFull (s.unit u).place.die pins.eraseDups
theorem takes_of {s : State} {u : Nat} {e : Engine} {j n : Nat} {pins : List Nat} (h : takesB s u e j n pins = true) :
    s.takes u e j n pins := by
  simp only [takesB, Bool.and_eq_true, decide_eq_true_eq, Bool.not_eq_true'] at h
  exact ⟨h.1.1.1, h.1.1.2, h.1.2, h.2⟩
/-- EngineContexts: idle contexts at aligned entries, a context that is not idle. -/
theorem witness_EngineContexts :
    let s := voiceOf [(8, 0x400)]
    let t := after (exec (.fork 0 8 0 0) s)
    (s.issues 0 0 ∧ s.forkBusy .matrix 0 = false ∧ s.forkBusy .vector 0 = false ∧ s.forkBusy .copy 8 = false ∧
      (∀ r ∈ ([0, 0, 8] : List (BitVec 6)), (s.stream.getX r).toNat % 4 = 0) ∧
      ∀ x ∈ maskEngines 7, (s.ctx 0 x 0).status = .idle ∧ (s.ctx 0 x 0).idleAt ≤ s.cycleStart) ∧
    (t.issues 0 0 ∧ Engine.copy ∈ maskEngines 4 ∧ (t.ctx 0 .copy 0).status ≠ .idle ∧ (t.voice 0 0).status = .running) := by
  unfold State.issues; decide +kernel
/-- YieldParkRetire: no request, one whose deadline has not come and one whose has, a second voice that runs and one that is parked,
a team whose contexts have all arrived, and one with a context that has not. -/
theorem witness_YieldParkRetire :
    let v := voiceOf []
    let y := v.setUnit 0 { v.unit 0 with yreq := some (1, 48000000) }
    let z := (v.setUnit 0 { v.unit 0 with yreq := some (1, 9) }).setDie 0 { dcc := 10 }
    let b := after (exec (.fork 0 8 0 0) (voiceOf [(8, 0x400)]))
    (v.issues 0 0 ∧ (v.unit 0).status = .resident ∧ v.owed = none ∧ (v.unit 0).vlost = none ∧ (v.unit 0).yreq = none) ∧
    (y.issues 0 0 ∧ y.owed = none ∧ (y.unit 0).status = .resident ∧ y.cycleStart ≤ 48000000) ∧
    (z.issues 0 0 ∧ z.owed = none ∧ (z.unit 0).vlost = none ∧ 9 < z.cycleStart) ∧
    ((twoVoices []).unparkedNow 0 0 = false ∧ (twoVoices []).allOff 0 0 = false) ∧
    (let w := after (exec (.parkUn 0 0) { twoVoices [] with sel := .voice 0 1 })
     ({ w with sel := .voice 0 0 } : State).issues 0 0 ∧ w.unparkedNow 0 0 = true) ∧
    ((1 : BitVec 2).toNat ≠ 0 ∧ ((twoVoices []).voice 0 1).status = .running ∧ (twoVoices []).owed = none) ∧
    (let p := (twoVoices []).setVoice 0 1 {}
     1 < (p.unit 0).place.voices ∧ (p.voice 0 1).status = .parked ∧ p.owed = none) ∧
    ((v.unit 0).retireAt = none ∧ v.othersYet 0 0 = false ∧ v.arrived 0 = true ∧ 0 < v.nextUnit) ∧
    ((b.unit 0).retireAt = none ∧ b.owed = none ∧ (b.voice 0 0).status = .running ∧ b.arrived 0 = false) := by
  unfold State.issues; decide +kernel
/-- CounterQuestions: a voice that asks of its launch's counter, of a counter that is not there, and of one that has ended. -/
theorem witness_CounterQuestions :
    let a (q : Ask) : State := (voiceOf []).setVoice 0 0 { (voiceOf []).voice 0 0 with ask := some q }
    let e := (a (.cancel 0 0 5)).setLaunch 0 { (a (.cancel 0 0 5)).launch 0 with count := { state := .complete } }
    (voiceOf []).issues 0 0 ∧
    (((a (.read 0 0 5)).unit 0).status = .resident ∧ ((a (.read 0 0 5)).unit 0).away = false ∧ ((a (.read 0 0 5)).counter ((a (.read 0 0 5)).unit 0).place.job 0 0).isSome = true) ∧
    (a (.cancel 1 9 5)).counter ((a (.cancel 1 9 5)).unit 0).place.job 1 9 = none ∧
    (e.counter (e.unit 0).place.job 0 0).map Counter.isOpen = some false ∧
    (let o (l i : Nat) : State := { a (.cancel l i 5) with
       graphs := [(gkey (2 ^ 32 - 1) 3, {})], phases := [(gkey (2 ^ 32 - 1) 2, {})], hjobs := [(2 ^ 32 - 1, {})] }
     ∀ x ∈ [(0, 0), (1, 3), (2, 2), (3, 0)], ((o x.1 x.2).voice 0 0).ask = some (.cancel x.1 x.2 5) ∧
       ((o x.1 x.2).counter ((o x.1 x.2).unit 0).place.job x.1 x.2).map Counter.isOpen = some true) := by
  unfold State.issues; decide +kernel
/-- PowerRequests: the limits of a window, and levels below and above the grant held. -/
theorem witness_PowerRequests :
    let s := (voiceOf [(5, 0xFFFFF), (6, 0x1000000), (7, 3), (8, 15), (9, 16)]).setUnit 0 { (voiceOf []).unit 0 with pgnt := 3 }
    s.issues 0 0 ∧ (s.unit 0).recent.find 0x023 = none ∧ (s.stream.getX 5).toNat < 2 ^ 20 ∧ (1 ≤ (s.stream.getX 6).toNat ∧ (s.stream.getX 6).toNat ≤ 2 ^ 24) ∧
    (1 ≤ (s.stream.getX 7).toNat ∧ (s.stream.getX 7).toNat ≤ (s.unit 0).pgnt.toNat) ∧
    ((s.stream.getX 8).toNat ≤ 15 ∧ (s.unit 0).pgnt.toNat < (s.stream.getX 8).toNat) ∧ (2 ≤ (s.stream.getX 9).toNat ∧ (s.stream.getX 9).toNat ≤ 16) ∧
    (s.stallOn (.clock 3 16 (s.dcc 0))).wantDiv 0 (s.home 0) 3 ≠ ((s.unitCore 0).clk 3).div ∧
    (s.stallOn (.clock 3 4 (s.dcc 0))).wantDiv 0 (s.home 0) 3 = ((s.unitCore 0).clk 3).div := by
  unfold State.issues; decide +kernel
/-- TrapAndReturn: a voice with a handler, one in it, one with none to return from. -/
theorem witness_TrapAndReturn :
    ((withHandler (voiceOf [])).issues 0 0 ∧ ((withHandler (voiceOf [])).voice 0 0).hmode = false ∧
      (withHandler (voiceOf [])).handler 0 ≠ 0 ∧ (voiceOf []).handler 0 = 0 ∧ ((withHandler (voiceOf [])).voice 0 0).st.plain) ∧
    ((inHandler.voice 0 0).hmode = true ∧ xswBad (inHandler.voice 0 0).xsw = false ∧ (inHandler.voice 0 0).xpc.toNat % 16 = 0) ∧
    (((voiceOf []).voice 0 0).hmode = false ∧ ((voiceOf []).unit 0).status = .resident) := by
  unfold State.issues Stream.plain; decide +kernel
/-- TrapAndReturn: TRAP in handler mode over a cause of 0x80; statuses that R448 does not allow, one for each of its clauses, and two
that it does; a return to an XPC off a bundle. -/
theorem witness_TrapAndReturn_faults :
    let h (f : Voice → Voice) : State := inHandler.setVoice 0 0 (f (inHandler.voice 0 0))
    let x (w : X) : State := h fun v => { v with xsw := w }
    faults inHandler (.trap 0 9) 0x2A 0x8000000080 0x200 = true ∧
    faults { voiceOf [] with ir := 0xAA000000 } (.tret 0) 0x01 0xAA00000000000000 0x100 = true ∧
    ([0x4000000000, 0x400000, 1, 0x200001].all fun w => xswBad w && faults (x w) (.tret 0) 0x29 w 0x200) = true ∧
    ([0, 0x200041].all fun w => !xswBad w && decide (((after (exec (.tret 0) (x w))).unit 0).status = .resident)) = true ∧
    faults (h fun v => { v with xpc := 0x108 }) (.tret 0) 0x06 0x108 0x200 = true := by decide +kernel

/-! A team with a bound weight region, a tensor, and formats -/

/-- Region 1 of die 0: a programmable pair of INT8 tiles, two K-steps of one column group, homed on core 0. -/
def pair : Region := { fmt := 4, pair := true, kext := 32, next := 160, off0 := 0, off1 := 0x100000 }
/-- The team with region 1 at index 0 of its job's table and bound first by its stage, every format entry INT8, and an 8-bit tensor
of 4 rows of 64 elements in its page. -/
def furnished (s : State) : State :=
  let l := s.launch 0
  let s1 := s.setLaunch 0 { l with
    stages := l.stages.map fun g => { g with bind := [0x8000] }
    tensors := [{ base := 0, ext := [64, 4, 1, 1], str := [64, 256, 256], fmt := 4, tiles := [(0, ⟨0x6000, true, true, true, true, false⟩)] }] }
  let j := jkey 0 (2 ^ 32 - 1)
  ({ s1 with
    regions := [(rkey 0 1, pair)]
    jobs := s1.jobs.put j { s1.job 0 (2 ^ 32 - 1) with table := [⟨1, 0, true⟩] } } : State).setUnit 0
    { s1.unit 0 with ftab := (List.range 64).map fun k => (k, 4) }
/-- A context of that team. -/
def rich (e : Engine) (xs : List (Nat × X)) : State := furnished (ctxOf e xs)
/-- A scratchpad A operand of 4 rows of 16 bytes at 0x1000, stride 64, and the weight tile at the region's start. -/
def mmaRegs : List (Nat × X) := [(4, 0x8001000), (5, 4), (6, 0), (7, 100)]
/-- ArrayCommandsEnter: an MMA of that operand, and an MMAG of a table at 0x2000. -/
theorem witness_ArrayCommandsEnter :
    (∃ v, (rich .matrix mmaRegs).prepMma (.mma 3 4 6 1 0 0 0 1 0 1) 3 4 6 false false false true false 1 = .ok v ∧
      (rich .matrix mmaRegs).takes 0 .matrix 0 4 v.2.pins) ∧ (rich .matrix mmaRegs).admits 0 12 ∧
    (∃ v, (rich .matrix ((6, 0x2000) :: mmaRegs)).prepMmag (.mmag 3 4 6 1 0 0 1) 3 4 6 false false 1 = .ok v ∧
      (rich .matrix ((6, 0x2000) :: mmaRegs)).takes 0 .matrix 0 4 v.2.pins) := by
  refine ⟨?_, ?_, ?_⟩
  · obtain ⟨v, h, k⟩ := of_ok (fun v => takesB (rich .matrix mmaRegs) 0 .matrix 0 4 v.2.pins)
      (x := (rich .matrix mmaRegs).prepMma (.mma 3 4 6 1 0 0 0 1 0 1) 3 4 6 false false false true false 1) (by decide +kernel)
    exact ⟨v, h, takes_of k⟩
  · unfold State.admits; decide +kernel
  · obtain ⟨v, h, k⟩ := of_ok (fun v => takesB (rich .matrix ((6, 0x2000) :: mmaRegs)) 0 .matrix 0 4 v.2.pins)
      (x := (rich .matrix ((6, 0x2000) :: mmaRegs)).prepMmag (.mmag 3 4 6 1 0 0 1) 3 4 6 false false 1) (by decide +kernel)
    exact ⟨v, h, takes_of k⟩
/-- AccumulatorMovesEnter: all 96 rows, and one row at the end of the allocation. -/
theorem witness_AccumulatorMovesEnter :
    let s := rich .matrix [(5, 0x3F800000), (6, 0x6000), (8, 0x5000FD80), (9, 0x100), (10, 0x1400FF60)]
    s.takes 0 .matrix 0 2 [] ∧ rowWord (s.stream.getX 6) = some (96, 0) ∧ scaleBad ((s.stream.getX 5).setWidth 32) = false ∧
    (rowWord (s.stream.getX 9) = some (1, 0) ∧ spWord (s.stream.getX 8) 640 = some (640, 0xFD80) ∧ (s.unit 0).place.holds 0xFD80 640 = true) ∧
    (entCode (s.entryOf 0) ≠ 6 ∧ entSm (s.entryOf 0) = 0 ∧ spWord (s.stream.getX 10) (160 * elemBytes (entCode (s.entryOf 0))) = some (160, 0xFF60) ∧
      (s.unit 0).place.holds 0xFF60 (160 * elemBytes (entCode (s.entryOf 0))) = true) := by
  exact ⟨takes_of (by decide +kernel), by decide +kernel⟩
/-- WeightLoad: the page at VA 0x1000 is a window on the region's start. -/
theorem witness_WeightLoad :
    let s := (furnished (voiceOf [(7, 0x1000)])).writeSysList 0 ((leBytes 0x47 8).zipIdx.map fun p => (0x5008 + p.2, p.1))
    s.issues 0 0 ∧ s.checkWindow 0 0x1000 8 = .ok 0 ∧ s.boundAt 0 0 = some (rkey 0 1, pair, false, false, false, 0) ∧
    s.poisonAt pair (pair.addr (waDie 0) (waCore 0) (pair.actOn (waCore 0)) false 0) 8 = none ∧
    s.owns (s.unit 0).place.die (s.unit 0).place.job pair = true := by
  unfold State.issues; decide +kernel
/-- The region of `furnished` with nested blocks of 8-bit codes and their scales from the start of the scale area. -/
def nested (s : State) : State := { s with regions := [(rkey 0 1, { pair with fmt := 5, sm := 1, soff0 := 0x200000, soff1 := 0x300000 })] }
/-- WeightAndPrefetchCommandsEnter: a tensor operand of four rows, the second tile of the region, an output of one K-step at the
start of the allocation, and a bound programmable pair. -/
theorem witness_WeightAndPrefetchCommandsEnter :
    let s := rich .matrix [(4, 0x8000000000000000), (5, 4), (6, 2560), (9, 0x1400)]
    let t := nested s
    ((∃ v, s.prepPref (.mpref 4) 4 = .ok v ∧ s.takes 0 .matrix 0 2 v.2.pins) ∧
      ∃ v, s.prepPref (.munp 4) 4 = .ok v ∧ s.takes 0 .matrix 0 2 v.2.pins) ∧
    (s.takes 0 .matrix 0 2 [] ∧ ∃ o m, s.firstTile 0 (s.stream.getX 6).toNat = some (o, m) ∧ o.fits 1 1 = true ∧
      s.admits 0 (drawLevel o.region.fmt o.region.sm 4)) ∧
    (t.takes 0 .matrix 0 2 [] ∧ ∃ o m, t.firstTile 0 0 = some (o, m) ∧ o.region.sm = 1 ∧
      bits (0x1400000000 : Nat) 54 10 = 0 ∧ (mtrqOut 0x1400000000).1 % 16 = 0 ∧ (mtrqOut 0x1400000000).2.1 % 2 = 0 ∧
      o.fits (mtrqOut 0x1400000000).2.2 1 = true ∧
      (t.unit 0).place.holds (mtrqOut 0x1400000000).1 (rowBytes o.region.fmt 160 * 16 * (mtrqOut 0x1400000000).2.2) = true ∧
      (t.unit 0).place.holds (mtrqOut 0x1400000000).2.1 (320 * (mtrqOut 0x1400000000).2.2) = true ∧
      t.admits 0 (drawLevel o.region.fmt 1 4)) ∧
    s.binding 0 0 = some 0 ∧ s.tableRegion (s.unit 0).place.die (s.unit 0).place.job 0 = some (rkey 0 1, ⟨1, 0, true⟩, pair) ∧
    pair.pair = true := by
  refine ⟨⟨?_, ?_⟩, ⟨takes_of (by decide +kernel), ⟨rkey 0 1, pair, 0, 0, 1, false⟩, false, by decide +kernel, by decide +kernel,
    .inl (by decide +kernel)⟩, ⟨takes_of (by decide +kernel),
    ⟨rkey 0 1, { pair with fmt := 5, sm := 1, soff0 := 0x200000, soff1 := 0x300000 }, 0, 0, 0, false⟩, false, by decide +kernel,
    by decide +kernel, by decide +kernel, by decide +kernel, by decide +kernel, by decide +kernel, by decide +kernel, by decide +kernel,
    .inl (by decide +kernel)⟩, by decide +kernel, by decide +kernel, rfl⟩
  all_goals
    let s := rich .matrix [(4, 0x8000000000000000), (5, 4), (6, 2560), (9, 0x1400)]
  · obtain ⟨v, h, k⟩ := of_ok (fun v => takesB s 0 .matrix 0 2 v.2.pins) (x := s.prepPref (.mpref 4) 4) (by decide +kernel)
    exact ⟨v, h, takes_of k⟩
  · obtain ⟨v, h, k⟩ := of_ok (fun v => takesB s 0 .matrix 0 2 v.2.pins) (x := s.prepPref (.munp 4) 4) (by decide +kernel)
    exact ⟨v, h, takes_of k⟩

/-! Engine words -/

/-- DecodeTimeWords: a legal entry, scale, shape and index, a bound region, and a CWAIT with nothing and with one command to wait for. -/
theorem witness_DecodeTimeWords :
    let m := rich .matrix [(4, 255), (5, 0x3F800000), (6, 4)]
    let v := ctxOf .vector [(4, 0x00021F1F)]
    let c := ctxOf .copy []
    let d := after (exec (.csig 0 1) (ctxOf .copy []))
    (m.sel = .ctx 0 .matrix 0 ∧ m.room 0 = true ∧ entryBad ((m.stream.getX 6).setWidth 32) = false ∧ (m.stream.getX 4).toNat < 256 ∧
      scaleBad ((m.stream.getX 5).setWidth 32) = false ∧ (m.unit 0).recent = [] ∧ m.binding 0 0 = some 0 ∧
      m.tableRegion (m.unit 0).place.die (m.unit 0).place.job 0 = some (rkey 0 1, ⟨1, 0, true⟩, pair)) ∧
    (v.sel = .ctx 0 .vector 0 ∧ v.room 0 = true ∧ vshBad (v.vx 4) = false) ∧
    (c.sel = .ctx 0 .copy 0 ∧ c.room 0 = true ∧ ((c.ctx 0 .copy 0).queue ++ (c.ctx 0 .copy 0).flight).any (Cmd.awaited none) = false) ∧
    (d.sel = .ctx 0 .copy 0 ∧ d.room 0 = true ∧ ((d.ctx 0 .copy 0).queue ++ (d.ctx 0 .copy 0).flight).any (Cmd.awaited none) = true) := by
  decide +kernel
/-- SynchronisingCommandsEnter: no object, and the object at VA 0x200. -/
theorem witness_SynchronisingCommandsEnter :
    let m := ctxOf .matrix [(4, 0x200)]
    let c := ctxOf .copy [(4, 0x200)]
    (m.takes 0 .matrix 0 0 [] ∧ m.takes 0 .matrix 0 1 []) ∧
    (m.takes 0 .matrix 0 1 [6] ∧ m.objectAt 0 (m.stream.getX 4).toNat (fieldBad m 1) = .ok (0x6200, [6])) ∧
    (c.takes 0 .copy 0 1 [6] ∧ c.objectAt 0 (c.stream.getX 4).toNat (copyBad c 1) = .ok (0x6200, [6])) ∧ c.takes 0 .copy 0 0 [] :=
  ⟨⟨takes_of (by decide +kernel), takes_of (by decide +kernel)⟩, ⟨takes_of (by decide +kernel), by decide +kernel⟩,
    ⟨takes_of (by decide +kernel), by decide +kernel⟩, takes_of (by decide +kernel)⟩
/-- TileCommandsEnter: at the shape of reset, 32 rows of 32 words, every form's shape fits, and there is room for two operands. -/
theorem witness_TileCommandsEnter :
    let s := ctxOf .vector [(4, 7)]
    (∀ n ∈ [1, 2], s.takes 0 .vector 0 n []) ∧ s.shape.sz = 4 ∧ s.shape.elems * 4 ≤ 4096 ∧ s.shape.elems ≤ 1024 := by
  refine ⟨?_, by decide +kernel⟩
  intro n h
  simp only [List.mem_cons, List.not_mem_nil, or_false] at h
  obtain rfl | rfl := h <;> exact takes_of (by decide +kernel)
/-- TileMemoryCommandsEnter: a tile in the scratchpad at 0x1000, stride 128, and in a tensor of words; whole formats, and nested
ones; a position at the last window. -/
theorem witness_TileMemoryCommandsEnter :
    let s := ctxOf .vector [(4, 0x10001000), (6, 0x8040)]
    let q : State := s.setUnit 0 { s.unit 0 with ftab := (List.range 64).map fun k => (k, if k % 4 = 1 then 0x10 + 5 else 4) }
    (s.shape.elems * s.shape.sz ≤ 4096 ∧ s.shape.elems ≤ 1024 ∧ s.vtensorOk (VAddr.of (s.vx 4) (s.vx 5)) = true ∧
      vaddrOk s.shape true (s.vx 4) (s.vx 5) = true ∧
      (∃ o, s.checkTile (VAddr.of (s.vx 4) (s.vx 5)) false = .ok o ∧ s.takes 0 .vector 0 3 o.pins) ∧
      ∃ o, s.checkTile (VAddr.of (s.vx 4) (s.vx 5)) true = .ok o ∧ s.takes 0 .vector 0 3 o.pins) ∧
    ((s.vx 6).toNat < 2 ^ 21 ∧ s.takes 0 .vector 0 2 []) ∧
    (q.takes 0 .vector 0 1 [] ∧ entCode (q.entryOf 0) ≠ 6 ∧ entSm (q.entryOf 0) = 0 ∧ quantCode (q.entryOf 1) = true ∧ q.shape.nc % 16 = 0 ∧
      q.shape.elems * max (elemBytes (entCode (q.entryOf 0))) (elemBytes (entCode (q.entryOf 0))) ≤ 4096) ∧
    (posOk (s.vx 6) = true ∧ posRow (s.vx 6) + s.shape.nr ≤ 96 ∧ posCol (s.vx 6) + s.shape.nc ≤ 160 ∧ s.shape.sz = 4) := by
  let s := ctxOf .vector [(4, 0x10001000), (6, 0x8040)]
  refine ⟨⟨by decide +kernel, by decide +kernel, by decide +kernel, by decide +kernel, ?_, ?_⟩, ⟨by decide +kernel, takes_of (by decide +kernel)⟩,
    ⟨takes_of (by decide +kernel), by decide +kernel⟩, by decide +kernel⟩
  · obtain ⟨v, h, k⟩ := of_ok (fun v => takesB s 0 .vector 0 3 v.pins) (x := s.checkTile (VAddr.of (s.vx 4) (s.vx 5)) false) (by decide +kernel)
    exact ⟨v, h, takes_of k⟩
  · obtain ⟨v, h, k⟩ := of_ok (fun v => takesB s 0 .vector 0 3 v.pins) (x := s.checkTile (VAddr.of (s.vx 4) (s.vx 5)) true) (by decide +kernel)
    exact ⟨v, h, takes_of k⟩

/-- A copy context's team with the four operand words given, the region programmable, the tensor shadowed over two tiles, and at VA
0x200 the group of this context and of one on core 1. -/
def copier (a a' b b' : X) : State :=
  let s := rich .copy [(4, a), (5, a'), (6, b), (7, b')]
  let l := s.launch 0
  withData (s.setLaunch 0 { l with tensors := l.tensors.map fun t =>
    { t with shd := true, tiles := [(0, ⟨0x6000, true, true, true, true, false⟩), (1, ⟨0x7000, true, true, true, true, false⟩)] } })
    (leBytes 2 4 ++ leBytes 9 4 ++ leBytes 0 8 ++ leBytes 0xFFFF 8 ++ leBytes 0x10FFFF 8)
/-- The operands pass, with room for them and for the pins of a sync object. -/
def enters (s : State) (ok : Bool) (op : CopyOp) (fs : List Nat) : Bool :=
  ok && match op.checked 0 fs [] with
  | .ok o => takesB s 0 .copy 0 4 (o.pins ++ fs)
  | .error _ => false
theorem enters_of {s : State} {ok : Bool} {op : CopyOp} {fs : List Nat} (h : enters s ok op fs = true) :
    ok = true ∧ ∃ o, op.checked 0 fs [] = .ok o ∧ s.takes 0 .copy 0 4 (o.pins ++ fs) := by
  cases k : op.checked 0 fs [] with
  | error t => simp [enters, k] at h
  | ok o =>
    simp only [enters, k, Bool.and_eq_true] at h
    exact ⟨h.1, o, rfl, takes_of h.2⟩
/-- CopyCommandsEnter: each form with legal words. -/
theorem witness_CopyCommandsEnter :
    let lin := copier 0x8000000000001000 0x8000000000002000 64 0
    let row := copier 0x8000000000001000 0x8000000000002000 0x0004000000001003 0
    let box := copier 0x8000000000000000 0x8002000 0x0000100F00000000 0
    let idx := copier 0x8000000000000000 0x8002000 0x0000001E00203000 0
    let tn := copier 0x8000000000000000 0 0 0
    let wp := copier 0x8000000000001000 0 64 0
    let wd := copier 0 0x2000 0 0
    let gr := copier 0x800001000 0x200 0x40 0
    let sy := copier 0x8000000000001000 0x8000000000002000 64 0x208
    (enters lin (cpyOk (lin.copyRegs 4 6)) (lin.linear (lin.copyRegs 4 6) 0 0 (linearCount (lin.copyRegs 4 6).b) 1) [] = true ∧
      enters row (cpy2Ok (row.copyRegs 4 6)) (row.linear (row.copyRegs 4 6) (srcStride (row.copyRegs 4 6).b) (dstStride (row.copyRegs 4 6).b)
        (rowLen (row.copyRegs 4 6).b) (rowCount (row.copyRegs 4 6).b)) [] = true) ∧
    (enters box (box.cpytOk (box.copyRegs 4 6)) (box.cpytOp (box.copyRegs 4 6)) [] = true ∧
      enters idx (gatherOk (idx.copyRegs 4 6)) (idx.gatherOp (idx.copyRegs 4 6) false) [] = true ∧
      enters idx (gatherOk (idx.copyRegs 4 6)) (idx.gatherOp (idx.copyRegs 4 6) true) [] = true) ∧
    (enters tn (tn.shadowOk (tnOf (tn.copyRegs 4 6).a)) (tn.cpysOp (tnOf (tn.copyRegs 4 6).a)) [] = true ∧
      enters tn (tn.shadowOk (tnOf (tn.copyRegs 4 6).a)) (tn.pubOp (tnOf (tn.copyRegs 4 6).a)) [] = true) ∧
    (enters wp (wprgOk (wp.copyRegs 4 6)) (wp.wprgOp (wp.copyRegs 4 6)) [] = true ∧
      enters wp (wvfyOk (wp.copyRegs 4 6)) (wp.wvfyOp (wp.copyRegs 4 6)) [] = true ∧
      enters wd (wdigOk (wd.copyRegs 4 6)) (wd.wdigOp (wd.copyRegs 4 6)) [] = true) ∧
    (∀ k ∈ [Coll.red, .gather, .bcast], enters gr (collOk k (gr.copyRegs 4 6)) (gr.collective k (gr.copyRegs 4 6)) [] = true) ∧
    (enters sy (cpyOk (sy.copyRegs 4 6)) (sy.linear (sy.copyRegs 4 6) 0 0 (linearCount (sy.copyRegs 4 6).b) 1) [6] = true ∧
      (sy.copyRegs 4 6).b'.toNat % 8 = 0 ∧ sy.objectAt 0 (sy.copyRegs 4 6).b'.toNat (copyBad sy 1) = .ok (0x6208, [6])) := by decide +kernel

/-! The host, the front end and the scheduler -/

/-- Bytes from fields: offset, length, value. -/
def fieldBytes (n : Nat) (fs : List (Nat × Nat × Nat)) : List Byte :=
  (List.range n).map fun i => match fs.find? fun f => decide (f.1 ≤ i) && decide (i < f.1 + f.2.1) with
  | some f => (leBytes f.2.2 f.2.1).getD (i - f.1) 0
  | none => 0
/-- A packet from source 3 with sequence number 1 (R76). -/
def packet (ty die : Nat) (fs : List (Nat × Nat × Nat)) (body : List Byte) : Packet :=
  let h := fieldBytes 0x38 ([(0, 2, 1), (2, 1, ty), (4, 2, body.length), (6, 2, die), (8, 8, 1), (0x1F, 1, 3)] ++ fs)
  ⟨h ++ leBytes (crc32 (h ++ body)) 4 ++ leBytes 0 4, body, 3⟩
/-- Die 0 has booted and holds keys of job 7, whose VAs below 2 MiB are the physical addresses. -/
def booted : State :=
  let s := State.reset.setDie 0 { boot := 5 }
  { s with
    keys := s.keys.put (jkey 0 7) ⟨0, 0, 0, 0⟩
    lineKey := [0x20, 0x40, 0x60, 0x80].map fun l => (l, 0)
    mem := (List.range 4).flatMap fun k =>
      (leBytes (if k = 3 then 0x3F else installPte false (k + 2)) 8).zipIdx.map fun p => ((k + 1) * 4096 + p.2, p.1) }
/-- Job 7 is open from source 3, with phase 2 of two graphs and graph 3 of two launches; a weight region table at VA 0x8400. -/
def opened : State :=
  { booted with
    jobs := [(jkey 0 7, { src := 3, root := 0x1000 })]
    hjobs := [(7, { src := 3, nphase := 1 })]
    phases := [(gkey 7 2, { ngraph := 2, defined := 1 })]
    graphs := [(gkey 7 3, { phase := 2, nlaunch := 2 })] }
/-- The cores of die 0 but core 0 are throttled beyond placement, so that few are considered. -/
def oneCore (s : State) : State := { s with cores := (List.range' 1 95).map fun p => (pkey 0 p, { ths := 2 }) }
/-- A waiting launch 0 of job 7. -/
def waitingOf (l : Launch) : State :=
  { opened.setLaunch 0 { l with job := 7, graph := 3, phase := 2 } with nextLaunch := 1 }
/-- Packets: one of each type that passes, one that is too old, one for a die no link reaches, and the levels of a cancel. -/
theorem witness_Packets :
    (let s : State := { booted with jobs := [] }
     let t := s.landSys (s.jobKey 0 7) ((leBytes 1 16 ++ leBytes 1 8 ++ leBytes 0 1 ++ leBytes 1 7).zipIdx.map fun p => (0x8400 + p.2, p.1))
     let p := packet 1 0 [(0x10, 4, 7), (0x20, 8, 0x8400), (0x28, 8, 4), (0x30, 8, 0x1000)] []
     pktType p = 1 ∧ t.refusal p = 0 ∧ pktForm p = 0 ∧ pktDie p < 12 ∧ t.reached (pktAt p) = true ∧
       ({ t with badLinks := [(12, 0), (12, 1)] } : State).reached (pktAt p) = false) ∧
    (let p := packet 2 12 [(0x10, 4, 7), (0x28, 8, 1)] []
     pktType p = 2 ∧ opened.refusal p = 0 ∧ opened.hjobs.find (pktJob p) = some { src := 3, nphase := 1 }) ∧
    (let p := packet 3 12 [(0x10, 4, 7), (0x1C, 2, 5), (0x28, 8, 1)] []
     pktType p = 3 ∧ opened.refusal p = 0) ∧
    (let p := packet 4 12 [(0x10, 4, 7), (0x18, 2, 4), (0x1C, 2, 2), (0x28, 8, 1)] []
     pktType p = 4 ∧ opened.refusal p = 0) ∧
    (let p := packet 5 0 [(0x10, 4, 7), (0x14, 4, 9), (0x18, 2, 3), (0x1A, 2, 1), (0x1C, 2, 2), (0x20, 8, 0x200)] []
     pktType p = 5 ∧ opened.refusal p = 0) ∧
    (let c (lv : Nat) (f : Nat × Nat × Nat) : Packet := packet 6 0 [(0x10, 4, 7), (0x1E, 1, lv), f] []
     let s := waitingOf { id := 9 }
     (pktType (c 0 (0x14, 4, 9)) = 6 ∧ s.refusal (c 0 (0x14, 4, 9)) = 0 ∧ pktLevel (c 0 (0x14, 4, 9)) = 0 ∧
       (s.launches.find 0).map (fun l => (l.job, l.id, l.status, l.count.isOpen, l.count.cancel)) = some (7, 9, .waiting, true, false)) ∧
     (s.refusal (c 1 (0x18, 2, 3)) = 0 ∧ pktLevel (c 1 (0x18, 2, 3)) = 1 ∧ (s.graphs.find (gkey 7 3)).map (·.count.isOpen) = some true) ∧
     (s.refusal (c 2 (0x1C, 2, 2)) = 0 ∧ pktLevel (c 2 (0x1C, 2, 2)) = 2 ∧ (s.phases.find (gkey 7 2)).map (·.count.isOpen) = some true) ∧
     s.refusal (c 3 (0, 0, 0)) = 0 ∧ pktLevel (c 3 (0, 0, 0)) = 3 ∧ (s.hjobs.find 7).map (·.count.isOpen) = some true) ∧
    (let p := packet 7 0 [(0x28, 8, 1000), (0x30, 8, 1)] (leBytes 7 4 ++ leBytes 2 4)
     pktType p = 7 ∧ opened.refusal p = 0 ∧ (opened.die (pktAt p)).dcc < pktArg p) ∧
    (pktType (packet 8 0 [] []) = 8 ∧ opened.refusal (packet 8 0 [] []) = 0) ∧
    (let s := opened.setDie 0 { opened.die 0 with seq := [(3, 1)] }
     s.refusal (packet 8 0 [] []) = 4) := by
  refine ⟨?_, ?_, ?_, ?_, ?_, ?_, ?_, ?_, ?_⟩ <;> decide +kernel
/-- A launch record of one stage of one voice, at VA 0x8200 (R36, R38). -/
def record : List Byte := fieldBytes 256 [(0, 2, 1), (2, 2, 2), (8, 4, 7), (0x10, 1, 5), (0x11, 1, 1), (0x1C, 4, 0x80), (0x48, 4, 3), (0x4C, 2, 1),
  (0x88, 4, 4096), (0x91, 1, 1), (0x95, 1, 0xFF), (0x96, 2, 1), (0x98, 2, 1)]
/-- Launch 0 waits with that record; and with its version changed. -/
def admissible (r : List Byte) : State :=
  let s := oneCore (waitingOf { addr := 0x8200 })
  { s with
    mem := s.mem ++ r.zipIdx.map fun p => (0x8200 + p.2, p.1)
    lineKey := s.lineKey ++ [(0x104, s.jobKey 0 7), (0x105, s.jobKey 0 7)] }
/-- A binding read that succeeds, and the admission. -/
def admits? (s : State) (lid : Nat) : Bool :=
  match s.bindingRead lid with
  | .ok x => decide (s.tilesUsed (s.launch lid).die + (x.tensors.map Tensor.entries).sum ≤ 2 ^ 24) && (s.admitWith lid x).isSome
  | .error _ => false
def rejects? (s : State) (lid c : Nat) : Bool :=
  match s.bindingRead lid with
  | .error e => decide (e = c)
  | .ok _ => false
theorem admits_of {s : State} {lid : Nat} (h : admits? s lid = true) : ∃ x t, s.bindingRead lid = .ok x ∧
    s.tilesUsed (s.launch lid).die + (x.tensors.map Tensor.entries).sum ≤ 2 ^ 24 ∧ s.admitWith lid x = some t := by
  unfold admits? at h
  split at h
  · rename_i x hx
    simp only [Bool.and_eq_true, decide_eq_true_eq, Option.isSome_iff_exists] at h
    exact ⟨x, h.2.choose, hx, h.1, h.2.choose_spec⟩
  · simp at h
/-- The launch may be considered, and nothing keeps it waiting. -/
def considered (s : State) (lid : Nat) : Bool :=
  let pre := s.provisional lid
  let y := pre.launch lid
  (s.launches.find lid).isSome && decide ((s.launch lid).status = .waiting) && (s.launch lid).count.isOpen && decide (5 ≤ (s.die (s.launch lid).die).boot) &&
    !pre.predsLost y && pre.predsDone y && pre.phaseActive y.die y.job y.phase && pre.eligible lid && pre.firstInLine lid
/-- LaunchLifecycle: a record that passes and one of another version; the other clauses in turn. -/
theorem witness_LaunchLifecycle :
    (considered (admissible record) 0 = true ∧ considered (admissible (record.set 0 2)) 0 = true) ∧
    admits? ((admissible record).provisional 0) 0 = true ∧
    rejects? ((admissible (record.set 0 2)).provisional 0) 0 1 = true ∧
    (let s : State := (waitingOf { passed := some 5 }).setDie 0 { dcc := 2 ^ 24 + 5 }
     s.predsDone (s.launch 0) = true ∧ s.phaseActive (s.launch 0).die (s.launch 0).job (s.launch 0).phase = true ∧ 5 + 2 ^ 24 ≤ s.dcc (s.launch 0).die) ∧
    (let s := waitingOf { status := .admitted, count := { state := .complete } }
     (s.launch 0).count.isOpen = false ∧ (s.launch 0).count.told = false ∧ (s.graphs.find (gkey (s.launch 0).job (s.launch 0).graph)).isSome = true ∧
       (s.launches.find 0).isSome = true ∧ (s.launch 0).count.sent = false ∧ s.units = []) ∧
    (let s := (voiceOf []).setUnit 0 { (voiceOf []).unit 0 with status := .cancelling }
     let t := s.setLaunch 0 { s.launch 0 with count := { cancel := true } }
     (t.launch 0).count.isOpen = true ∧ (t.launch 0).count.cancel = true ∧ (t.launch 0).failed = false ∧
       ∀ u ∈ t.launchUnits 0, (t.unit u).status = .cancelling ∧ t.drained u = true) ∧
    (let s := waitingOf { status := .admitted, count := { state := .complete, sent := true } }
     let t : State := { s with graphs := [(gkey 7 3, { phase := 2, count := { state := .complete } })] }
     ((t.graphs.find (gkey 7 3)).map fun g => (g.count.isOpen, g.count.sent)) = some (false, false) ∧
       ∀ e ∈ t.launches, gkey e.2.job e.2.graph = gkey 7 3 → e.2.count.sent = true) ∧
    (let s : State := { opened with
       graphs := [(gkey 7 3, { phase := 2, count := { state := .complete, sent := true } })], phases := [(gkey 7 2, { count := { state := .complete } })] }
     ((s.phases.find (gkey 7 2)).map fun f => (f.count.isOpen, f.count.sent)) = some (false, false) ∧
       ∀ e ∈ s.graphs, e.1 / 65536 = gkey 7 2 / 65536 → e.2.phase = gkey 7 2 % 65536 → e.2.count.sent = true) ∧
    (let s : State := { opened with
       phases := [(gkey 7 2, { count := { state := .complete, sent := true } })], hjobs := [(7, { src := 3, closed := true, count := { state := .complete } })] }
     ((s.hjobs.find 7).map (·.count.isOpen)) = some false ∧ ∀ e ∈ s.phases, e.1 / 65536 = 7 → e.2.count.sent = true) := by
  refine ⟨?_, ?_, ?_, ?_, ?_, ?_, ?_, ?_, ?_⟩ <;> decide +kernel

/-! Management, links, scheduling and stops -/

/-- SpdmResponder: every state of the responder on a die that has booted; a block that there is and one that there is not. -/
theorem witness_SpdmResponder :
    (∀ n, n < 6 → let s := booted.setDrone 0 { spdm := n, firmware := [1] }
      (s.die 0).boot = 5 ∧ s.reached 0 = true ∧ (s.drone 0).spdm = n ∧ (s.drone 0).block 1 = some [1] ∧ (s.drone 0).block 0x10 = none) := by
  decide +kernel
/-- A specification of a region of four column groups on cores 4 to 7 of die 0. -/
def spec4 : RegionSpec := ⟨9, 0, 4, 0, 0, 64, 640, 4, 1, 0x200000, 0, 0, 0⟩
/-- ManagementSet: in a session, a job that is not open, a legal new region beside another, a region that no launch binds; limits of
the throttle threshold and window; outside a session; a REMEAS that ends; a recovery image that does not pass, one being written, and
one on its last row. -/
theorem witness_ManagementSet :
    let s : State := { booted.setDrone 0 { spdm := 5 } with regions := [(rkey 0 1, pair)] }
    let rec0 := (State.reset.setDie 0 { recovery := true })
    let t : State := { s with regions := [(rkey 0 1, { pair with popen := true })] }
    let m : Measured := s.remeasure 0 (1, pair) ((s.drone 0).latestOf (1, pair))
    let e : State := booted.setDrone 0 { spdm := 5, busy := some ([m], 0) }
    let row := rowKey (imageAt 0)
    let w (rows : List Nat) : State := rec0.setDrone 0 { rows := rows, image := [(0, 7)] }
    ((booted.die 0).boot = 5 ∧ booted.reached 0 = true ∧ (booted.drone 0).spdm ≠ 5) ∧
    ((s.die 0).boot = 5 ∧ s.reached 0 = true ∧ (s.drone 0).spdm = 5 ∧ s.jobs.find (jkey 0 9) = none ∧ s.keys.find (jkey 0 9) = none ∧
      RegionSpec.fieldsOk spec4 = true ∧ s.regionFits 0 spec4 = true ∧ s.regions.find (rkey 0 1) = some pair ∧ pair.popen = false ∧
      s.boundLive (rkey 0 1) = false ∧ (s.drone 0).queued = [] ∧ (s.drone 0).busy = none ∧
      (∀ c ∈ (s.directory 0).filter fun c => decide (0 = 0) || decide (c.1 = 0), s.measurable (rkey 0 c.1, c.2) = true)) ∧
    ((t.die 0).boot = 5 ∧ (t.drone 0).spdm = 5 ∧ (t.drone 0).queued = [] ∧ (t.directory 0).filter (fun c => decide (1 = 0) || decide (c.1 = 1)) ≠ [] ∧
      ∃ c ∈ (t.directory 0).filter fun c => decide (1 = 0) || decide (c.1 = 1), t.measurable (rkey 0 c.1, c.2) = false) ∧
    ((e.drone 0).busy = some ([m], 0) ∧ 0 ≤ e.dcc 0) ∧
    ((booted.die 0).recovery = false ∧ (rec0.die 0).recovery = true ∧ rec0.reached 0 = true ∧ (rec0.drone 0).rows = []) ∧
    imagePasses (fun _ => true) (fun i => NMap.getD [(0, (7 : Byte)), (1, 0), (2, 0), (3, 0)] i (Config.freeByte 0 i)) = false ∧
    ((w [row]).die 0).recovery = true ∧ ((w [row]).drone 0).rows = [row] ∧ rowDie row = 0 ∧ (w [row]).usableRow row = true ∧
      (w [row]).wear.getD ((w [row]).wearKey row) 0 < 9 * 10 ^ 9 ∧ [row].erase row = [] ∧
      ((w [row, row + 1]).drone 0).rows.erase row ≠ [] := by
  refine ⟨?_, ?_, ?_, ?_, ?_, ?_, ?_⟩ <;> decide +kernel
/-- PowerOnAndLoss: a tier that lists nothing holds no image that passes; a die that the links reach and one they do not; a region with
a run open. Whether a signature verifies is a free value (log 13), so no image can be shown to pass. -/
theorem witness_PowerOnAndLoss :
    let s : State := { booted with regions := [(rkey 0 1, { pair with popen := true })] }
    let t : State := { s.cold with badLinks := [(0, 4), (4, 5), (4, 8)] }
    t.imageOk 0 = false ∧ t.reached 0 = true ∧ t.reached 4 = false ∧ (s.regions.find (rkey 0 1)).map (·.popen) = some true := by
  decide +kernel
/-- HostLinks: a stretch of two lines, and an address beyond the map; a port, and the number after the last. -/
theorem witness_HostLinks :
    (∀ i, i < 8 → State.reset.unassigned (0x907C + i) = false ∧ State.reset.cutOff (0x907C + i) = false) ∧
      ({ State.reset with badLinks := [(0, 4), (4, 5), (4, 8)] } : State).cutOff (4 * 2 ^ 48) = true ∧
      ({ State.reset with badLinks := [(0, 4), (4, 5), (4, 8)] } : State).unassigned (4 * 2 ^ 48) = false ∧ State.reset.unassigned (2 ^ 52) = true ∧ State.reset.poisoned 0x907C = false ∧
      (11 ∈ [0, 3, 8, 11] ∧ 1 < 2) ∧ ¬ (11 ∈ [0, 3, 8, 11] ∧ 2 < 2) ∧
      0x907C / 128 ≠ 0x9100 / 128 ∧ 0x9080 / 128 ≠ 0x9100 / 128 := by
  decide +kernel
/-- TranslationMessages: the host's answer to an outstanding page, an INVAL of that page, a message of another type, and an INVAL to
be answered. -/
theorem witness_TranslationMessages :
    let s : State := { opened with pfaults := [(jkey 0 7 * 2 ^ 57 + 0x5000, { outstanding := true })], invals := [(0, ⟨xlatMsg 3 0 0 7 0x5000 1 1 4, [6], [(0, 0, 9)], [(0, 0, .semaphore 0x6200)]⟩)] }
    let m (ty count : Nat) : XlatMsg := xlatMsg ty 0 0 7 0x5000 1 count 0
    (msgDie (m 2 0) < 12 ∧ s.reached (msgDie (m 2 0)) = true ∧ ({ s with badLinks := [(12, 0), (12, 1)] } : State).reached (msgDie (m 2 0)) = false ∧ s.badMsg (m 2 0) = false ∧ msgType (m 2 0) = 2 ∧
      (s.pfaults.find (jkey (msgDie (m 2 0)) (msgJob (m 2 0)) * 2 ^ 57 + msgVa (m 2 0) / 4096 * 4096)).isSome = true) ∧
    (s.badMsg (m 3 1) = false ∧ msgType (m 3 1) = 3) ∧ s.badMsg (m 9 0) = true ∧
    (s.invals.find? (fun c => decide (c.1 = 0)) = some (0, ⟨xlatMsg 3 0 0 7 0x5000 1 1 4, [6], [(0, 0, 9)], [(0, 0, .semaphore 0x6200)]⟩) ∧ (∀ g ∈ [6], g ∉ s.pinned 0) ∧
      (∀ x ∈ [((0 : Nat), (0 : Nat), (9 : Nat))], x.2.2 ∉ (s.voice x.1 x.2.1).busy) ∧ s.inWait 0 0 (.semaphore 0x6200) = false) := by
  decide +kernel
/-- SchedulerEvents: a placed unit that may start, one whose frame is away, one that gave up a grant, one whose divisors are asked for; a
slice that leaves the unit's phase out; a stage whose queue has no producer, one whose queue is beyond HWM and has dwelt, one that is
low with a unit to spare and without. -/
theorem witness_SchedulerEvents :
    let v := voiceOf []
    let p (a : Bool) := v.setUnit 0 { v.unit 0 with status := .placed, ready := some 0, away := a }
    let asks := (p false).setUnit 0 { (p false).unit 0 with regrant := 5 }
    let clk := (p false).setUnit 0 { (p false).unit 0 with clkd := [(0, 4)] }
    let y := v.setDie 0 { slices := [⟨1, 0, []⟩] }
    let stage (g : Stage) (q : Queue) : State := ((oneCore v).setLaunch 0 { v.launch 0 with stages := [g], queues := [q] }).setDie 0 { dcc := 2048 }
    let g : Stage := { ilen := 4096, inq := 0, hwm := 1, pushm := 1, popm := 1, umax := 3, dwell := 1, next := 1 }
    let n := stage { g with pushm := 0 } {}
    let h := stage g { items := [[], []] }
    let g' (m : Nat) : Stage := { g with lwm := 2, umin := m }
    let l (m : Nat) := stage (g' m) { poppers := [{ unit := 0, voice := 0, d := 5, since := 0, addr := 0, item := [] }] }
    (∀ a ∈ [false, true], (((p a).wakeAll 0).units.find 0).isSome = true ∧ ((p a).wakeAll 0).startable 0 = true ∧ (((p a).wakeAll 0).unit 0).regrant = 0 ∧
      (((p a).wakeAll 0).unit 0).away = a ∧
      ((p a).wakeAll 0).divsMet 0 = true ∧ (((p a).wakeAll 0).unit 0).clkd = [] ∧ (((p a).wakeAll 0).zoneOf 0 ((p a).home 0)).started = none ∧
      ((p a).wakeAll 0).holding 0 ((p a).home 0) = false) ∧
    (∀ s ∈ [p false, p true, asks, clk], ∀ c ∈ (s.wakeAll 0).units, c.2.place.die = 0 → s.home c.1 / 12 = s.home 0 / 12 →
      (s.wakeAll 0).startable c.1 = true → ((s.wakeAll 0).unit 0).ready.getD 0 ≤ c.2.ready.getD 0) ∧
    ((asks.wakeAll 0).startable 0 = true ∧ ((asks.wakeAll 0).unit 0).regrant ≠ 0 ∧ ∀ a ∈ ((asks.wakeAll 0).zoneOf 0 (asks.home 0)).asks, a.1 ≠ 0) ∧
    ((clk.wakeAll 0).startable 0 = true ∧ ((clk.wakeAll 0).unit 0).regrant = 0 ∧ ((clk.wakeAll 0).unit 0).asserted = false ∧
      ((clk.wakeAll 0).unit 0).clkd ≠ []) ∧
    ((y.die 0).slices = [⟨1, 0, []⟩] ∧ (y.unit 0).live = true ∧ ((y.unit 0).yreq = none)) ∧
    (∀ s ∈ [n, h, l 0, l 1], (s.launch 0).runs = true ∧ (s.launch 0).began + 1024 * (0 + 1) ≤ s.dcc 0) ∧
    (n.classify 0 { g with pushm := 0 } = .neutral ∧ h.classify 0 g = .high ∧ g.dwell ≤ g.hi + 1 ∧ (h.stageUnits 0 0).length + 0 < g.umax ∧
      (h.chooseCore 0 (h.launch 0).job g).isSome = true) ∧
    (∀ m ∈ [0, 1], (l m).classify 0 (g' m) = .low ∧ (g' m).dwell ≤ (g' m).lo + 1 ∧
      ((l m).setStage 0 0 { g' m with samples := 1, hi := 0, lo := 1, pend := false }).idlest 0 0 0 = some 0 ∧
      (((l m).stageUnits 0 0).filter fun k => !k.2.withdrawn).length = 1) := by
  refine ⟨?_, ?_, ?_, ?_, ?_, ?_, ?_, ?_⟩ <;> decide +kernel
/-- SchedulerEvents: a unit that waits to start, whose QPOP to x5 completed with 2 while it was off its core. -/
theorem witness_SchedulerEvents_won :
    let s := (voiceOf [(5, 1)]).setUnit 0 { (voiceOf []).unit 0 with status := .placed, ready := some 0 }
    let t : Voice := (after (exec (.unitStart 0) (s.setVoice 0 0 { s.voice 0 0 with won := some (5, 2) }))).voice 0 0
    t.st.getX 5 = 2 ∧ t.st.pc = 0x110 ∧ t.won = none := by decide +kernel
/-- MigrationEvents: a suspended unit on a core that migrates, one that has not stopped by the deadline, an offline core. -/
theorem witness_MigrationEvents :
    let v := voiceOf []
    let s := (v.setUnit 0 { v.unit 0 with status := .suspended 0x43 }).setCore 0 0 { mig := some 20, moveBy := 9 }
    let a := (v.setCore 0 0 { mig := some 20, moveBy := 9 }).setDie 0 { v.die 0 with dcc := 9 }
    let o := (v.setUnit 0 { v.unit 0 with status := .suspended 0x43 }).setCore 0 0 { ths := 3 }
    ((s.core 0 (s.phys 0 0)).mig = some 20 ∧ (s.core 0 (s.phys 0 0)).moveBy ≠ 0 ∧ s.holders 0 0 ≠ [] ∧ ∀ c ∈ s.holders 0 0, c.2.still = true) ∧
    ((a.core 0 (a.phys 0 0)).mig = some 20 ∧ (a.core 0 (a.phys 0 0)).moveBy ≠ 0 ∧ (a.core 0 (a.phys 0 0)).moveBy ≤ a.dcc 0 ∧
      ∃ c ∈ a.holders 0 0, c.2.halted = false) ∧
    ((o.core 0 (o.phys 0 0)).ths = 3 ∧ o.holders 0 0 ≠ [] ∧
      (∀ c ∈ o.holders 0 0, c.2.status = .suspended 0x43) ∧ (o.target 0 0).isSome = true) := by
  decide +kernel
/-- UnitStops: each clause on its own small team. -/
theorem witness_UnitStops :
    let v := voiceOf []
    let w (st : UStatus) : State := v.setUnit 0 { v.unit 0 with status := st }
    let l (r : Nat) : State := (w .failing).setLaunch 0 { v.launch 0 with retry := r }
    let q (x : VStatus) : State := (v.setVoice 0 0 { v.voice 0 0 with status := x, watch := some ⟨196, 0x200, false⟩ }).setCore 0 0 { ctl := { div := 2, base := 2 ^ 21 } }
    let e := (withHandler v).setUnit 0 { (withHandler v).unit 0 with events := [(1, 2)] }
    ((w (.stopping 0x41)).stopDrained 0 0x41 = true ∧ 0 < v.nextUnit ∧ ((w (.stopping 0x41)).launch 0).retries = []) ∧
    (∀ r ∈ [0, 1], (l r).drained 0 = true ∧ ((l r).launch 0).runs = true ∧ ((l r).launch 0).retries = [] ∧
      ((l r).unit 0).charged = false ∧ ((l r).unit 0).fails = 0 ∧ ((l r).unitStage 0).next ≤ 65535) ∧
    (((q (.waiting .sync 0)).unit 0).status = .resident ∧ ∃ x ∈ (q (.waiting .sync 0)).syncWaits 0, 2 ^ 20 ≤ x.2) ∧
    (((q (.waiting (.mwait none) 0)).unit 0).status = .resident ∧ ((q (.waiting (.mwait none) 0)).unit 0).place.voices = 1 ∧
      (q (.waiting (.mwait none) 0)).woken 0 0 = false ∧ ((q (.waiting (.mwait none) 0)).voice 0 0).status = .waiting (.mwait none) 0 ∧
      ((q (.waiting (.mwait none) 0)).unit 0).wthr.toNat ≤ (q (.waiting (.mwait none) 0)).unitCyc 0 - 0) ∧
    (((q (.waiting (.mwait (some 0)) 0)).voice 0 0).status = .waiting (.mwait (some 0)) 0 ∧ 0 ≤ v.dcc 0) ∧
    ((e.unit 0).status = .resident ∧ e.taker 0 = some 0 ∧ (e.unit 0).events = (1, 2) :: [] ∧ e.eventDue 0 = true ∧
      (e.voice 0 0).nextAt ≤ e.dcc 0 ∧ e.handler 0 ≠ 0) := by
  refine ⟨?_, ?_, ?_, ?_, ?_, ?_⟩ <;> decide +kernel

/-! Engines, the weight tier, regulation -/

/-- A team whose context of an engine has a command queued, or in flight. -/
def pending (e : Engine) (q : Cmd) : State :=
  let s := rich e []
  s.setCtx 0 e 0 { s.ctx 0 e 0 with queue := [q] }
def flying (e : Engine) (q : Cmd) : State :=
  let s := rich e []
  s.setCtx 0 e 0 { s.ctx 0 e 0 with flight := [q] }
/-- Core 0 of die 0 is past 2^21 of its matrix cycles and 2^28 of its copy cycles. -/
def late (s : State) : State := s.setCore 0 0 { mat := { div := 4, base := 2 ^ 21 }, cpy := { div := 3, base := 2 ^ 28 } }
/-- EngineIssues: one ready command for each engine; of the matrix engine one that needs no part of it, one that names no object to
signal, one of the port and one for the array. -/
theorem witness_EngineIssues :
    let v := (pending .vector { cn := 1, word := 0, instr := .vadd 3 1 2 0 0 0 0 0, regs := [0x00021F1F], vsh := 0x00021F1F }).refresh 0 0 0
    let c := (pending .copy { cn := 1, word := 0, instr := .csig 0 1, regs := [0], readyAt := some 0 })
    let y (i : Instr) : Cmd := { cn := 1, word := 0, instr := i, regs := mmaRegs.map (·.2), readyAt := some 0 }
    let g (i : Instr) : State :=
      let t := (pending .matrix (y i)).refresh 0 0 0
      (t.heads 0 0 .matrix).foldl (fun t h => if h.2.2.2.hlimit.isSome then t.closeFull 0 0 h.1 h.2.2.2 else t) (t.closeByPrio 0 0)
    (v.mayChoose 0 0 .vector = true ∧ v.moving 0 0 = false ∧ c.mayChoose 0 0 .copy = true) ∧
    (v.engineOn 0 0 .vector = true ∧ (v.core 0 0).vnext ≤ v.eclk 0 0 .vector ∧
      (pickRank ((v.heads 0 0 .vector).map fun h => (v.rank h.1 .vector h.2.1 (h.2.2.2.readyAt.getD 0), h))).map (fun x => (x.1, x.2.1)) = some (0, 0)) ∧
    (c.engineOn 0 0 .copy = true ∧ (c.heads 0 0 .copy).all (fun h => !Instr.isGather h.2.2.2.instr || h.2.2.2.table.isSome) = true ∧
      c.channels 0 0 < 8 ∧
      (pickRank (((c.heads 0 0 .copy).filter fun h =>
        (!Instr.isPub h.2.2.2.instr || c.pubReady h.1 h.2.2.2) && !c.measured h.1 h.2.2.2).map fun h =>
        (c.rank h.1 .copy h.2.1 (h.2.2.2.readyAt.getD 0), h))).map (fun x => (x.1, x.2.1, x.2.2.2.group)) = some (0, 0, [])) ∧
    (∀ i ∈ ([.munp 0, .msync 0 1 1] : List Instr), (g i).engineOn 0 0 .matrix = true ∧
      ((g i).heads 0 0 .matrix).all (fun h => !Instr.isMmag h.2.2.2.instr || h.2.2.2.table.isSome) = true ∧
      (((g i).heads 0 0 .matrix).find? (fun h => Instr.usesNone h.2.2.2.instr && decide (h.2.2.2.stamp = none))).map
        (fun x => (x.1, x.2.1, x.2.2.2.bareSync)) = some (0, 0, decide (i = .msync 0 1 1))) ∧
    (∀ i ∈ ([.mma 3 4 6 1 0 0 0 0 0 1, .mdcy 2 5 6] : List Instr), (g i).engineOn 0 0 .matrix = true ∧
      (g i).heads 0 0 .matrix ≠ [] ∧
      ((g i).heads 0 0 .matrix).find? (fun h => Instr.usesNone h.2.2.2.instr && decide (h.2.2.2.stamp = none)) = none ∧
      ((g i).heads 0 0 .matrix).find? (fun h => decide (h.2.2.2.con ≠ 0) && (g i).consortBad h.1 h.2.2.2) = none ∧
      ((g i).heads 0 0 .matrix).all (fun h => h.2.2.2.hlimit.isNone) = true ∧ (g i).mayChoose 0 0 .matrix = true ∧ (g i).stamped 0 0 = [] ∧
      (match pickRank ((g i).matrixChoices 0 0) with
        | some (.cmd u j q) => decide (u = 0) && decide (j = 0) && decide (Instr.usesArray q.instr = decide (i ≠ .mdcy 2 5 6)) && decide (q.con = 0)
        | _ => false) = true) := by
  refine ⟨?_, ?_, ?_, ?_, ?_⟩ <;> decide +kernel
/-- EngineCompletions: a zeroing of all rows, and one command of each other form that leaves something, its operands in range; a
product's tile poisoned; a vector command, one that faults, a load with a line to read, a store with one to land, a copy of two lines
and a signal. -/
theorem witness_EngineCompletions :
    let x (i : Instr) (regs : List X) : Cmd := { cn := 1, word := 0, instr := i, regs := regs, phase := .issued }
    let m := x (.mzero 2 6) [0x6000]
    let a : Cmd := { x (.mma 3 4 6 1 0 0 0 0 0 1) (mmaRegs.map (·.2)) with fent := 4 }
    let y : Cmd := { x (.mmag 3 4 6 1 0 0 1) (mmaRegs.map (·.2)) with fent := 4, table := some [(2, 0), (2, 0)] }
    let p (s : State) : State := { s with wpoison := [(0, true)] }
    let r : Cmd := { x (.mdrn 3 8 9 1 0 1) [0x1400FF60, 0x100] with fent := 4 }
    let o : Cmd := { x (.mtrq 6 9) [0, 0x400000000] with fent := 5 }
    let w := nested (flying .matrix o)
    let g : Cmd := { x (.msync 6 1 1) [0x200] with sync := some 0x6200 }
    let f := flying .matrix
    ((f m).ctx 0 .matrix 0).flight.find? (fun k => decide (k.cn = 1)) = some m ∧ m.fin ≤ (f m).free 0 0 ∧ m.memb = 0 ∧ m.con = 0 ∧
      ((f m).unit 0).onCore = true ∧ ((f m).core 0 0).reset.find 0 = none ∧ rowWord (m.regs.getD 0 0) = some (96, 0) ∧
    (∀ q ∈ [a, y], (f q).skipped ((f q).slotKey 0 3) 0 0 q = false ∧ q.gone = false ∧
      ((f q).parts 0 q).map (fun g => (g.2, (f q).bPoison g.1 q.aop.steps)) = (if q = a then [((0, 4, 0), none)] else [((0, 2, 0), none), ((2, 2, 2), none)]) ∧
      ((p (f q)).parts 0 q).all (fun g => ((p (f q)).bPoison g.1 q.aop.steps).isSome) = true) ∧
    (rowWord ((x (.mdcy 2 5 6) [0x3F800000, 0x6000]).regs.getD 1 0) = some (96, 0) ∧
      rowWord ((x (.mldz 2 8 9) [0x5000FD80, 0x100]).regs.getD 1 0) = some (1, 0) ∧ spWord 0x5000FD80 640 = some (640, 0xFD80)) ∧
    (rowWord (r.regs.getD 1 0) = some (1, 0) ∧ spWord (r.regs.getD 0 0) (160 * elemBytes r.code) = some (160, 0xFF60)) ∧
    ((w.bOf 0 o.weight0 0 o).map (fun b => (b.region.fmt, w.bPoison b 1)) = some (5, none) ∧ mtrqOut (o.regs.getD 1 0) = (0, 0x2000, 1) ∧ 0 + rowBytes 5 160 * 16 ≤ 0x2000) ∧
    (g.sync = some 0x6200 ∧ (f g).counted (ckey 0 .matrix 0) 0x6200 g = false ∧ (f g).poisoned 0x6200 = false ∧ 0x6200 % 128 ≤ 120) := by
  decide +kernel
/-- EngineCompletions, of the vector and the copy engine. -/
theorem witness_EngineCompletions_vector_copy :
    let t := ((rich .vector []).launch 0).tensors.headD {}
    let x (i : Instr) (v : BitVec 32) : Cmd := { cn := 1, word := 0, instr := i, regs := [2 ^ 63, 0], vsh := v, phase := .issued, tens := t }
    let v : Cmd := { x (.vadd 3 1 2 0 0 0 0 0) 0x00021F1F with regs := [] }
    let st := x (.vst 3 4 5 0 0) 0x00020303
    let ld := x (.vld 3 4 5 0 0 0) 0x00020303
    let bad : Cmd := { ld with landed := [(0, 0)], abuf := [(192, []), (193, [])] }
    let c : Cmd := { cn := 1, word := 0, instr := .cpy 2 4 6 0 0 0, regs := [0x8000000000001000, 0x8000000000002000, 64, 0], phase := .issued }
    let n : Cmd := { cn := 1, word := 0, instr := .cred 2 4 6 0 0 0, regs := [0x8000200000, 0, 0, 0], group := [9, 0xFFFF], data := some [1], phase := .issued }
    let g : Cmd := { cn := 1, word := 0, instr := .csig 6 1, regs := [0x200], sync := some 0x6200, phase := .issued }
    let f := flying .vector
    let k := flying .copy
    let ok (q : Cmd) : Bool := match (f q).landVector 0 q with | .ok _ => true | .error _ => false
    (∀ q ∈ [v, st, ld, bad], ((f q).ctx 0 .vector 0).flight = [q] ∧ q.fin ≤ (f q).eclk 0 0 .vector ∧ ((f q).unit 0).onCore = true ∧
      ((f q).core 0 0).reset.find 1 = none) ∧
    ((f v).vldLeft 0 v = [] ∧ (f v).vstLeft 0 v = [] ∧ ok v = true) ∧ ((f bad).vldLeft 0 bad = [] ∧ (f bad).vstLeft 0 bad = [] ∧ ok bad = false) ∧
    ((f ld).vldLeft 0 ld ≠ [] ∧ (f st).vldLeft 0 st = [] ∧ (f st).vstLeft 0 st ≠ []) ∧
    (∀ q ∈ [c, n], (k q).copyCmd 0 0 1 = some q ∧ q.landed.find 0 = none ∧ Instr.isWprg q.instr = false ∧ (q.group = [] ∨ q.data ≠ none) ∧
      (q.lineList[0]?).isSome = true ∧ (∀ x ∈ q.moves, (k q).locPoison x.1 = none)) ∧
    ((c.dests[0]?).map Loc.line = c.lineList[0]? ∧ c.overlaps 0 (c.dests.headD (.sp 0)) = false ∧ c.data = none ∧ c.dests = c.moves.map (·.2)) ∧
    ((k g).copyCmd 0 0 1 = some g ∧ (k g).allLanded 0 g = true ∧ (k g).poisoned 0x6200 = false ∧ 0x6200 % 128 ≤ 120) := by
  decide +kernel
/-- Registers 1, 2 and 4 of a team with eight bytes each, elements 0, 2, 5 and 7 of m3 set, and FP32 numbers in 6. -/
def tiled : State :=
  let s := (ctxOf .vector []).putMask 0 3 (BitVec.ofNat 1024 0xA5)
  (((s.putTile 0 1 0 [11, 48, 85, 122, 159, 196, 233, 14]).putTile 0 2 0 [200, 35, 126, 217, 52, 143, 234, 69]).putTile 0 4 0
    (List.replicate 9 0xEE)).putTile 0 6 0 ((List.replicate 32 (leBytes 0x3F800000 4)).flatten)
/-- The first `n` bytes of register `r` after a vector command of shape `h` completes. -/
def landed (i : Instr) (h : BitVec 32) (regs : List X) (r n : Nat) : List Byte :=
  match tiled.landVector 0 { cn := 1, word := 0, instr := i, regs := regs, vsh := h } with
  | .ok t => (List.range n).map (t.tileByte 0 r)
  | .error _ => []
/-- VectorResults: bytes in two rows of four: sums under m3 with and without Z, clamped (R322), minima, shifts, moves (R331), and the ninth byte. -/
theorem witness_VectorResults :
    let h : BitVec 32 := 0x00000301
    (Shape.of h).elems = 8 ∧ (Shape.of h).elems * (Shape.of h).sz ≤ 4096 ∧
    landed (.vadd 4 1 2 3 0 0 0 1) h [] 4 9 = [211, 238, 211, 238, 238, 83, 238, 83, 238] ∧
    landed (.vadd 4 1 2 3 0 1 1 1) h [] 4 9 = [211, 0, 127, 0, 0, 128, 0, 83, 238] ∧
    landed (.vmin 4 1 2 3 0 0 0) h [] 4 9 = [200, 35, 85, 217, 159, 143, 233, 14, 238] ∧
    landed (.vsra 4 1 2 3 0 0) h [] 4 9 = [11, 6, 1, 61, 249, 255, 250, 0, 238] ∧
    landed (.vrot 4 1 9 0) h [1] 4 9 = [122, 11, 48, 85, 14, 159, 196, 233, 238] ∧
    landed (.vtrn 4 1) h [] 4 9 = [11, 159, 48, 196, 85, 233, 122, 14, 238] ∧
    landed (.vperm 4 1 2 0) h [] 4 9 = [11, 122, 85, 48, 159, 14, 233, 196, 238] := by decide +kernel
/-- VectorResults: sums of rows and of columns under m3 (R329), scans of segments that m3 begins (R330), and a comparison under m3 (R324). -/
theorem witness_VectorResults_groups :
    let h : BitVec 32 := 0x00000301
    landed (.vred 4 1 0 0 3 1) h [] 4 9 = [96, 238, 238, 238, 210, 238, 238, 238, 238] ∧
    landed (.vred 4 1 1 0 3 1) h [] 4 9 = [11, 196, 85, 14, 238, 238, 238, 238, 238] ∧
    landed (.vscan 4 1 0 0 0 3) h [] 4 9 = [11, 59, 85, 207, 159, 196, 173, 14, 238] ∧
    landed (.vscan 4 1 1 0 0 3) h [] 4 9 = [0, 11, 0, 85, 0, 0, 196, 0, 238] ∧
    (match tiled.landVector 0 { cn := 1, word := 0, instr := .vcmp 5 1 2 3 1 2, regs := [], vsh := h } with
      | .ok t => (List.range 9).map (t.maskBit 0 5)
      | .error _ => []) = [false, false, true, false, false, false, false, true, true] := by decide +kernel
/-- EngineDeadlines: at the stamp, at it in a cycle whose choice is made, and past it; an MMAG whose table its step has still to read;
at a group's deadline, past a consort's and a collective's, past a promise. -/
theorem witness_EngineDeadlines :
    let q (v : Nat) : Cmd := { cn := 1, word := 0, instr := .mma 3 4 6 1 0 0 0 1 0 1, regs := [], stamp := some v, armed := true, readyAt := some 0 }
    let y : Cmd := { cn := 1, word := 0, instr := .mmag 3 4 6 1 0 1 1, regs := [0x8001000, 1, 0x2000, 0], fent := 4, stamp := some 0, armed := true, readyAt := some 0 }
    let k : Cmd := { cn := 1, word := 0, instr := .mma 3 4 6 1 0 0 0 0 0 1, regs := [], con := 1, armed := true }
    let p : Cmd := { cn := 1, word := 0, instr := .cpy 2 4 6 0 0 0, regs := [], promise := some 5 }
    let o : Cmd := { cn := 1, word := 0, instr := .cred 2 4 6 0 0 0, regs := [], group := [9, 0xFFFF, 0x10FFFF] }
    let a := pending .matrix (q 0)
    let b := late (pending .matrix (q 7))
    let e := a.choose 0 0 .matrix
    let g : MGroup := { wa := 0, steps := 1, code := 4, sm := 0, gen := 0, region := 0, members := [], rows := 0, deadline := 100, closed := false,
                        prio := 0, readyAt := 0, slot := 0, jobs := [] }
    let gs := State.reset.setCore 0 0 { groups := [g], mat := { div := 4, base := 2 ^ 21 } }
    let tab (rows : Nat) : State := (pending .matrix y).spPuts 0 0x2000 (leBytes (rows * 2 ^ 40) 8)
    let read (s : State) : State := (s.closeByPrio 0 0).readTable 0 0 y
    ((a.ctx 0 .matrix 0).queue = [q 0] ∧ Instr.usesArray (q 0).instr = true ∧ (a.unit 0).status = .resident ∧ a.engineOn 0 0 .matrix = true ∧
      Instr.isMmag (q 0).instr = false ∧ a.tclk 0 = 0 ∧ a.mayChoose 0 0 .matrix = true ∧ pickRank ((a.closeByPrio 0 0).stamped 0 0) = some (0, 0) ∧
      ((a.closeByPrio 0 0).ctx 0 .matrix 0).queue = [q 0]) ∧
    ((tab 4).tclk 0 = 0 ∧ Instr.isMmag y.instr = true ∧ y.table = none ∧
      ((read (tab 4)).ctx 0 .matrix 0).queue.map (·.cn) = [1] ∧
      pickRank ((read (tab 4)).stamped 0 0) = some (0, 0) ∧
      ∀ x ∈ ((read (tab 97)).ctx 0 .matrix 0).queue.head?, x.cn ≠ 1) ∧
    (e.engineOn 0 0 .matrix = true ∧ e.tclk 0 = 0 ∧ e.mayChoose 0 0 .matrix = false ∧ (e.unit 0).events.length < 32) ∧
    (b.engineOn 0 0 .matrix = true ∧ 7 < b.tclk 0 ∧ (b.unit 0).events.length < 32) ∧
    ((gs.core 0 0).groups[0]? = some g ∧ g.deadline ≤ gs.free 0 0) ∧
    (((late (pending .matrix k)).ctx 0 .matrix 0).queue = [k] ∧ k.con ≠ 0 ∧ ((late (pending .matrix k)).unit 0).status = .resident ∧
      2 ^ 20 ≤ k.waited + ((late (pending .matrix k)).free 0 0 - k.armedAt)) ∧
    (((late (flying .copy p)).ctx 0 .copy 0).cmd 1 = some p ∧ Instr.copyFields p.instr = some (0, 0, 0) ∧ (late (flying .copy p)).holding 0 0 = false ∧
      5 < (late (flying .copy p)).tclk 0) ∧
    ((late (flying .copy o)).copyCmd 0 0 1 = some o ∧ o.group ≠ [] ∧ o.data = none ∧ ((late (flying .copy o)).unit 0).onCore = true ∧
      2 ^ 28 ≤ o.waited + ((late (flying .copy o)).eclk 0 o.core .copy - o.enter)) := by
  refine ⟨?_, ?_, ?_, ?_, ?_, ?_, ?_, ?_⟩ <;> decide +kernel
/-- WeightEvents: a swap at its stamp, at it with a run open or its region measured, and past it; a signal under way and arrived; beats
due, on a core that runs and one already held; a beat whose data come in this cycle, as read and as mended before, and none, with a
team bound to the tile and without; a lasting bus. -/
theorem witness_WeightEvents :
    let q (v : Nat) : Cmd := { cn := 1, word := 0, instr := .mswp 6 0, regs := [v], stamp := some v, armed := true }
    let a := pending .matrix (q 0)
    let b := late (pending .matrix (q 7))
    let w (sig : List Nat) : State := { State.reset with regions := [(rkey 0 1, { pair with gen := 1, pending := [0], signalled := sig })] }
    let x : Beat := { slot := 0, addr := 0, region := rkey 0 1, hold := 9 }
    let h (n : Nat) : State := State.reset.setCore 0 0 { due := [x], holdAt := 0, holdLen := n }
    let f (y : Beat) : State := (rich .matrix []).setCore 0 0 { due := [y] }
    let busy : State := a.setDrone 0 { busy := some ([⟨1, 0, [], []⟩], 9) }
    ((a.ctx 0 .matrix 0).queue = [q 0] ∧ (a.unit 0).status = .resident ∧ a.engineOn 0 0 .matrix = true ∧ a.binding 0 0 = some 0 ∧
      a.tableRegion (a.unit 0).place.die (a.unit 0).place.job 0 = some (rkey 0 1, ⟨1, 0, true⟩, pair) ∧ a.tclk 0 = 0 ∧
      a.released (rkey 0 1) pair = true ∧ pair.popen = false ∧ a.measuring (rkey 0 1) = false ∧ busy.measuring (rkey 0 1) = true) ∧
    (b.engineOn 0 0 .matrix = true ∧ 7 < b.tclk 0 ∧ (b.unit 0).events.length < 32) ∧
    (∀ sig ∈ [[], [0]], ((w sig).regions.find (rkey 0 1)).map (fun r => (r.pending, r.signalled)) = some ([0], sig)) ∧
    ((w [0]).atBoundary 0 0 = true ∧ (w [0]).oldGroups 0 0 (rkey 0 1) 1 = false) ∧
    ({ pair with popen := true } : Region).popen = true ∧
    (∀ n ∈ [0, 9], ((((h n).core 0 0).due.filter fun x => decide (x.slot ≤ (h n).free 0 0)).map (·.hold)).sum = 9 ∧
      (h n).holding 0 0 = decide (n = 9) ∧ (0, 0) ∈ (h n).heldWith 0 0) ∧
    (∀ k ∈ [false, true], (f { x with fixed := k, again := k }).beatDue 0 0 7 = some { x with fixed := k, again := k }) ∧
    ((f x).beatDue 0 0 8 = none ∧ (f x).readsElse 0 0 8 = true ∧ (f x).readsElse 0 1 8 = false) ∧
    (({ State.reset with lasting := [(faultKey 0 (.bus 0 1), true)] } : State).lasting.find (faultKey 0 (.bus 0 1))).isSome = true := by
  refine ⟨?_, ?_, ?_, ?_, ?_, ?_, ?_, ?_, ?_⟩ <;> decide +kernel
/-- VoicerRows: 64 bytes of the scratchpad to the start of the shadow bank, whose first row they lie in; that row to be rewritten. -/
theorem witness_VoicerRows :
    let q : Cmd := { cn := 1, word := 0, instr := .wprg 2 4 6 0 0 0, regs := [0x8000000000001000, 0, 64, 0], wbank := some (rkey 0 1, true) }
    let s := flying .copy q
    let row := rowKey 0x100000
    s.usableRow row = true ∧ s.wear.getD (s.wearKey row) 0 < 9 * 10 ^ 9 ∧ s.copyCmd 0 0 1 = some q ∧ s.regions.find (rkey 0 1) = some pair ∧
      ((s.weightAddrs 0 q).zip (q.moves.map (·.1))).filter (fun x => decide (rowKey x.1 = row)) ≠ [] ∧ q.landed.find row = none ∧ q.status = 0 ∧
      pair.pending = [] ∧ s.bankReaders (rkey 0 1) true = false ∧
      (∀ x ∈ ((s.weightAddrs 0 q).zip (q.moves.map (·.1))), s.locPoison x.2 = none) ∧ (∀ w ∈ s.wpoison, rowKey (w.1 * 64) ≠ row) ∧ s.rewrites.find row = none ∧
      row ∉ (s.drone (rowDie row)).rows ∧
      (rowKey 0x100040 = row ∧ ∀ x ∈ (s.weightAddrs 0 q).zip (q.moves.map (·.1)), x.1 ≠ 0x100040) ∧
      ({ s with rewrites := [(row, true)] } : State).rewrites.find row = some true ∧ s.bankIdle (row / 8192) = true := by
  decide +kernel
/-- Regulation: each clause at its limit. -/
theorem witness_Regulation :
    let d (n : Nat) : State := State.reset.setDie 0 { dcc := n }
    let z (x : Zone) (n : Nat) : State := (d n).setZone 0 0 x
    let a := ((voiceOf []).setVoice 0 0 { (voiceOf []).voice 0 0 with ask := some (.power 7) }).setZone 0 0 { asks := [(0, 0, 7)] }
    let b := (voiceOf []).setUnit 0 { (voiceOf []).unit 0 with breath := some ⟨64, 16, 4, false⟩ }
    let c := (d 24).setCore 0 0 { switch := [(3, 12)] }
    ((d 0).form = .m12w48 ∧ ({ d 0 with form := .p12w48 } : State).form = .p12w48) ∧
    (((d 240000).die 0).sampled + 240000 ≤ (d 240000).dcc 0 ∧ ((d 240000).zone 0 0).hot = false ∧ 10 * ((d 240000).die 0).tt ≤ 1049) ∧
    (∀ k ∈ [false, true], ∀ n ∈ [0, 3], ((z { sent := some 0, sends := n, asked := k } 4800000).zone 0 0).sent = some 0 ∧
      0 + 4800000 ≤ (z { sent := some 0, sends := n, asked := k } 4800000).dcc 0 ∧ n < 4) ∧
    (a.headAsk ((a.zone 0 0).asks.filter a.askStands) = some (0, 0, 7) ∧ a.granted 0 0 0 + 7 ≤ (a.zone 0 0).capacity) ∧
    ((b.unit 0).breath = some ⟨64, 16, 4, false⟩ ∧ (b.unit 0).status = .resident ∧ 64 ≤ b.tclk 0 + 64) ∧
    ((c.core 0 0).switch.find (Domain.code .matrix) = some 12 ∧ 12 ≤ c.dcc 0 ∧
      (c.dcc 0 - ((c.core 0 0).clk (Domain.code .matrix)).dcc0) % ((c.core 0 0).clk (Domain.code .matrix)).period (Domain.code .matrix) = 0) ∧
    (∀ h ∈ ([none, some 0, some 1] : List (Option Nat)), ∀ x ∈ [(850, 4680), (821, 4680), (820, 24000000)],
      let s : State := State.reset.setDie 0 { dcc := x.2, hotRefresh := (match h with | some c => [(1, c)] | none => []), refreshed := [(66, 0)] }
      let t := (after (exec (.refresh 0 1 2 x.1) s)).die 0
      t.hotRefresh.find 1 = (if x.1 = 850 ∨ (x.1 = 821 ∧ h ≠ none) then some 0 else if x.1 = 820 ∧ h = some 0 then some 24000001 else none) ∧
        t.refreshed = (if x.1 = 821 ∧ h = none then [(66, 0)] else [(66, x.2)])) ∧
    (((z {} 24000000).zone 0 0).uv = true ∧ ((z {} 24000000).zone 0 0).uvAt = none ∧ ((z {} 24000000).zone 0 0).uvLast + 24000000 ≤ (z {} 24000000).dcc 0) ∧
    ((((z { errs := [5] } 24000000).zone 0 0).errs.filter fun t => decide (((z { errs := [5] } 24000000).zone 0 0).uvLast ≤ t)).length = 1 ∧
      (((z { errs := [6, 5] } 24000000).zone 0 0).errs.filter fun t => decide (((z { errs := [6, 5] } 24000000).zone 0 0).uvLast ≤ t)).length = 2 ∧
      (recent ((d 24000000).dcc 0) ((z {} 24000000).zone 0 0).errs).length < 4) ∧
    (let w := { voiceOf [] with zones := ((voiceOf []).setZone 0 0 { steps := 2 }).zones }
     (w.zone 0 0).steps ≠ 0 ∧ (w.units.find 0).isSome = true ∧ (w.unit 0).live = true ∧ (w.unit 0).status = .resident ∧ w.inDomain 0 0 0 = true) ∧
    (((z { uvAt := some 5 } 5).zone 0 0).uvAt = some 5 ∧ 5 ≤ (z { uvAt := some 5 } 5).dcc 0) := by
  refine ⟨?_, ?_, ?_, ?_, ?_, ?_, ?_, ?_, ?_, ?_, ?_⟩ <;> decide +kernel
/-- FaultsAndResets: an error below nominal that takes the line of a version, and its unit; and the row, bus and bank of an error of a row. -/
theorem witness_FaultsAndResets_charged :
    let s : State := { stored with zones := (stored.setZone 0 0 { steps := 2 }).zones }
    let t := after (exec (.correctedError 0 (.l2Way 3 0 0) 7 (some (.version 0 196 0))) s)
    let row := 5 * 2 ^ 19 + 3 * 2 ^ 13 + 7
    (faultZone (.l2Way 3 0 0) = some 0 ∧ (s.zone 0 0).steps ≠ 0 ∧ 196 ∈ (s.unit 0).lines ∧ (s.units.find 0).isSome = true ∧
      (s.unit 0).status = .resident ∧ s.inDomain 0 0 0 = true) ∧
    ((t.unit 0).charged = true ∧ (t.zone 0 0).uvAt = some 144000000000) ∧
    (State.reset.wearKey row < 2 ^ 60 ∧ (after (exec (.correctedError 0 (.weightRow row) 7 none) State.reset)).soft =
      [(row, [7]), (2 ^ 60 + 5 * 4 + 3, [7]), (2 ^ 65 + row / 8192, [7])]) := by decide +kernel
/-- FaultsAndResets: no voltage step, two errors before within the window; a core's storage in a domain below nominal; a command in
flight on the engine of a resident unit; a reset whose time has come. -/
theorem witness_FaultsAndResets :
    let w : Structure := .bus 0 1
    let s : State := { State.reset with soft := [(State.reset.structKey 0 w, [1, 2])] }
    let r := State.reset.setCore 0 0 { reset := [(1, 0)] }
    let n := State.reset.setZone 0 1 { steps := 2 }
    let q : Cmd := { cn := 1, word := 0, instr := .vadd 3 1 2 0 0 0 0 0, regs := [], phase := .issued }
    faultZone w = none ∧ (faultZone (.coreStore 12) = some 1 ∧ (n.zone 0 1).steps ≠ 0) ∧
    (((flying .vector q).ctx 0 .vector 0).flight = [q] ∧ (flying .vector q).unitOn 0 0 0 = true ∧ ((flying .vector q).unit 0).status = .resident) ∧
    2 ≤ (s.soft.getD (s.structKey 0 w) []).length ∧ 24 ≤ (s.soft.getD (s.structKey 0 w) []).headD 0 + (s.die 0).window ∧
    ((r.core 0 0).reset.find (Engine.code .vector) = some 0 ∧ 0 ≤ r.ecyc 0 0 .vector) := by decide +kernel

/-! The machine as a whole -/

/-- StepRunsDecodedInstruction: the agenda names voice 0, whose word is an add, a word that fails decode, a sync word, a sync word that fails decode, a pool guard;
one of two voices whose word is a sync word; a context, whose word is MZERO; a voice that is not due; an event. -/
theorem witness_StepRunsDecodedInstruction :
    let turn (a : Sel) (s : State) : State := { s with agenda := [.stream a] }
    let s (w : Nat) : State := turn (.voice 0 0) (State.reset.withFetchWord 32 w)
    let n (x : State) : State := { x with agenda := [], fresh := x.fresh + 1 }
    let b (w : Nat) : State := (n (s w)).begin (.voice 0 0) 0
    let two : State := (turn (.voice 0 0) (twoVoices []))
    let d : State := (n two).begin (.voice 0 0) 0
    let m := turn (.ctx 0 .matrix 0) (State.reset.withFetchWord 32 0x90000000)
    let c : State := (n m).begin (.ctx 0 .matrix 0) 0
    let word (r : Except Trap Fetched) : Option (Word × Bool) := match r with | .ok f => some (f.word, f.sync) | .error _ => none
    let bits (r : Except Trap (List Word × Option Nat)) : Option Nat := match r with | .ok x => some (sBits x.1) | .error _ => none
    ((s 0x02145FFF).agenda = .stream (.voice 0 0) :: [] ∧ (n (s 0x02145FFF)).mayTurn (.voice 0 0) = true ∧
      ((s 0x02145FFF).unit 0).events = [] ∧ ((s 0x02145FFF).voice 0 0).idle = false) ∧
    (bits ((b 0x02145FFF).fetchUnit (.voice 0 0) ((b 0x02145FFF).voice 0 0).st.pc) ≠ some 15 ∧
      word ((b 0x02145FFF).fetchFor (.voice 0 0) ((b 0x02145FFF).voice 0 0).st.pc) = some (0x02145FFF, false) ∧
      ((b 0x02145FFF).voice 0 0).st.rep = none ∧ decodeWord .voice ((s 0x02145FFF).accCount 0) 0x02145FFF = .ok (.addi 0 5 5 0xFFF) ∧
      (b 0x02145FFF).dataStall 0 0 (.addi 0 5 5 0xFFF) = false) ∧
    decodeWord .voice ((s 0x00000001).accCount 0) 0x00000001 = .error .zeroField ∧
    (bits ((b 0x3F000000).fetchUnit (.voice 0 0) ((b 0x3F000000).voice 0 0).st.pc) ≠ some 15 ∧
      word ((b 0x3F000000).fetchFor (.voice 0 0) ((b 0x3F000000).voice 0 0).st.pc) = none) ∧
    (bits ((b 0x42145FFF).fetchUnit (.voice 0 0) ((b 0x42145FFF).voice 0 0).st.pc) = some 15 ∧ ((b 0x42145FFF).voice 0 0).met = false ∧
      (b 0x42145FFF).awake 0 = [0] ∧
      (let b1 := ((b 0x42145FFF).fillLoop (.voice 0 0)).resume 0 [.voice 0 0]
       word (b1.fetchFor (.voice 0 0) ((b 0x42145FFF).voice 0 0).st.pc) = some (0x42145FFF, true) ∧ (b1.voice 0 0).st.rep = none ∧
         decodeWord .voice (b1.accCount 0) 0x42145FFF = .ok (.addi 1 5 5 0xFFF))) ∧
    (bits ((b 0x40000001).fetchUnit (.voice 0 0) ((b 0x40000001).voice 0 0).st.pc) = some 15 ∧ (b 0x40000001).awake 0 = [0] ∧
      decodeWord .voice ((b 0x40000001).accCount 0) 0x40000001 = .error .zeroField) ∧
    ((n two).mayTurn (.voice 0 0) = true ∧ (d.voice 0 0).status = .running ∧ 1 ∈ d.awake 0 ∧
      ({ d with voices := (d.setVoice 0 1 { d.voice 0 1 with st := { (d.voice 0 1).st with pc := 0x200 } }).voices } : State).atSync 0 1 0x100 = false) ∧
    ((n m).mayTurn (.ctx 0 .matrix 0) = true ∧ m.decodes 0 .matrix 0 = true ∧
      word (c.fetchFor (.ctx 0 .matrix 0) (c.ctx 0 .matrix 0).st.pc) = some (0x90000000, false) ∧
      (c.ctx 0 .matrix 0).st.rep = none ∧ (c.ctx 0 .matrix 0).owing = []) ∧
    (({ s 0 with agenda := [] } : State).setVoice 0 0 { (s 0).voice 0 0 with nextAt := 9 }).mayTurn (.voice 0 0) = false ∧
    Instr.home (.refresh 0 1 2 850) = none := by
  refine ⟨?_, ?_, ?_, ?_, ?_, ?_, ?_, ?_, ?_, ?_⟩ <;> decide +kernel
/-- StepRunsDecodedInstruction: a PC beyond the address space; a register whose data have still to come;
a context's register that a command will write; an agenda that is empty, one that ticks. -/
theorem witness_StepRuns_stalls :
    let n (x : State) : State := { x with agenda := [], fresh := x.fresh + 1 }
    let turn (a : Turn) (s : State) : State := { s with agenda := [a] }
    let lost : State := (voiceOf []).setVoice 0 0 { (voiceOf []).voice 0 0 with st := { pc := 2 ^ 60 } }
    let l : State := (n (turn (.stream (.voice 0 0)) lost)).begin (.voice 0 0) 0
    let s : State := State.reset.withFetchWord 32 0x02145FFF
    let busy : State := s.setVoice 0 0 { s.voice 0 0 with busy := [5] }
    let b : State := (n (turn (.stream (.voice 0 0)) busy)).begin (.voice 0 0) 0
    let m : State := ctxOf .matrix [(6, 0x6000)]
    let o : State := m.setCtx 0 .matrix 0 { m.ctx 0 .matrix 0 with queue := [{ cn := 1, word := 0, instr := .mstat 6, regs := [] }] }
    let c : State := (n (turn (.stream (.ctx 0 .matrix 0)) o)).begin (.ctx 0 .matrix 0) 0
    ((n (turn (.stream (.voice 0 0)) lost)).mayTurn (.voice 0 0) = true ∧
      (match l.fetchUnit (.voice 0 0) (l.voice 0 0).st.pc with | .error _ => true | .ok _ => false) = true) ∧
    b.dataStall 0 0 (.addi 0 5 5 0xFFF) = true ∧
    ((c.ctx 0 .matrix 0).owing = [6] ∧ o.decodes 0 .matrix 0 = true ∧ ∃ r ∈ (Instr.mzero 2 6).xregs, r.toNat ∈ (c.ctx 0 .matrix 0).owing) ∧
    (turn (.tick 0 1) s).agenda = [.tick 0 1] ∧ (voiceOf []).agenda = [] := by
  refine ⟨?_, ?_, ?_, ?_⟩ <;> decide +kernel
/-- DecodeEncode: an instruction of a stream, and a word that decodes. -/
theorem witness_DecodeEncode :
    Instr.wf (.ctx .matrix) 16 (.mma 3 4 6 1 0 0 0 1 0 1) = true ∧ decodeWord .voice 0 0x09152346 = .ok (.lui 0 5 0x12346) := by decide +kernel
/-- StepKeepsMemoryWf: a step of a program from reset. -/
theorem witness_StepKeepsMemoryWf :
    let s := State.reset.withFetchWord 32 0x02145FFF
    Memory.wf s.mem ∧ Weights.wf s.wt ∧ (match step s with | .next _ => true | _ => false) = true := by decide +kernel
/-- WeightTierWriters: an instruction that is no writer of the tier, and a step whose move is none. -/
theorem witness_WeightTierWriters :
    (State.reset.writesTier (.add 0 1 2 3) = false ∧ (match exec (.add 0 1 2 3) (voiceOf []) with | .next _ => true | _ => false) = true) ∧
    (let s : State := { voiceOf [] with agenda := [.event (.refresh 0 1 2 850)] }
     (s.agenda.head?) = some (.event (.refresh 0 1 2 850)) ∧ s.writesTier (.refresh 0 1 2 850) = false ∧
      (match step s with | .next _ => true | _ => false) = true) ∧
    (voiceOf []).writesTier (.voicerRowRewrite ⟨7, 1⟩) = false := by
  refine ⟨?_, ?_, ?_⟩ <;> decide +kernel
/-- RegulationFrame: events that regulate. -/
theorem witness_RegulationFrame :
    ∀ i ∈ ([.breathPreposition 0, .refresh 0 1 2 850, .stat 0 1 2 3 4 true, .valveResend 0 1, .bellowsGrant 0 1, .sliceStart 0, .undervoltInterval 0 1 0 0] : List Instr),
      (match exec i (voiceOf []) with | .next _ => true | _ => false) = true := by decide +kernel

end Sys2Proof.Tests
end

section
/-! PROOFS. The machine at reset (O53). -/
namespace Sys2Proof.Machine
open Sys2Proof

/-! What no map of the state at reset lists reads as its default -/

@[simp] theorem reset_core (d p : Nat) : State.reset.core d p = {} := rfl
@[simp] theorem reset_unit (u : Nat) : State.reset.unit u = {} := rfl
@[simp] theorem reset_voice (u j : Nat) : State.reset.voice u j = {} := rfl
@[simp] theorem reset_ctx (u : Nat) (e : Engine) (j : Nat) : State.reset.ctx u e j = {} := rfl
@[simp] theorem reset_dcc (d : Nat) : State.reset.dcc d = 0 := rfl

/-- A stream whose register file lists nothing reads zero in every register (R118). -/
theorem getX_of_x_nil {st : Stream} (h : st.x = []) (r : BitVec 6) : st.getX r = 0 := by
  simp [Stream.getX, h, NMap.getD]
/-- A stream whose predicate file lists nothing has the constant predicate alone set (R118). -/
theorem getP_of_p_nil {st : Stream} (h : st.p = []) (p : BitVec 7) : st.getP p = decide (p = 0) := by
  by_cases hp : p = 0 <;> simp [Stream.getP, h, hp, NMap.getD]

/-- Settles O53: at reset no map lists an entry, so that each read gives the default of what it reads. -/
theorem resetState : Obligations.ResetState := by
  unfold Obligations.ResetState
  refine ⟨reset_dcc, fun d p => ?cores, rfl, rfl, rfl, rfl, rfl, rfl, rfl, rfl, fun u j r => ?voiceX, fun u j p => ?voiceP,
    fun u j => ?voice, fun u e j r => ?ctx, fun u => ?unit⟩
  case cores => simp
  case voiceX => exact getX_of_x_nil rfl r
  case voiceP => exact getP_of_p_nil rfl p
  case voice => simp
  case ctx => exact ⟨getX_of_x_nil rfl r, by simp⟩
  case unit => simp

end Sys2Proof.Machine
end

section
/-! PROOFS. The memory channel of the host links (O38). -/
namespace Sys2Proof.Machine
open Sys2Proof

/-! Bytes at consecutive addresses -/

/-- The bytes `bs` with the addresses at which they are written from `pa` on. -/
def addressed (pa : Nat) (bs : List Byte) : List (Nat × Byte) := bs.zipIdx.map fun p => (pa + p.2, p.1)

theorem mem_addressed {pa : Nat} {bs : List Byte} {c : Nat × Byte} :
    c ∈ addressed pa bs ↔ ∃ i, bs[i]? = some c.2 ∧ c.1 = pa + i := by
  obtain ⟨q, b⟩ := c
  simp only [addressed, List.mem_map, Prod.exists, List.mem_zipIdx_iff_getElem?, Prod.mk.injEq]
  constructor
  · rintro ⟨b', i, h, rfl, rfl⟩
    exact ⟨i, h, rfl⟩
  · rintro ⟨i, h, rfl⟩
    exact ⟨b, i, h, rfl, rfl⟩
theorem addressed_any (pa : Nat) (bs : List Byte) (p : Nat → Bool) :
    ((addressed pa bs).any fun c => p c.1) = true ↔ ∃ i, i < bs.length ∧ p (pa + i) = true := by
  rw [List.any_eq_true]
  constructor
  · rintro ⟨c, hc, hp⟩
    obtain ⟨i, hi, e⟩ := mem_addressed.1 hc
    exact ⟨i, (List.getElem?_eq_some_iff.1 hi).1, e ▸ hp⟩
  · rintro ⟨i, hi, hp⟩
    exact ⟨(pa + i, bs[i]), mem_addressed.2 ⟨i, List.getElem?_eq_getElem hi, rfl⟩, hp⟩
theorem addressed_keys (pa : Nat) (bs : List Byte) : (addressed pa bs).map (·.1) = List.range' pa bs.length := by
  refine List.ext_getElem (by simp [addressed]) fun i h₁ h₂ => ?_
  simp [addressed]
/-- No address occurs twice. -/
theorem addressed_nodup (pa : Nat) (bs : List Byte) : ((addressed pa bs).map (·.1)).Nodup :=
  addressed_keys pa bs ▸ List.nodup_range'

/-! Writes that every agent sees (R369, R460) -/

/-- The key of a line is that of each of its bytes. -/
theorem keyOk_line (s : State) (key : Nat) {pa q : Nat} (h : q / 128 = pa / 128) : s.keyOk key q = s.keyOk key pa := by
  have hh : isHost q = isHost pa := by
    unfold isHost
    congr 1
    exact propext (by omega)
  rw [State.keyOk, State.keyOk, hh, h]

/-- Memory itself holds byte `b` at `pa` under `key`, and no narrower write stands over it. -/
structure State.holdsSys (s : State) (key pa : Nat) (b : Byte) : Prop where
  key : s.keyOk key pa = true
  byte : NMap.find s.mem pa = some b
  last : ∀ w ∈ s.narrow, w.pa ≠ pa

/-- Every agent reads such a byte under its key, but where its line is poisoned. -/
theorem holdsSys_seen {s : State} {key pa : Nat} {b : Byte} (h : s.holdsSys key pa b) (hp : s.poisoned pa = false) (ag : Agent) :
    s.seen ag key pa = b := by
  have hn : findLast (fun w => decide (w.pa = pa) && s.reaches w ag) s.narrow = none :=
    findLast_none _ _ fun w hw => by simp [h.last w hw]
  simp [State.seen, hp, hn, State.memByte, h.key, h.byte]
theorem writeSys_holdsSys (s : State) (key pa : Nat) (b : Byte) : (s.writeSys key pa b).holdsSys key pa b where
  key := claim_keyOk s key pa
  byte := NMap.find_put_self _ _ _
  last := fun w hw => by simpa using (List.mem_filter.1 hw).2
/-- A claim under the key of the line, or of another line, takes no byte away. -/
theorem claim_holdsSys {s : State} {key pa : Nat} {b : Byte} (h : s.holdsSys key pa b) (q : Nat) : (s.claim key q).holdsSys key pa b := by
  by_cases hl : pa / 128 = q / 128
  · have hq : s.keyOk key q = true := keyOk_line s key hl ▸ h.key
    rw [State.claim, if_pos hq]
    exact h
  · refine ⟨(claim_keyOk_ne s key hl).trans h.key, ?_, fun w hw => h.last w ?_⟩
    · unfold State.claim
      split
      · exact h.byte
      · exact (NMap.find_filter_key s.mem (fun a => decide (a / 128 ≠ q / 128)) pa).trans (by simp [hl, h.byte])
    · unfold State.claim at hw
      split at hw
      · exact hw
      · exact List.mem_of_mem_filter hw
/-- A write under the same key leaves every other byte alone, also of its own line. -/
theorem holdsSys_writeSys {s : State} {key pa q : Nat} {b : Byte} (h : s.holdsSys key pa b) (c : Byte) (hq : pa ≠ q) :
    (s.writeSys key q c).holdsSys key pa b := by
  obtain ⟨hk, hb, hn⟩ := claim_holdsSys h q
  exact ⟨hk, (NMap.find_put_ne hq).trans hb, fun w hw => hn w (List.mem_of_mem_filter hw)⟩
theorem holdsSys_writeSysList {s : State} {key pa : Nat} {b : Byte} (h : s.holdsSys key pa b) (l : List (Nat × Byte))
    (hl : pa ∉ l.map (·.1)) : (s.writeSysList key l).holdsSys key pa b := by
  induction l generalizing s with
  | nil => exact h
  | cons c t ih =>
    obtain ⟨hc, ht⟩ := not_or.1 (mt List.mem_cons.2 hl)
    exact ih (holdsSys_writeSys h c.2 hc) ht
/-- Of writes at distinct addresses each one stands. -/
theorem writeSysList_holdsSys (s : State) (key : Nat) {l : List (Nat × Byte)} (hl : (l.map (·.1)).Nodup) {c : Nat × Byte}
    (hc : c ∈ l) : (s.writeSysList key l).holdsSys key c.1 c.2 := by
  induction l generalizing s with
  | nil => cases hc
  | cons a t ih =>
    obtain ⟨ha, ht⟩ := List.nodup_cons.1 hl
    rcases List.mem_cons.1 hc with rfl | hc
    · exact holdsSys_writeSysList (writeSys_holdsSys s key c.1 c.2) t ha
    · exact ih _ ht hc
theorem writeSysList_seen_ne (s : State) (ag : Agent) (key k : Nat) {q : Nat} (l : List (Nat × Byte))
    (h : ∀ c ∈ l, q / 128 ≠ c.1 / 128) : (s.writeSysList key l).seen ag k q = s.seen ag k q := by
  induction l generalizing s with
  | nil => rfl
  | cons c t ih =>
    obtain ⟨hc, ht⟩ := List.forall_mem_cons.1 h
    exact (ih _ ht).trans (writeSys_seen_ne s ag k c.2 hc)
/-- The poison of a line that no written byte touches stays. -/
theorem unpoison_poisoned (s : State) {pas : List Nat} {q : Nat} (h : ∀ pa ∈ pas, q / 128 ≠ pa / 128) :
    (s.unpoison pas).poisoned q = s.poisoned q := by
  have hq : ((List.range 128).all fun i => pas.contains (q / 128 * 128 + i)) = false := by
    refine List.all_eq_false.2 ⟨0, by simp, ?_⟩
    intro hc
    exact h _ (by simpa using hc) (by omega)
  unfold State.poisoned State.unpoison
  rw [NMap.find_filter_key s.mpoison (fun a => !((List.range 128).all fun i => pas.contains (a * 128 + i))) (q / 128)]
  simp only [hq, Bool.not_false, if_true]
theorem unpoison_seen (s : State) (ag : Agent) (k : Nat) {pas : List Nat} {q : Nat} (h : ∀ pa ∈ pas, q / 128 ≠ pa / 128) :
    (s.unpoison pas).seen ag k q = s.seen ag k q := by
  unfold State.seen
  rw [unpoison_poisoned s h]
  rfl
theorem landSys_seen_ne (s : State) (ag : Agent) (key k : Nat) {q : Nat} (l : List (Nat × Byte))
    (h : ∀ c ∈ l, q / 128 ≠ c.1 / 128) : (s.landSys key l).seen ag k q = s.seen ag k q :=
  (unpoison_seen _ ag k (List.forall_mem_map.2 h)).trans (writeSysList_seen_ne s ag key k l h)

/-- What fails below a bound holds of nothing there. -/
theorem not_exists_of_forall_false {n : Nat} {p : Nat → Bool} (h : ∀ i, i < n → p i = false) : ¬ ∃ i, i < n ∧ p i = true :=
  fun ⟨i, hi, e⟩ => by simp [h i hi] at e

/-! The three courses of a host write and of a host read -/

/-- What a host write with a way to its storage leaves (R402, R460). -/
def State.hostWrote (s : State) (pa : Nat) (bs : List Byte) (key : Nat) : State :=
  (s.landSys key (addressed pa bs)).fire (fun _ _ => true) ((addressed pa bs).map (·.1))

theorem execHostWrite_eq (pa : Nat) (bs : List Byte) (key : Nat) (s : State) :
    execHostWrite pa bs key s =
      if ∃ i, i < bs.length ∧ s.unassigned (pa + i) = true then .fault .absentAddress
      else if ∃ i, i < bs.length ∧ s.cutOff (pa + i) = true then .next s
      else .next (s.hostWrote pa bs key) := by
  simp only [← addressed_any]
  rfl
theorem execHostReadRequest_eq (pa n key : Nat) (s : State) :
    execHostReadRequest pa n key s =
      if ∃ i, i < n ∧ s.unassigned (pa + i) = true then .fault .absentAddress
      else if ∃ i, i < n ∧ s.cutOff (pa + i) = true then .next s
      else .next { s with hostReads := s.hostReads ++ [(pa, s.seenBytes .host key pa n)] } := by
  simp only [execHostReadRequest, List.any_eq_true, List.mem_range]

/-- Every agent reads under their key the bytes that a host write brought. -/
theorem hostWrote_seen_self (s : State) (pa key : Nat) {bs : List Byte} (ag : Agent) {i : Nat} (hi : i < bs.length)
    (hp : (s.hostWrote pa bs key).poisoned (pa + i) = false) : (s.hostWrote pa bs key).seen ag key (pa + i) = bs[i] := by
  have hm : (pa + i, bs[i]) ∈ addressed pa bs := mem_addressed.2 ⟨i, List.getElem?_eq_getElem hi, rfl⟩
  obtain ⟨hk, hb, hn⟩ := writeSysList_holdsSys s key (addressed_nodup pa bs) hm
  exact holdsSys_seen (s := s.hostWrote pa bs key) ⟨hk, hb, hn⟩ hp ag
/-- A host write changes no line that it does not touch. -/
theorem hostWrote_seen_ne (s : State) (pa key : Nat) (bs : List Byte) (ag : Agent) (k q : Nat)
    (h : ∀ i, i < bs.length → (pa + i) / 128 ≠ q / 128) : (s.hostWrote pa bs key).seen ag k q = s.seen ag k q := by
  refine landSys_seen_ne s ag key k (addressed pa bs) fun c hc => ?_
  obtain ⟨i, hi, e⟩ := mem_addressed.1 hc
  exact e ▸ (h i (List.getElem?_eq_some_iff.1 hi).1).symm

/-- Settles O38: by the three courses of a host write and of a host read, and by what a list of writes at distinct addresses leaves
in memory. -/
theorem hostLinks : Obligations.HostLinks := by
  unfold Obligations.HostLinks
  intro pa n key die port bs s
  refine ⟨fun h => ?write, fun h => ?writeAbsent, fun h => ?read, fun hu hc => ?writeCut, fun hu hc => ?readCut, fun h => ?readAbsent,
    fun h => ?port, fun h => ?noPort⟩
  case write =>
    have hu : ¬ ∃ i, i < bs.length ∧ s.unassigned (pa + i) = true := not_exists_of_forall_false fun i hi => (h i hi).1
    have hc : ¬ ∃ i, i < bs.length ∧ s.cutOff (pa + i) = true := not_exists_of_forall_false fun i hi => (h i hi).2
    refine ⟨s.hostWrote pa bs key, (execHostWrite_eq pa bs key s).trans (by rw [if_neg hu, if_neg hc]), ?_, ?_⟩
    · intro i ag hi hp
      rw [hostWrote_seen_self s pa key ag hi hp, List.getElem?_eq_getElem hi]
    · exact hostWrote_seen_ne s pa key bs
  case writeAbsent => exact (execHostWrite_eq pa bs key s).trans (if_pos h)
  case read =>
    have hu : ¬ ∃ i, i < n ∧ s.unassigned (pa + i) = true := not_exists_of_forall_false fun i hi => (h i hi).1
    have hc : ¬ ∃ i, i < n ∧ s.cutOff (pa + i) = true := not_exists_of_forall_false fun i hi => (h i hi).2
    exact ⟨_, (execHostReadRequest_eq pa n key s).trans (by rw [if_neg hu, if_neg hc]), rfl⟩
  case writeCut =>
    have hu : ¬ ∃ i, i < bs.length ∧ s.unassigned (pa + i) = true := not_exists_of_forall_false hu
    exact ⟨s, (execHostWrite_eq pa bs key s).trans (by rw [if_neg hu, if_pos hc]), rfl⟩
  case readCut =>
    have hu : ¬ ∃ i, i < n ∧ s.unassigned (pa + i) = true := not_exists_of_forall_false hu
    exact ⟨s, (execHostReadRequest_eq pa n key s).trans (by rw [if_neg hu, if_pos hc]), rfl⟩
  case readAbsent => exact (execHostReadRequest_eq pa n key s).trans (if_pos h)
  case port => exact ⟨_, if_pos (by simpa [ualinkDies] using h), rfl⟩
  case noPort => exact ⟨_, if_neg (by simpa [ualinkDies] using h), rfl⟩

end Sys2Proof.Machine
end

section
/-! PROOFS. Power loss and power-on (O37). -/
namespace Sys2Proof.NMap

/-- A map over the entries that keeps their keys maps what a read finds. -/
theorem find_map_key {α β : Type} (m : NMap α) (f : Nat × α → Nat × β) (hf : ∀ c, (f c).1 = c.1) (k : Nat) :
    find (m.map f) k = (m.find k).map fun v => (f (k, v)).2 := by
  induction m with
  | nil => rfl
  | cons c t ih =>
    obtain ⟨k', v⟩ := c
    have hk : f (k', v) = (k', (f (k', v)).2) := Prod.ext (hf _) rfl
    rw [List.map_cons, hk, find_cons, find_cons, ih]
    by_cases h : k' = k
    · subst h; simp
    · simp [h]

end Sys2Proof.NMap

namespace Sys2Proof.Machine
open Sys2Proof

/-- The directories outlast power-off, less the swaps in progress (R235). -/
theorem find_cold_regions (s : State) (k : Nat) :
    s.cold.regions.find k = (s.regions.find k).map fun r => { r with pending := [], signalled := [] } :=
  NMap.find_map_key s.regions (fun c => (c.1, ({ c.2 with pending := [], signalled := [] } : Region))) (fun _ => rfl) k

/-! The check of the remap tables (R251) -/

/-- `t` differs from `s` at most in remap tables, the marks of banks and the directories, and every region of `s` is still listed,
with a run open where one was. -/
structure State.checksTables (s t : State) : Prop where
  frame : t = { s with rtabs := t.rtabs, rdigest := t.rdigest, unusable := t.unusable, remap := t.remap, regions := t.regions }
  runs : ∀ k r, s.regions.find k = some r → ∃ r', t.regions.find k = some r' ∧ r'.popen = r.popen

theorem checksTables_refl (s : State) : s.checksTables s := ⟨rfl, fun _ r h => ⟨r, h, rfl⟩⟩
theorem checksTables_trans {s t q : State} (h : s.checksTables t) (g : t.checksTables q) : s.checksTables q where
  frame := g.frame.trans (by rw [h.frame])
  runs := fun k r hr => by
    obtain ⟨r₁, h₁, e₁⟩ := h.runs k r hr
    obtain ⟨r₂, h₂, e₂⟩ := g.runs k r₁ h₁
    exact ⟨r₂, h₂, e₂.trans e₁⟩
theorem damageRows_checksTables (s : State) (f : Nat → Bool) : s.checksTables (s.damageRows f) where
  frame := rfl
  runs := fun k r hr => by
    unfold State.damageRows
    rw [NMap.find_map_key _ _ (fun c => by split <;> rfl), hr]
    refine ⟨_, rfl, ?_⟩
    dsimp only
    split <;> rfl
theorem checkBank_checksTables (s : State) (bank : Nat) : s.checksTables (s.checkBank bank) := by
  unfold State.checkBank
  extract_lets good
  split
  · exact ⟨rfl, fun _ r h => ⟨r, h, rfl⟩⟩
  · refine checksTables_trans ?_ (damageRows_checksTables _ _)
    exact ⟨rfl, fun _ r h => ⟨r, h, rfl⟩⟩
theorem checkBanks_checksTables (s : State) (cs : List (Nat × Nat × List Byte)) : s.checksTables (s.checkBanks cs) :=
  List.foldlRecOn _ _ (checksTables_refl s) fun t ht bank _ => checksTables_trans ht (checkBank_checksTables t bank)
theorem findCopies_checksTables (s : State) (cs : List (Nat × Nat × List Byte)) : s.checksTables (s.findCopies cs) :=
  ⟨rfl, fun _ r h => ⟨r, h, rfl⟩⟩

/-- A start marks a region with an open run as damaged, and ends the run (R248). -/
theorem markRegion_of_popen (s : State) {c : Nat × Region} (h : c.2.popen = true) :
    s.markRegion c = (c.1, { c.2 with dmg := true, popen := false, rewritten := [] }) := if_pos (.inl h)
theorem markRegion_key (s : State) (c : Nat × Region) : (s.markRegion c).1 = c.1 := by
  unfold State.markRegion
  split <;> rfl

/-! What each die does for itself -/

/-- `t` differs from `s` at most in its dies and their Drones. -/
def State.onlyDies (s t : State) : Prop := t = { s with dies := t.dies, drones := t.drones }

theorem onlyDies_trans {s t q : State} (h : s.onlyDies t) (g : t.onlyDies q) : s.onlyDies q := g.trans (by rw [h])
/-- Whether an image passes rests on the weight tier alone. -/
theorem onlyDies_imageOk {s t : State} (h : s.onlyDies t) (d : Nat) : t.imageOk d = s.imageOk d := by
  rw [h]
  rfl
/-- The dies do in turn what changes each its own record: at the end every one of them has done so. -/
theorem foldl_die {s : State} {f : State → Nat → State} {g : Nat → Die → Die}
    (hf : ∀ t k, s.onlyDies t → t.onlyDies (f t k) ∧ ∀ d, (f t k).die d = if d = k then g k (t.die k) else t.die d)
    {l : List Nat} (hl : l.Nodup) {t : State} (ht : s.onlyDies t) :
    s.onlyDies (l.foldl f t) ∧ ∀ d, (l.foldl f t).die d = if d ∈ l then g d (t.die d) else t.die d := by
  induction l generalizing t with
  | nil => exact ⟨ht, fun d => rfl⟩
  | cons k l ih =>
    obtain ⟨hk, hl⟩ := List.nodup_cons.1 hl
    obtain ⟨h₁, h₂⟩ := hf t k ht
    obtain ⟨h₃, h₄⟩ := ih hl (onlyDies_trans ht h₁)
    refine ⟨h₃, fun d => (h₄ d).trans ?_⟩
    rw [h₂]
    by_cases hd : d = k
    · subst hd; simp [hk]
    · simp [hd]

theorem setDie_onlyDies (s : State) (d : Nat) (x : Die) : s.onlyDies (s.setDie d x) := rfl
theorem die_setDie_eq (s : State) (k d : Nat) (x : Die) : (s.setDie k x).die d = if d = k then x else s.die d := by
  by_cases h : d = k
  · subst h; simp
  · simp [h, die_setDie_ne s x h]

/-- What becomes of a die's record as it boots, where its image passes or not (R462, R463). -/
def bootedDie (passes : Bool) (x : Die) : Die := if passes then { x with boot := 5 } else { x with recovery := true }
@[simp] theorem bootedDie_fitted (b : Bool) (x : Die) : (bootedDie b x).fitted = x.fitted := by unfold bootedDie; split <;> rfl
@[simp] theorem bootedDie_dcc (b : Bool) (x : Die) : (bootedDie b x).dcc = x.dcc := by unfold bootedDie; split <;> rfl
theorem bootDie_onlyDies (s : State) (d : Nat) : s.onlyDies (s.bootDie d) := by
  unfold State.bootDie
  split <;> rfl
theorem bootDie_die (s : State) (k d : Nat) :
    (s.bootDie k).die d = if d = k then bootedDie (s.imageOk k) (s.die k) else s.die d := by
  unfold State.bootDie bootedDie
  split <;> exact die_setDie_eq s k d _

/-! The stages of POWER_ON_RESET -/

/-- Every die has found its memory (R3). -/
def State.fitDies (s : State) (x : Found) : State :=
  (List.range Config.dies).foldl (fun (t : State) d => t.setDie d { t.die d with fitted := s.sizeFound (x.fitted.getD d 64) }) s.cold
/-- Then the remap tables have been checked (R251). -/
def State.tablesChecked (s : State) (x : Found) : State := ((s.fitDies x).findCopies x.copies).checkBanks x.copies
/-- Then the regions and the links have been marked, and the dies are about to boot (R248, R460). -/
def State.toBoot (s : State) (x : Found) : State :=
  let t := s.tablesChecked x
  let m : State := { t with regions := t.regions.map t.markRegion, badLinks := x.links, badPorts := x.ports }
  { m with unreached := (List.range Config.dies).filter fun d => !m.reached d }
def State.poweredOn (s : State) (x : Found) : State := (List.range Config.dies).foldl State.bootDie (s.toBoot x)

theorem execPowerOnReset_eq (x : Found) (s : State) : execPowerOnReset x s = .next (s.poweredOn x) := rfl

theorem fitDies_spec (s : State) (x : Found) : s.cold.onlyDies (s.fitDies x) ∧
    ∀ d, (s.fitDies x).die d = if d ∈ List.range Config.dies then { fitted := s.sizeFound (x.fitted.getD d 64) } else {} :=
  foldl_die (g := fun d y => { y with fitted := s.sizeFound (x.fitted.getD d 64) })
    (fun t k _ => ⟨setDie_onlyDies t k _, fun d => die_setDie_eq t k d _⟩) List.nodup_range rfl
theorem tablesChecked_checksTables (s : State) (x : Found) : (s.fitDies x).checksTables (s.tablesChecked x) :=
  checksTables_trans (findCopies_checksTables _ _) (checkBanks_checksTables _ _)
theorem poweredOn_spec (s : State) (x : Found) : (s.toBoot x).onlyDies (s.poweredOn x) ∧
    ∀ d, (s.poweredOn x).die d =
      if d ∈ List.range Config.dies then bootedDie ((s.toBoot x).imageOk d) ((s.toBoot x).die d) else (s.toBoot x).die d :=
  foldl_die (g := fun d => bootedDie ((s.toBoot x).imageOk d))
    (fun t k ht => ⟨bootDie_onlyDies t k, fun d => onlyDies_imageOk ht k ▸ bootDie_die t k d⟩) List.nodup_range rfl

/-- Power-on changes nothing of what power-off leaves but dies, tables, directories and the marks of links. -/
theorem poweredOn_frame (s : State) (x : Found) : s.poweredOn x =
    { s.cold with
      dies := (s.poweredOn x).dies, drones := (s.poweredOn x).drones
      rtabs := (s.poweredOn x).rtabs, rdigest := (s.poweredOn x).rdigest, unusable := (s.poweredOn x).unusable
      remap := (s.poweredOn x).remap, regions := (s.poweredOn x).regions
      badLinks := (s.poweredOn x).badLinks, badPorts := (s.poweredOn x).badPorts, unreached := (s.poweredOn x).unreached } := by
  have h₁ := (fitDies_spec s x).1
  have h₂ := (tablesChecked_checksTables s x).frame
  have h₃ := (poweredOn_spec s x).1
  rw [h₃]
  unfold State.toBoot
  rw [h₂, h₁]
theorem toBoot_die (s : State) (x : Found) {d : Nat} (h : d < 12) :
    (s.toBoot x).die d = { fitted := s.sizeFound (x.fitted.getD d 64) } := by
  have hd : d ∈ List.range Config.dies := List.mem_range.2 h
  have ht : (s.toBoot x).die d = (s.fitDies x).die d := by
    show (s.tablesChecked x).die d = _
    rw [(tablesChecked_checksTables s x).frame]
    rfl
  rw [ht, (fitDies_spec s x).2 d, if_pos hd]
/-- The record of a die after power-on: its memory found, and all else at reset but what booting it left (R462, R463). -/
theorem poweredOn_die (s : State) (x : Found) {d : Nat} (h : d < 12) :
    (s.poweredOn x).die d = bootedDie ((s.poweredOn x).imageOk d) { fitted := s.sizeFound (x.fitted.getD d 64) } := by
  obtain ⟨ho, hd⟩ := poweredOn_spec s x
  have hm : d ∈ List.range Config.dies := List.mem_range.2 h
  rw [hd d, if_pos hm, toBoot_die s x h, onlyDies_imageOk ho]
theorem poweredOn_badLinks (s : State) (x : Found) : (s.poweredOn x).badLinks = x.links :=
  congrArg State.badLinks (poweredOn_spec s x).1
theorem poweredOn_badPorts (s : State) (x : Found) : (s.poweredOn x).badPorts = x.ports :=
  congrArg State.badPorts (poweredOn_spec s x).1
/-- Which dies are reached rests on the links alone (R460). -/
theorem reached_congr {s t : State} (h : t.badLinks = s.badLinks) (d : Nat) : t.reached d = s.reached d := by
  simp only [State.reached, State.routed, State.pathUp, State.linkUp, h]
/-- The dies marked as out of reach are those that no route of trained links reaches (R460). -/
theorem poweredOn_unreached (s : State) (x : Found) {d : Nat} (h : d < 12) :
    d ∈ (s.poweredOn x).unreached ↔ (s.poweredOn x).reached d = false := by
  have hr : ∀ k, (s.toBoot x).reached k = (s.poweredOn x).reached k := fun k => reached_congr (poweredOn_badLinks s x).symm k
  have hu : (s.poweredOn x).unreached = (List.range Config.dies).filter fun k => !(s.poweredOn x).reached k := by
    simp only [← hr]
    exact congrArg State.unreached (poweredOn_spec s x).1
  have hm : d ∈ List.range Config.dies := List.mem_range.2 h
  rw [hu, List.mem_filter]
  simp [hm]
/-- A region with a programming run open is damaged after power-on, and its run is over (R248). -/
theorem poweredOn_open_run (s : State) (x : Found) {k : Nat} {r : Region} (hr : s.regions.find k = some r) (ho : r.popen = true) :
    ∃ r', (s.poweredOn x).regions.find k = some r' ∧ r'.dmg = true ∧ r'.popen = false := by
  have hc : (s.fitDies x).regions.find k = some { r with pending := [], signalled := [] } := by
    have hf : (s.fitDies x).regions = s.cold.regions := by rw [(fitDies_spec s x).1]
    rw [hf, find_cold_regions, hr, Option.map_some]
  obtain ⟨r₁, h₁, e₁⟩ := (tablesChecked_checksTables s x).runs k _ hc
  refine ⟨{ r₁ with dmg := true, popen := false, rewritten := [] }, ?_, rfl, rfl⟩
  have hf : (s.poweredOn x).regions = (s.tablesChecked x).regions.map (s.tablesChecked x).markRegion :=
    congrArg State.regions (poweredOn_spec s x).1
  rw [hf, NMap.find_map_key _ _ (markRegion_key _), h₁, Option.map_some, markRegion_of_popen _ (e₁.trans ho)]

/-- Settles O37: by the frame of each stage of power-on (memory found, tables checked, marks made, dies booted) and by what each die's
boot leaves in its record. -/
theorem powerOnAndLoss : Obligations.PowerOnAndLoss := by
  unfold Obligations.PowerOnAndLoss
  intro x s d cleared
  refine ⟨⟨s.cold, rfl, ?loss, rfl, rfl, rfl, rfl⟩, fun hd =>
    ⟨s.poweredOn x, execPowerOnReset_eq x s, ?cleared, ?fitted, ?dcc, ?boots, ?recovers,
      poweredOn_badLinks s x, poweredOn_badPorts s x, poweredOn_unreached s x hd, fun k r => poweredOn_open_run s x⟩⟩
  case loss => and_intros <;> rfl
  case cleared =>
    rw [poweredOn_frame]
    and_intros <;> rfl
  case fitted => rw [poweredOn_die s x hd, bootedDie_fitted]
  case dcc => rw [State.dcc, poweredOn_die s x hd, bootedDie_dcc]
  case boots =>
    intro h
    rw [poweredOn_die s x hd, h]
    exact ⟨rfl, rfl⟩
  case recovers =>
    intro h
    rw [poweredOn_die s x hd, h]
    exact ⟨rfl, rfl⟩

end Sys2Proof.Machine
end

section
/-! PROOFS. What the work of a die leaves of the completion counters, and the course of a launch and its levels (O41). -/
namespace Sys2Proof.Machine
open Sys2Proof

/-! Updates that leave every completion counter alone (R89) -/

/-- The counters and states of all launches, and the graphs with theirs, are in `t` as in `s`. -/
structure State.sameCounts (s t : State) : Prop where
  count : ∀ l, (t.launch l).count = (s.launch l).count
  status : ∀ l, (t.launch l).status = (s.launch l).status
  graphs : t.graphs = s.graphs

theorem sameCounts_of_eq {s t : State} (hl : t.launches = s.launches) (hg : t.graphs = s.graphs) : s.sameCounts t where
  count l := by rw [State.launch, State.launch, hl]
  status l := by rw [State.launch, State.launch, hl]
  graphs := hg
theorem sameCounts_refl (s : State) : s.sameCounts s := sameCounts_of_eq rfl rfl
theorem sameCounts_trans {s t q : State} (h : s.sameCounts t) (k : t.sameCounts q) : s.sameCounts q where
  count l := (k.count l).trans (h.count l)
  status l := (k.status l).trans (h.status l)
  graphs := k.graphs.trans h.graphs
theorem sameCounts_foldl {α : Type} {f : State → α → State} (hf : ∀ (t : State) a, t.sameCounts (f t a)) (l : List α) (s : State) :
    s.sameCounts (l.foldl f s) :=
  List.foldlRecOn l f (motive := s.sameCounts) (sameCounts_refl s) fun t ht a _ => sameCounts_trans ht (hf t a)
/-- Launches may change in all but their counters and states. -/
theorem sameCounts_of_map {s t : State} {f : Nat × Launch → Nat × Launch} (hl : t.launches = s.launches.map f)
    (hk : ∀ c, (f c).1 = c.1) (hc : ∀ c, (f c).2.count = c.2.count) (hs : ∀ c, (f c).2.status = c.2.status)
    (hg : t.graphs = s.graphs) : s.sameCounts t := by
  have find : ∀ l, t.launches.find l = (s.launches.find l).map fun x => (f (l, x)).2 := fun l => hl ▸ NMap.find_map_key _ f hk l
  refine ⟨fun l => ?_, fun l => ?_, hg⟩
  all_goals
    rw [State.launch, State.launch, NMap.getD, NMap.getD, find]
    cases s.launches.find l
    · rfl
    · simp [hc, hs]
/-- An update of a launch that keeps its counter and its state keeps all of them. -/
theorem setLaunch_sameCounts (s : State) {l : Nat} {x : Launch} (hc : x.count = (s.launch l).count)
    (hs : x.status = (s.launch l).status) : s.sameCounts (s.setLaunch l x) where
  count k := by
    by_cases hk : k = l
    · rw [hk, launch_setLaunch, hc]
    · rw [launch_setLaunch_ne s x hk]
  status k := by
    by_cases hk : k = l
    · rw [hk, launch_setLaunch, hs]
    · rw [launch_setLaunch_ne s x hk]
  graphs := rfl
theorem setUnit_sameCounts (s : State) (u : Nat) (t : TeamUnit) : s.sameCounts (s.setUnit u t) := sameCounts_of_eq rfl rfl
theorem setVoice_sameCounts (s : State) (u j : Nat) (v : Voice) : s.sameCounts (s.setVoice u j v) := sameCounts_of_eq rfl rfl
theorem setCore_sameCounts (s : State) (d p : Nat) (c : Core) : s.sameCounts (s.setCore d p c) := sameCounts_of_eq rfl rfl

/-! Writes to memory -/

theorem claim_sameCounts (s : State) (key pa : Nat) : s.sameCounts (s.claim key pa) := by
  unfold State.claim
  split
  · exact sameCounts_refl s
  · exact sameCounts_of_eq rfl rfl
theorem writeSysList_sameCounts (s : State) (key : Nat) (l : List (Nat × Byte)) : s.sameCounts (s.writeSysList key l) := by
  induction l generalizing s with
  | nil => exact sameCounts_refl s
  | cons c l ih =>
    have hw : (s.claim key c.1).sameCounts (s.writeSys key c.1 c.2) := sameCounts_of_eq rfl rfl
    exact sameCounts_trans (sameCounts_trans (claim_sameCounts s key c.1) hw) (ih _)
theorem landSys_sameCounts (s : State) (key : Nat) (l : List (Nat × Byte)) : s.sameCounts (s.landSys key l) :=
  sameCounts_trans (writeSysList_sameCounts s key l) (sameCounts_of_eq rfl rfl)
theorem markFrame_sameCounts (s : State) (u f : Nat) : s.sameCounts (s.markFrame u f) := landSys_sameCounts s _ _

/-! Queues served (R29, R408) -/

theorem setQueue_sameCounts (s : State) (l q : Nat) (x : Queue) : s.sameCounts (s.setQueue l q x) :=
  setLaunch_sameCounts s rfl rfl
theorem finishWait_sameCounts (s : State) (u j : Nat) (d : BitVec 6) (v : X) : s.sameCounts (s.finishWait u j d v) :=
  setVoice_sameCounts s u j _
theorem touch_sameCounts (s : State) (u agent : Nat) (wr : Bool) (a n : Nat) : s.sameCounts (s.touch u agent wr a n) := by
  unfold State.touch
  split
  · exact sameCounts_refl s
  · exact setUnit_sameCounts s u _
theorem stsByte_sameCounts (s : State) (u j a : Nat) (b : Byte) : s.sameCounts (s.stsByte u j a b) := by
  unfold State.stsByte
  extract_lets t k now live
  split
  · exact sameCounts_refl s
  · split
    · split
      · exact sameCounts_refl s
      · exact sameCounts_of_eq rfl rfl
    · exact sameCounts_of_eq rfl rfl
theorem stsBytes_sameCounts (s : State) (u j a : Nat) (bs : List Byte) : s.sameCounts (s.stsBytes u j a bs) := by
  induction bs generalizing s a with
  | nil => exact sameCounts_refl s
  | cons b bs ih => exact sameCounts_trans (stsByte_sameCounts s u j a b) (ih _ _)
theorem keepLate_sameCounts (s : State) (u : Nat) (l : List (Nat × Byte)) : s.sameCounts (s.keepLate u l) := by
  unfold State.keepLate
  split
  · exact setUnit_sameCounts s u _
  · exact sameCounts_refl s
theorem serve_sameCounts (s : State) (l q n : Nat) : s.sameCounts (s.serve l q n) := by
  induction n generalizing s with
  | zero => exact sameCounts_refl s
  | succ n ih =>
    have waits : ∀ (x : Queue) (u j : Nat) (d : BitVec 6) (v : X), s.sameCounts (((s.setQueue l q x).finishWait u j d v).serve l q n) :=
      fun x u j d v => sameCounts_trans (sameCounts_trans (setQueue_sameCounts s l q x) (finishWait_sameCounts _ u j d v)) (ih _)
    rw [State.serve]
    dsimp only
    split
    · refine sameCounts_trans ?_ (ih _)
      refine sameCounts_trans ?_ (finishWait_sameCounts _ _ _ _ _)
      refine sameCounts_trans ?_ (keepLate_sameCounts _ _ _)
      refine sameCounts_trans ?_ (stsBytes_sameCounts _ _ _ _ _)
      exact sameCounts_trans (setQueue_sameCounts s l q _) (touch_sameCounts _ _ _ _ _ _)
    · split
      · exact waits _ _ _ _ _
      · exact sameCounts_refl s
    · exact waits _ _ _ _ _
    · split
      · exact sameCounts_refl s
      · exact waits _ _ _ _ _
    · exact sameCounts_refl s
theorem closeQueue_sameCounts (s : State) (l q : Nat) : s.sameCounts (s.closeQueue l q) := by
  unfold State.closeQueue
  split
  · exact sameCounts_refl s
  · exact setQueue_sameCounts s l q _
theorem serveAll_sameCounts (s : State) (l : Nat) : s.sameCounts (s.serveAll l) :=
  sameCounts_foldl (fun t q => sameCounts_trans (closeQueue_sameCounts t l q) (serve_sameCounts _ l q _)) _ s

/-! Units created, cancelled and released (R46, R91, R416) -/

theorem abandon_sameCounts (s : State) (u : Nat) (ok : Nat → Bool) : s.sameCounts (s.abandon u ok) :=
  sameCounts_of_map (s := s) rfl (fun _ => rfl) (fun _ => rfl) (fun _ => rfl) rfl
theorem closeRegion_sameCounts (s : State) (k : Nat) : s.sameCounts (s.closeRegion k) := by
  unfold State.closeRegion
  split
  · exact sameCounts_refl s
  · split
    · exact sameCounts_of_eq rfl rfl
    · exact sameCounts_refl s
theorem killAll_sameCounts (s : State) (u : Nat) : s.sameCounts (s.killAll u) := by
  refine sameCounts_trans ?_ (sameCounts_foldl (fun t c => closeRegion_sameCounts t (Prod.fst c)) _ _)
  exact sameCounts_of_eq rfl rfl
theorem cancelUnit_sameCounts (s : State) (u : Nat) : s.sameCounts (s.cancelUnit u) := by
  refine sameCounts_trans ?_ (setUnit_sameCounts _ u _)
  refine sameCounts_trans ?_ (abandon_sameCounts _ u _)
  refine sameCounts_trans ?_ (killAll_sameCounts _ u)
  exact sameCounts_trans (setUnit_sameCounts s u _) (setUnit_sameCounts _ u _)
theorem noteClocks_sameCounts (s : State) (d p : Nat) : s.sameCounts (s.noteClocks d p) := by
  refine sameCounts_foldl (fun t dom => ?_) _ s
  dsimp only
  split
  · exact setCore_sameCounts t d p _
  · exact sameCounts_refl t
theorem releaseUnit_sameCounts (s : State) (u : Nat) : s.sameCounts (s.releaseUnit u) := by
  refine sameCounts_trans ?_ (noteClocks_sameCounts _ _ _)
  refine sameCounts_trans ?_ (markFrame_sameCounts _ u 3)
  refine sameCounts_trans (t := (s.killAll u).abandon u fun _ => true) ?_ (sameCounts_of_eq rfl rfl)
  exact sameCounts_trans (killAll_sameCounts s u) (abandon_sameCounts _ u _)
theorem createUnit_sameCounts {s t : State} {lid stg fails : Nat} (h : s.createUnit lid stg fails = some t) : s.sameCounts t := by
  unfold State.createUnit at h
  extract_lets l u at h
  split at h
  · simp at h
  split at h
  · simp at h
  split at h
  · simp at h
  next =>
    extract_lets v p x pc s1 s2 at h
    rw [← Option.some.inj h]
    refine sameCounts_trans ?_ (sameCounts_foldl (fun t j => setVoice_sameCounts t u j _) _ _)
    refine sameCounts_trans ?_ (markFrame_sameCounts _ u 0)
    refine sameCounts_trans (t := s1) ?_ (sameCounts_of_eq rfl rfl)
    exact sameCounts_trans (t := s.freshStorage p) (sameCounts_of_eq rfl rfl) (setLaunch_sameCounts _ rfl rfl)
theorem createUnits_sameCounts {s t : State} {lid stg n : Nat} (h : s.createUnits lid stg n = some t) : s.sameCounts t := by
  induction n generalizing s with
  | zero => exact Option.some.inj h ▸ sameCounts_refl s
  | succ n ih =>
    rw [State.createUnits] at h
    split at h
    · next s1 h1 => exact sameCounts_trans (createUnit_sameCounts h1) (ih h)
    · simp at h
theorem createAll_sameCounts {s t : State} {lid : Nat} (h : s.createAll lid = some t) : s.sameCounts t := by
  unfold State.createAll at h
  generalize (s.launch lid).stages.zipIdx = ps at h
  induction ps generalizing s with
  | nil => exact Option.some.inj h ▸ sameCounts_refl s
  | cons p ps ih =>
    obtain ⟨s1, h1, h2⟩ := Option.bind_eq_some_iff.1 h
    exact sameCounts_trans (createUnits_sameCounts h1) (ih h2)

/-- The provisional read of a launch leaves every counter as it was (R44). -/
theorem provisional_sameCounts (s : State) (lid : Nat) : s.sameCounts (s.provisional lid) := by
  unfold State.provisional
  extract_lets l j read
  split
  · exact setLaunch_sameCounts s rfl rfl
  · split
    · exact setLaunch_sameCounts s rfl rfl
    · exact setLaunch_sameCounts s rfl rfl

/-! Work for other launches (R90): a counter that has left the open state stays as it is -/

/-- The counters that are terminal in `s` stand in `t`, and the OUT of every graph. -/
structure State.keepsEnded (s t : State) : Prop where
  count : ∀ l, (s.launch l).count.isOpen = false → (t.launch l).count = (s.launch l).count
  out : ∀ k g, s.graphs.find k = some g → ∃ g', t.graphs.find k = some g' ∧ g'.count.out = g.count.out

theorem sameCounts_keepsEnded {s t : State} (h : s.sameCounts t) : s.keepsEnded t :=
  ⟨fun l _ => h.count l, fun _ g hg => ⟨g, h.graphs ▸ hg, rfl⟩⟩
theorem keepsEnded_refl (s : State) : s.keepsEnded s := sameCounts_keepsEnded (sameCounts_refl s)
theorem keepsEnded_trans {s t q : State} (h : s.keepsEnded t) (k : t.keepsEnded q) : s.keepsEnded q where
  count l hl := (k.count l (h.count l hl ▸ hl)).trans (h.count l hl)
  out n g hg := by
    obtain ⟨g₁, h₁, e₁⟩ := h.out n g hg
    obtain ⟨g₂, h₂, e₂⟩ := k.out n g₁ h₁
    exact ⟨g₂, h₂, e₂.trans e₁⟩
theorem keepsEnded_foldl {α : Type} {f : State → α → State} (hf : ∀ (t : State) a, t.keepsEnded (f t a)) (l : List α) (s : State) :
    s.keepsEnded (l.foldl f s) :=
  List.foldlRecOn l f (motive := s.keepsEnded) (keepsEnded_refl s) fun t ht a _ => keepsEnded_trans ht (hf t a)
/-- An update of a launch whose counter is open. -/
theorem setLaunch_keepsEnded {s : State} {l : Nat} (x : Launch) (h : (s.launch l).count.isOpen = true) :
    s.keepsEnded (s.setLaunch l x) where
  count k hk := by
    have hne : k ≠ l := fun e => by simp [e, h] at hk
    rw [launch_setLaunch_ne s x hne]
  out _ g hg := ⟨g, hg, rfl⟩
/-- An update of a graph that keeps its OUT. -/
theorem putGraph_keepsEnded {s t : State} {k : Nat} {g g' : Graph} (hg : s.graphs.find k = some g) (hl : t.launches = s.launches)
    (ht : t.graphs = s.graphs.put k g') (ho : g'.count.out = g.count.out) : s.keepsEnded t where
  count l _ := by rw [State.launch, State.launch, hl]
  out n y hy := by
    rw [ht]
    by_cases hn : n = k
    · subst hn
      obtain rfl := Option.some.inj (hg.symm.trans hy)
      exact ⟨g', NMap.find_put_self _ _ _, ho⟩
    · exact ⟨y, (NMap.find_put_ne hn).trans hy, rfl⟩

theorem close_out (c : Counter) (st : CState) (now : Nat) : (c.close st now).out = c.out := by
  unfold Counter.close
  split <;> rfl
theorem close_of_open {c : Counter} (h : c.isOpen = true) (st : CState) (now : Nat) : c.close st now = { c with state := st, when := now } :=
  if_pos (of_decide_eq_true h)
theorem blame_isOpen (cause unitid : Nat) (c : Counter) : (c.blame cause unitid).isOpen = c.isOpen := by
  unfold Counter.blame
  split <;> rfl
theorem blame_out (cause unitid : Nat) (c : Counter) : (c.blame cause unitid).out = c.out := by
  unfold Counter.blame
  split <;> rfl
theorem runs_isOpen {x : Launch} (h : x.runs ≠ false) : x.count.isOpen = true := by
  simp only [Launch.runs, ne_eq, Bool.not_eq_false, Bool.and_eq_true] at h
  exact h.1.1.2

theorem noteAbove_launches (s : State) (x : Launch) (f : Counter → Counter) : (s.noteAbove x f).launches = s.launches := by
  unfold State.noteAbove
  extract_lets g
  split <;> rfl
theorem noteAbove_launch (s : State) (x : Launch) (f : Counter → Counter) (l : Nat) : (s.noteAbove x f).launch l = s.launch l := by
  rw [State.launch, State.launch, noteAbove_launches]
theorem noteAbove_keepsEnded (s : State) (x : Launch) {f : Counter → Counter} (hf : ∀ c, (f c).out = c.out) :
    s.keepsEnded (s.noteAbove x f) := by
  unfold State.noteAbove
  extract_lets g
  split
  · exact keepsEnded_refl s
  · next y hy => exact putGraph_keepsEnded hy rfl rfl (hf _)
theorem closeLaunch_keepsEnded (s : State) (l : Nat) (st : CState) : s.keepsEnded (s.closeLaunch l st) := by
  unfold State.closeLaunch
  extract_lets x
  split
  · next h =>
    refine keepsEnded_trans (noteAbove_keepsEnded s x (f := Counter.lost _) fun _ => rfl) (setLaunch_keepsEnded _ ?_)
    rw [noteAbove_launch]
    exact h
  · exact keepsEnded_refl s
/-- An open launch that is closed has the state it was closed with, and its rejection code (R90). -/
theorem closeLaunch_count {s : State} {l : Nat} (h : (s.launch l).count.isOpen = true) (st : CState) :
    ((s.closeLaunch l st).launch l).count.state = st ∧ ((s.closeLaunch l st).launch l).count.rej = (s.launch l).count.rej := by
  have hd : (s.launch l).discard.count.isOpen = true := h
  rw [State.closeLaunch, if_pos h, launch_setLaunch, close_of_open hd]
  exact ⟨rfl, rfl⟩
theorem outDown_keepsEnded {s : State} {l : Nat} (h : (s.launch l).count.isOpen = true) : s.keepsEnded (s.outDown l) := by
  unfold State.outDown
  extract_lets x s1
  have h1 : s.keepsEnded s1 := setLaunch_keepsEnded _ h
  split
  · exact keepsEnded_trans h1 (closeLaunch_keepsEnded _ _ _)
  · exact h1
theorem failPast_keepsEnded {s : State} {lid : Nat} (cause unitid : Nat) (h : (s.launch lid).count.isOpen = true) :
    s.keepsEnded (s.failPast lid cause unitid) := by
  unfold State.failPast
  extract_lets l _ s1 _ s2
  have h1 : s.keepsEnded s1 := by
    refine keepsEnded_trans (noteAbove_keepsEnded s l fun c => blame_out cause unitid c) (setLaunch_keepsEnded _ ?_)
    rw [noteAbove_launch]
    exact h
  have o1 : (s1.launch lid).count.isOpen = true := by
    rw [launch_setLaunch]
    exact (blame_isOpen cause unitid l.count).trans h
  split
  · exact keepsEnded_trans (keepsEnded_trans h1 (setLaunch_keepsEnded _ o1))
      (sameCounts_keepsEnded (sameCounts_foldl cancelUnit_sameCounts _ _))
  · exact keepsEnded_trans h1 (outDown_keepsEnded o1)

/-! What freed resources allow (R99, R102), and emptied cores (R108) -/

theorem retryOne_keepsEnded (s : State) (lid : Nat) (r : Retry) : s.keepsEnded (s.retryOne lid r) := by
  unfold State.retryOne
  extract_lets l
  split
  · exact keepsEnded_refl s
  next hr =>
    have ho : (s.launch lid).count.isOpen = true := runs_isOpen hr
    split
    · exact keepsEnded_refl s
    split
    · refine keepsEnded_trans (setLaunch_keepsEnded _ ho) (failPast_keepsEnded _ _ ?_)
      rw [launch_setLaunch]
      exact ho
    · split
      · next t ht => exact sameCounts_keepsEnded (createUnit_sameCounts ht)
      · exact sameCounts_keepsEnded (setLaunch_sameCounts s rfl rfl)
theorem tryRetries_keepsEnded (s : State) (lid : Nat) : s.keepsEnded (s.tryRetries lid) := by
  refine keepsEnded_trans ?_ (sameCounts_keepsEnded (serveAll_sameCounts _ lid))
  refine keepsEnded_trans ?_ (keepsEnded_foldl (fun t r => retryOne_keepsEnded t lid r) _ _)
  exact sameCounts_keepsEnded (setLaunch_sameCounts s rfl rfl)
theorem growUnit_keepsEnded {s t : State} {lid k : Nat} (h : s.growUnit lid k = some t) : s.keepsEnded t := by
  unfold State.growUnit at h
  split at h
  · simp at h
  next hr =>
    obtain ⟨t₁, h₁, rfl⟩ := Option.map_eq_some_iff.1 h
    have hc := createUnit_sameCounts h₁
    exact keepsEnded_trans (sameCounts_keepsEnded hc) (setLaunch_keepsEnded _ (by rw [hc.count]; exact runs_isOpen hr))
theorem tryGrow_keepsEnded (s : State) (lid : Nat) : s.keepsEnded (s.tryGrow lid) := by
  refine keepsEnded_foldl (fun t k => ?_) _ s
  split
  · split
    · split
      · next t1 h1 => exact keepsEnded_trans (growUnit_keepsEnded h1) (sameCounts_keepsEnded (setLaunch_sameCounts t1 rfl rfl))
      · exact keepsEnded_refl t
    · exact keepsEnded_refl t
  · exact keepsEnded_refl t
theorem freed_keepsEnded (s : State) (d : Nat) : s.keepsEnded (s.freed d) :=
  keepsEnded_foldl (fun t l => keepsEnded_trans (tryRetries_keepsEnded t l) (tryGrow_keepsEnded _ l)) _ s
theorem askYield_sameCounts (s : State) (u cause D : Nat) : s.sameCounts (s.askYield u cause D) := by
  unfold State.askYield
  split
  · split
    · exact setUnit_sameCounts s u _
    · exact sameCounts_refl s
  · exact setUnit_sameCounts s u _
theorem tryMigrate_sameCounts (s : State) (d l : Nat) : s.sameCounts (s.tryMigrate d l) := by
  unfold State.tryMigrate
  extract_lets p c D
  split
  · split
    · exact sameCounts_refl s
    · extract_lets s1
      exact sameCounts_trans (t := s1) (sameCounts_of_eq rfl rfl) (sameCounts_foldl (fun t u => askYield_sameCounts t _ 2 D) _ _)
  · exact sameCounts_refl s
theorem vacated_sameCounts (s : State) (d l : Nat) : s.sameCounts (s.vacated d l) := by
  unfold State.vacated
  split
  · extract_lets c s1
    have h1 : s.sameCounts s1 := by
      unfold s1
      split
      · exact sameCounts_of_eq rfl rfl
      · exact sameCounts_refl s
    exact sameCounts_trans h1 (sameCounts_foldl (fun t k => tryMigrate_sameCounts t d k) _ _)
  · exact sameCounts_refl s

/-! Cancelling, and the levels above (R90, R91, R459) -/

theorem cancelLaunch_keepsEnded (s : State) (l : Nat) : s.keepsEnded (s.cancelLaunch l) := by
  unfold State.cancelLaunch
  extract_lets x _ s1
  split
  · exact keepsEnded_refl s
  next h =>
    have ho : (s.launch l).count.isOpen = true := by simpa using fun e => h (.inl e)
    have h1 : s.keepsEnded s1 := setLaunch_keepsEnded _ ho
    split
    · exact keepsEnded_trans h1 (closeLaunch_keepsEnded s1 l _)
    · exact keepsEnded_trans h1 (sameCounts_keepsEnded (sameCounts_foldl cancelUnit_sameCounts _ _))
theorem settleJob_sameCounts (s : State) (job now : Nat) : s.sameCounts (s.settleJob job now) := by
  unfold State.settleJob
  split
  · exact sameCounts_refl s
  · extract_lets pending
    split
    · exact sameCounts_of_eq rfl rfl
    · exact sameCounts_refl s
theorem settlePhase_sameCounts (s : State) (job ph now : Nat) : s.sameCounts (s.settlePhase job ph now) := by
  unfold State.settlePhase
  split
  · exact sameCounts_refl s
  · split
    · extract_lets st _ s1 s2
      refine sameCounts_trans (t := s2) ?_ (settleJob_sameCounts s2 job now)
      unfold s2
      split <;> exact sameCounts_of_eq rfl rfl
    · exact sameCounts_refl s
theorem settleGraph_keepsEnded (s : State) (job g now : Nat) : s.keepsEnded (s.settleGraph job g now) := by
  unfold State.settleGraph
  split
  · exact keepsEnded_refl s
  next x hx =>
    split
    · extract_lets st _ s1 s2
      have h1 : s.keepsEnded s1 := putGraph_keepsEnded hx rfl rfl (close_out _ _ _)
      have h2 : s1.sameCounts s2 := by
        unfold s2
        split <;> exact sameCounts_of_eq rfl rfl
      exact keepsEnded_trans h1 (sameCounts_keepsEnded (sameCounts_trans h2 (settlePhase_sameCounts s2 job _ now)))
    · exact keepsEnded_refl s
/-- A terminal launch that is reported is marked so, and its graph counts one child less (R459). -/
theorem reportLaunch_counts {s : State} {lid : Nat} {g : Graph} (ho : (s.launch lid).count.isOpen = false)
    (ht : (s.launch lid).count.told = false) (hg : s.graphs.find (gkey (s.launch lid).job (s.launch lid).graph) = some g) :
    ((s.reportLaunch lid).launch lid).count.told = true ∧
      ∃ g', (s.reportLaunch lid).graphs.find (gkey (s.launch lid).job (s.launch lid).graph) = some g' ∧ g'.count.out = g.count.out - 1 := by
  unfold State.reportLaunch
  extract_lets x ok _ s1 s2 s3
  rw [if_neg (by simp [x, ho, ht])]
  have e2 : s2 = { s1 with graphs := s1.graphs.put (gkey x.job x.graph) { g with count := g.count.child ok } } := by
    have hg1 : s1.graphs.find (gkey x.job x.graph) = some g := hg
    unfold s2
    rw [hg1]
  have l2 : (s2.launch lid).count = { x.count with told := true } := by
    rw [e2]
    exact congrArg Launch.count (launch_setLaunch s lid _)
  have g2 : s2.graphs.find (gkey x.job x.graph) = some { g with count := g.count.child ok } := by
    rw [e2]
    exact NMap.find_put_self _ _ _
  have k3 : s2.keepsEnded s3 := by
    unfold s3
    split
    · exact keepsEnded_refl s2
    · exact keepsEnded_foldl cancelLaunch_keepsEnded _ s2
  have k : s2.keepsEnded (s3.settleGraph x.job x.graph (s3.dcc 12)) := keepsEnded_trans k3 (settleGraph_keepsEnded _ _ _ _)
  refine ⟨?_, k.out _ _ g2⟩
  rw [k.count lid (by rw [l2]; exact ho), l2]
/-- A cancelled launch whose units have stopped and drained ends as cancelled (R90, R91). -/
theorem execCancelComplete_stopped {s : State} {lid : Nat} (ho : (s.launch lid).count.isOpen = true)
    (hc : (s.launch lid).count.cancel = true) (hf : (s.launch lid).failed = false)
    (hu : ∀ u ∈ s.launchUnits lid, (s.unit u).status = .cancelling ∧ s.drained u = true) :
    ∃ t, execCancelComplete lid s = .next t ∧ (t.launch lid).count.state = .cancelled := by
  have hall : (s.launchUnits lid).all (fun u => decide ((s.unit u).status = .cancelling) && s.drained u) = true := by
    simpa [List.all_eq_true] using hu
  refine ⟨_, if_neg (by simp [ho, hc, hall]), ?_⟩
  rw [if_neg (by simp [hf])]
  generalize hr : (s.launchUnits lid).foldl (fun t u => t.releaseUnit u) s = r
  have o1 : ((r.outLess lid (s.launchUnits lid).length).launch lid).count.isOpen = true := by
    have hs : s.sameCounts r := hr ▸ sameCounts_foldl releaseUnit_sameCounts _ s
    rw [State.outLess, launch_setLaunch, ← ho, ← hs.count lid]
    rfl
  generalize r.outLess lid (s.launchUnits lid).length = r1 at o1 ⊢
  obtain ⟨e, -⟩ := closeLaunch_count o1 .cancelled
  have k := freed_keepsEnded (r1.closeLaunch lid .cancelled) (s.launch lid).die
  rw [(sameCounts_foldl (fun t u => vacated_sameCounts t _ _) _ _).count lid, k.count lid (by simp [Counter.isOpen, e]), e]

/-! Admission (R44 to R46, R80, R81) -/

/-- Nothing keeps the waiting launch from its binding read: after its provisional read it is eligible and first (R80, R81). -/
structure State.upForReading (s : State) (lid : Nat) : Prop where
  found : (s.launches.find lid).isSome = true
  waits : (s.launch lid).status = .waiting
  isOpen : (s.launch lid).count.isOpen = true
  boot : 5 ≤ (s.die (s.launch lid).die).boot
  lost : (s.provisional lid).predsLost ((s.provisional lid).launch lid) = false
  preds : (s.provisional lid).predsDone ((s.provisional lid).launch lid) = true
  phase : (s.provisional lid).phaseActive ((s.provisional lid).launch lid).die ((s.provisional lid).launch lid).job
    ((s.provisional lid).launch lid).phase = true
  eligible : (s.provisional lid).eligible lid = true
  first : (s.provisional lid).firstInLine lid = true

/-- The launch is rejected with code `c` (R45). -/
def State.rejectWith (s : State) (lid c : Nat) : State :=
  (s.setLaunch lid { s.launch lid with count := { (s.launch lid).count with rej := c } }).closeLaunch lid .rejected
theorem rejectWith_counts {s : State} {lid : Nat} (c : Nat) (h : (s.launch lid).count.isOpen = true) :
    ((s.rejectWith lid c).launch lid).count.state = .rejected ∧ ((s.rejectWith lid c).launch lid).count.rej = c := by
  obtain ⟨hst, hrej⟩ := closeLaunch_count (s := s.setLaunch lid { s.launch lid with count := { (s.launch lid).count with rej := c } })
    (l := lid) (by rw [launch_setLaunch]; exact h) .rejected
  exact ⟨hst, hrej.trans (by rw [launch_setLaunch])⟩
/-- A record that fails a check is rejected with its code (R45). -/
theorem execLaunchAdmission_rejects {s : State} {lid c : Nat} (h : s.upForReading lid)
    (hb : (s.provisional lid).bindingRead lid = .error c) :
    execLaunchAdmission lid s = .next ((s.provisional lid).rejectWith lid c) := by
  obtain ⟨hfound, hwaits, hopen, hboot, hlost, hpreds, hphase, helig, hfirst⟩ := h
  have hnone : (s.launches.find lid).isNone = false := by simpa using hfound
  unfold execLaunchAdmission
  simp [hnone, hwaits, hopen, Nat.not_lt.2 hboot, hlost, hpreds, hphase, helig, hfirst, hb, State.rejectWith]
/-- A record that passes is admitted where the tile tables and units find room (R46, R94, R221). -/
theorem execLaunchAdmission_admits {s t : State} {lid : Nat} {x : Launch} (h : s.upForReading lid)
    (hb : (s.provisional lid).bindingRead lid = .ok x)
    (hx : (s.provisional lid).tilesUsed ((s.provisional lid).launch lid).die + (x.tensors.map Tensor.entries).sum ≤ 2 ^ 24)
    (ht : (s.provisional lid).admitWith lid x = some t) : execLaunchAdmission lid s = .next t := by
  obtain ⟨hfound, hwaits, hopen, hboot, hlost, hpreds, hphase, helig, hfirst⟩ := h
  have hnone : (s.launches.find lid).isNone = false := by simpa using hfound
  unfold execLaunchAdmission
  simp [-Nat.reducePow, hnone, hwaits, hopen, Nat.not_lt.2 hboot, hlost, hpreds, hphase, helig, hfirst, hb, Nat.not_lt.2 hx, ht]
/-- The launch counts the units that it starts with (R46, R89). -/
theorem admitWith_counts {s t : State} {lid : Nat} {x : Launch} (h : s.admitWith lid x = some t) :
    (t.launch lid).status = .admitted ∧ (t.launch lid).count.out = (x.stages.map (·.umin)).sum := by
  have k := createAll_sameCounts h
  rw [k.status lid, k.count lid, launch_setLaunch]
  exact ⟨rfl, rfl⟩

/-- A launch passed over for 2^24 reference cycles becomes blocking (R81). -/
theorem execLaunchBlocking_due {s : State} {lid since : Nat} (hp : (s.launch lid).passed = some since)
    (hw : (s.launch lid).status = .waiting) (ho : (s.launch lid).count.isOpen = true) (hd : s.predsDone (s.launch lid) = true)
    (ha : s.phaseActive (s.launch lid).die (s.launch lid).job (s.launch lid).phase = true)
    (ht : since + 2 ^ 24 ≤ s.dcc (s.launch lid).die) :
    execLaunchBlocking lid s = .next (s.setLaunch lid { s.launch lid with blocking := true }) := by
  simp only [execLaunchBlocking, hp]
  rw [if_pos ⟨hw, ho, hd, ha, ht⟩]

/-! Completion records (R92, R93) -/

theorem send_packets_length (s : State) (d ty port : Nat) (fields : List (Nat × Nat × Nat)) (body : List Byte) :
    (s.send d ty port fields body).packets.length = s.packets.length + 1 := by
  simp [State.send]
theorem widen_packets (s : State) (us : List Nat) (S : Nat) : (us.foldl (fun t u => t.widen u S) s).packets = s.packets :=
  List.foldlRecOn us (fun t u => State.widen t u S) (motive := fun t : State => t.packets = s.packets) rfl fun _ ht _ _ => ht
/-- A launch that is over, with no unit left, sends its record once (R93). -/
theorem doneLaunch_sends {s : State} {lid : Nat} (ho : (s.launch lid).count.isOpen = false) (hs : (s.launch lid).count.sent = false)
    (hu : ∀ e ∈ s.units, e.2.place.launch = lid → (s.unit e.1).live = false ∧ s.drained e.1 = true) :
    ((s.doneLaunch lid).launch lid).count.sent = true ∧ (s.doneLaunch lid).packets.length = s.packets.length + 1 := by
  unfold State.doneLaunch
  rw [if_neg (by simp [ho, hs])]
  extract_lets us s1
  have hus : (us.any fun u => (s.unit u).live || !s.drained u) = false := by
    refine List.any_eq_false.2 fun u hm => ?_
    obtain ⟨e, he, rfl⟩ := List.mem_map.1 hm
    obtain ⟨hm, hl⟩ := List.mem_filter.1 he
    simp [hu e hm (of_decide_eq_true hl)]
  rw [hus]
  refine ⟨?_, (send_packets_length _ _ _ _ _ _).trans (congrArg (·.length + 1) (widen_packets s us 5))⟩
  exact congrArg (·.count.sent) (launch_setLaunch s1 lid _)

/-- A graph's record follows those of its launches (R93). -/
theorem execDone_graph_sends {s : State} {id : Nat} {g : Graph} (hg : s.graphs.find id = some g) (ho : g.count.isOpen = false)
    (hs : g.count.sent = false) (hc : ∀ e ∈ s.launches, gkey e.2.job e.2.graph = id → e.2.count.sent = true) :
    ∃ t, execDone 1 id s = .next t ∧ t.packets.length = s.packets.length + 1 ∧
      ∃ g', t.graphs.find id = some g' ∧ g'.count.sent = true := by
  have hany : (s.launches.any fun c => decide (gkey c.2.job c.2.graph = id) && !c.2.count.sent) = false := by
    simpa using hc
  simp only [execDone, hg, ho, hs, hany, Bool.false_eq_true, or_self, if_false]
  exact ⟨_, rfl, send_packets_length _ _ _ _ _ _, _, NMap.find_put_self _ _ _, rfl⟩
/-- A phase's record follows those of its graphs (R93). -/
theorem execDone_phase_sends {s : State} {id : Nat} {f : PhaseRec} (hf : s.phases.find id = some f) (ho : f.count.isOpen = false)
    (hs : f.count.sent = false) (hc : ∀ e ∈ s.graphs, e.1 / 65536 = id / 65536 → e.2.phase = id % 65536 → e.2.count.sent = true) :
    ∃ t, execDone 2 id s = .next t ∧ t.packets.length = s.packets.length + 1 ∧
      ∃ f', t.phases.find id = some f' ∧ f'.count.sent = true := by
  have hany : (s.graphs.any fun c => decide (c.1 / 65536 = id / 65536) && decide (c.2.phase = id % 65536) && !c.2.count.sent) = false := by
    simpa using hc
  simp only [execDone, hf, ho, hs, hany, Bool.false_eq_true, or_self, if_false]
  exact ⟨_, rfl, send_packets_length _ _ _ _ _ _, _, NMap.find_put_self _ _ _, rfl⟩
/-- A job's record follows those of its phases, and its identity is free on the host processor die and on every die (R78, R93). -/
theorem execDone_job_frees {s : State} {id : Nat} {h : HJob} (hh : s.hjobs.find id = some h) (ho : h.count.isOpen = false)
    (hc : ∀ e ∈ s.phases, e.1 / 65536 = id → e.2.count.sent = true) :
    ∃ t, execDone 3 id s = .next t ∧ t.packets.length = s.packets.length + 1 ∧ t.hjobs.find id = none ∧
      ∀ e ∈ t.jobs, e.1 % 2 ^ 32 ≠ id := by
  have hany : (s.phases.any fun c => decide (c.1 / 65536 = id) && !c.2.count.sent) = false := by
    simpa using hc
  simp only [execDone, hh, ho, hany, Bool.false_eq_true, or_self, if_false]
  exact ⟨_, rfl, send_packets_length _ _ _ _ _ _, NMap.find_del_self _ _, fun e he => of_decide_eq_true (List.mem_filter.1 he).2⟩

/-- Settles O41: the course of a launch by what the work of its die leaves of the counters, and each level's record by the condition
that lets it go. -/
theorem launchLifecycle : Obligations.LaunchLifecycle := by
  unfold Obligations.LaunchLifecycle
  intro lid s t1 x c since g f h l pre y
  refine ⟨?admission, ?blocking, fun ho ht hg => ⟨_, rfl, reportLaunch_counts ho ht hg⟩, execCancelComplete_stopped, ?launch,
    execDone_graph_sends, execDone_phase_sends, execDone_job_frees⟩
  case admission =>
    intro hfound hwaits hopen hboot hlost hpreds hphase helig hfirst
    have up : s.upForReading lid := ⟨hfound, hwaits, hopen, hboot, hlost, hpreds, hphase, helig, hfirst⟩
    have ho : ((s.provisional lid).launch lid).count.isOpen = true := by
      rw [(provisional_sameCounts s lid).count]
      exact hopen
    exact ⟨fun hb => ⟨_, execLaunchAdmission_rejects up hb, rejectWith_counts c ho⟩,
      fun hb hx ht => ⟨t1, execLaunchAdmission_admits up hb hx ht, rfl, admitWith_counts ht⟩⟩
  case blocking => exact fun hp hw ho hd ha ht => ⟨_, execLaunchBlocking_due hp hw ho hd ha ht, rfl⟩
  case launch => exact fun hfound ho hs hu => ⟨_, congrArg Host.Outcome.next (if_pos hfound), doneLaunch_sends ho hs hu⟩

end Sys2Proof.Machine
end

section
/-! PROOFS. What regulates, arbitrates and counts beside the programs keeps every store and every register (O60). -/
namespace Sys2Proof.NMap

/-- What an update of a map's values leaves of them stands at every key. -/
theorem getD_map_keeps {α β : Type} {m : NMap α} {f : Nat × α → Nat × α} {g : α → β} (hk : ∀ c, (f c).1 = c.1)
    (hg : ∀ c, g (f c).2 = g c.2) (k : Nat) (d : α) : g (NMap.getD (m.map f) k d) = g (m.getD k d) := by
  rw [NMap.getD, NMap.getD, find_map_key m f hk]
  cases m.find k <;> simp [hg]

end Sys2Proof.NMap

namespace Sys2Proof.Machine
open Sys2Proof

/-! Stores and registers together -/

/-- Every store of the machine, and every register of every stream, is in `t` as in `s`. -/
structure State.sameContents (s t : State) : Prop where
  store : s.sameStore t
  voiceX : ∀ k, (t.voices.getD k {}).st.x = (s.voices.getD k {}).st.x
  voiceP : ∀ k, (t.voices.getD k {}).st.p = (s.voices.getD k {}).st.p
  ctxX : ∀ k, (t.ctxs.getD k {}).st.x = (s.ctxs.getD k {}).st.x

theorem sameContents_of_store {s t : State} (h : s.sameStore t) (hv : t.voices = s.voices) (hc : t.ctxs = s.ctxs) : s.sameContents t :=
  ⟨h, fun _ => by rw [hv], fun _ => by rw [hv], fun _ => by rw [hc]⟩
theorem sameContents_refl (s : State) : s.sameContents s := sameContents_of_store (sameStore_refl s) rfl rfl
theorem sameContents_trans {s t q : State} (h : s.sameContents t) (k : t.sameContents q) : s.sameContents q where
  store := sameStore_trans h.store k.store
  voiceX n := (k.voiceX n).trans (h.voiceX n)
  voiceP n := (k.voiceP n).trans (h.voiceP n)
  ctxX n := (k.ctxX n).trans (h.ctxX n)
theorem sameContents_foldl {α : Type} {f : State → α → State} (hf : ∀ (t : State) a, t.sameContents (f t a)) (l : List α) (s : State) :
    s.sameContents (l.foldl f s) :=
  List.foldlRecOn l f (motive := s.sameContents) (sameContents_refl s) fun t ht a _ => sameContents_trans ht (hf t a)

/-- What the device keeps beside stores and streams may change: its dies, cores, zones, launches, regions, messages and orders. -/
theorem sameContents_device (s : State) (dies : NMap Die) (cores : NMap Core) (zones : NMap Zone) (launches : NMap Launch)
    (regions : NMap Region) (valves : List Valve) (pump : Pump) (packets : List Packet) (semq : List SemReq) (order : Nat) :
    s.sameContents { s with dies := dies, cores := cores, zones := zones, launches := launches, regions := regions, valves := valves,
                            pump := pump, packets := packets, semq := semq, order := order } :=
  sameContents_of_store ⟨rfl, rfl, rfl, rfl, rfl, rfl, rfl, rfl, rfl, rfl, rfl, rfl, fun _ => rfl⟩ rfl rfl
theorem setUnit_sameContents (s : State) (u : Nat) (t : TeamUnit) (h : t.place = (s.unit u).place) : s.sameContents (s.setUnit u t) :=
  sameContents_of_store (setUnit_sameStore s u t h) rfl rfl
/-- A voice may change in all but its registers. -/
theorem setVoice_sameContents (s : State) (u j : Nat) {v : Voice} (hx : v.st.x = (s.voice u j).st.x) (hp : v.st.p = (s.voice u j).st.p) :
    s.sameContents (s.setVoice u j v) where
  store := setVoice_sameStore s u j v
  voiceX k := by
    by_cases hk : k = vkey u j
    · rw [hk, State.setVoice, NMap.getD_put_self, hx]; rfl
    · rw [State.setVoice, NMap.getD_put_ne hk]
  voiceP k := by
    by_cases hk : k = vkey u j
    · rw [hk, State.setVoice, NMap.getD_put_self, hp]; rfl
    · rw [State.setVoice, NMap.getD_put_ne hk]
  ctxX _ := rfl
/-- All voices and contexts may change in all but their registers. -/
theorem sameContents_map {s t : State} (h : s.sameStore t) {f : Nat × Voice → Nat × Voice} {g : Nat × Ctx → Nat × Ctx}
    (hv : t.voices = s.voices.map f) (hc : t.ctxs = s.ctxs.map g) (hf : ∀ v, (f v).1 = v.1) (hg : ∀ c, (g c).1 = c.1)
    (hx : ∀ v, (f v).2.st.x = v.2.st.x) (hp : ∀ v, (f v).2.st.p = v.2.st.p) (hy : ∀ c, (g c).2.st.x = c.2.st.x) : s.sameContents t where
  store := h
  voiceX k := by rw [hv]; exact NMap.getD_map_keeps (g := fun v : Voice => v.st.x) hf hx k _
  voiceP k := by rw [hv]; exact NMap.getD_map_keeps (g := fun v : Voice => v.st.p) hf hp k _
  ctxX k := by rw [hc]; exact NMap.getD_map_keeps (g := fun c : Ctx => c.st.x) hg hy k _

/-! The operations that regulation shares -/

theorem freeze_sameContents (s : State) (u : Nat) : s.sameContents (s.freeze u) := setUnit_sameContents s u _ rfl
theorem abandon_sameContents (s : State) (u : Nat) (ok : Nat → Bool) : s.sameContents (s.abandon u ok) :=
  sameContents_device s _ _ _ _ _ _ _ _ _ _
theorem setZone_sameContents (s : State) (d z : Nat) (x : Zone) : s.sameContents (s.setZone d z x) :=
  sameContents_device s _ _ _ _ _ _ _ _ _ _
theorem setDie_sameContents (s : State) (d : Nat) (x : Die) : s.sameContents (s.setDie d x) := sameContents_device s _ _ _ _ _ _ _ _ _ _
theorem setCore_sameContents (s : State) (d p : Nat) (c : Core) : s.sameContents (s.setCore d p c) :=
  sameContents_device s _ _ _ _ _ _ _ _ _ _
theorem closeGroups_sameContents (s : State) (d p : Nat) (f : MGroup → Bool) : s.sameContents (s.closeGroups d p f) :=
  setCore_sameContents s d p _
theorem enterFallback_sameContents (s : State) (d z : Nat) : s.sameContents (s.enterFallback d z) := by
  unfold State.enterFallback
  split
  · exact sameContents_refl s
  · exact sameContents_trans (setZone_sameContents s d z _) (setDie_sameContents _ d _)
theorem resendPump_sameContents (s : State) : s.sameContents s.resendPump := by
  unfold State.resendPump
  split
  · split
    · exact sameContents_refl s
    · split <;> exact sameContents_device s _ _ _ _ _ _ _ _ _ _
  · exact sameContents_refl s
theorem askYield_sameContents (s : State) (u cause D : Nat) : s.sameContents (s.askYield u cause D) := by
  unfold State.askYield
  split
  · split
    · exact setUnit_sameContents s u _ rfl
    · exact sameContents_refl s
  · exact setUnit_sameContents s u _ rfl
theorem dropYield_sameContents (s : State) (u cause : Nat) : s.sameContents (s.dropYield u cause) := by
  unfold State.dropYield
  split
  · split
    · exact setUnit_sameContents s u _ rfl
    · exact sameContents_refl s
  · exact sameContents_refl s
theorem makeReady_sameContents (s : State) (u : Nat) : s.sameContents (s.makeReady u) := by
  unfold State.makeReady
  split
  · exact sameContents_refl s
  · exact sameContents_trans (sameContents_device s _ _ _ _ _ _ _ _ _ (s.order + 1)) (setUnit_sameContents _ u _ rfl)
/-- A voice that stops keeps its registers (R449). -/
theorem voiceStop_registers (v : Voice) (cause now : Nat) : (v.stop cause now).st.x = v.st.x ∧ (v.stop cause now).st.p = v.st.p := by
  unfold Voice.stop
  extract_lets v1
  split
  · split <;> exact ⟨rfl, rfl⟩
  · exact ⟨rfl, rfl⟩
theorem stopUnit_sameContents (s : State) (u cause info : Nat) : s.sameContents (s.stopUnit u cause info) := by
  unfold State.stopUnit
  split
  · extract_lets s1 s2
    have h1 : s.sameContents s1 := by
      unfold s1
      split
      · exact freeze_sameContents s u
      · exact sameContents_trans (freeze_sameContents s u) (abandon_sameContents _ u _)
    have h2 : s1.sameContents s2 :=
      sameContents_map ⟨rfl, rfl, rfl, rfl, rfl, rfl, rfl, rfl, rfl, rfl, rfl, rfl, fun _ => rfl⟩ rfl rfl
        (fun v => by split <;> rfl) (fun c => by split <;> rfl) (fun v => by split <;> simp [voiceStop_registers])
        (fun v => by split <;> simp [voiceStop_registers]) (fun c => by split <;> rfl)
    refine sameContents_trans (sameContents_trans h1 h2) ?_
    exact sameContents_trans (sameContents_device s2 _ _ _ _ _ _ _ _ _ (s.order + 1)) (setUnit_sameContents _ u _ rfl)
  · exact sameContents_refl s
theorem endCharged_sameContents (s : State) (d z u : Nat) : s.sameContents (s.endCharged d z u) := by
  unfold State.endCharged
  split
  · extract_lets s1
    exact sameContents_trans (sameContents_trans (freeze_sameContents s u) (abandon_sameContents _ u _)) (setUnit_sameContents s1 u _ rfl)
  · exact sameContents_refl s
theorem send_sameContents (s : State) (d ty port : Nat) (fields : List (Nat × Nat × Nat)) (body : List Byte) :
    s.sameContents (s.send d ty port fields body) := sameContents_device s _ _ _ _ _ _ _ _ _ _

/-! Slices (R85, R107) -/

theorem takeSlice_sameContents (s : State) (d : Nat) : s.sameContents (s.takeSlice d) := by
  unfold State.takeSlice
  split
  · exact sameContents_refl s
  · extract_lets _ s1 us s2
    have h2 : s1.sameContents s2 := by
      refine sameContents_foldl (fun t u => ?_) us s1
      dsimp only
      split
      · have h := dropYield_sameContents t u 1
        split
        · exact sameContents_trans h (makeReady_sameContents _ u)
        · split
          · exact h
          · exact sameContents_trans h (makeReady_sameContents _ u)
        · split
          · exact h
          · exact sameContents_trans h (makeReady_sameContents _ u)
        · exact h
      · split
        · exact askYield_sameContents t u 1 _
        · exact sameContents_trans (dropYield_sameContents t u 1) (stopUnit_sameContents _ u _ _)
    refine sameContents_trans (sameContents_trans (setDie_sameContents s d _) h2) ?_
    exact sameContents_trans (sameContents_device s2 _ _ _ _ _ _ _ _ _ _) (send_sameContents (s2.idle d) d _ _ _ _)
theorem preempt_sameContents (s : State) (d : Nat) : s.sameContents (s.preempt d) := by
  unfold State.preempt
  split
  · exact sameContents_refl s
  · exact sameContents_foldl (fun t c => sameContents_trans (dropYield_sameContents t _ 1) (stopUnit_sameContents _ _ _ _)) _ s

/-! The events -/

section
variable {s t : State}

theorem execBreathPreposition_sameContents {u : Nat} (h : execBreathPreposition u s = .next t) : s.sameContents t := by
  unfold execBreathPreposition at h
  split at h
  · split at h
    · cases h; exact setUnit_sameContents s u _ rfl
    · cases h; exact sameContents_refl s
  · cases h; exact sameContents_refl s
theorem execDataArrival_sameContents {u j r : Nat} (h : execDataArrival u j r s = .next t) : s.sameContents t := by
  cases h
  exact setVoice_sameContents s u j rfl rfl
theorem execMergeGroupClose_sameContents {d p g : Nat} (h : execMergeGroupClose d p g s = .next t) : s.sameContents t := by
  unfold execMergeGroupClose at h
  split at h
  · split at h
    · cases h; exact closeGroups_sameContents s d p _
    · cases h; exact sameContents_refl s
  · cases h; exact sameContents_refl s
theorem execLaunchBlocking_sameContents {l : Nat} (h : execLaunchBlocking l s = .next t) : s.sameContents t := by
  unfold execLaunchBlocking at h
  extract_lets x at h
  split at h
  · split at h
    · cases h; exact sameContents_device s _ _ _ _ _ _ _ _ _ _
    · cases h; exact sameContents_refl s
  · cases h; exact sameContents_refl s
theorem execRefresh_sameContents {d i b n : Nat} (h : execRefresh d i b n s = .next t) : s.sameContents t := by
  unfold execRefresh at h
  extract_lets x now hot k due at h
  split at h
  · cases h; exact sameContents_refl s
  · cases h; exact setDie_sameContents s d _
theorem execStat_sameContents {d z o f i : Nat} {bad : Bool} (h : execStat d z o f i bad s = .next t) : s.sameContents t := by
  unfold execStat at h
  split at h
  · cases h; exact sameContents_refl s
  · split at h
    · cases h
      split
      · exact sameContents_device s _ _ _ _ _ _ _ _ _ _
      · exact sameContents_refl s
    · extract_lets _ s1 _ at h
      have h1 : s.sameContents s1 := setZone_sameContents s d z _
      cases h
      split
      · exact sameContents_trans h1 (enterFallback_sameContents s1 d z)
      · exact sameContents_trans h1 (setZone_sameContents s1 d z _)
theorem execSwapLand_sameContents {d p r : Nat} (h : execSwapLand d p r s = .next t) : s.sameContents t := by
  unfold execSwapLand at h
  extract_lets k at h
  split at h
  · split at h
    · cases h; exact sameContents_device s _ _ _ _ _ _ _ _ _ _
    · cases h; exact sameContents_refl s
  · cases h; exact sameContents_refl s
theorem execSwapSignalArrival_sameContents {d p r : Nat} (h : execSwapSignalArrival d p r s = .next t) : s.sameContents t := by
  unfold execSwapSignalArrival at h
  extract_lets k at h
  split at h
  · split at h
    · cases h
      exact sameContents_trans (sameContents_device s _ _ _ _ (s.regions.put k _) _ _ _ _ _) (closeGroups_sameContents _ d p _)
    · cases h; exact sameContents_refl s
  · cases h; exact sameContents_refl s
theorem execValveResend_sameContents {d z : Nat} (h : execValveResend d z s = .next t) : s.sameContents t := by
  unfold execValveResend at h
  split at h
  · cases h
    split
    · exact resendPump_sameContents s
    · exact sameContents_refl s
  · extract_lets x at h
    have h1 : s.sameContents (if 3 ≤ x.sends then s.enterFallback d z else s) := by
      split
      · exact enterFallback_sameContents s d z
      · exact sameContents_refl s
    split at h
    · split at h
      · cases h; exact sameContents_refl s
      · split at h
        · cases h; exact sameContents_trans h1 (sameContents_device _ _ _ _ _ _ _ _ _ _ _)
        · cases h; exact sameContents_trans h1 (setZone_sameContents _ d z _)
    · cases h; exact sameContents_refl s
theorem execYieldRequestPost_sameContents {u : Nat} (h : execYieldRequestPost u s = .next t) : s.sameContents t := by
  unfold execYieldRequestPost at h
  extract_lets d at h
  split at h
  · split at h
    · cases h; exact askYield_sameContents s u 1 _
    · cases h; exact sameContents_refl s
  · cases h; exact sameContents_refl s
theorem execUndervoltInterval_sameContents {d z o m : Nat} (h : execUndervoltInterval d z o m s = .next t) : s.sameContents t := by
  unfold execUndervoltInterval at h
  extract_lets x errs n at h
  split at h
  · cases h; exact sameContents_refl s
  · cases h; exact setZone_sameContents s d z _
theorem execUndervoltUe_sameContents {d z : Nat} {us : List Nat} (h : execUndervoltUe d z us s = .next t) : s.sameContents t := by
  unfold execUndervoltUe at h
  split at h
  · cases h; exact sameContents_refl s
  · cases h
    refine sameContents_trans ?_ (sameContents_foldl (fun t u => endCharged_sameContents t d z u) us _)
    exact sameContents_trans (setZone_sameContents s d z _) (setDie_sameContents _ d _)
theorem execUndervoltReenable_sameContents {d z : Nat} (h : execUndervoltReenable d z s = .next t) : s.sameContents t := by
  unfold execUndervoltReenable at h
  extract_lets x at h
  split at h
  · cases h
    split
    · exact setZone_sameContents s d z _
    · exact sameContents_refl s
  · cases h; exact sameContents_refl s
/-- The voice that is granted its level moves on, its registers as they were (R421). -/
theorem execBellowsGrant_sameContents {d z : Nat} (h : execBellowsGrant d z s = .next t) : s.sameContents t := by
  unfold execBellowsGrant at h
  extract_lets x l at h
  split at h
  · cases h; exact setZone_sameContents s d z _
  next a _ =>
    split at h
    · cases h; exact setZone_sameContents s d z _
    · extract_lets s1 _ s2 v at h
      have h2 : s.sameContents s2 := sameContents_trans (setZone_sameContents s d z _) (setUnit_sameContents s1 a.1 _ rfl)
      split at h
      · exact Host.Outcome.next.inj h ▸ h2
      · cases h; exact sameContents_trans h2 (setVoice_sameContents s2 _ _ (advance_x 16 v.st) (advance_p 16 v.st))
theorem reclock_st (v : Voice) (now old new : Nat) : (v.reclock now old new).st = v.st := by
  unfold Voice.reclock
  split <;> rfl
/-- A switch of clocks lets the voices stalled for it go on, their registers as they were (R428). -/
theorem execClockSwitch_sameContents {d p : Nat} {dom : Domain} (h : execClockSwitch d p dom s = .next t) : s.sameContents t := by
  unfold execClockSwitch at h
  extract_lets c k x at h
  split at h
  · split at h
    · cases h; exact sameContents_refl s
    · cases h
      refine sameContents_map (s := s) (g := id) ?_ rfl (List.map_id _).symm (fun v => by split <;> rfl) (fun _ => rfl)
        (fun v => ?_) (fun v => ?_) (fun _ => rfl)
      · refine ⟨rfl, rfl, rfl, rfl, rfl, rfl, rfl, rfl, rfl, rfl, rfl, rfl, fun u => ?_⟩
        exact NMap.getD_map_keeps (g := TeamUnit.place) (fun v => by split <;> rfl) (fun v => by split <;> rfl) u _
      all_goals
        dsimp only
        split
        · split <;> split <;> simp [reclock_st]
        · rfl
  · cases h; exact sameContents_refl s
theorem execSliceStart_sameContents {d : Nat} (h : execSliceStart d s = .next t) : s.sameContents t := by
  unfold execSliceStart at h
  split at h
  · cases h
    refine sameContents_trans ?_ (preempt_sameContents _ d)
    split
    · exact takeSlice_sameContents s d
    · exact sameContents_refl s
  · cases h; exact preempt_sameContents s d

end

/-- Settles O60: each event changes at most what the device keeps beside its stores, and of a voice or a context no register. -/
theorem regulationFrame : Obligations.RegulationFrame := by
  unfold Obligations.RegulationFrame
  intro a b c n d h us s t
  have key : s.sameContents t → s.keepsMemory t ∧ s.keepsCores t ∧ t.wt = s.wt ∧
      (∀ u j r, (t.voice u j).st.getX r = (s.voice u j).st.getX r ∧ (t.voice u j).st.getP = (s.voice u j).st.getP) ∧
      ∀ u e j r, (t.ctx u e j).st.getX r = (s.ctx u e j).st.getX r := by
    intro k
    refine ⟨sameStore_keepsMemory k.store, sameStore_keepsCores k.store, k.store.wt, fun u j r => ⟨?_, ?_⟩, fun u e j r => ?_⟩
    · simp only [Stream.getX, State.voice, k.voiceX]
    · funext p
      simp only [Stream.getP, State.voice, k.voiceP]
    · simp only [Stream.getX, State.ctx, k.ctxX]
  simp only [List.forall_mem_cons]
  exact ⟨fun e => key (execBreathPreposition_sameContents e), fun e => key (execDataArrival_sameContents e),
    fun e => key (execMergeGroupClose_sameContents e), fun e => key (execLaunchBlocking_sameContents e),
    fun e => key (execRefresh_sameContents e), fun e => key (execStat_sameContents e), fun e => key (execSwapLand_sameContents e),
    fun e => key (execSwapSignalArrival_sameContents e), fun e => key (execValveResend_sameContents e),
    fun e => key (execYieldRequestPost_sameContents e), fun e => key (execUndervoltInterval_sameContents e),
    fun e => key (execUndervoltUe_sameContents e), fun e => key (execUndervoltReenable_sameContents e),
    fun e => key (Host.Outcome.next.inj e ▸ sameContents_refl s), fun e => key (execBellowsGrant_sameContents e),
    fun e => key (execClockSwitch_sameContents e), fun e => key (execSliceStart_sameContents e), List.forall_mem_nil _⟩

end Sys2Proof.Machine
end

section
/-! PROOFS. What cancelling a level leaves alone, and that a cancel once made stands (R90, R91). -/
namespace Sys2Proof.Machine
open Sys2Proof

/-! Cancels that stand -/

/-- The counter's level is cancelled, or is over. -/
def Counter.over (c : Counter) : Prop := c.cancel = true ∨ c.isOpen = false
/-- Every entry of `m` whose counter is cancelled is one of `n`, cancelled too. -/
def cancelsStand {α : Type} (count : α → Counter) (m n : NMap α) : Prop :=
  ∀ k x, m.find k = some x → (count x).cancel = true → ∃ y, n.find k = some y ∧ (count y).cancel = true

theorem cancelsStand_refl {α : Type} (count : α → Counter) (m : NMap α) : cancelsStand count m m := fun _ x hx hc => ⟨x, hx, hc⟩
theorem cancelsStand_trans {α : Type} {count : α → Counter} {m n o : NMap α} (h : cancelsStand count m n) (g : cancelsStand count n o) :
    cancelsStand count m o := by
  intro k x hx hc
  obtain ⟨y, hy, hcy⟩ := h k x hx hc
  exact g k y hy hcy
theorem cancelsStand_put {α : Type} {count : α → Counter} {m : NMap α} {k : Nat} {x : α} (y : α) (hx : m.find k = some x)
    (hc : (count x).cancel = true → (count y).cancel = true) : cancelsStand count m (m.put k y) := by
  intro n z hz hcz
  by_cases hn : n = k
  · subst hn
    obtain rfl := Option.some.inj (hx.symm.trans hz)
    exact ⟨y, NMap.find_put_self _ _ _, hc hcz⟩
  · exact ⟨z, (NMap.find_put_ne hn).trans hz, hcz⟩

theorem close_cancel (c : Counter) (st : CState) (now : Nat) : (c.close st now).cancel = c.cancel := by
  unfold Counter.close
  split <;> rfl

/-- `t` is `s` after work on completion counters: no store, voice or die of it changed, and what was cancelled in `s`, or over, is so
in `t`. -/
structure State.countsOn (s t : State) : Prop where
  store : s.sameStore t
  voices : t.voices = s.voices
  dies : t.dies = s.dies
  launch : ∀ l, (s.launch l).count.over → (t.launch l).count.over
  graphs : cancelsStand Graph.count s.graphs t.graphs
  phases : cancelsStand PhaseRec.count s.phases t.phases
  hjobs : cancelsStand HJob.count s.hjobs t.hjobs

theorem countsOn_refl (s : State) : s.countsOn s :=
  ⟨sameStore_refl s, rfl, rfl, fun _ h => h, cancelsStand_refl _ _, cancelsStand_refl _ _, cancelsStand_refl _ _⟩
theorem countsOn_trans {s t q : State} (h : s.countsOn t) (k : t.countsOn q) : s.countsOn q where
  store := sameStore_trans h.store k.store
  voices := k.voices.trans h.voices
  dies := k.dies.trans h.dies
  launch l hl := k.launch l (h.launch l hl)
  graphs := cancelsStand_trans h.graphs k.graphs
  phases := cancelsStand_trans h.phases k.phases
  hjobs := cancelsStand_trans h.hjobs k.hjobs
theorem countsOn_foldl {α : Type} {f : State → α → State} (hf : ∀ (t : State) a, t.countsOn (f t a)) (l : List α) (s : State) :
    s.countsOn (l.foldl f s) :=
  List.foldlRecOn l f (motive := s.countsOn) (countsOn_refl s) fun t ht a _ => countsOn_trans ht (hf t a)
/-- An update that leaves every counter as it was. -/
theorem countsOn_of_sameCounts {s t : State} (h : s.sameCounts t) (store : s.sameStore t) (voices : t.voices = s.voices)
    (dies : t.dies = s.dies) (phases : t.phases = s.phases) (hjobs : t.hjobs = s.hjobs) : s.countsOn t where
  store := store
  voices := voices
  dies := dies
  launch l := by rw [h.count]; exact id
  graphs := h.graphs ▸ cancelsStand_refl _ _
  phases := phases ▸ cancelsStand_refl _ _
  hjobs := hjobs ▸ cancelsStand_refl _ _
theorem setUnit_countsOn (s : State) (u : Nat) (t : TeamUnit) (h : t.place = (s.unit u).place) : s.countsOn (s.setUnit u t) :=
  countsOn_of_sameCounts (setUnit_sameCounts s u t) (setUnit_sameStore s u t h) rfl rfl rfl rfl
theorem setLaunch_countsOn (s : State) (l : Nat) (x : Launch) (h : (s.launch l).count.over → x.count.over) :
    s.countsOn (s.setLaunch l x) where
  store := setLaunch_sameStore s l x
  voices := rfl
  dies := rfl
  launch k hk := by
    by_cases e : k = l
    · rw [e, launch_setLaunch]
      exact h (e ▸ hk)
    · rwa [launch_setLaunch_ne s x e]
  graphs := cancelsStand_refl _ _
  phases := cancelsStand_refl _ _
  hjobs := cancelsStand_refl _ _
/-- The counters of graphs, phases and jobs go on, and nothing else changes. -/
theorem countsOn_of_levels {s : State} {graphs : NMap Graph} {phases : NMap PhaseRec} {hjobs : NMap HJob}
    (hg : cancelsStand Graph.count s.graphs graphs) (hp : cancelsStand PhaseRec.count s.phases phases)
    (hh : cancelsStand HJob.count s.hjobs hjobs) : s.countsOn { s with graphs := graphs, phases := phases, hjobs := hjobs } :=
  ⟨⟨rfl, rfl, rfl, rfl, rfl, rfl, rfl, rfl, rfl, rfl, rfl, rfl, fun _ => rfl⟩, rfl, rfl, fun _ h => h, hg, hp, hh⟩

/-! Launches cancelled -/

theorem freeze_countsOn (s : State) (u : Nat) : s.countsOn (s.freeze u) := setUnit_countsOn s u _ rfl
theorem dropVersion_countsOn (s : State) (u : Nat) : s.countsOn (s.dropVersion u) := setUnit_countsOn s u _ rfl
theorem abandon_countsOn (s : State) (u : Nat) (ok : Nat → Bool) : s.countsOn (s.abandon u ok) :=
  countsOn_of_sameCounts (abandon_sameCounts s u ok) (abandon_sameStore s u ok) rfl rfl rfl rfl
theorem closeRegion_countsOn (s : State) (k : Nat) : s.countsOn (s.closeRegion k) := by
  unfold State.closeRegion
  split
  · exact countsOn_refl s
  · split
    · exact countsOn_of_sameCounts (sameCounts_of_eq rfl rfl)
        ⟨rfl, rfl, rfl, rfl, rfl, rfl, rfl, rfl, rfl, rfl, rfl, rfl, fun _ => rfl⟩ rfl rfl rfl rfl
    · exact countsOn_refl s
theorem killAll_countsOn (s : State) (u : Nat) : s.countsOn (s.killAll u) := by
  refine countsOn_trans ?_ (countsOn_foldl (fun t c => closeRegion_countsOn t (Prod.fst c)) _ _)
  exact countsOn_of_sameCounts (sameCounts_of_eq rfl rfl)
    ⟨rfl, rfl, rfl, rfl, rfl, rfl, rfl, rfl, rfl, rfl, rfl, rfl, fun _ => rfl⟩ rfl rfl rfl rfl
theorem cancelUnit_countsOn (s : State) (u : Nat) : s.countsOn (s.cancelUnit u) := by
  refine countsOn_trans ?_ (setUnit_countsOn _ u _ rfl)
  refine countsOn_trans ?_ (abandon_countsOn _ u _)
  refine countsOn_trans ?_ (killAll_countsOn _ u)
  exact countsOn_trans (freeze_countsOn s u) (dropVersion_countsOn _ u)
theorem noteAbove_countsOn (s : State) (x : Launch) {f : Counter → Counter} (hf : ∀ c, (f c).cancel = c.cancel) :
    s.countsOn (s.noteAbove x f) := by
  unfold State.noteAbove
  extract_lets g
  split
  · exact countsOn_refl s
  next y hy =>
    refine countsOn_of_levels (cancelsStand_put _ hy fun h => (hf _).trans h) ?_ ?_
    · split
      · next z hz => exact cancelsStand_put _ hz fun h => (hf _).trans h
      · exact cancelsStand_refl _ _
    · split
      · next z hz => exact cancelsStand_put _ hz fun h => (hf _).trans h
      · exact cancelsStand_refl _ _
theorem closeLaunch_countsOn (s : State) (l : Nat) (st : CState) : s.countsOn (s.closeLaunch l st) := by
  unfold State.closeLaunch
  extract_lets x
  split
  · refine countsOn_trans (noteAbove_countsOn s x (f := Counter.lost _) fun _ => rfl) (setLaunch_countsOn _ l _ ?_)
    rw [noteAbove_launch]
    rintro (h | h)
    · exact .inl ((close_cancel _ _ _).trans h)
    · exact absurd h (by simp_all [x])
  · exact countsOn_refl s
theorem cancelLaunch_countsOn (s : State) (l : Nat) : s.countsOn (s.cancelLaunch l) := by
  unfold State.cancelLaunch
  extract_lets x _ s1
  split
  · exact countsOn_refl s
  · have h1 : s.countsOn s1 := setLaunch_countsOn s l _ fun _ => .inl rfl
    split
    · exact countsOn_trans h1 (closeLaunch_countsOn s1 l _)
    · exact countsOn_trans h1 (countsOn_foldl cancelUnit_countsOn _ s1)
/-- A launch that is cancelled is so, or was over before. -/
theorem cancelLaunch_over (s : State) (l : Nat) : ((s.cancelLaunch l).launch l).count.over := by
  unfold State.cancelLaunch
  extract_lets x _ s1
  split
  next h => exact h.symm
  · have h1 : (s1.launch l).count.over := by
      rw [launch_setLaunch]
      exact .inl rfl
    split
    · exact (closeLaunch_countsOn s1 l _).launch l h1
    · exact (countsOn_foldl cancelUnit_countsOn _ s1).launch l h1

/-! The levels above -/

theorem settleJob_countsOn (s : State) (job now : Nat) : s.countsOn (s.settleJob job now) := by
  unfold State.settleJob
  split
  · exact countsOn_refl s
  next h hh =>
    extract_lets pending
    split
    · exact countsOn_of_levels (cancelsStand_refl _ _) (cancelsStand_refl _ _) (cancelsStand_put _ hh fun hc => (close_cancel _ _ _).trans hc)
    · exact countsOn_refl s
theorem settlePhase_countsOn (s : State) (job ph now : Nat) : s.countsOn (s.settlePhase job ph now) := by
  unfold State.settlePhase
  split
  · exact countsOn_refl s
  next p hp =>
    split
    · extract_lets st _ s1 s2
      have h1 : s.countsOn s1 :=
        countsOn_of_levels (cancelsStand_refl _ _) (cancelsStand_put _ hp fun hc => (close_cancel p.count st now).trans hc) (cancelsStand_refl _ _)
      have h2 : s1.countsOn s2 := by
        unfold s2
        split
        · exact countsOn_refl s1
        next h hh =>
          refine countsOn_of_levels (cancelsStand_refl _ _) (cancelsStand_refl _ _) (cancelsStand_put _ hh fun hc => ?_)
          dsimp only
          split <;> exact hc
      exact countsOn_trans (countsOn_trans h1 h2) (settleJob_countsOn s2 job now)
    · exact countsOn_refl s
theorem settleGraph_countsOn (s : State) (job g now : Nat) : s.countsOn (s.settleGraph job g now) := by
  unfold State.settleGraph
  split
  · exact countsOn_refl s
  next x hx =>
    split
    · extract_lets st _ s1 s2
      have h1 : s.countsOn s1 :=
        countsOn_of_levels (cancelsStand_put _ hx fun hc => (close_cancel x.count st now).trans hc) (cancelsStand_refl _ _) (cancelsStand_refl _ _)
      have h2 : s1.countsOn s2 := by
        unfold s2
        split
        · exact countsOn_refl s1
        next p hp => exact countsOn_of_levels (cancelsStand_refl _ _) (cancelsStand_put _ hp id) (cancelsStand_refl _ _)
      exact countsOn_trans (countsOn_trans h1 h2) (settlePhase_countsOn s2 job _ now)
    · exact countsOn_refl s

/-- The graph is cancelled in `t`. -/
def State.graphCancelled (t : State) (k : Nat) : Prop := ∃ g, t.graphs.find k = some g ∧ g.count.cancel = true
def State.phaseCancelled (t : State) (k : Nat) : Prop := ∃ f, t.phases.find k = some f ∧ f.count.cancel = true
def State.jobCancelled (t : State) (k : Nat) : Prop := ∃ h, t.hjobs.find k = some h ∧ h.count.cancel = true

/-- Work on counters follows the cancel of an open level; a level that is over or cancelled already stays as it is. -/
theorem cancelGraph_spec (s : State) (job g now : Nat) : s.countsOn (s.cancelGraph job g now) ∧
    ∀ x, s.graphs.find (gkey job g) = some x → x.count.isOpen = true → (s.cancelGraph job g now).graphCancelled (gkey job g) := by
  unfold State.cancelGraph
  split
  next hn => exact ⟨countsOn_refl s, fun x hx => by simp [hn] at hx⟩
  next x hx =>
    split
    next h =>
      refine ⟨countsOn_refl s, fun y hy ho => ?_⟩
      obtain rfl := Option.some.inj (hx.symm.trans hy)
      exact ⟨x, hx, by simpa [ho] using h⟩
    next h =>
      extract_lets missing _ c s1 s2
      have h1 : s.countsOn s1 := countsOn_of_levels (cancelsStand_put _ hx fun _ => rfl) (cancelsStand_refl _ _) (cancelsStand_refl _ _)
      have h2 : s1.countsOn (s2.settleGraph job g now) :=
        countsOn_trans (countsOn_foldl cancelLaunch_countsOn _ s1) (settleGraph_countsOn s2 job g now)
      exact ⟨countsOn_trans h1 h2, fun _ _ _ => h2.graphs _ _ (NMap.find_put_self _ _ _) rfl⟩
theorem cancelPhase_spec (s : State) (job ph now : Nat) : s.countsOn (s.cancelPhase job ph now) ∧
    ∀ x, s.phases.find (gkey job ph) = some x → x.count.isOpen = true → (s.cancelPhase job ph now).phaseCancelled (gkey job ph) := by
  unfold State.cancelPhase
  split
  next hn => exact ⟨countsOn_refl s, fun x hx => by simp [hn] at hx⟩
  next x hx =>
    split
    next h =>
      refine ⟨countsOn_refl s, fun y hy ho => ?_⟩
      obtain rfl := Option.some.inj (hx.symm.trans hy)
      exact ⟨x, hx, by simpa [ho] using h⟩
    next h =>
      extract_lets missing _ c s1 s2
      have h1 : s.countsOn s1 := countsOn_of_levels (cancelsStand_refl _ _) (cancelsStand_put _ hx fun _ => rfl) (cancelsStand_refl _ _)
      have h2 : s1.countsOn (s2.settlePhase job ph now) :=
        countsOn_trans (countsOn_foldl (fun t g => (cancelGraph_spec t job g now).1) _ s1) (settlePhase_countsOn s2 job ph now)
      exact ⟨countsOn_trans h1 h2, fun _ _ _ => h2.phases _ _ (NMap.find_put_self _ _ _) rfl⟩
theorem cancelJob_spec (s : State) (job now : Nat) : s.countsOn (s.cancelJob job now) ∧
    ∀ x, s.hjobs.find job = some x → x.count.isOpen = true → (s.cancelJob job now).jobCancelled job := by
  unfold State.cancelJob
  split
  next hn => exact ⟨countsOn_refl s, fun x hx => by simp [hn] at hx⟩
  next x hx =>
    split
    next h =>
      refine ⟨countsOn_refl s, fun y hy ho => ?_⟩
      obtain rfl := Option.some.inj (hx.symm.trans hy)
      exact ⟨x, hx, by simpa [ho] using h⟩
    next h =>
      extract_lets _ s1 ps
      have h1 : s.countsOn s1 := countsOn_of_levels (cancelsStand_refl _ _) (cancelsStand_refl _ _) (cancelsStand_put _ hx fun _ => rfl)
      have h2 : s1.countsOn ((ps.foldl (fun t ph => t.cancelPhase job ph now) s1).settleJob job now) :=
        countsOn_trans (countsOn_foldl (fun t ph => (cancelPhase_spec t job ph now).1) _ s1) (settleJob_countsOn _ job now)
      exact ⟨countsOn_trans h1 h2, fun _ _ _ => h2.hjobs _ _ (NMap.find_put_self _ _ _) rfl⟩

/-- Cancelling a level is work on completion counters alone, but that units stop (R91). -/
theorem cancelLevel_countsOn (s : State) (job level id now : Nat) : s.countsOn (s.cancelLevel job level id now) := by
  unfold State.cancelLevel
  split
  · exact countsOn_foldl cancelLaunch_countsOn _ s
  · exact (cancelGraph_spec s job _ now).1
  · exact (cancelPhase_spec s job _ now).1
  · exact (cancelJob_spec s job now).1

theorem mem_of_find {α : Type} {m : NMap α} {k : Nat} {x : α} (h : m.find k = some x) : (k, x) ∈ m := by
  induction m with
  | nil => simp at h
  | cons c t ih =>
    obtain ⟨k', y⟩ := c
    rw [NMap.find_cons] at h
    split at h
    next e => obtain rfl := e; obtain rfl := Option.some.inj h; exact List.mem_cons_self
    · exact List.mem_cons_of_mem _ (ih h)
theorem mem_launchesWhere {s : State} {f : Launch → Bool} {lid : Nat} {l : Launch} (h : s.launches.find lid = some l) (hf : f l = true) :
    lid ∈ s.launchesWhere f := List.mem_map.2 ⟨(lid, l), List.mem_filter.2 ⟨mem_of_find h, hf⟩, rfl⟩
/-- Every launch of the identity is cancelled, or over (R91). -/
theorem cancelLevel_launch {s : State} {job id now lid : Nat} {l : Launch} (h : s.launches.find lid = some l) (hj : l.job = job)
    (hi : l.id = id % 2 ^ 32) : ((s.cancelLevel job 0 id now).launch lid).count.over := by
  obtain ⟨as, bs, e⟩ := List.append_of_mem
    (mem_launchesWhere (f := fun l => decide (l.job = job) && decide (l.id = id % 2 ^ 32)) h (by simp [hj, hi]))
  show (((s.launchesWhere _).foldl (fun t k => t.cancelLaunch k) s).launch lid).count.over
  rw [e, List.foldl_append, List.foldl_cons]
  exact (countsOn_foldl cancelLaunch_countsOn bs _).launch lid (cancelLaunch_over _ lid)

end Sys2Proof.Machine
end

section
/-! PROOFS. Questions to the die that holds a counter, and their answers (O24). -/
namespace Sys2Proof.Machine
open Sys2Proof

/-- A voice that stalls on a question has asked it, and nothing else of the machine changes that its team could see (R394). -/
theorem stallOn_asks {s : State} {u j : Nat} (h : s.issues u j) (a : Ask) :
    (s.stallOn a).stream = s.stream ∧ s.keepsMemory (s.stallOn a) ∧ s.keepsCores (s.stallOn a) ∧ (s.stallOn a).units = s.units ∧
      ((s.stallOn a).voice u j).ask = some a := by
  have hs : s.sel = .voice u j := h
  have e : s.stallOn a = s.setVoice u j { s.voice u j with ask := some a, status := (s.voice u j).status.wake } := by
    unfold State.stallOn State.setMe State.me State.selUnit State.selVoice
    rw [hs]
  have store := setVoice_sameStore s u j { s.voice u j with ask := some a, status := (s.voice u j).status.wake }
  rw [e]
  refine ⟨?_, sameStore_keepsMemory store, sameStore_keepsCores store, rfl, by rw [voice_setVoice]⟩
  unfold State.stream
  rw [setVoice_sel, hs]
  dsimp only
  rw [voice_setVoice]

/-- The question of voice `j` is answered with `v`: register `d` holds it, and its other registers are as they were (R417, R418). -/
def State.gotAnswer (s t : State) (u j : Nat) (d : BitVec 6) (v : X) : Prop :=
  (t.voice u j).ask = none ∧ (t.voice u j).st.getX d = (if d = 0 then 0 else v) ∧
    ∀ r, r ≠ d → (t.voice u j).st.getX r = (s.voice u j).st.getX r

theorem getX_setX (st : Stream) (d : BitVec 6) (v : X) : (st.setX d v).getX d = if d = 0 then 0 else v := by
  split
  next h => rw [h]; exact getX_zero _
  next h => exact getX_setX_self st v h
/-- The stalled instruction of a team that is not away completes (R394). -/
theorem finishWait_answers {s r : State} {u j : Nat} (d : BitVec 6) (v : X) (ha : (r.unit u).away = false) :
    s.gotAnswer ((r.setVoice u j { s.voice u j with ask := none }).finishWait u j d v) u j d v := by
  have e : ((r.setVoice u j { s.voice u j with ask := none }).finishWait u j d v).voice u j =
      Voice.complete { s.voice u j with ask := none } d v := by
    unfold State.finishWait
    rw [unit_setVoice, ha, voice_setVoice, voice_setVoice]
    rfl
  unfold State.gotAnswer
  rw [e]
  exact ⟨rfl, (getX_advance 16 _ d).trans (getX_setX _ d v), fun r hr => (getX_advance 16 _ r).trans (getX_setX_ne _ v hr)⟩
theorem finishWait_sameStore (s : State) (u j : Nat) (d : BitVec 6) (v : X) : s.sameStore (s.finishWait u j d v) :=
  setVoice_sameStore s u j _

/-- What the units of a level committed is opened to its reader; the units keep what they are. -/
theorem openStores_units (s : State) (job level id : Nat) : (s.openStores job level id).units = s.units := by
  unfold State.openStores
  split
  · rfl
  · exact List.foldlRecOn _ _ (motive := fun t : State => t.units = s.units) rfl fun _ ht _ _ => ht
/-- A level that is not over has opened no stores to its reader (R418). -/
theorem openStores_of_open {s : State} {job level id : Nat} (h : level ≠ 0 ∨ ∀ c, s.counter job 0 id = some c → c.isOpen = true) :
    s.openStores job level id = s := by
  refine if_pos (h.imp_right fun h => ?_)
  cases e : s.counter job 0 id with
  | none => rfl
  | some c => simp [h c e]

section
variable {s : State} {u j level id : Nat} {d : BitVec 6}

/-- The answer to a reader is the counter's word, 0 where there is none (R418). -/
theorem execHoldingDieAnswer_read (hr : (s.unit u).status = .resident) (ha : (s.unit u).away = false)
    (hq : (s.voice u j).ask = some (.read level id d)) : ∃ t, execHoldingDieAnswer u j s = .next t ∧
      s.gotAnswer t u j d (((s.counter (s.unit u).place.job level id).map Counter.word).getD 0) ∧
      ((level ≠ 0 ∨ ∀ c, s.counter (s.unit u).place.job 0 id = some c → c.isOpen = true) → s.keepsMemory t) := by
  unfold execHoldingDieAnswer
  dsimp only
  rw [hr, hq]
  dsimp only
  refine ⟨_, rfl, finishWait_answers d _ ?_, fun h => ?_⟩
  · rw [State.unit, openStores_units]
    exact ha
  · rw [openStores_of_open h]
    exact sameStore_keepsMemory (sameStore_trans (setVoice_sameStore s u j _) (finishWait_sameStore _ u j d _))
/-- A cancel that its level's counter does not accept changes nothing but its voice (R417). -/
theorem execHoldingDieAnswer_refuses (hr : (s.unit u).status = .resident) (ha : (s.unit u).away = false) {r : X}
    (hq : (s.voice u j).ask = some (.cancel level id d)) (hr0 : r ≠ 0)
    (hc : (match s.counter (s.unit u).place.job level id with | none => (2 : X) | some c => if c.isOpen then 0 else 1) = r) :
    ∃ t, execHoldingDieAnswer u j s = .next t ∧ s.gotAnswer t u j d r ∧ s.keepsMemory t := by
  unfold execHoldingDieAnswer
  dsimp only
  rw [hr, hq]
  dsimp only
  subst hc
  refine ⟨_, congrArg Host.Outcome.next (if_neg hr0), finishWait_answers d _ ha, ?_⟩
  exact sameStore_keepsMemory (sameStore_trans (setVoice_sameStore s u j _) (finishWait_sameStore _ u j d _))
/-- A cancel that the counter of an open level accepts is made from the state in which its voice has the answer (R417). -/
theorem execHoldingDieAnswer_cancels (hr : (s.unit u).status = .resident) (ha : (s.unit u).away = false)
    (hq : (s.voice u j).ask = some (.cancel level id d)) {c : Counter} (hc : s.counter (s.unit u).place.job level id = some c)
    (ho : c.isOpen = true) : ∃ s1 : State, execHoldingDieAnswer u j s = .next (s1.cancelLevel (s.unit u).place.job level id (s.dcc 12)) ∧
      s.gotAnswer s1 u j d 0 ∧ s.sameStore s1 ∧ s1.launches = s.launches ∧ s1.graphs = s.graphs ∧ s1.phases = s.phases ∧
      s1.hjobs = s.hjobs := by
  unfold execHoldingDieAnswer
  dsimp only
  rw [hr, hq]
  dsimp only
  simp only [hc, if_pos ho, if_true]
  exact ⟨_, rfl, finishWait_answers d 0 ha, sameStore_trans (setVoice_sameStore s u j _) (finishWait_sameStore _ u j d _), rfl, rfl, rfl, rfl⟩

end

/-- Settles O24: a question stalls its voice; an answer completes the voice's instruction, and a cancel accepted is work on completion
counters, which leaves every voice and every store alone. -/
theorem counterQuestions : Obligations.CounterQuestions := by
  unfold Obligations.CounterQuestions
  intro sb d a l s u j level id job gave
  refine ⟨fun hi => ⟨⟨_, rfl, stallOn_asks hi _⟩, ⟨_, rfl, stallOn_asks hi _⟩⟩,
    fun hr ha => ⟨?read, ?absent, ?unknown, ?closed, ?cancels⟩⟩
  case read =>
    intro c hq hc
    obtain ⟨t, ht, hg, hm⟩ := execHoldingDieAnswer_read hr ha hq
    rw [hc] at hg
    refine ⟨t, ht, hg, fun h => hm ?_⟩
    by_cases hl : level = 0
    · refine .inr fun c' hc' => ?_
      obtain rfl := Option.some.inj ((hl ▸ hc).symm.trans hc')
      exact h.resolve_left (not_not.2 hl)
    · exact .inl hl
  case absent =>
    intro hq hc
    obtain ⟨t, ht, hg, hm⟩ := execHoldingDieAnswer_read hr ha hq
    rw [hc] at hg
    refine ⟨t, ht, hg, hm ?_⟩
    by_cases hl : level = 0
    · exact .inr fun c hc' => nomatch (hl ▸ hc).symm.trans hc'
    · exact .inl hl
  case unknown =>
    intro hq hc
    exact execHoldingDieAnswer_refuses hr ha hq (by decide) (by rw [hc])
  case closed =>
    intro c hq hc ho
    exact execHoldingDieAnswer_refuses hr ha hq (by decide) (by rw [hc]; simp [ho])
  case cancels =>
    intro c hq hc ho
    obtain ⟨s1, ht, hg, hs, hl, hgr, hph, hjb⟩ := execHoldingDieAnswer_cancels hr ha hq hc ho
    have k := cancelLevel_countsOn s1 job level id (s.dcc 12)
    refine ⟨_, ht, ?answered, sameStore_keepsMemory (sameStore_trans hs k.store), ?launch, ?graph, ?phase, ?job⟩
    case answered =>
      show s.gotAnswer _ u j d 0
      unfold State.gotAnswer State.voice
      rw [k.voices]
      exact hg
    case launch =>
      rintro rfl lid x hx hj hid
      exact cancelLevel_launch (hl ▸ hx) hj hid
    case graph =>
      rintro rfl
      obtain ⟨x, hx, rfl⟩ := Option.map_eq_some_iff.1 hc
      exact (cancelGraph_spec s1 job (id % 65536) _).2 x (hgr ▸ hx) ho
    case phase =>
      rintro rfl
      obtain ⟨x, hx, rfl⟩ := Option.map_eq_some_iff.1 hc
      exact (cancelPhase_spec s1 job (id % 65536) _).2 x (hph ▸ hx) ho
    case job =>
      rintro rfl
      obtain ⟨x, hx, rfl⟩ := Option.map_eq_some_iff.1 hc
      exact (cancelJob_spec s1 job _).2 x (hjb ▸ hx) ho

end Sys2Proof.Machine
end

section
/-! PROOFS. Packets: what refuses one, what accepting one records, and what each type does (O40). -/
namespace Sys2Proof.Machine
open Sys2Proof

/-! Receiving (R77, R78) -/

theorem receive_refused {s : State} {ty : Nat} {p : Packet} (f : State → State) (ht : pktType p = ty)
    (hd : 12 ≤ pktAt p ∨ s.reached (pktAt p) = true) (hr : s.refusal p ≠ 0) :
    s.receive ty p f = .next (s.send (pktAt p) 0x83 p.port [(0x28, 8, pktSeq p), (0x30, 8, s.refusal p)] []) := by
  have far : (decide (pktAt p < 12) && !s.reached (pktAt p)) = false := by
    rcases hd with h | h <;> simp [h]
  unfold State.receive
  simp only [ht, far, hr, ne_eq, not_true_eq_false, false_and, if_false, not_false_eq_true, or_true, if_true, Bool.false_eq_true]
theorem receive_unreached {s : State} {ty : Nat} {p : Packet} (f : State → State) (ht : pktType p = ty)
    (hd : pktAt p < 12) (hr : s.reached (pktAt p) = false) :
    s.receive ty p f = .next (s.send 12 0x83 p.port [(0x28, 8, pktSeq p), (0x30, 8, Config.unreachedCode)] []) := by
  unfold State.receive
  simp only [ht, hd, hr, ne_eq, not_true_eq_false, false_and, if_false, decide_true, Bool.not_false, Bool.and_self, true_or, if_true]

/-- `t` is `s`, but that a die may have sent a packet. -/
structure State.sentOn (s t : State) : Prop where
  seq : ∀ d, (t.die d).seq = (s.die d).seq
  maxSlice : ∀ d, (t.die d).maxSlice = (s.die d).maxSlice
  current : ∀ d, (t.die d).current = (s.die d).current
  slices : ∀ d, (t.die d).slices = (s.die d).slices
  jobs : t.jobs = s.jobs
  hjobs : t.hjobs = s.hjobs
  phases : t.phases = s.phases
  graphs : t.graphs = s.graphs
  launches : t.launches = s.launches
  nextLaunch : t.nextLaunch = s.nextLaunch
  packets : s.packets <+: t.packets

theorem sentOn_refl (s : State) : s.sentOn s :=
  ⟨fun _ => rfl, fun _ => rfl, fun _ => rfl, fun _ => rfl, rfl, rfl, rfl, rfl, rfl, rfl, List.prefix_refl _⟩
/-- What a die keeps when another field of die `d` changes. -/
theorem setDie_keeps {α : Type} (g : Die → α) (s : State) {d : Nat} (x : Die) (h : g x = g (s.die d)) (k : Nat) :
    g ((s.setDie d x).die k) = g (s.die k) := by
  by_cases hk : k = d
  · rw [hk, die_setDie, h]
  · rw [die_setDie_ne s x hk]
theorem send_sentOn (s : State) (d ty port : Nat) (fields : List (Nat × Nat × Nat)) (body : List Byte) :
    s.sentOn (s.send d ty port fields body) where
  seq k := setDie_keeps Die.seq s (d := d) { s.die d with seqOut := (s.die d).seqOut + 1 } rfl k
  maxSlice k := setDie_keeps Die.maxSlice s (d := d) { s.die d with seqOut := (s.die d).seqOut + 1 } rfl k
  current k := setDie_keeps Die.current s (d := d) { s.die d with seqOut := (s.die d).seqOut + 1 } rfl k
  slices k := setDie_keeps Die.slices s (d := d) { s.die d with seqOut := (s.die d).seqOut + 1 } rfl k
  jobs := rfl
  hjobs := rfl
  phases := rfl
  graphs := rfl
  launches := rfl
  nextLaunch := rfl
  packets := List.prefix_append _ _

/-- The state in which an accepted packet acts: its number is recorded as the last of its source (R78). -/
def State.recording (s : State) (p : Packet) : State :=
  s.setDie (pktAt p) { s.die (pktAt p) with seq := (s.die (pktAt p)).seq.put (pktSrc p) (pktSeq p) }
/-- The last accepted number of the packet's source is its own. -/
def State.recorded (s : State) (p : Packet) : Prop := (s.die (pktAt p)).seq.find (pktSrc p) = some (pktSeq p)

theorem recording_recorded (s : State) (p : Packet) : (s.recording p).recorded p := by
  rw [State.recorded, State.recording, die_setDie]
  exact NMap.find_put_self _ _ _
theorem recorded_of_dies {s t : State} {p : Packet} (h : s.recorded p) (hd : t.dies = s.dies) : t.recorded p := by
  rw [State.recorded, State.die, hd]
  exact h
theorem recorded_of_sentOn {s t : State} {p : Packet} (h : s.recorded p) (hs : s.sentOn t) : t.recorded p :=
  (congrArg (NMap.find · (pktSrc p)) (hs.seq _)).trans h

/-- An accepted packet acts on the state that has recorded it, and is acknowledged where asked (R77, R78). -/
theorem receive_accepts {s : State} {ty : Nat} {p : Packet} (f : State → State) (ht : pktType p = ty)
    (hd : 12 ≤ pktAt p ∨ s.reached (pktAt p) = true) (hr : s.refusal p = 0) :
    ∃ t, s.receive ty p f = .next t ∧ (f (s.recording p)).sentOn t := by
  have far : (decide (pktAt p < 12) && !s.reached (pktAt p)) = false := by
    rcases hd with h | h <;> simp [h]
  unfold State.receive
  simp only [ht, far, hr, ne_eq, not_true_eq_false, false_and, if_false, or_self, Bool.false_eq_true]
  refine ⟨_, rfl, ?_⟩
  split
  · exact send_sentOn _ _ _ _ _ _
  · exact sentOn_refl _
/-- However a packet is received, what its action leaves alone and a packet sent does not touch is as it was. -/
theorem receive_hjobs (s : State) (ty : Nat) (p : Packet) {f : State → State} (hf : ∀ t : State, (f t).hjobs = t.hjobs) :
    ∃ t, s.receive ty p f = .next t ∧ t.hjobs = s.hjobs := by
  unfold State.receive
  split
  · exact ⟨s, rfl, rfl⟩
  · extract_lets far d c _ s1 s2
    split
    · exact ⟨_, rfl, rfl⟩
    · refine ⟨_, rfl, ?_⟩
      split
      · exact hf s1
      · exact hf s1

/-! The counter of a job at the host processor die (R78, R89) -/

theorem forwardOpen_reached (s : State) (p : Packet) (d : Nat) : (s.forwardOpen p).reached d = s.reached d := by
  unfold State.forwardOpen
  split <;> rfl
/-- The host processor die holds the counter of a job whose JOBOPEN it forwards: the job's opener is who opened it first. -/
theorem forwardOpen_holds {s : State} {p : Packet} (ht : pktType p = 1) (hf : pktForm p = 0) (hd : pktDie p < 12)
    (hr : s.reached (pktDie p) = true) :
    ∃ k, (s.forwardOpen p).hjobs.find (pktJob p) = some k ∧ (s.hjobs.find (pktJob p) = none → k.src = pktSrc p) := by
  unfold State.forwardOpen
  cases e : s.hjobs.find (pktJob p) with
  | none =>
    rw [if_pos ⟨ht, hf, hd, hr, rfl⟩]
    exact ⟨_, NMap.find_put_self _ _ _, fun _ => rfl⟩
  | some k =>
    rw [if_neg fun h => nomatch h.2.2.2.2]
    exact ⟨k, e, nofun⟩
/-- Holding the counter makes no check of the JOBOPEN fail. -/
theorem forwardOpen_refusal {s : State} {p : Packet} (ht : pktType p = 1) : (s.forwardOpen p).refusal p = s.refusal p := by
  unfold State.forwardOpen
  split
  next h =>
    obtain ⟨-, -, -, -, hn⟩ := h
    have ho : ({ s with hjobs := s.hjobs.put (pktJob p) { src := pktSrc p } } : State).pktOpen p = s.pktOpen p := by
      unfold State.pktOpen
      rw [ht, Option.isNone_iff_eq_none.1 hn]
      dsimp only
      rw [NMap.find_put_self]
      simp
    have hdef : ∀ t : State, t.pktDefined p = true := fun t => by
      unfold State.pktDefined
      rw [ht]
      rfl
    have hl : ∀ t : State, t.pktLive p = true := fun t => by
      unfold State.pktLive
      rw [ht]
      rfl
    unfold State.refusal
    rw [ho, hdef, hdef, hl, hl]
    rfl
  · rfl

/-- Every packet is received at its die; a JOBOPEN once the host processor die holds its job's counter. -/
theorem exec_packet (p : Packet) (s : State) :
    ∀ w ∈ ([(.jobopen p, 1), (.jobclose p, 2), (.phasedef p, 3), (.graphdef p, 4), (.launch p, 5), (.cancel p, 6), (.slice p, 7),
      (.query p, 8)] : List (Instr × Nat)), ∃ f, Sys2Proof.Machine.exec w.1 s = (if w.2 = 1 then s.forwardOpen p else s).receive w.2 p f := by
  simp only [List.mem_cons, List.not_mem_nil, or_false, forall_eq_or_imp, forall_eq]
  exact ⟨⟨_, (rfl : execJobopen p s = (s.forwardOpen p).receive 1 p _)⟩, ⟨_, (rfl : execJobclose p s = s.receive 2 p _)⟩,
    ⟨_, (rfl : execPhasedef p s = s.receive 3 p _)⟩, ⟨_, (rfl : execGraphdef p s = s.receive 4 p _)⟩,
    ⟨_, (rfl : execLaunch p s = s.receive 5 p _)⟩, ⟨_, (rfl : execCancel p s = s.receive 6 p _)⟩,
    ⟨_, (rfl : execSlice p s = s.receive 7 p _)⟩, ⟨_, (rfl : execQuery p s = s.receive 8 p _)⟩⟩

/-! Cancelling the launches of an identity -/

theorem launch_of_launches {s t : State} (h : t.launches = s.launches) (l : Nat) : t.launch l = s.launch l := by
  rw [State.launch, State.launch, h]
/-- Launch `k` has the counter and the state that it had. -/
def State.sameCount (s t : State) (k : Nat) : Prop := (t.launch k).count = (s.launch k).count ∧ (t.launch k).status = (s.launch k).status

theorem sameCount_trans {s t q : State} {k : Nat} (h : s.sameCount t k) (g : t.sameCount q k) : s.sameCount q k :=
  ⟨g.1.trans h.1, g.2.trans h.2⟩
theorem sameCount_of_launch {s t : State} {k : Nat} (h : t.launch k = s.launch k) : s.sameCount t k := by
  rw [State.sameCount, h]
  exact ⟨rfl, rfl⟩
theorem closeLaunch_launch_ne (s : State) {l k : Nat} (st : CState) (h : k ≠ l) : (s.closeLaunch l st).launch k = s.launch k := by
  unfold State.closeLaunch
  extract_lets y
  split
  · rw [launch_setLaunch_ne _ _ h, noteAbove_launch]
  · rfl
/-- Cancelling a launch leaves every other launch's counter as it is. -/
theorem cancelLaunch_sameCount (s : State) {l k : Nat} (h : k ≠ l) : s.sameCount (s.cancelLaunch l) k := by
  unfold State.cancelLaunch
  extract_lets x _ s1
  split
  · exact sameCount_of_launch rfl
  · have h1 : s1.launch k = s.launch k := launch_setLaunch_ne s _ h
    refine sameCount_trans (sameCount_of_launch h1) ?_
    split
    · exact sameCount_of_launch (closeLaunch_launch_ne s1 _ h)
    · have c := sameCounts_foldl cancelUnit_sameCounts (s1.launchUnits l) s1
      exact ⟨c.count k, c.status k⟩
theorem foldl_cancelLaunch_sameCount (s : State) {k : Nat} {ls : List Nat} (h : k ∉ ls) :
    s.sameCount (ls.foldl (fun t l => t.cancelLaunch l) s) k :=
  List.foldlRecOn ls _ (motive := fun t : State => s.sameCount t k) (sameCount_of_launch rfl) fun t ht _ hl =>
    sameCount_trans ht (cancelLaunch_sameCount t (ne_of_mem_of_not_mem hl h).symm)
/-- A waiting launch is cancelled at once (R91). -/
theorem cancelLaunch_waiting {s : State} {l : Nat} (hw : (s.launch l).status = .waiting) (ho : (s.launch l).count.isOpen = true)
    (hc : (s.launch l).count.cancel = false) : ((s.cancelLaunch l).launch l).count.state = .cancelled := by
  unfold State.cancelLaunch
  extract_lets x _ s1
  rw [if_neg (by simp [x, ho, hc]), show x.status = .waiting from hw]
  refine (closeLaunch_count ?_ .cancelled).1
  rw [launch_setLaunch]
  exact ho
theorem foldl_cancelLaunch_waiting {s : State} {lid : Nat} {ls : List Nat} (hm : lid ∈ ls) (hw : (s.launch lid).status = .waiting)
    (ho : (s.launch lid).count.isOpen = true) (hc : (s.launch lid).count.cancel = false) :
    ((ls.foldl (fun t l => t.cancelLaunch l) s).launch lid).count.state = .cancelled := by
  obtain ⟨as, bs, rfl, hn⟩ := List.eq_append_cons_of_mem hm
  rw [List.foldl_append, List.foldl_cons]
  obtain ⟨ec, es⟩ := foldl_cancelLaunch_sameCount s hn
  have h := cancelLaunch_waiting (es.trans hw) (ec ▸ ho) (ec ▸ hc)
  rw [(keepsEnded_foldl cancelLaunch_keepsEnded bs _).count lid (by rw [Counter.isOpen, h]; rfl), h]

/-! A launch provisionally read (R44) -/

/-- What a provisional read of a launch keeps of it: what the packet said of it, and that it waits. -/
structure Launch.placedAs (l x : Launch) : Prop where
  status : x.status = l.status
  id : x.id = l.id
  job : x.job = l.job
  addr : x.addr = l.addr
  die : x.die = l.die
/-- A provisional read touches nothing but its launch. -/
theorem provisional_eq (s : State) (lid : Nat) : ∃ x, s.provisional lid = s.setLaunch lid x ∧ (s.launch lid).placedAs x := by
  unfold State.provisional
  extract_lets l j read
  split
  · exact ⟨_, rfl, rfl, rfl, rfl, rfl, rfl⟩
  · split
    · exact ⟨_, rfl, rfl, rfl, rfl, rfl, rfl⟩
    · exact ⟨_, rfl, rfl, rfl, rfl, rfl, rfl⟩

/-! Reports (R86) -/

/-- What a report tells of a die is not the last packet of a source. -/
theorem recording_reportBody (s : State) (p : Packet) (d : Nat) : (s.recording p).reportBody d = s.reportBody d := by
  have keeps : ∀ {α : Type} (g : Die → α) (h : ∀ x y, g { x with seq := y } = g x) (k : Nat), g ((s.recording p).die k) = g (s.die k) :=
    fun g h k => setDie_keeps g s _ (h _ _) k
  have phys : ∀ k l, (s.recording p).phys k l = s.phys k l := fun k l => congrArg (NMap.getD · l l) (keeps Die.phys (fun _ _ => rfl) k)
  have acc : ∀ l, (s.recording p).accFree d l = s.accFree d l := fun l => by
    unfold State.accFree
    rw [phys]
    rfl
  have entry : ∀ l, (s.recording p).coreEntry d l = s.coreEntry d l := fun l => by
    unfold State.coreEntry
    rw [phys, acc]
    rfl
  unfold State.reportBody State.dcc
  simp only [entry, keeps Die.dcc (fun _ _ => rfl), keeps Die.current (fun _ _ => rfl), keeps Die.late (fun _ _ => rfl)]
  rfl
/-- A packet that a die sends has the type it is sent with. -/
theorem send_packet (s : State) (d port ty : Nat) (fields : List (Nat × Nat × Nat)) (body : List Byte) (hty : ty < 256) :
    ∃ r, (s.send d ty port fields body).packets = s.packets ++ [r] ∧ r.body = body ∧ r.port = port ∧ pktType r = ty := by
  refine ⟨_, rfl, rfl, rfl, ?_⟩
  simpa [pktType, pktField, leAt, leBytes, leNat] using hty

/-! What the types do (R77, R83 to R85, R89 to R91) -/

/-- A packet that passes its checks is recorded, and its action is what `P` says where the action and a packet sent after it say so. -/
theorem receive_acts {s : State} {ty : Nat} {p : Packet} {f : State → State} {P : State → Prop} (ht : pktType p = ty)
    (hd : 12 ≤ pktAt p ∨ s.reached (pktAt p) = true) (hr : s.refusal p = 0) (hn : (f (s.recording p)).recorded p)
    (hP : ∀ t, (f (s.recording p)).sentOn t → P t) : ∃ t, s.receive ty p f = .next t ∧ t.recorded p ∧ P t := by
  obtain ⟨t, e, h⟩ := receive_accepts f ht hd hr
  exact ⟨t, e, recorded_of_sentOn hn h, hP t h⟩

/-- Settling a job leaves it closed. -/
theorem settleJob_closed {s : State} {job : Nat} {h : HJob} (hh : s.hjobs.find job = some h) (hc : h.closed = true) (now : Nat) :
    ∃ h', (s.settleJob job now).hjobs.find job = some h' ∧ h'.closed = true := by
  unfold State.settleJob
  rw [hh]
  dsimp only
  split
  · exact ⟨_, NMap.find_put_self _ _ _, hc⟩
  · exact ⟨h, hh, hc⟩

section
variable {s : State} {p : Packet}

/-- A JOBOPEN opens its job on its die with its root, ceiling and source (R77, R238). -/
theorem execJobopen_opens (ht : pktType p = 1) (hd : 12 ≤ pktAt p ∨ s.reached (pktAt p) = true) (hr : s.refusal p = 0) :
    ∃ t, execJobopen p s = .next t ∧ t.recorded p ∧ (t.job (pktAt p) (pktJob p)).root = pktArg2 p ∧
      (t.job (pktAt p) (pktJob p)).ceiling = pktArg p ∧ (t.job (pktAt p) (pktJob p)).src = pktSrc p ∧
      (t.jobs.find (jkey (pktAt p) (pktJob p))).isSome = true := by
  refine receive_acts ht (by rwa [forwardOpen_reached]) ((forwardOpen_refusal ht).trans hr) ?_ fun t h => ?_
  · exact recorded_of_dies (recording_recorded _ p) rfl
  · rw [State.job, NMap.getD, h.jobs, NMap.find_put_self]
    exact ⟨rfl, rfl, rfl, rfl⟩
/-- A JOBCLOSE closes its job (R77, R89). -/
theorem execJobclose_closes {h : HJob} (ht : pktType p = 2) (hd : 12 ≤ pktAt p ∨ s.reached (pktAt p) = true) (hr : s.refusal p = 0)
    (hh : s.hjobs.find (pktJob p) = some h) :
    ∃ t, execJobclose p s = .next t ∧ t.recorded p ∧ ∃ h', t.hjobs.find (pktJob p) = some h' ∧ h'.closed = true := by
  have hh' : (s.recording p).hjobs.find (pktJob p) = some h := hh
  refine receive_acts ht hd hr ?_ fun t h => ?_
  · simp only [hh']
    exact recorded_of_dies (recording_recorded s p) (settleJob_countsOn _ _ _).dies
  · simp only [hh'] at h
    rw [h.hjobs]
    exact settleJob_closed (NMap.find_put_self _ _ _) rfl _
/-- A PHASEDEF defines its phase, with its count of graphs out (R77, R89). -/
theorem execPhasedef_defines (ht : pktType p = 3) (hd : 12 ≤ pktAt p ∨ s.reached (pktAt p) = true) (hr : s.refusal p = 0) :
    ∃ t, execPhasedef p s = .next t ∧ t.recorded p ∧
      t.phases.find (gkey (pktJob p) (pktPhase p)) = some { ngraph := pktArg p, count := { out := pktArg p } } :=
  receive_acts ht hd hr (recorded_of_dies (recording_recorded s p) rfl) fun t h => by
    rw [h.phases]
    exact NMap.find_put_self _ _ _
/-- A GRAPHDEF defines its graph, with its count of launches out (R77, R89). -/
theorem execGraphdef_defines (ht : pktType p = 4) (hd : 12 ≤ pktAt p ∨ s.reached (pktAt p) = true) (hr : s.refusal p = 0) :
    ∃ t, execGraphdef p s = .next t ∧ t.recorded p ∧ t.graphs.find (gkey (pktJob p) (pktGraph p)) =
      some { phase := pktPhase p, nlaunch := pktArg p, count := { out := pktArg p } } :=
  receive_acts ht hd hr (recorded_of_dies (recording_recorded s p) rfl) fun t h => by
    rw [h.graphs]
    exact NMap.find_put_self _ _ _

/-- A LAUNCH joins its die's queue as waiting, as the packet describes it (R44, R77, R80). -/
theorem execLaunch_waits (ht : pktType p = 5) (hd : 12 ≤ pktAt p ∨ s.reached (pktAt p) = true) (hr : s.refusal p = 0) :
    ∃ t, execLaunch p s = .next t ∧ t.recorded p ∧ t.nextLaunch = s.nextLaunch + 1 ∧ (t.launches.find s.nextLaunch).isSome = true ∧
      (t.launch s.nextLaunch).status = .waiting ∧ (t.launch s.nextLaunch).id = pktId p ∧ (t.launch s.nextLaunch).job = pktJob p ∧
      (t.launch s.nextLaunch).addr = pktAddr p ∧ (t.launch s.nextLaunch).die = pktAt p := by
  obtain ⟨t, e, h⟩ := receive_accepts _ ht hd hr
  refine ⟨t, e, ?_⟩
  extract_lets d job lid l _ s1 s2 at h
  have h2 : s2.launch lid = l ∧ s2.dies = (s.recording p).dies ∧ s2.nextLaunch = s.nextLaunch + 1 := by
    have h1 : s1.launch lid = l := launch_setLaunch (s.recording p) lid l
    unfold s2
    split
    · exact ⟨h1, rfl, rfl⟩
    · exact ⟨h1, rfl, rfl⟩
  obtain ⟨hl, hdies, hnext⟩ := h2
  obtain ⟨x, hx, k⟩ := provisional_eq s2 lid
  rw [hx] at h
  rw [hl] at k
  have hlt : t.launches.find s.nextLaunch = some x := h.launches ▸ NMap.find_put_self _ _ _
  have hxt : t.launch s.nextLaunch = x := by rw [State.launch, NMap.getD, hlt]; rfl
  rw [hxt, hlt]
  exact ⟨recorded_of_sentOn (recorded_of_dies (t := s2.setLaunch lid x) (recording_recorded s p) hdies) h, h.nextLaunch.trans hnext, rfl,
    k.status, k.id, k.job, k.addr, k.die⟩

/-- A CANCEL cancels its level, and whatever that leaves so is cancelled (R77, R91). -/
theorem execCancel_cancels {P : State → Prop} {lv id : Nat} (ht : pktType p = 6)
    (hd : 12 ≤ pktAt p ∨ s.reached (pktAt p) = true) (hr : s.refusal p = 0)
    (hi : id = match lv with | 0 => pktId p | 1 => pktGraph p | _ => pktPhase p) (hl : pktLevel p = lv)
    (hP : ∀ t, ((s.recording p).cancelLevel (pktJob p) lv id ((s.recording p).dcc 12)).sentOn t → P t) :
    ∃ t, execCancel p s = .next t ∧ t.recorded p ∧ P t := by
  subst hl hi
  exact receive_acts ht hd hr (recorded_of_dies (recording_recorded s p) (cancelLevel_countsOn _ _ _ _ _).dies) hP

/-- A SLICE that does not start at once joins the schedule (R83 to R85). -/
theorem execSlice_schedules (ht : pktType p = 7) (hd : 12 ≤ pktAt p ∨ s.reached (pktAt p) = true) (hr : s.refusal p = 0)
    (hs : (s.die (pktAt p)).slices ≠ [] ∨ (s.die (pktAt p)).dcc < pktArg p) :
    ∃ t, execSlice p s = .next t ∧ t.recorded p ∧ (t.die (pktAt p)).maxSlice = some (pktArg2 p) ∧
      (t.die (pktAt p)).current = (s.die (pktAt p)).current ∧ (t.die (pktAt p)).slices = (s.die (pktAt p)).slices ++
        [⟨pktArg2 p, pktArg p, (List.range (p.body.length / 8)).map fun i => (leAt p.body (8 * i) 4, leAt p.body (8 * i + 4) 2)⟩] := by
  obtain ⟨t, e, h⟩ := receive_accepts _ ht hd hr
  refine ⟨t, e, ?_⟩
  extract_lets d x pairs late s1 at h
  have hx : x = { s.die d with seq := (s.die d).seq.put (pktSrc p) (pktSeq p) } := die_setDie s d _
  have later : ¬ (x.slices.isEmpty = true ∧ pktArg p ≤ x.dcc) := by
    rw [hx]
    rintro ⟨he, hle⟩
    rcases hs with hs | hs
    · exact hs (List.isEmpty_iff.1 he)
    · exact absurd hle (Nat.not_le.2 hs)
  rw [if_neg later] at h
  have h1 : s1.die d = { x with
      slices := x.slices ++ [⟨pktArg2 p, pktArg p, pairs⟩], maxSlice := some (pktArg2 p), late := x.late + (if late then 1 else 0) } :=
    die_setDie (s.recording p) d _
  refine ⟨recorded_of_sentOn ?_ h, ?_, ?_, ?_⟩
  · rw [State.recorded, h1, hx]
    exact NMap.find_put_self _ _ _
  · rw [h.maxSlice, h1]
  · rw [h.current, h1, hx]
  · rw [h.slices, h1, hx]

/-- A QUERY is answered by a report of its die, to the port it came from (R77, R86; log 85). -/
theorem execQuery_reports (ht : pktType p = 8) (hd : 12 ≤ pktAt p ∨ s.reached (pktAt p) = true) (hr : s.refusal p = 0) :
    ∃ t, execQuery p s = .next t ∧ t.recorded p ∧
      ∃ r ∈ t.packets.drop s.packets.length, r.body = s.reportBody (pktAt p) ∧ r.port = p.port ∧ pktType r = 0x81 := by
  obtain ⟨r, hp, hb, hport, hty⟩ := send_packet (s.recording p) (pktAt p) p.port 0x81 [] ((s.recording p).reportBody (pktAt p)) (by decide)
  refine receive_acts (f := fun t => t.sendReport (pktAt p) p.port) ht hd hr ?_ fun t h => ⟨r, ?_, ?_, hport, hty⟩
  · exact recorded_of_sentOn (recording_recorded s p) (send_sentOn _ _ _ _ _ _)
  · obtain ⟨more, hm⟩ := h.packets
    have sent : ((s.recording p).sendReport (pktAt p) p.port).packets = s.packets ++ [r] := hp
    rw [← hm, sent]
    simp
  · rw [hb, recording_reportBody]

end

/-- Settles O40: a packet refused is answered with its code alone; one accepted is recorded, and its type's action gives its effect. -/
theorem packets : Obligations.Packets := by
  unfold Obligations.Packets
  intro p s h l lid g f d job lv x num
  refine ⟨?refused, ?holds, fun hr hd => ⟨execJobopen_opens (hd := hd) (hr := hr), execJobclose_closes (hd := hd) (hr := hr),
    execPhasedef_defines (hd := hd) (hr := hr), execGraphdef_defines (hd := hd) (hr := hr), execLaunch_waits (hd := hd) (hr := hr), ?cancel,
    execSlice_schedules (hd := hd) (hr := hr), execQuery_reports (hd := hd) (hr := hr)⟩⟩
  case refused =>
    intro w hw ht s0
    obtain ⟨act, e⟩ := exec_packet p s w hw
    have reached : s0.reached d = s.reached d := by
      unfold s0
      split
      · exact forwardOpen_reached s p d
      · rfl
    exact ⟨fun hd hr => ⟨_, e.trans (receive_refused act ht (reached ▸ hd) hr), rfl⟩,
      fun hd hr => ⟨_, e.trans (receive_unreached act ht hd (reached.trans hr)), rfl⟩⟩
  case holds =>
    intro ht hf hd hr
    obtain ⟨k, hk, hsrc⟩ := forwardOpen_holds ht hf hd hr
    obtain ⟨t, e, ht⟩ : ∃ t, execJobopen p s = .next t ∧ t.hjobs = (s.forwardOpen p).hjobs := receive_hjobs _ 1 p fun _ => rfl
    exact ⟨t, e, k, ht ▸ hk, hsrc⟩
  case cancel =>
    intro ht
    refine ⟨fun hl hf hj hi hw ho hc => ?launch, fun hl hf ho => ?graph, fun hl hf ho => ?phase, fun hl hf ho => ?job⟩
    case launch =>
      refine execCancel_cancels ht hd hr rfl hl fun t h => ?_
      have e : (s.recording p).launch lid = l := by
        rw [State.launch, NMap.getD, show (s.recording p).launches.find lid = some l from hf]
        rfl
      rw [launch_of_launches h.launches]
      exact foldl_cancelLaunch_waiting (mem_launchesWhere hf (by simp [hj, hi, job])) (e ▸ hw) (e ▸ ho) (e ▸ hc)
    case graph =>
      refine execCancel_cancels ht hd hr rfl hl fun t h => ?_
      rw [h.graphs]
      exact (cancelGraph_spec (s.recording p) job _ _).2 g hf ho
    case phase =>
      refine execCancel_cancels ht hd hr rfl hl fun t h => ?_
      rw [h.phases]
      exact (cancelPhase_spec (s.recording p) job _ _).2 f hf ho
    case job =>
      refine execCancel_cancels ht hd hr rfl hl fun t ht => ?_
      rw [ht.hjobs]
      exact (cancelJob_spec (s.recording p) job _).2 h hf ho

end Sys2Proof.Machine
end

section
/-! PROOFS. What the die work scheduler does to units, queues and schedules (O42). -/
namespace Sys2Proof.Machine
open Sys2Proof

/-! Where units sit -/

/-- `t` has the dies, cores and zones of `s`, and every unit in its place. -/
structure State.sameSite (s t : State) : Prop where
  dies : t.dies = s.dies
  cores : t.cores = s.cores
  zones : t.zones = s.zones
  place : ∀ k, (t.unit k).place = (s.unit k).place

theorem sameSite_of_units {s t : State} (hd : t.dies = s.dies) (hc : t.cores = s.cores) (hz : t.zones = s.zones)
    (hu : t.units = s.units) : s.sameSite t := ⟨hd, hc, hz, fun k => by rw [State.unit, State.unit, hu]⟩
theorem sameSite_refl (s : State) : s.sameSite s := ⟨rfl, rfl, rfl, fun _ => rfl⟩
theorem sameSite_trans {s t q : State} (h : s.sameSite t) (k : t.sameSite q) : s.sameSite q :=
  ⟨k.dies.trans h.dies, k.cores.trans h.cores, k.zones.trans h.zones, fun u => (k.place u).trans (h.place u)⟩
theorem sameSite_foldl {α : Type} {f : State → α → State} (hf : ∀ (t : State) a, t.sameSite (f t a)) (l : List α) (s : State) :
    s.sameSite (l.foldl f s) :=
  List.foldlRecOn l f (motive := s.sameSite) (sameSite_refl s) fun t ht a _ => sameSite_trans ht (hf t a)
theorem setUnit_sameSite (s : State) (u : Nat) {t : TeamUnit} (h : t.place = (s.unit u).place) : s.sameSite (s.setUnit u t) where
  dies := rfl
  cores := rfl
  zones := rfl
  place k := by
    by_cases hk : k = u
    · rw [hk, unit_setUnit, h]
    · rw [unit_setUnit_ne s t hk]

section
variable {s t : State} (h : s.sameSite t)
include h

theorem sameSite_die (d : Nat) : t.die d = s.die d := by rw [State.die, State.die, h.dies]
theorem sameSite_core (d p : Nat) : t.core d p = s.core d p := by rw [State.core, State.core, h.cores]
theorem sameSite_dcc (d : Nat) : t.dcc d = s.dcc d := by rw [State.dcc, State.dcc, sameSite_die h]
theorem sameSite_ccyc (d p : Nat) : t.ccyc d p = s.ccyc d p := by rw [State.ccyc, State.ccyc, sameSite_core h, sameSite_dcc h]
theorem sameSite_zoneOf (d p : Nat) : t.zoneOf d p = s.zoneOf d p := by rw [State.zoneOf, State.zoneOf, h.zones]
theorem sameSite_home (k : Nat) : t.home k = s.home k := by
  rw [State.home, State.home, h.place, State.phys, State.phys, sameSite_die h]

end

/-! Swapped-out units that join the starts (R117) -/

theorem makeReady_sameSite (s : State) (u : Nat) : s.sameSite (s.makeReady u) := by
  unfold State.makeReady
  split
  · exact sameSite_refl s
  · refine sameSite_trans (t := { s with order := s.order + 1 }) (sameSite_of_units rfl rfl rfl rfl) (setUnit_sameSite _ u ?_)
    rfl
theorem wakeSwapped_sameSite (s : State) (u : Nat) : s.sameSite (s.wakeSwapped u) := by
  unfold State.wakeSwapped
  split
  · split
    · exact makeReady_sameSite s u
    · exact sameSite_refl s
  · exact sameSite_refl s
theorem wakeAll_sameSite (s : State) (d : Nat) : s.sameSite (s.wakeAll d) :=
  sameSite_foldl (fun t x => wakeSwapped_sameSite t (Prod.snd x)) _ s

/-! A unit's frame and images read back (R453) -/

theorem loadFrame_sameSite (s : State) (u : Nat) : s.sameSite (s.loadFrame u) := by
  unfold State.loadFrame
  split
  · exact sameSite_refl s
  · extract_lets block s1 s2 s3
    have h1 : s.sameSite s1 :=
      sameSite_trans (setUnit_sameSite s u (t := (s.unit u).load _) rfl) (sameSite_of_units rfl rfl rfl rfl)
    have h2 : s1.sameSite s2 := by
      refine sameSite_foldl (fun t j => ?_) _ s1
      exact sameSite_of_units rfl rfl rfl rfl
    have h3 : s2.sameSite s3 := by
      refine sameSite_foldl (fun t e => sameSite_foldl (fun q j => ?_) _ t) _ s2
      split
      · exact sameSite_of_units rfl rfl rfl rfl
      · exact sameSite_refl q
    refine sameSite_trans (sameSite_trans (sameSite_trans h1 h2) h3) (sameSite_foldl (fun t m => ?_) _ s3)
    exact sameSite_of_units rfl rfl rfl rfl
theorem loadImages_sameSite (s : State) (u : Nat) : s.sameSite (s.loadImages u) := by
  unfold State.loadImages
  split
  · exact sameSite_refl s
  · split
    · refine sameSite_trans (t := s.loadSp u) ?_ (sameSite_foldl (fun t z => ?_) _ _)
      · unfold State.loadSp
        dsimp only
        split <;> exact sameSite_of_units rfl rfl rfl rfl
      · unfold State.loadSlot
        dsimp only
        split <;> exact sameSite_of_units rfl rfl rfl rfl
    · exact sameSite_refl s
/-- The state in which a unit starts: where it was away, its frame and images have been read. -/
def State.loaded (s : State) (u : Nat) : State := if (s.unit u).away then (s.loadFrame u).loadImages u else s
theorem loaded_sameSite (s : State) (u : Nat) : s.sameSite (s.loaded u) := by
  unfold State.loaded
  split
  · exact sameSite_trans (loadFrame_sameSite s u) (loadImages_sameSite _ u)
  · exact sameSite_refl s

/-! A unit starts (R100, R422, R453) -/

/-- Noting a switch of clocks touches the cores alone (R428). -/
theorem noteClocks_cores (s : State) (d p : Nat) : ∃ cores, s.noteClocks d p = { s with cores := cores } := by
  refine List.foldlRecOn (List.range 4) _ (motive := fun t : State => ∃ cores, t = { s with cores := cores }) ⟨_, rfl⟩ fun t ht dom _ => ?_
  obtain ⟨cores, rfl⟩ := ht
  dsimp only
  split
  · exact ⟨_, rfl⟩
  · exact ⟨cores, rfl⟩
/-- It changes no count of a core's cycles (R122). -/
theorem noteClocks_free (s : State) (d p d' p' : Nat) : (s.noteClocks d p).free d' p' = s.free d' p' := by
  refine List.foldlRecOn (List.range 4) _ (motive := fun t : State => t.free d' p' = s.free d' p') rfl fun t ht dom _ => ?_
  dsimp only
  split
  · refine Eq.trans ?_ ht
    unfold State.free State.heldCyc State.mcyc State.dcc
    by_cases hp : pkey d' p' = pkey d p
    · have e : ∀ x : State, x.core d' p' = x.core d p := fun x => by rw [State.core, State.core, hp]
      simp only [e, core_setCore]
      rfl
    · simp only [core_setCore_ne _ _ hp]
      rfl
  · exact ht
theorem restart_of_none {v : Voice} (h : v.won = none) (now : Nat) : (v.restart now).st = v.st := by
  unfold Voice.restart
  rw [h]
  dsimp only
  split <;> rfl
theorem restart_of_some {v : Voice} {y : BitVec 6 × X} (h : v.won = some y) (now : Nat) :
    (v.restart now).won = none ∧ (v.restart now).st = (v.st.setX y.1 y.2).advance 16 := by
  unfold Voice.restart
  rw [h]
  exact ⟨rfl, rfl⟩

/-- What a started unit is: resident with TCLK as it stood, its voices as they stood, those that have what they waited for past their
instruction (R100, R117, R394). -/
structure State.startedFrom (w t : State) (u : Nat) : Prop where
  status : (t.unit u).status = .resident
  ready : (t.unit u).ready = none
  zone : (t.zoneOf (w.unit u).place.die (w.home u)).started = some (w.dcc (w.unit u).place.die)
  tclk : t.tclk u = (w.unit u).tclk
  stays : ∀ j, (w.voice u j).won = none → (t.voice u j).st = (w.voice u j).st
  won : ∀ j y, j < 4 → (w.voice u j).won = some y →
    (t.voice u j).won = none ∧ (t.voice u j).st = Stream.advance 16 ((w.voice u j).st.setX y.1 y.2)

/-- The voices of a unit that starts. -/
def restartOf (u now : Nat) (v : Nat × Voice) : Nat × Voice := if v.1 / 4 = u then (v.1, v.2.restart now) else v
theorem restartOf_key (u now : Nat) (v : Nat × Voice) : (restartOf u now v).1 = v.1 := by
  unfold restartOf
  split <;> rfl
theorem restartOf_stays {u now : Nat} {v : Nat × Voice} (h : v.2.won = none) : (restartOf u now v).2.st = v.2.st := by
  unfold restartOf
  split
  · exact restart_of_none h now
  · rfl
theorem voice_restartOf {s t : State} {u now : Nat} (h : t.voices = s.voices.map (restartOf u now)) (j : Nat) :
    ((s.voice u j).won = none → (t.voice u j).st = (s.voice u j).st) ∧
    ∀ y, j < 4 → (s.voice u j).won = some y →
      (t.voice u j).won = none ∧ (t.voice u j).st = Stream.advance 16 ((s.voice u j).st.setX y.1 y.2) := by
  unfold State.voice NMap.getD
  rw [h, NMap.find_map_key _ _ (restartOf_key u now)]
  cases s.voices.find (vkey u j) with
  | none => exact ⟨fun _ => rfl, fun _ _ hw => nomatch hw⟩
  | some v =>
    refine ⟨fun hw => restartOf_stays hw, fun y hj hw => ?_⟩
    have hu : vkey u j / 4 = u := by
      unfold vkey
      omega
    simpa [restartOf, hu] using restart_of_some hw now

/-- TCLK of a unit that became resident in this matrix cycle is what it was (R122). -/
theorem tclk_resident {s : State} {u : Nat} {t : TeamUnit} (ht : s.unit u = t) (hr : t.status = .resident)
    (hb : t.tbase = s.free t.place.die (s.phys t.place.die t.place.core)) : s.tclk u = t.tclk := by
  unfold State.tclk State.home
  rw [ht, if_pos hr, ← hb, Nat.sub_self, Nat.add_zero]
theorem noteClocks_startedFrom {w t : State} {u : Nat} (h : w.startedFrom t u) (d p : Nat) : w.startedFrom (t.noteClocks d p) u := by
  obtain ⟨cores, hc⟩ := noteClocks_cores t d p
  have free := noteClocks_free t d p
  rw [hc] at free ⊢
  refine ⟨h.status, h.ready, h.zone, Eq.trans ?_ h.tclk, h.stays, h.won⟩
  unfold State.tclk
  rw [free]
  rfl
theorem startUnit_starts (s : State) (u : Nat) : (s.loaded u).startedFrom (s.startUnit u) u := by
  unfold State.startUnit
  extract_lets w t d p s1 now _ s2
  refine noteClocks_startedFrom ?_ d p
  have hv : s2.voices = w.voices.map (restartOf u now) := rfl
  refine ⟨congrArg TeamUnit.status (unit_setUnit _ u _), congrArg TeamUnit.ready (unit_setUnit _ u _), ?_, ?_,
    fun j => (voice_restartOf hv j).1, fun j => (voice_restartOf hv j).2⟩
  · exact congrArg Zone.started (NMap.getD_put_self _ _ _ _)
  · refine Eq.trans (tclk_resident (unit_setUnit _ u _) ?_ ?_) rfl
    · rfl
    · rfl

/-! A unit's turn to start (R100; logs 86 and 94) -/

/-- `w` is `s` once the swapped-out units of its die have joined the starts, and unit `u`, on core `p` of die `d`, has the next start of
its zone there (R100, R117). -/
structure State.turnOf (s w : State) (u d p : Nat) : Prop where
  woken : s.wakeAll (s.unit u).place.die = w
  die : (w.unit u).place.die = d
  home : w.home u = p
  found : (w.units.find u).isSome = true
  startable : w.startable u = true
  first : w.firstOfZone u = true

theorem turnOf_of_ready {s : State} {u : Nat} (hu : ((s.wakeAll (s.unit u).place.die).units.find u).isSome = true)
    (hs : (s.wakeAll (s.unit u).place.die).startable u = true)
    (hf : ∀ c ∈ (s.wakeAll (s.unit u).place.die).units, c.2.place.die = (s.unit u).place.die → s.home c.1 / 12 = s.home u / 12 →
      (s.wakeAll (s.unit u).place.die).startable c.1 = true →
        ((s.wakeAll (s.unit u).place.die).unit u).ready.getD 0 ≤ c.2.ready.getD 0) :
    s.turnOf (s.wakeAll (s.unit u).place.die) u (s.unit u).place.die (s.home u) := by
  have h := wakeAll_sameSite s (s.unit u).place.die
  refine ⟨rfl, congrArg Place.die (h.place u), sameSite_home h u, hu, hs, List.all_eq_true.2 fun c hc => ?_⟩
  rw [h.place u, sameSite_home h, sameSite_home h]
  rw [Bool.not_eq_true', ← Bool.not_eq_true]
  simp only [Bool.and_eq_true, decide_eq_true_eq]
  rintro ⟨⟨⟨hd, hz⟩, hc'⟩, hlt⟩
  exact absurd (hf c hc hd hz hc') (Nat.not_le.2 hlt)

section
variable {s w : State} {u d p : Nat} (h : s.turnOf w u d p)
include h

theorem turnOf_goes : ¬ ((w.units.find u).isNone = true ∨ w.startable u = false ∨ w.firstOfZone u = false) := by
  obtain ⟨-, -, -, found, startable, first⟩ := h
  rw [startable, first]
  cases e : w.units.find u <;> simp_all
/-- A grant given up is asked for again (R421). -/
theorem execUnitStart_asks (hr : (w.unit u).regrant ≠ 0) (ha : ∀ a ∈ (w.zoneOf d p).asks, a.1 ≠ u) :
    ∃ t, execUnitStart u s = .next t ∧ (t.zoneOf d p).asks = (w.zoneOf d p).asks ++ [(u, 4, (w.unit u).regrant)] ∧ t.units = w.units := by
  have new : ¬ ((w.zoneOf d p).asks.any fun a => decide (a.1 = u)) = true := fun e => by
    obtain ⟨a, ma, e⟩ := List.any_eq_true.1 e
    exact ha a ma (of_decide_eq_true e)
  unfold execUnitStart
  dsimp only
  rw [h.woken, h.die, h.home, if_neg (turnOf_goes h), if_pos hr, if_neg new]
  exact ⟨_, rfl, congrArg Zone.asks (NMap.getD_put_self _ _ _ _), rfl⟩
/-- Divisors that are not in effect are asked for (R422). -/
theorem execUnitStart_asserts (hr : (w.unit u).regrant = 0)
    (hd : w.divsMet u = false ∨ ((w.unit u).asserted = false ∧ (w.unit u).clkd ≠ [])) :
    ∃ t, execUnitStart u s = .next t ∧ t.unit u = { w.unit u with asserted := true } := by
  unfold execUnitStart
  dsimp only
  rw [h.woken, if_neg (turnOf_goes h), if_neg (not_not.2 hr), if_pos hd]
  refine ⟨_, rfl, ?_⟩
  obtain ⟨cores, e⟩ := noteClocks_cores (w.setUnit u { w.unit u with asserted := true }) (w.unit u).place.die (w.home u)
  rw [e]
  exact unit_setUnit w u _
/-- Its grant there, its divisors in effect and the gap past, the unit starts (R100, R427). -/
theorem execUnitStart_starts (hr : (w.unit u).regrant = 0) (hm : w.divsMet u = true)
    (hc : (w.unit u).asserted = true ∨ (w.unit u).clkd = []) (hh : w.holding d p = false)
    (hg : ∀ c, (w.zoneOf d p).started = some c →
      (w.core d p).ctl.now c + (if w.zoneBreath d (p / 12) then 256 else 64) ≤ w.ccyc d p) :
    execUnitStart u s = .next (w.startUnit u) := by
  have due : ¬ ((match (w.zoneOf d p).started with
      | some c => decide (w.ccyc d p < (w.core d p).ctl.now c + (if w.zoneBreath d (p / 12) then 256 else 64))
      | none => false) = true ∨ w.holding d p = true) := by
    rw [hh]
    cases e : (w.zoneOf d p).started with
    | none => simp
    | some c => simpa using hg c e
  unfold execUnitStart
  dsimp only
  rw [h.woken, h.die, h.home, if_neg (turnOf_goes h), if_neg (not_not.2 hr), if_neg (by rw [hm]; rcases hc with hc | hc <;> simp [hc])]
  exact congrArg Host.Outcome.next (if_neg due)

end

/-! Queues served (R29, R408): who waits to pop, and who is withdrawn -/

/-- Serving goes on from `s` to `t`: no unit's withdrawal changes, and none comes to wait in a pop. -/
structure State.servedTo (s t : State) : Prop where
  withdrawn : ∀ k, (t.unit k).withdrawn = (s.unit k).withdrawn
  poppers : ∀ l q, (t.queue l q).poppers ⊆ (s.queue l q).poppers

theorem servedTo_refl (s : State) : s.servedTo s := ⟨fun _ => rfl, fun _ _ => List.Subset.refl _⟩
theorem servedTo_trans {s t r : State} (h : s.servedTo t) (k : t.servedTo r) : s.servedTo r :=
  ⟨fun n => (k.withdrawn n).trans (h.withdrawn n), fun l q => List.Subset.trans (k.poppers l q) (h.poppers l q)⟩
theorem servedTo_foldl {α : Type} {f : State → α → State} (hf : ∀ (t : State) a, t.servedTo (f t a)) (l : List α) (s : State) :
    s.servedTo (l.foldl f s) :=
  List.foldlRecOn l f (motive := s.servedTo) (servedTo_refl s) fun t ht a _ => servedTo_trans ht (hf t a)
theorem servedTo_of_eq {s t : State} (hu : t.units = s.units) (hl : t.launches = s.launches) : s.servedTo t where
  withdrawn k := by rw [State.unit, State.unit, hu]
  poppers l q := by rw [State.queue, State.queue, launch_of_launches hl]; exact List.Subset.refl _
theorem setUnit_servedTo (s : State) (u : Nat) {t : TeamUnit} (h : t.withdrawn = (s.unit u).withdrawn) : s.servedTo (s.setUnit u t) where
  withdrawn k := by
    by_cases hk : k = u
    · rw [hk, unit_setUnit, h]
    · rw [unit_setUnit_ne s t hk]
  poppers _ _ := List.Subset.refl _
/-- A queue of the launch may be written; one that is none of its stays empty. -/
theorem queue_setQueue (s : State) (l q : Nat) (x : Queue) (l' q' : Nat) :
    (s.setQueue l q x).queue l' q' = if l' = l ∧ q' = q ∧ q < (s.launch l).queues.length then x else s.queue l' q' := by
  unfold State.setQueue State.queue
  by_cases hl : l' = l
  · subst hl
    rw [launch_setLaunch, List.getElem?_set]
    by_cases hq : q = q'
    · subst hq
      by_cases hlt : q < (s.launch l').queues.length
      · simp [hlt]
      · simp [hlt]
    · simp [hq, Ne.symm hq]
  · rw [launch_setLaunch_ne s _ hl]
    simp [hl]
theorem setQueue_servedTo (s : State) (l q : Nat) {x : Queue} (h : x.poppers ⊆ (s.queue l q).poppers) : s.servedTo (s.setQueue l q x) where
  withdrawn _ := rfl
  poppers l' q' := by
    rw [queue_setQueue]
    split
    next e =>
      obtain ⟨rfl, rfl, -⟩ := e
      exact h
    · exact List.Subset.refl _
theorem finishWait_servedTo (s : State) (u j : Nat) (d : BitVec 6) (v : X) : s.servedTo (s.finishWait u j d v) := servedTo_of_eq rfl rfl
theorem touch_servedTo (s : State) (u agent : Nat) (wr : Bool) (a n : Nat) : s.servedTo (s.touch u agent wr a n) := by
  unfold State.touch
  split
  · exact servedTo_refl s
  · refine setUnit_servedTo s u ?_
    rfl
theorem stsByte_servedTo (s : State) (u j a : Nat) (b : Byte) : s.servedTo (s.stsByte u j a b) := by
  unfold State.stsByte
  extract_lets t k now live
  have put : ∀ (q : State) (old : List SpOld), q.units = s.units → q.launches = s.launches →
      s.servedTo (q.setUnit u { t with spOld := old }) := fun q old hu hl => by
    refine servedTo_trans (servedTo_of_eq hu hl) (setUnit_servedTo q u ?_)
    rw [State.unit, hu]
    rfl
  split
  · exact servedTo_refl s
  · split
    · split
      · exact servedTo_refl s
      · exact put _ _ rfl rfl
    · exact put _ _ rfl rfl
theorem stsBytes_servedTo (s : State) (u j a : Nat) (bs : List Byte) : s.servedTo (s.stsBytes u j a bs) := by
  induction bs generalizing s a with
  | nil => exact servedTo_refl s
  | cons b bs ih => exact servedTo_trans (stsByte_servedTo s u j a b) (ih _ _)
theorem keepLate_servedTo (s : State) (u : Nat) (l : List (Nat × Byte)) : s.servedTo (s.keepLate u l) := by
  unfold State.keepLate
  split
  · refine setUnit_servedTo s u ?_
    rfl
  · exact servedTo_refl s
theorem serve_servedTo (s : State) (l q n : Nat) : s.servedTo (s.serve l q n) := by
  induction n generalizing s with
  | zero => exact servedTo_refl s
  | succ n ih =>
    have waits : ∀ (x : Queue) (u j : Nat) (d : BitVec 6) (v : X), x.poppers ⊆ (s.queue l q).poppers →
        s.servedTo (((s.setQueue l q x).finishWait u j d v).serve l q n) := fun x u j d v h =>
      servedTo_trans (servedTo_trans (setQueue_servedTo s l q h) (finishWait_servedTo _ u j d v)) (ih _)
    rw [State.serve]
    dsimp only
    split
    next hp _ =>
      refine servedTo_trans ?_ (ih _)
      refine servedTo_trans ?_ (finishWait_servedTo _ _ _ _ _)
      refine servedTo_trans ?_ (keepLate_servedTo _ _ _)
      refine servedTo_trans ?_ (stsBytes_servedTo _ _ _ _ _)
      exact servedTo_trans (setQueue_servedTo s l q (hp ▸ List.subset_cons_self _ _)) (touch_servedTo _ _ _ _ _ _)
    · split
      · exact waits _ _ _ _ _ (List.Subset.refl _)
      · exact servedTo_refl s
    next hp _ _ => exact waits _ _ _ _ _ (hp ▸ List.Subset.refl _)
    next hp _ _ =>
      split
      · exact servedTo_refl s
      · exact waits _ _ _ _ _ (hp ▸ List.subset_cons_self _ _)
    · exact servedTo_refl s
theorem closeQueue_servedTo (s : State) (l q : Nat) : s.servedTo (s.closeQueue l q) := by
  unfold State.closeQueue
  split
  · exact servedTo_refl s
  · exact setQueue_servedTo s l q (List.Subset.refl _)
theorem serveAll_servedTo (s : State) (l : Nat) : s.servedTo (s.serveAll l) :=
  servedTo_foldl (fun t q => servedTo_trans (closeQueue_servedTo t l q) (serve_servedTo _ l q _)) _ s

/-! Withdrawals (R103) -/

/-- Completing waits touches voices alone. -/
theorem foldl_finishWait_frame (s : State) (ws : List QWait) :
    (ws.foldl (fun t w => t.finishWait w.unit w.voice w.d 2) s).units = s.units ∧
      (ws.foldl (fun t w => t.finishWait w.unit w.voice w.d 2) s).launches = s.launches :=
  List.foldlRecOn ws _ (motive := fun t : State => t.units = s.units ∧ t.launches = s.launches) ⟨rfl, rfl⟩ fun _ ht _ _ => ht
/-- A unit that is withdrawn is marked so. -/
theorem withdraw_unit (s : State) (lid u q : Nat) : ((s.withdraw lid u q).unit u).withdrawn = true := by
  unfold State.withdraw
  dsimp only
  rw [State.unit, (foldl_finishWait_frame _ _).1]
  exact congrArg TeamUnit.withdrawn (unit_setUnit s u _)
/-- A queue with waiting pops is one of the launch's. -/
theorem lt_of_mem_poppers {s : State} {l q : Nat} {k : QWait} (h : k ∈ (s.queue l q).poppers) : q < (s.launch l).queues.length := by
  refine Nat.lt_of_not_le fun hle => ?_
  rw [State.queue, List.getElem?_eq_none hle] at h
  exact List.not_mem_nil h
/-- None of its pops waits any more. -/
theorem withdraw_poppers (s : State) (lid u q : Nat) : ∀ k ∈ ((s.withdraw lid u q).queue lid q).poppers, k.unit ≠ u := by
  unfold State.withdraw
  dsimp only
  intro k hk
  rw [State.queue, launch_of_launches (foldl_finishWait_frame _ _).2, ← State.queue, queue_setQueue] at hk
  split at hk
  · exact of_decide_eq_true (List.mem_filter.1 hk).2
  next h => exact absurd ⟨rfl, rfl, lt_of_mem_poppers (s := s) hk⟩ h
/-- A waiting instruction of a team completes with its value, once its frame has been read where the team is away (R394). -/
theorem finishWait_voice (s : State) (u j : Nat) (d : BitVec 6) (v : X) :
    ((s.unit u).away = false → ((s.finishWait u j d v).voice u j).st.getX d = if d = 0 then 0 else v) ∧
      ((s.unit u).away = true → ((s.finishWait u j d v).voice u j).won = some (d, v)) := by
  unfold State.finishWait
  dsimp only
  rw [voice_setVoice]
  refine ⟨fun ha => ?_, fun ha => ?_⟩
  · rw [ha]
    exact (getX_advance 16 _ d).trans (getX_setX _ d v)
  · rw [ha]
    rfl
/-- The unit's one waiting pop completes with 2, once its frame has been read where it is away (R103, R408). -/
theorem withdraw_voice {s : State} {lid u q : Nat} {k : QWait}
    (h : ((s.queue lid q).poppers.filter fun x => decide (x.unit = u)) = [k]) :
    ((s.unit u).away = false → ((s.withdraw lid u q).voice u k.voice).st.getX k.d = if k.d = 0 then 0 else 2) ∧
      ((s.unit u).away = true → ((s.withdraw lid u q).voice u k.voice).won = some (k.d, 2)) := by
  have hk : k.unit = u := by
    have hm : k ∈ (s.queue lid q).poppers.filter fun x => decide (x.unit = u) := h ▸ List.mem_singleton_self k
    exact of_decide_eq_true (List.mem_filter.1 hm).2
  have e : s.withdraw lid u q = ((((s.setUnit u { s.unit u with withdrawn := true }).setQueue lid q { s.queue lid q with
      poppers := (s.queue lid q).poppers.filter fun w => decide (w.unit ≠ u) }).finishWait u k.voice k.d 2)) := by
    unfold State.withdraw
    dsimp only
    rw [h, List.foldl_cons, List.foldl_nil, hk]
  rw [e]
  have away := congrArg TeamUnit.away (unit_setUnit s u { s.unit u with withdrawn := true })
  exact (finishWait_voice _ u k.voice k.d 2).imp (fun f ha => f (away.trans ha)) fun f ha => f (away.trans ha)

/-! Samples (R101 to R103) -/

section
variable {s : State} {lid stg : Nat} {g : Stage}

/-- A sample is taken once its time has come, while the launch runs (R101). -/
structure State.sampleDue (s : State) (lid stg : Nat) (g : Stage) : Prop where
  stage : (s.launch lid).stages[stg]? = some g
  runs : (s.launch lid).runs = true
  flows : g.inq ≠ 0xFF
  due : (s.launch lid).began + 1024 * (g.samples + 1) ≤ s.dcc (s.launch lid).die

theorem sampleDue_goes (h : s.sampleDue lid stg g) : ¬ ((s.launch lid).runs = false ∨ g.inq = 0xFF ∨
    s.dcc (s.launch lid).die < (s.launch lid).began + 1024 * (g.samples + 1)) := by
  simp [h.runs, h.flows, h.due]
/-- A neutral sample clears the stage's counts (R101). -/
theorem execDwsSample_neutral (h : s.sampleDue lid stg g) (hc : s.classify lid g = .neutral) : execDwsSample lid stg s =
    .next ((s.setStage lid stg { g with samples := g.samples + 1, hi := 0, lo := 0, pend := false }).serveAll lid) := by
  unfold execDwsSample
  simp only [h.stage]
  rw [if_neg (sampleDue_goes h), hc]

/-- The stage once a low sample is counted (R103). -/
def Stage.lowered (g : Stage) : Stage := { g with samples := g.samples + 1, hi := 0, lo := g.lo + 1, pend := false }

/-- A low sample that has dwelt withdraws the unit that has waited longest, where more than UMIN stay (R103). -/
theorem execDwsSample_withdraws (h : s.sampleDue lid stg g) (hc : s.classify lid g = .low) {v : Nat}
    (hv : (s.setStage lid stg g.lowered).idlest lid stg g.inq = some v) (hd : g.dwell ≤ g.lo + 1)
    (hm : g.umin < ((s.stageUnits lid stg).filter fun k => !k.2.withdrawn).length) : execDwsSample lid stg s =
    .next ((((s.setStage lid stg g.lowered).setStage lid stg { g.lowered with lo := 0 }).withdraw lid v g.inq).serveAll lid) := by
  unfold execDwsSample
  simp only [h.stage]
  rw [if_neg (sampleDue_goes h), hc]
  dsimp only
  split
  next v' hv' =>
    obtain rfl := Option.some.inj (hv.symm.trans hv')
    exact if_pos ⟨hd, hm⟩
  next hn => exact nomatch hv.symm.trans hn
/-- Any other low sample is only counted (R103). -/
theorem execDwsSample_low (h : s.sampleDue lid stg g) (hc : s.classify lid g = .low)
    (hn : (s.setStage lid stg g.lowered).idlest lid stg g.inq = none ∨ g.lo + 1 < g.dwell ∨
      ((s.stageUnits lid stg).filter fun k => !k.2.withdrawn).length ≤ g.umin) :
    execDwsSample lid stg s = .next ((s.setStage lid stg g.lowered).serveAll lid) := by
  unfold execDwsSample
  simp only [h.stage]
  rw [if_neg (sampleDue_goes h), hc]
  dsimp only
  split
  next v hv =>
    refine if_neg ?_
    rintro ⟨hd, hm⟩
    rcases hn with hn | hn | hn
    · exact nomatch hn.symm.trans hv
    · exact absurd hd (Nat.not_le.2 hn)
    · exact absurd hm (Nat.not_lt.2 hn)
  · rfl

/-! Units created for a high sample (R94, R102) -/

theorem writeSysList_units (s : State) (key : Nat) (l : List (Nat × Byte)) :
    (s.writeSysList key l).units = s.units ∧ (s.writeSysList key l).nextUnit = s.nextUnit := by
  induction l generalizing s with
  | nil => exact ⟨rfl, rfl⟩
  | cons c l ih =>
    have claimed : (s.claim key c.1).nextUnit = s.nextUnit := by
      unfold State.claim
      split <;> rfl
    obtain ⟨hu, hn⟩ := ih (s.writeSys key c.1 c.2)
    exact ⟨hu.trans (claim_units s key c.1), hn.trans claimed⟩
theorem foldl_setVoice_units (s : State) (u : Nat) (f : Nat → Voice) (js : List Nat) :
    (js.foldl (fun t j => t.setVoice u j (f j)) s).units = s.units ∧ (js.foldl (fun t j => t.setVoice u j (f j)) s).nextUnit = s.nextUnit :=
  List.foldlRecOn js _ (motive := fun t : State => t.units = s.units ∧ t.nextUnit = s.nextUnit) ⟨rfl, rfl⟩ fun _ ht _ _ => ht
/-- A unit of a stage with a number left and a candidate core can be created (R94, R95). -/
theorem createUnit_isSome (hg : (s.launch lid).stages[stg]? = some g) (hn : g.next ≤ 65535)
    (hc : (s.chooseCore (s.launch lid).die (s.launch lid).job g).isSome = true) (fails : Nat) :
    (s.createUnit lid stg fails).isSome = true := by
  obtain ⟨c, hc⟩ := Option.isSome_iff_exists.1 hc
  unfold State.createUnit
  simp only [hg, hc]
  rw [if_neg (Nat.not_lt.2 hn)]
  rfl
/-- The unit created is the next, placed with its stage's next number (R23). -/
theorem createUnit_places {t : State} {fails : Nat} (hg : (s.launch lid).stages[stg]? = some g) (h : s.createUnit lid stg fails = some t) :
    t.nextUnit = s.nextUnit + 1 ∧ (t.unit s.nextUnit).status = .placed ∧ (t.unit s.nextUnit).place.launch = lid ∧
      (t.unit s.nextUnit).place.stage = stg ∧ (t.unit s.nextUnit).place.inst = g.next := by
  unfold State.createUnit at h
  extract_lets l u at h
  split at h
  · simp at h
  next g' hg' =>
    obtain rfl := Option.some.inj (hg.symm.trans hg')
    split at h
    · simp at h
    split at h
    · simp at h
    next =>
      extract_lets v p x pc s1 s2 at h
      rw [← Option.some.inj h]
      obtain ⟨hu, hn⟩ := foldl_setVoice_units (s2.markFrame u 0) u _ (List.range v)
      obtain ⟨hu2, hn2⟩ := writeSysList_units s2 (s2.unitKey u) (s2.placeVa u (s2.saveArea u + 2) [BitVec.ofNat 8 0])
      have e : s2.unit u = x := unit_setUnit _ u x
      have eu : ∀ y : State, y.units = s2.units → y.unit u = x := fun y hy => by rw [State.unit, hy]; exact e
      rw [hn, show s.nextUnit = u from rfl, eu _ (hu.trans hu2)]
      exact ⟨hn2, rfl, rfl, rfl, rfl⟩

theorem setStage_stage (s : State) (g' : Stage) (hg : (s.launch lid).stages[stg]? = some g) :
    ((s.setStage lid stg g').launch lid).stages[stg]? = some g' := by
  rw [State.setStage, launch_setLaunch]
  exact (List.getElem?_set_self' ..).trans (by rw [hg]; rfl)
/-- What a stage that grows by a unit comes to (R89, R102). -/
structure State.grewTo (s t : State) (lid stg : Nat) (g : Stage) : Prop where
  nextUnit : t.nextUnit = s.nextUnit + 1
  status : (t.unit s.nextUnit).status = .placed
  launch : (t.unit s.nextUnit).place.launch = lid
  stage : (t.unit s.nextUnit).place.stage = stg
  inst : (t.unit s.nextUnit).place.inst = g.next
  out : (t.launch lid).count.out = (s.launch lid).count.out + 1

theorem grow_grewTo (hg : (s.launch lid).stages[stg]? = some g) (hr : (s.launch lid).runs = true) (hn : g.next ≤ 65535)
    (hc : (s.chooseCore (s.launch lid).die (s.launch lid).job g).isSome = true) : s.grewTo (s.grow lid stg) lid stg g := by
  obtain ⟨t, ht⟩ := Option.isSome_iff_exists.1 (createUnit_isSome hg hn hc 0)
  obtain ⟨hnext, hstatus, hlaunch, hstage, hinst⟩ := createUnit_places hg ht
  have grown : s.growUnit lid stg =
      some (t.setLaunch lid { t.launch lid with count := { (t.launch lid).count with out := (t.launch lid).count.out + 1 } }) := by
    unfold State.growUnit
    rw [if_neg (by simp [hr]), ht]
    rfl
  unfold State.grow
  rw [grown]
  refine ⟨hnext, hstatus, hlaunch, hstage, hinst, ?_⟩
  dsimp only
  rw [launch_setLaunch, ← (createUnit_sameCounts ht).count lid]
theorem setStage_runs (s : State) (a : Stage) : ((s.setStage lid stg a).launch lid).runs = (s.launch lid).runs := by
  rw [State.setStage, launch_setLaunch]
  rfl
/-- Counts of samples that change before the stage grows change nothing of how it grows. -/
theorem setStage_grow_grewTo (a : Stage) {b : Stage} (hg : (s.launch lid).stages[stg]? = some g) (hr : (s.launch lid).runs = true)
    (hb : b.next = g.next) (hn : g.next ≤ 65535) (hc : (s.chooseCore (s.launch lid).die (s.launch lid).job b).isSome = true) :
    s.grewTo (((s.setStage lid stg a).setStage lid stg b).grow lid stg) lid stg g := by
  have once : ∀ (q : State) (x : Stage), ((q.setStage lid stg x).launch lid).die = (q.launch lid).die ∧
      ((q.setStage lid stg x).launch lid).job = (q.launch lid).job ∧ ((q.setStage lid stg x).launch lid).count = (q.launch lid).count := by
    intro q x
    rw [State.setStage, launch_setLaunch]
    exact ⟨rfl, rfl, rfl⟩
  obtain ⟨hd1, hj1, hc1⟩ := once s a
  obtain ⟨hd2, hj2, hc2⟩ := once (s.setStage lid stg a) b
  have G : ((s.setStage lid stg a).setStage lid stg b).grewTo (((s.setStage lid stg a).setStage lid stg b).grow lid stg) lid stg b := by
    refine grow_grewTo (setStage_stage _ b (setStage_stage s a hg)) ?_ (hb ▸ hn) ?_
    · rw [setStage_runs, setStage_runs, hr]
    · rw [hd2, hj2, hd1, hj1]
      exact hc
  exact ⟨G.nextUnit, G.status, G.launch, G.stage, G.inst.trans hb, by rw [G.out, hc2, hc1]⟩
/-- A high sample that has dwelt grows its stage by a unit, which its launch's OUT counts (R102). -/
theorem execDwsSample_grows (h : s.sampleDue lid stg g) (hc : s.classify lid g = .high) (hd : g.dwell ≤ g.hi + 1)
    (hm : (s.stageUnits lid stg).length + (if g.pend then 1 else 0) < g.umax) (hn : g.next ≤ 65535)
    (hk : (s.chooseCore (s.launch lid).die (s.launch lid).job g).isSome = true) :
    ∃ t, execDwsSample lid stg s = .next t ∧ s.grewTo t lid stg g := by
  unfold execDwsSample
  simp only [h.stage]
  rw [if_neg (sampleDue_goes h), hc]
  exact ⟨_, if_pos ⟨hd, hm⟩, setStage_grow_grewTo _ h.stage h.runs rfl hn hk⟩

end

/-! Slices (R85) -/

theorem dropYield_dies (s : State) (u cause : Nat) : (s.dropYield u cause).dies = s.dies := by
  unfold State.dropYield
  split
  · split <;> rfl
  · rfl
theorem askYield_dies (s : State) (u cause D : Nat) : (s.askYield u cause D).dies = s.dies := by
  unfold State.askYield
  split
  · split <;> rfl
  · rfl
theorem stopUnit_dies (s : State) (u cause info : Nat) : (s.stopUnit u cause info).dies = s.dies := by
  unfold State.stopUnit
  split
  · extract_lets s1 s2
    have h1 : s1.dies = s.dies := by
      unfold s1
      split <;> rfl
    exact h1
  · rfl
/-- A unit is pre-empted, whatever request to yield it had. -/
theorem preemptUnit_dies (s : State) (u cause info : Nat) : ((s.dropYield u 1).stopUnit u cause info).dies = s.dies :=
  (stopUnit_dies _ u cause info).trans (dropYield_dies s u 1)
theorem preempt_dies (s : State) (d : Nat) : (s.preempt d).dies = s.dies := by
  unfold State.preempt
  split
  · rfl
  next x _ =>
    exact List.foldlRecOn _ _ (motive := fun t : State => t.dies = s.dies) rfl fun t ht c _ => (preemptUnit_dies t c.1 0x42 x.num).trans ht
/-- The slice at the head of the schedule becomes current (R85). -/
theorem takeSlice_current {s : State} {d : Nat} {x : Slice} {xs : List Slice} (h : (s.die d).slices = x :: xs) :
    ((s.takeSlice d).die d).current = some x ∧ ((s.takeSlice d).die d).slices = xs := by
  unfold State.takeSlice
  split
  next hn => exact nomatch h.symm.trans hn
  next x' xs' hx =>
  obtain ⟨rfl, rfl⟩ := List.cons.inj (h.symm.trans hx)
  extract_lets _ s1 us s2
  have h2 : s2.dies = s1.dies := by
    refine List.foldlRecOn us _ (motive := fun t : State => t.dies = s1.dies) rfl fun t ht u _ => Eq.trans ?_ ht
    have dropped := dropYield_dies t u 1
    have woken := (makeReady_sameSite (t.dropYield u 1) u).dies.trans dropped
    dsimp only
    split
    · split
      · exact woken
      · split
        · exact dropped
        · exact woken
      · split
        · exact dropped
        · exact woken
      · exact dropped
    · split
      · exact askYield_dies t u 1 _
      · exact preemptUnit_dies t u 0x42 _
  have k := send_sentOn (s2.idle d) d 0x81 0 [] ((s2.idle d).reportBody d)
  have e : (s2.idle d).die d = { s.die d with slices := xs, current := some x } := by
    show s2.dies.getD d {} = _
    rw [h2]
    exact die_setDie s d _
  exact ⟨(k.current d).trans (congrArg Die.current e), (k.slices d).trans (congrArg Die.slices e)⟩
/-- At its start a slice becomes current (R85). -/
theorem execSliceStart_current {s : State} {d : Nat} {x : Slice} {xs : List Slice} (h : (s.die d).slices = x :: xs)
    (hs : x.start ≤ s.dcc d) : ∃ t, execSliceStart d s = .next t ∧ (t.die d).current = some x ∧ (t.die d).slices = xs := by
  unfold execSliceStart
  rw [h]
  dsimp only
  rw [if_pos hs]
  refine ⟨_, rfl, ?_⟩
  rw [State.die, preempt_dies]
  exact takeSlice_current h

/-! Requests to yield (R106) -/

/-- A request to yield is posted before a slice that leaves the unit's phase inactive, where none is pending (R106). -/
theorem execYieldRequestPost_posts {s : State} {u : Nat} {x : Slice} {xs : List Slice}
    (hx : (s.die (s.unit u).place.die).slices = x :: xs) (hl : (s.unit u).live = true) (hu : (s.units.find u).isSome = true)
    (hd : x.start ≤ s.dcc (s.unit u).place.die + 240000)
    (hp : x.pairs.contains ((s.unit u).place.job, (s.unitLaunch u).phase) = false) (hy : (s.unit u).yreq = none) :
    execYieldRequestPost u s = .next (s.setUnit u { s.unit u with yreq := some (1, x.start) }) := by
  have asked : s.askYield u 1 x.start = s.setUnit u { s.unit u with yreq := some (1, x.start) } := by
    unfold State.askYield
    rw [hy]
  unfold execYieldRequestPost
  dsimp only
  rw [hx, ← asked]
  exact if_pos ⟨hl, hu, hd, hp⟩
/-- The counts of a stage's samples are no part of its launch's queues. -/
theorem setStage_queue (s : State) (lid stg : Nat) (g : Stage) (q : Nat) : (s.setStage lid stg g).queue lid q = s.queue lid q := by
  unfold State.queue State.setStage
  rw [launch_setLaunch]

/-- Settles O42: the units that have joined the starts decide whose turn it is; a turn asks, asserts or starts; a sample acts on its
stage alone, and serving the queues after it only shortens who waits. -/
theorem schedulerEvents : Obligations.SchedulerEvents := by
  unfold Obligations.SchedulerEvents
  intro u lid stg die s x xs g t0 d p l w r w' low s1 gap
  refine ⟨fun hu hs hf => ⟨?asks, ?asserts, ?starts⟩, fun hx hl hu hd hp hy => ⟨_, execYieldRequestPost_posts hx hl hu hd hp hy, rfl⟩,
    fun hg hr hq ht => ?samples, fun hx hd => execSliceStart_current hx hd⟩
  case asks => exact execUnitStart_asks (turnOf_of_ready hu hs hf)
  case asserts => exact execUnitStart_asserts (turnOf_of_ready hu hs hf)
  case starts =>
    intro hr hm hc hh hg
    have site := wakeAll_sameSite s d
    have turn := turnOf_of_ready hu hs hf
    refine ⟨_, execUnitStart_starts turn hr hm hc hh fun c e => ?_, ?_⟩
    · rw [sameSite_core site, sameSite_ccyc site]
      exact hg c e
    · have k := startUnit_starts w u
      have zone := k.zone
      have here := sameSite_trans site (loaded_sameSite w u)
      rw [here.place u, sameSite_home here, sameSite_dcc here] at zone
      exact ⟨k.status, k.ready, zone, k.tclk, fun j => ⟨k.stays j, fun y => k.won j y⟩⟩
  case samples =>
    have due : s.sampleDue lid stg g := ⟨hg, hr, hq, ht⟩
    refine ⟨fun hc => ⟨_, execDwsSample_neutral due hc, rfl⟩, fun hc => ⟨fun v hv hd hm => ?withdraws, fun hn =>
      ⟨_, execDwsSample_low due hc hn, rfl⟩⟩, fun hc hd hm hn hk => ?grows⟩
    case withdraws =>
      refine ⟨_, execDwsSample_withdraws due hc hv hd hm, ?_⟩
      beta_reduce
      extract_lets m
      have served := serveAll_servedTo m lid
      refine ⟨rfl, (served.withdrawn v).trans (withdraw_unit _ lid v g.inq), fun k hk => ?_, fun k hk => ?_⟩
      · exact withdraw_poppers _ lid v g.inq k (served.poppers lid g.inq hk)
      · exact withdraw_voice (s := s1.setStage lid stg { low with lo := 0 }) (by rw [setStage_queue, setStage_queue, hk])
    case grows =>
      obtain ⟨t, e, k⟩ := execDwsSample_grows due hc hd hm hn hk
      exact ⟨t, e, k.nextUnit, k.status, k.launch, k.stage, k.inst, k.out⟩

end Sys2Proof.Machine
end

section
/-! PROOFS. The end of a failed unit where the map of units lists it twice (O44). -/
namespace Sys2Proof.Machine
open Sys2Proof

/-- A job whose page tables have no root, so that no frame of its units is written. -/
def rootlessJob : Job := { root := 2 ^ 52 }
/-- A launch that runs on, under POLICY 1, and one that waits to retry a unit of a stage whose numbers are used up. -/
def runningLaunch : Launch := { status := .admitted, policy := 1, count := { out := 2 } }
def exhaustedLaunch : Launch :=
  { status := .admitted, stages := [{ next := 65536 }], retries := [⟨0, 0, 0, 0, true⟩], count := { out := 2 } }
/-- Unit 0 of launch 0 fails; of the two entries that the map of units lists for it, the one that is not read is a unit of launch 1. -/
def twiceListedUnit : State :=
  { units := [(0, { status := .failing }), (0, { status := .resident, place := { launch := 1 } })]
    nextUnit := 1, jobs := [(0, rootlessJob)], launches := [(0, runningLaunch), (1, exhaustedLaunch)] }

/-- Launch 1 fails as its retry cannot be made, and the cancelling of its units meets unit 0, which has ended. -/
theorem twiceListedUnit_cancelled :
    ∃ t, exec (.unitFail 0) twiceListedUnit = .next t ∧ (t.unit 0).status = .cancelling := by
  refine ⟨_, rfl, ?_⟩
  decide +kernel

/-- Refutes O44: no hypothesis asks that the map of units lists each of them once. Where it lists one twice, with another launch in
the entry that is not read, the failure of that launch cancels the unit after it has ended. -/
theorem not_unitStops : ¬ Obligations.UnitStops := by
  unfold Obligations.UnitStops
  intro h
  obtain ⟨-, fails, -⟩ := h 0 0 0 0 0 0 0 0 [] twiceListedUnit
  obtain ⟨-, past⟩ := fails rfl (by decide +kernel) Nat.one_pos (by decide) rfl rfl
  obtain ⟨t, ht, ended, -⟩ := past (Nat.le_refl 0)
  obtain ⟨t', ht', cancelled⟩ := twiceListedUnit_cancelled
  obtain rfl := Host.Outcome.next.inj (ht.symm.trans ht')
  rw [cancelled] at ended
  contradiction

end Sys2Proof.Machine
end

section
/-! PROOFS. A collective's timeout where the map of contexts lists one twice (O48). -/
namespace Sys2Proof.Machine
open Sys2Proof

/-- A collective of one member, the context of voice slot 0 of core 0 of die 0, that has waited 2^28 copy cycles. -/
def overdueColl : Cmd := { cn := 1, word := 0, instr := .cbct 0 0 0 1 0 0, regs := [], group := [0, 0xFFFF], waited := 2 ^ 28 }
/-- The copy context of a resident unit 0 waits in that collective; of the two entries that the map of contexts lists for the copy
context of unit 1, the one that is not read holds the same command. -/
def twiceListedContext : State :=
  { units := [(0, { status := .resident })]
    ctxs := [(ckey 0 .copy 0, { flight := [overdueColl] }), (ckey 1 .copy 0, {}), (ckey 1 .copy 0, { flight := [overdueColl] })] }

theorem twiceListedContext_copyCmd : twiceListedContext.copyCmd 0 0 1 = some overdueColl := by decide +kernel
/-- The members are gathered from all entries of the map. -/
theorem twiceListedContext_member : (1, 0, overdueColl) ∈ twiceListedContext.collWith [(0, 0, overdueColl)] 1024 := by decide +kernel
/-- A context as the map reads it ends no command of an entry that it does not read. -/
theorem twiceListedContext_endColl : ((twiceListedContext.endColl 0 0 4 overdueColl).ctx 1 .copy 0).flight = [] := by decide +kernel

/-- Refutes O48: no hypothesis asks that the map of contexts lists each of them once. Where it lists one twice, the members of a
collective are gathered from both entries, and the command in the one that is not read gets no status. -/
theorem not_engineDeadlines : ¬ Obligations.EngineDeadlines := by
  unfold Obligations.EngineDeadlines
  intro h
  obtain ⟨-, -, -, -, collective⟩ := h 0 0 1 0 0 0 0 0 twiceListedContext overdueColl [] ⟨0, 0, 0, 0, 0, 0, [], 0, 0, false, 0, 0, 0, []⟩ 0 0
  obtain ⟨t, ht, hm⟩ := collective twiceListedContext_copyCmd (by decide) rfl (by decide +kernel) (Nat.le_add_right _ _)
  have e : exec (.collectiveTimeout 0 0 1) twiceListedContext = .next (twiceListedContext.endColl 0 0 4 overdueColl) := by
    show execCollectiveTimeout 0 0 1 twiceListedContext = _
    unfold execCollectiveTimeout
    rw [twiceListedContext_copyCmd]
    exact if_pos ⟨by decide, rfl, by decide +kernel, Nat.le_add_right _ _⟩
  obtain rfl := Host.Outcome.next.inj (e.symm.trans ht)
  obtain ⟨r, hr, -⟩ := hm _ twiceListedContext_member
  rw [twiceListedContext_endColl] at hr
  exact List.not_mem_nil hr

end Sys2Proof.Machine
end

section
/-! PROOFS. Migration: what moves, gives up and goes offline (O43). -/
namespace Sys2Proof.Machine
open Sys2Proof

/-! The records of dies and cores, which the work of units, queues and launches leaves alone -/

/-- What the device holds of its dies and of their physical cores. -/
def State.hardware (s : State) : NMap Die × NMap Core := (s.dies, s.cores)

theorem phys_of_hardware {s t : State} (h : t.hardware = s.hardware) (d l : Nat) : t.phys d l = s.phys d l := by
  rw [State.phys, State.phys, State.die, State.die, (Prod.mk.inj h).1]
theorem core_of_hardware {s t : State} (h : t.hardware = s.hardware) (d p : Nat) : t.core d p = s.core d p := by
  rw [State.core, State.core, (Prod.mk.inj h).2]
theorem foldl_hardware {α : Type} {f : State → α → State} (hf : ∀ (t : State) a, (f t a).hardware = t.hardware) (l : List α) (s : State) :
    (l.foldl f s).hardware = s.hardware :=
  List.foldlRecOn l f (motive := fun t : State => t.hardware = s.hardware) rfl fun t ht a _ => (hf t a).trans ht

@[simp] theorem setUnit_hardware (s : State) (u : Nat) (t : TeamUnit) : (s.setUnit u t).hardware = s.hardware := rfl
@[simp] theorem setVoice_hardware (s : State) (u j : Nat) (v : Voice) : (s.setVoice u j v).hardware = s.hardware := rfl
@[simp] theorem setLaunch_hardware (s : State) (l : Nat) (x : Launch) : (s.setLaunch l x).hardware = s.hardware := rfl
@[simp] theorem setQueue_hardware (s : State) (l q : Nat) (x : Queue) : (s.setQueue l q x).hardware = s.hardware := rfl
@[simp] theorem finishWait_hardware (s : State) (u j : Nat) (d : BitVec 6) (v : X) : (s.finishWait u j d v).hardware = s.hardware := rfl
@[simp] theorem abandon_hardware (s : State) (u : Nat) (ok : Nat → Bool) : (s.abandon u ok).hardware = s.hardware := rfl

/-! Queues served (R29, R408) -/

@[simp] theorem touch_hardware (s : State) (u agent : Nat) (wr : Bool) (a n : Nat) : (s.touch u agent wr a n).hardware = s.hardware := by
  unfold State.touch
  split <;> rfl
@[simp] theorem stsByte_hardware (s : State) (u j a : Nat) (b : Byte) : (s.stsByte u j a b).hardware = s.hardware := by
  unfold State.stsByte
  extract_lets t k now live
  split
  · rfl
  · split
    · split <;> rfl
    · rfl
@[simp] theorem stsBytes_hardware (s : State) (u j a : Nat) (bs : List Byte) : (s.stsBytes u j a bs).hardware = s.hardware := by
  induction bs generalizing s a with
  | nil => rfl
  | cons b bs ih => exact (ih _ _).trans (stsByte_hardware s u j a b)
@[simp] theorem keepLate_hardware (s : State) (u : Nat) (l : List (Nat × Byte)) : (s.keepLate u l).hardware = s.hardware := by
  unfold State.keepLate
  split <;> rfl
@[simp] theorem serve_hardware (s : State) (l q n : Nat) : (s.serve l q n).hardware = s.hardware := by
  induction n generalizing s with
  | zero => rfl
  | succ n ih =>
    rw [State.serve]
    dsimp only
    split
    · simp [ih]
    · split <;> simp [ih]
    · simp [ih]
    · split <;> simp [ih]
    · rfl
@[simp] theorem closeQueue_hardware (s : State) (l q : Nat) : (s.closeQueue l q).hardware = s.hardware := by
  unfold State.closeQueue
  split <;> rfl
@[simp] theorem serveAll_hardware (s : State) (l : Nat) : (s.serveAll l).hardware = s.hardware :=
  foldl_hardware (fun t q => (serve_hardware _ l q _).trans (closeQueue_hardware t l q)) _ s

/-! Units cancelled, launches over (R90, R91, R458) -/

theorem closeRegion_hardware (s : State) (k : Nat) : (s.closeRegion k).hardware = s.hardware := by
  unfold State.closeRegion
  split
  · rfl
  · split <;> rfl
@[simp] theorem killAll_hardware (s : State) (u : Nat) : (s.killAll u).hardware = s.hardware :=
  foldl_hardware (fun t c => closeRegion_hardware t (Prod.fst c)) _ _
@[simp] theorem cancelUnit_hardware (s : State) (u : Nat) : (s.cancelUnit u).hardware = s.hardware := by
  simp [State.cancelUnit, State.freeze, State.dropVersion]
@[simp] theorem noteAbove_hardware (s : State) (x : Launch) (f : Counter → Counter) : (s.noteAbove x f).hardware = s.hardware := by
  unfold State.noteAbove
  extract_lets g
  split <;> rfl
@[simp] theorem closeLaunch_hardware (s : State) (l : Nat) (st : CState) : (s.closeLaunch l st).hardware = s.hardware := by
  unfold State.closeLaunch
  extract_lets x
  split <;> simp
@[simp] theorem outDown_hardware (s : State) (l : Nat) : (s.outDown l).hardware = s.hardware := by
  unfold State.outDown
  extract_lets x s1
  have h1 : s1.hardware = s.hardware := setLaunch_hardware s l _
  split <;> simp [h1]
@[simp] theorem failPast_hardware (s : State) (lid cause unitid : Nat) : (s.failPast lid cause unitid).hardware = s.hardware := by
  unfold State.failPast
  extract_lets l _ s1
  have h1 : s1.hardware = s.hardware := by simp [s1]
  split
  · exact (foldl_hardware cancelUnit_hardware _ _).trans h1
  · simp [h1]

/-! Units created, and what freed resources allow (R94, R99, R102) -/

theorem writeSysList_hardware (s : State) (key : Nat) (l : List (Nat × Byte)) : (s.writeSysList key l).hardware = s.hardware := by
  induction l generalizing s with
  | nil => rfl
  | cons c l ih =>
    have claimed : (s.claim key c.1).hardware = s.hardware := by
      unfold State.claim
      split <;> rfl
    exact (ih _).trans claimed
theorem markFrame_hardware (s : State) (u f : Nat) : (s.markFrame u f).hardware = s.hardware := writeSysList_hardware s _ _
theorem createUnit_hardware {s t : State} {lid stg fails : Nat} (h : s.createUnit lid stg fails = some t) : t.hardware = s.hardware := by
  unfold State.createUnit at h
  extract_lets l u at h
  split at h
  · simp at h
  split at h
  · simp at h
  split at h
  · simp at h
  next =>
    extract_lets v p x pc s1 s2 at h
    rw [← Option.some.inj h]
    exact (foldl_hardware (fun t j => setVoice_hardware t u j _) _ _).trans (markFrame_hardware s2 u 0)
@[simp] theorem retryOne_hardware (s : State) (lid : Nat) (r : Retry) : (s.retryOne lid r).hardware = s.hardware := by
  unfold State.retryOne
  extract_lets l
  split
  · rfl
  split
  · rfl
  split
  · simp
  split
  next t ht => exact createUnit_hardware ht
  · rfl
theorem tryRetries_hardware (s : State) (lid : Nat) : (s.tryRetries lid).hardware = s.hardware :=
  (serveAll_hardware _ lid).trans (foldl_hardware (fun t r => retryOne_hardware t lid r) _ _)
theorem growUnit_hardware {s t : State} {lid k : Nat} (h : s.growUnit lid k = some t) : t.hardware = s.hardware := by
  unfold State.growUnit at h
  split at h
  · simp at h
  · obtain ⟨t₁, h₁, rfl⟩ := Option.map_eq_some_iff.1 h
    exact (setLaunch_hardware t₁ lid _).trans (createUnit_hardware h₁)
theorem tryGrow_hardware (s : State) (lid : Nat) : (s.tryGrow lid).hardware = s.hardware := by
  refine foldl_hardware (fun t k => ?_) _ s
  split
  · split
    · split
      next t1 h1 => exact (setLaunch_hardware t1 lid _).trans (growUnit_hardware h1)
      · rfl
    · rfl
  · rfl
/-- What the resources freed on a die allow changes no record of a die or a core. -/
theorem freed_hardware (s : State) (d : Nat) : (s.freed d).hardware = s.hardware :=
  foldl_hardware (fun t l => (tryGrow_hardware _ l).trans (tryRetries_hardware t l)) _ s

/-! Units that leave a core (R106, R110) -/

theorem dropYield_hardware (s : State) (u cause : Nat) : (s.dropYield u cause).hardware = s.hardware := by
  unfold State.dropYield
  split
  · split <;> rfl
  · rfl
theorem leaveZone_hardware (s : State) (u : Nat) : (s.leaveZone u).hardware = s.hardware := by
  unfold State.leaveZone
  extract_lets t
  split <;> rfl
theorem makeReady_hardware (s : State) (u : Nat) : (s.makeReady u).hardware = s.hardware := by
  unfold State.makeReady
  split <;> rfl
theorem releaseMoved_hardware (s : State) (us : List (Nat × TeamUnit)) (ok : TeamUnit → Bool) :
    (s.releaseMoved us ok).hardware = s.hardware := by
  refine foldl_hardware (fun t x => ?_) _ s
  extract_lets _ t1
  split
  · exact makeReady_hardware t1 x.2
  · rfl

/-! The map of logical to physical cores (R87, R110) -/

/-- The map of every die is in `t` as in `s`. -/
def State.sameMap (s t : State) : Prop := ∀ d l, t.phys d l = s.phys d l

theorem sameMap_trans {s t q : State} (h : s.sameMap t) (k : t.sameMap q) : s.sameMap q := fun d l => (k d l).trans (h d l)
theorem sameMap_of_dies {s t : State} (h : t.dies = s.dies) : s.sameMap t := fun d l => by
  rw [State.phys, State.phys, State.die, State.die, h]
theorem setDie_sameMap (s : State) (d : Nat) {x : Die} (h : x.phys = (s.die d).phys) : s.sameMap (s.setDie d x) := fun d' l => by
  rw [State.phys, State.phys]
  by_cases hd : d' = d
  · subst hd
    rw [die_setDie, h]
  · rw [die_setDie_ne s x hd]
theorem bump_sameMap (s : State) (d k : Nat) : s.sameMap (s.bump d k) := setDie_sameMap s d rfl
theorem freed_sameMap (s : State) (d : Nat) : s.sameMap (s.freed d) := fun d' l => phys_of_hardware (freed_hardware s d) d' l
theorem tryMigrate_dies (s : State) (d l : Nat) : (s.tryMigrate d l).dies = s.dies := by
  unfold State.tryMigrate
  extract_lets p c D
  split
  · split
    · rfl
    · extract_lets s1
      exact List.foldlRecOn _ _ (motive := fun t : State => t.dies = s.dies) rfl fun t ht u _ => (askYield_dies t u.1 2 D).trans ht
  · rfl
/-- A core that goes offline changes no map. -/
theorem goOffline_sameMap (s : State) (d p : Nat) (x : Core) (leaves : Prop) [Decidable leaves] :
    s.sameMap (if leaves then (s.setCore d p x).bump d 4 else s) := by
  split
  · exact sameMap_trans (sameMap_of_dies rfl) (bump_sameMap _ d 4)
  · exact sameMap_of_dies rfl
/-- A core that is left empty may go offline or become a target; no map changes. -/
theorem vacated_sameMap (s : State) (d l : Nat) : s.sameMap (s.vacated d l) := by
  unfold State.vacated
  split
  · extract_lets c s1
    have h1 : s.sameMap s1 := goOffline_sameMap s d (s.phys d l) _ _
    refine sameMap_trans h1 (sameMap_of_dies ?_)
    exact List.foldlRecOn _ _ (motive := fun t : State => t.dies = s1.dies) rfl fun t ht k _ => (tryMigrate_dies t d k).trans ht
  · exact sameMap_of_dies rfl

/-- Moving a core's units exchanges two places of the map (R110). -/
theorem moveCore_phys (s : State) {d l k : Nat} (h : k ≠ l) :
    (s.moveCore d l k).phys d l = s.phys d k ∧ (s.moveCore d l k).phys d k = s.phys d l := by
  unfold State.moveCore
  extract_lets p q us _ _ _ _ _ s3 _ _ s4 s5
  have l3 : s3.phys d l = q := by
    rw [State.phys, die_setDie, NMap.getD_put_ne h.symm, NMap.getD_put_self]
  have k3 : s3.phys d k = p := by
    rw [State.phys, die_setDie, NMap.getD_put_self]
  have h5 : s4.hardware = s5.hardware :=
    (foldl_hardware (fun t c => (leaveZone_hardware _ (Prod.fst c)).trans (dropYield_hardware t c.1 2)) us s4).symm
  have m4 : s3.sameMap s4 := sameMap_of_dies rfl
  have m5 : s4.sameMap s5 := fun d l => phys_of_hardware h5.symm d l
  have m6 : s5.sameMap (s5.releaseMoved us fun t => t.moved || decide (t.status = .suspended 0x45)) :=
    fun d l => phys_of_hardware (releaseMoved_hardware s5 us _) d l
  have m : s3.sameMap ((s5.releaseMoved us fun t => t.moved || decide (t.status = .suspended 0x45)).bump d 2) :=
    sameMap_trans (sameMap_trans (sameMap_trans m4 m5) m6) (bump_sameMap _ d 2)
  exact ⟨(m d l).trans l3, (m d k).trans k3⟩

/-! The three events -/

/-- A move that is due, with every unit stopped, exchanges the cores (R108 to R110). -/
theorem execMigrationMove_exchanges {s : State} {die l k : Nat} (hm : (s.core die (s.phys die l)).mig = some k) (hk : k ≠ l)
    (hb : (s.core die (s.phys die l)).moveBy ≠ 0) (hs : ∀ c ∈ s.holders die l, c.2.still = true) :
    ∃ t, execMigrationMove die l s = .next t ∧ t.phys die l = s.phys die k ∧ t.phys die k = s.phys die l := by
  have still : s.allStill die l = true := List.all_eq_true.2 hs
  obtain ⟨hl, hk'⟩ := moveCore_phys s (d := die) hk
  have m := sameMap_trans (sameMap_trans (goOffline_sameMap (s.moveCore die l k) die (s.phys die l)
    { (s.moveCore die l k).core die (s.phys die l) with ths := 3 } ((s.core die (s.phys die l)).leaving = true))
    (vacated_sameMap _ die k)) (freed_sameMap _ die)
  refine ⟨_, ?_, (m die l).trans hl, (m die k).trans hk'⟩
  simp only [execMigrationMove, hm]
  exact if_neg (by simp [hb, still])

/-- An attempt given up leaves its core with no target and no attempt before `again`, and the map as it was (R109). -/
theorem dropMove_core {s : State} {d l k : Nat} (hm : (s.core d (s.phys d l)).mig = some k) (again : Nat) :
    ((s.dropMove d l again).core d (s.phys d l)).mig = none ∧ ((s.dropMove d l again).core d (s.phys d l)).noMove = again ∧
      (s.dropMove d l again).phys d l = s.phys d l := by
  simp only [State.dropMove, hm]
  generalize e : (s.setMig d k none).setCore d (s.phys d l)
    { s.core d (s.phys d l) with mig := none, moveBy := 0, noMove := again } = s1
  have h2 := foldl_hardware (fun t c => dropYield_hardware t (Prod.fst c) 2) (s.holders d l) s1
  generalize (s.holders d l).foldl (fun t u => t.dropYield u.1 2) s1 = s2 at h2 ⊢
  have h3 := (releaseMoved_hardware s2 (s.holders d l) fun t => t.moved).trans h2
  generalize s2.releaseMoved (s.holders d l) (fun t => t.moved) = s3 at h3 ⊢
  have hc : ((s3.bump d 3).freed d).core d (s.phys d l) = s1.core d (s.phys d l) :=
    (core_of_hardware (freed_hardware _ d) d _).trans (core_of_hardware h3 d _)
  have hp : ((s3.bump d 3).freed d).phys d l = s1.phys d l := by
    rw [freed_sameMap, bump_sameMap, phys_of_hardware h3]
  rw [hc, hp, ← e, core_setCore]
  exact ⟨rfl, rfl, rfl⟩

/-- The deadline passes with a unit that has not stopped: the attempt is given up for 24,000,000 cycles (R109). -/
theorem giveUpMove_drops {s : State} {d l k : Nat} (hm : (s.core d (s.phys d l)).mig = some k) (hb : (s.core d (s.phys d l)).moveBy ≠ 0)
    (hd : (s.core d (s.phys d l)).moveBy ≤ s.dcc d) (hu : ∃ c ∈ s.holders d l, c.2.halted = false) :
    s.giveUpMove d l = s.dropMove d l (s.dcc d + 24000000) := by
  have running : s.allHalted d l = false := by simpa [State.allHalted, List.all_eq_false] using hu
  exact if_neg (by simp [hm, hb, Nat.not_lt.2 hd, running])

/-- A target is a core that no unit holds (R108). -/
theorem target_empty {s : State} {d l k : Nat} (h : s.target d l = some k) : s.holders d k = [] := by
  have := List.find?_some h
  simp only [Bool.and_eq_true, List.isEmpty_iff] at this
  obtain ⟨⟨⟨⟨empty, -⟩, -⟩, -⟩, -⟩ := this
  exact empty

/-- The stopped units of an offline core move to a target (R431). -/
theorem execOfflineMove_exchanges {s : State} {die l k : Nat} (ht : (s.core die (s.phys die l)).ths = 3) (hn : s.holders die l ≠ [])
    (hs : ∀ c ∈ s.holders die l, (∃ n, c.2.status = .suspended n) ∨ c.2.status = .placed) (hk : s.target die l = some k) :
    ∃ t, execOfflineMove die l s = .next t ∧ t.phys die l = s.phys die k ∧ t.phys die k = s.phys die l := by
  have hkl : k ≠ l := fun e => hn (e ▸ target_empty hk)
  have hany : ((s.holders die l).any fun u => match u.2.status with
      | .suspended _ => false
      | .placed => false
      | _ => true) = false := by
    refine List.any_eq_false.2 fun c hc => ?_
    rcases hs c hc with ⟨n, e⟩ | e <;> simp [e]
  have m : (s.moveCore die l k).sameMap (((s.moveCore die l k).vacated die k).freed die) :=
    sameMap_trans (vacated_sameMap _ die k) (freed_sameMap _ die)
  obtain ⟨hl, hk'⟩ := moveCore_phys s (d := die) hkl
  refine ⟨_, ?_, (m die l).trans hl, (m die k).trans hk'⟩
  unfold execOfflineMove
  extract_lets us
  rw [if_neg (by simp only [us, ht, List.isEmpty_iff, hn, ne_eq, not_true_eq_false, false_or]; exact ne_true_of_eq_false hany), hk]

/-- Settles O43: a move, also one off an offline core, exchanges two places of the map, and nothing that follows it changes the map; an
attempt given up writes its core's record, which nothing that follows changes. -/
theorem migrationEvents : Obligations.MigrationEvents := by
  unfold Obligations.MigrationEvents
  intro die l k s p us
  refine ⟨fun hm hk hb hs => execMigrationMove_exchanges hm hk hb hs, fun hm hb hd hu => ?abandon,
    fun ht hn hs hk => execOfflineMove_exchanges ht hn hs hk⟩
  case abandon => exact ⟨_, congrArg Host.Outcome.next (giveUpMove_drops hm hb hd hu), dropMove_core hm _⟩

end Sys2Proof.Machine
end

section
/-! PROOFS. The end of a unit that retires where the map of units lists it twice (O23). -/
namespace Sys2Proof.Machine
open Sys2Proof

/-- Voice 0 of unit 0 is about to retire; of the two entries that the map of units lists for it, the one that is not read is a unit of
launch 1, which fails as soon as its waiting retry is tried. -/
def retiringTwiceListed : State :=
  { twiceListedUnit with
    sel := .voice 0 0
    units := [(0, { status := .resident }), (0, { status := .resident, place := { launch := 1 } })] }

/-- The unit has retired when the failing of launch 1 cancels that launch's units. -/
theorem retiringTwiceListed_cancelled :
    ∃ t, exec (.retire 0) retiringTwiceListed = .next t ∧ (t.unit 0).status = .cancelling := by
  refine ⟨_, rfl, ?_⟩
  decide +kernel

/-- Refutes O23: no hypothesis asks that the map of units lists each of them once. Where it lists one twice, with another launch in
the entry that is not read, what its RETIRE frees lets that launch fail, which cancels the unit after it has ended. -/
theorem not_yieldParkRetire : ¬ Obligations.YieldParkRetire := by
  unfold Obligations.YieldParkRetire
  intro h
  obtain ⟨-, -, -, -, retires, -⟩ := h 0 0 retiringTwiceListed 0 0 rfl (by decide)
  obtain ⟨t, ht, ended, -⟩ := retires rfl rfl (by decide +kernel) rfl (by decide) (by decide +kernel)
  obtain ⟨t', ht', cancelled⟩ := retiringTwiceListed_cancelled
  obtain rfl := Host.Outcome.next.inj (ht.symm.trans ht')
  rw [cancelled] at ended
  contradiction

end Sys2Proof.Machine
end

section
/-! PROOFS. What an engine takes when it makes its choice (O45). -/
namespace Sys2Proof.Machine
open Sys2Proof

/-! Readiness brought up to date (R104) -/

theorem unready_cmds (c : Ctx) (n : Nat) : (c.unready n).queue = c.queue ∧ (c.unready n).flight = c.flight := by
  unfold Ctx.unready
  split <;> exact ⟨rfl, rfl⟩
theorem readyFrom_flight (c : Ctx) (r : Nat) : (c.readyFrom r).flight = c.flight := by
  unfold Ctx.readyFrom
  split
  · rfl
  · split <;> rfl
/-- Marking the head of a queue changes no command in flight and no number of a queued one. -/
theorem markHead_cmds (s : State) (d p late : Nat) (e : Engine) (c : Ctx) :
    ((s.markHead d p late e c).queue.map Cmd.cn, (s.markHead d p late e c).flight) = (c.queue.map Cmd.cn, c.flight) := by
  unfold State.markHead
  split
  · rfl
  next q qs hq =>
    extract_lets q1
    have h1 : q1.cn = q.cn := by
      unfold q1
      split <;> rfl
    rw [hq]
    have marked : ∀ {f : List Cmd}, f = c.flight → (q1.cn :: qs.map Cmd.cn, f) = ((q :: qs).map Cmd.cn, c.flight) := by
      rintro _ rfl
      simp [h1]
    split
    · exact marked (unready_cmds c _).2
    · split
      · exact marked (readyFrom_flight c _)
      · exact marked rfl
theorem refresh_cmds (s : State) (d p late u : Nat) (e : Engine) (j : Nat) :
    ((s.refresh d p late).ctx u e j).queue.map Cmd.cn = (s.ctx u e j).queue.map Cmd.cn ∧
      ((s.refresh d p late).ctx u e j).flight = (s.ctx u e j).flight := by
  refine Prod.mk.inj (NMap.getD_map_keeps (g := fun c : Ctx => (c.queue.map Cmd.cn, c.flight)) (fun c => ?_) (fun c => ?_) _ _)
  · split <;> rfl
  · split
    · exact markHead_cmds _ _ _ _ _ _
    · rfl
@[simp] theorem core_refresh (s : State) (d p late d' p' : Nat) : (s.refresh d p late).core d' p' = s.core d' p' := rfl

/-! Commands that have issued, and commands that are over -/

/-- Command `q` of a context is in flight, issued. -/
def State.hasIssued (t : State) (u : Nat) (e : Engine) (j : Nat) (q : Cmd) : Prop :=
  ∃ k ∈ (t.ctx u e j).flight, k.cn = q.cn ∧ k.instr = q.instr ∧ k.phase = .issued

theorem toFlight_hasIssued (s : State) (u : Nat) (e : Engine) (j : Nat) {k q : Cmd} (hc : k.cn = q.cn) (hi : k.instr = q.instr)
    (hp : k.phase = .issued) : (s.toFlight u e j k).hasIssued u e j q :=
  ⟨k, by simp [State.toFlight], hc, hi, hp⟩
theorem refresh_hasIssued {s : State} {u : Nat} {e : Engine} {j : Nat} {q : Cmd} (h : s.hasIssued u e j q) (d p late : Nat) :
    (s.refresh d p late).hasIssued u e j q := by
  rw [State.hasIssued, (refresh_cmds s d p late u e j).2]
  exact h

theorem collapse_cmds (c : Ctx) (n : Nat) : (c.collapse n).queue = c.queue ∧ (c.collapse n).flight = c.flight := by
  induction n generalizing c with
  | zero => exact ⟨rfl, rfl⟩
  | succ n ih =>
    rw [Ctx.collapse]
    split
    · exact ih _
    · exact ⟨rfl, rfl⟩
theorem settle_cmds (c : Ctx) (t : Nat) : (c.settle t).queue = c.queue ∧ (c.settle t).flight = c.flight := by
  unfold Ctx.settle
  split <;> exact ⟨rfl, rfl⟩
theorem finish_cmds (c : Ctx) (q : Cmd) : (c.finish q).queue = c.queue ∧ (c.finish q).flight = c.flight := collapse_cmds _ _
theorem refresh_commandOver {s : State} {u : Nat} {e : Engine} {j n : Nat} (h : s.commandOver u e j n) (d p late : Nat) :
    (s.refresh d p late).commandOver u e j n := by
  obtain ⟨hq, hf⟩ := refresh_cmds s d p late u e j
  intro k hk
  rcases List.mem_append.1 hk with hk | hk
  · obtain ⟨x, hx, e⟩ := List.mem_map.1 (hq ▸ List.mem_map_of_mem (f := Cmd.cn) hk)
    exact e ▸ h x (List.mem_append_left _ hx)
  · exact h k (List.mem_append_right _ (hf ▸ hk))
/-- A command that is complete stands neither in its queue nor in flight (R126). -/
theorem completeCmd_over (s : State) (u : Nat) (e : Engine) (j : Nat) (q : Cmd) : (s.completeCmd u e j q).commandOver u e j q.cn := by
  unfold State.completeCmd State.refreshUnit
  extract_lets c c0 c1
  refine refresh_commandOver (fun k hk => ?_) _ _ _
  rw [ctx_setCtx, (settle_cmds _ _).1, (settle_cmds _ _).2, (finish_cmds c1 q).1, (finish_cmds c1 q).2] at hk
  rcases List.mem_append.1 hk with hk | hk <;> exact of_decide_eq_true (List.mem_filter.1 hk).2

/-! The cycles of a core, and the choices of its engines (R104, R240) -/

/-- What of a core says how its clocks count and how long it has been held. -/
def Core.timing (c : Core) : Clk × Clk × Clk × Nat × Nat × Nat := (c.mat, c.vec, c.cpy, c.held, c.holdAt, c.holdLen)
/-- Core `p` of die `d` counts its cycles in `t` as in `s`. -/
structure State.sameClocks (s t : State) (d p : Nat) : Prop where
  dcc : t.dcc d = s.dcc d
  timing : (t.core d p).timing = (s.core d p).timing

theorem sameClocks_refl (s : State) (d p : Nat) : s.sameClocks s d p := ⟨rfl, rfl⟩
theorem sameClocks_trans {s t q : State} {d p : Nat} (h : s.sameClocks t d p) (k : t.sameClocks q d p) : s.sameClocks q d p :=
  ⟨k.dcc.trans h.dcc, k.timing.trans h.timing⟩
theorem setCore_sameClocks (s : State) (d p : Nat) {c : Core} (h : c.timing = (s.core d p).timing) : s.sameClocks (s.setCore d p c) d p :=
  ⟨rfl, by rw [core_setCore, h]⟩
theorem toFlight_sameClocks (s : State) (u : Nat) (e : Engine) (j : Nat) (q : Cmd) (d p : Nat) : s.sameClocks (s.toFlight u e j q) d p :=
  ⟨rfl, rfl⟩
theorem refresh_sameClocks {s t : State} {d p : Nat} (h : s.sameClocks t d p) (d' p' late : Nat) :
    s.sameClocks (t.refresh d' p' late) d p := ⟨h.dcc, h.timing⟩
theorem sameClocks_ecyc {s t : State} {d p : Nat} (h : s.sameClocks t d p) (e : Engine) : t.ecyc d p e = s.ecyc d p e := by
  obtain ⟨hd, ht⟩ := h
  simp only [Core.timing, Prod.mk.injEq] at ht
  obtain ⟨hm, hv, hc, -⟩ := ht
  cases e <;> simp only [State.ecyc, hd, hm, hv, hc]
theorem sameClocks_free {s t : State} {d p : Nat} (h : s.sameClocks t d p) : t.free d p = s.free d p := by
  obtain ⟨hd, ht⟩ := h
  simp only [Core.timing, Prod.mk.injEq] at ht
  obtain ⟨hm, -, -, hh, ha, hl⟩ := ht
  simp only [State.free, State.heldCyc, State.mcyc, Core.heldAt, hd, hm, hh, ha, hl]

/-- `t` follows the choice of engine `e` of core `p` of die `d` in state `s`, in the same cycle. -/
structure State.hasChosen (s t : State) (d p : Nat) (e : Engine) : Prop where
  clocks : s.sameClocks t d p
  chose : (t.core d p).chose = (s.core d p).chose.put e.code (s.ecyc d p e + 1)

theorem choose_hasChosen (s : State) (d p : Nat) (e : Engine) : s.hasChosen (s.choose d p e) d p e :=
  ⟨setCore_sameClocks s d p rfl, by rw [State.choose, core_setCore]⟩
theorem hasChosen_trans {s t q : State} {d p : Nat} {e : Engine} (h : s.hasChosen t d p e) (k : t.sameClocks q d p)
    (hc : (q.core d p).chose = (t.core d p).chose) : s.hasChosen q d p e :=
  ⟨sameClocks_trans h.clocks k, hc.trans h.chose⟩
/-- An engine that has made its choice makes no other in that cycle (R104). -/
theorem hasChosen_mayChoose {s t : State} {d p : Nat} {e : Engine} (h : s.hasChosen t d p e) : t.mayChoose d p e = false := by
  rw [State.mayChoose, h.chose, NMap.getD_put_self, sameClocks_ecyc h.clocks]
  exact decide_eq_false (Nat.not_succ_le_self _)

theorem pickRank_mem {α : Type} {l : List (Rank × α)} {a : α} (h : pickRank l = some a) : ∃ r, (r, a) ∈ l := by
  obtain ⟨x, hx, rfl⟩ := Option.map_eq_some_iff.1 h
  exact ⟨x.1, List.mem_of_find?_eq_some hx⟩

/-- None of a list satisfies what all of it rule out. -/
theorem find?_eq_none_of_all {α : Type} {l : List α} {f g : α → Bool} (h : l.all f = true) (hfg : ∀ a, f a = true → g a = false) :
    l.find? g = none :=
  List.find?_eq_none.2 fun a ha => by simp [hfg a (List.all_eq_true.1 h a ha)]

/-! The vector engine (R311) -/

/-- The ready vector command that ranks first issues, and the engine is taken for as long as it needs. -/
theorem vectorIssue_eq {s : State} {d p u j : Nat} {c : Ctx} {q : Cmd} (hn : (s.core d p).vnext ≤ s.eclk d p .vector)
    (hm : s.mayChoose d p .vector = true) (hv : s.moving d p = false)
    (hp : pickRank ((s.heads d p .vector).map fun h => (s.rank h.1 .vector h.2.1 (h.2.2.2.readyAt.getD 0), h)) = some (u, j, c, q)) :
    ∃ (k : Cmd) (next : Nat), k.cn = q.cn ∧ k.instr = q.instr ∧ k.phase = .issued ∧ s.vectorIssue d p =
      (((s.choose d p .vector).toFlight u .vector j k).setCore d p { (s.choose d p .vector).core d p with vnext := next }).refresh d p 0 := by
  unfold State.vectorIssue
  extract_lets n
  rw [if_neg (by simp [n, Nat.not_lt.2 hn, hm, hv]), hp]
  refine ⟨_, _, ?_, ?_, ?_, rfl⟩ <;> rfl

/-! The copy engine (R337, R365) -/

/-- A copy command that is no collective takes its channel: it is in flight, a CFNC has widened what memory holds, a WPRG has opened the
run of its region, and nothing else has changed. -/
theorem takeChannel_eq (s : State) (d p u j : Nat) {q : Cmd} (hg : q.group = []) :
    ∃ (k : Cmd) (mem : List Host.Cell) (narrow : List NWrite) (regions : NMap Region),
      k.cn = q.cn ∧ k.instr = q.instr ∧ k.phase = .issued ∧ ((∀ sc, q.instr ≠ .cfnc sc) → mem = s.mem) ∧
      s.takeChannel d p u j q =
        ({ s.toFlight u .copy j k with mem := mem, narrow := narrow, regions := regions } : State).refresh d p 0 := by
  unfold State.takeChannel
  extract_lets +onlyGivenNames n wb k q1 s0 s1 s2
  have h1 : ∃ mem narrow, s1 = { s0 with mem := mem, narrow := narrow } ∧ ((∀ sc, q.instr ≠ .cfnc sc) → mem = s.mem) := by
    unfold s1
    split
    next sc hi => exact ⟨_, _, rfl, fun h => absurd hi (h sc)⟩
    · exact ⟨s0.mem, s0.narrow, rfl, fun _ => rfl⟩
  have h2 : ∃ regions, s2 = { s1 with regions := regions } := by
    unfold s2
    split <;> exact ⟨_, rfl⟩
  obtain ⟨mem, narrow, e1, hm⟩ := h1
  obtain ⟨regions, e2⟩ := h2
  refine ⟨q1, mem, narrow, regions, rfl, rfl, rfl, hm, ?_⟩
  dsimp only
  rw [if_pos hg, e2, e1]

/-- With no index list left to read and a channel free, the ready command that ranks first takes it (R337, R353). -/
theorem copyIssue_eq {s : State} {d p u j : Nat} {c : Ctx} {q : Cmd}
    (hi : (s.heads d p .copy).all (fun h => !Instr.isGather h.2.2.2.instr || h.2.2.2.table.isSome) = true)
    (hn : s.channels d p < 8) (hm : s.mayChoose d p .copy = true)
    (hp : pickRank (((s.heads d p .copy).filter fun h =>
      (!Instr.isPub h.2.2.2.instr || s.pubReady h.1 h.2.2.2) && !s.measured h.1 h.2.2.2).map fun h =>
      (s.rank h.1 .copy h.2.1 (h.2.2.2.readyAt.getD 0), h)) = some (u, j, c, q)) :
    s.copyIssue d p = (s.choose d p .copy).takeChannel d p u j q := by
  have none_unread : (s.heads d p .copy).find? (fun h => Instr.isGather h.2.2.2.instr && h.2.2.2.table.isNone) = none :=
    find?_eq_none_of_all hi fun h => by cases h.2.2.2.table <;> simp
  unfold State.copyIssue
  extract_lets hs
  simp only [hs, none_unread]
  rw [if_neg (by simp [Nat.not_le.2 hn, hm]), hp]

/-! The matrix engine: groups that close before its decision (R271) -/

/-- The matrix engine of core `p` of die `d` decides once groups have closed: those that a smaller PRIO closes, then those that a merge
candidate does not fit. -/
def State.groupsClosed (s : State) (d p : Nat) : State :=
  (s.heads d p .matrix).foldl (fun t h => if h.2.2.2.hlimit.isSome then t.closeFull d p h.1 h.2.2.2 else t) (s.closeByPrio d p)
/-- `t` differs from `s` in the records of cores alone, and core `p` of die `d` counts its cycles as before. -/
structure State.onlyGroups (s t : State) (d p : Nat) : Prop where
  frame : t = { s with cores := t.cores }
  clocks : s.sameClocks t d p

theorem closeGroups_onlyGroups (s : State) (d p : Nat) (f : MGroup → Bool) : s.onlyGroups (s.closeGroups d p f) d p :=
  ⟨rfl, setCore_sameClocks s d p rfl⟩
theorem groupsClosed_onlyGroups (s : State) (d p : Nat) : s.onlyGroups (s.groupsClosed d p) d p := by
  refine List.foldlRecOn _ _ (motive := fun t => s.onlyGroups t d p) (closeGroups_onlyGroups s d p _) fun t ht h _ => ?_
  have step : t.onlyGroups (if h.2.2.2.hlimit.isSome then t.closeFull d p h.1 h.2.2.2 else t) d p := by
    unfold State.closeFull
    split
    · split
      · exact ⟨rfl, sameClocks_refl t d p⟩
      · exact closeGroups_onlyGroups t d p _
    · exact ⟨rfl, sameClocks_refl t d p⟩
  exact ⟨step.frame.trans (by rw [ht.frame]), sameClocks_trans ht.clocks step.clocks⟩

/-! Commands of the port, or of no resource (R302) -/

/-- A command that is not complete at once is in flight, and at most the port is taken. -/
theorem runPort_eq (s : State) (d p u j : Nat) {q : Cmd} (hb : q.bareSync = false) :
    ∃ (k : Cmd) (s1 : State), k.cn = q.cn ∧ k.instr = q.instr ∧ k.phase = .issued ∧
      (s1 = s.toFlight u .matrix j k ∨ ∃ port, s1 = (s.toFlight u .matrix j k).setCore d p { s.core d p with port := port }) ∧
      s.runPort d p u j q = s1.refresh d p 0 := by
  unfold State.runPort
  extract_lets _ n t q1 s1
  rw [if_neg (by simp [hb])]
  refine ⟨q1, _, rfl, rfl, rfl, ?_, rfl⟩
  split
  · exact .inr ⟨n + t.1, rfl⟩
  · exact .inl rfl
theorem runPort_issues (s : State) (d p u j : Nat) {q : Cmd} (hb : q.bareSync = false) :
    (s.runPort d p u j q).hasIssued u .matrix j q ∧ s.sameClocks (s.runPort d p u j q) d p ∧
      ((s.runPort d p u j q).core d p).chose = (s.core d p).chose ∧
      (s.runPort d p u j q).mem = s.mem ∧ (s.runPort d p u j q).acc = s.acc := by
  obtain ⟨k, s1, hc, hi, hp, h1, e⟩ := runPort_eq s d p u j hb
  have issued : (s.toFlight u .matrix j k).hasIssued u .matrix j q := toFlight_hasIssued s u .matrix j hc hi hp
  have clocks := toFlight_sameClocks s u .matrix j k d p
  rw [e]
  rcases h1 with rfl | ⟨port, rfl⟩
  · exact ⟨refresh_hasIssued issued d p 0, refresh_sameClocks clocks d p 0, rfl, rfl, rfl⟩
  · refine ⟨refresh_hasIssued ?_ d p 0, refresh_sameClocks (sameClocks_trans clocks (setCore_sameClocks _ d p ?_)) d p 0, ?_, rfl, rfl⟩
    · exact issued
    · rfl
    · rw [core_refresh, core_setCore]
/-- A signal that names no object is complete as it issues (R299). -/
theorem runPort_completes (s : State) (d p u j : Nat) {q : Cmd} (hb : q.bareSync = true) :
    (s.runPort d p u j q).commandOver u .matrix j q.cn ∧ (s.runPort d p u j q).mem = s.mem ∧ (s.runPort d p u j q).acc = s.acc := by
  unfold State.runPort
  extract_lets n t q1 s1
  rw [if_pos hb]
  exact ⟨completeCmd_over s1 u .matrix j q1, rfl, rfl⟩

/-! A command that enters the array alone (R256) -/

/-- Command `q` of unit `u` has entered the array of core `p` of die `d` in `t`, whose next boundary is `D` cycles away. -/
structure State.hasEntered (s t : State) (d p D u j : Nat) (q : Cmd) : Prop where
  mem : t.mem = s.mem
  acc : t.acc = s.acc
  clocks : s.sameClocks t d p
  chose : (t.core d p).chose = (s.core d p).chose
  bound : (t.core d p).bound = s.free d p + D
  flight : ∃ k ∈ (t.ctx u .matrix j).flight, k.cn = q.cn ∧ k.phase = .issued ∧ k.enter = s.free d p
/-- Of what a command that has entered the array of core `p` of die `d` has left, nothing is in `t` other than in `s`. -/
structure State.keepsEntry (s t : State) (d p : Nat) : Prop where
  mem : t.mem = s.mem
  acc : t.acc = s.acc
  ctxs : t.ctxs = s.ctxs
  clocks : s.sameClocks t d p
  chose : (t.core d p).chose = (s.core d p).chose
  bound : (t.core d p).bound = (s.core d p).bound

theorem keepsEntry_trans {s t r : State} {d p : Nat} (h : s.keepsEntry t d p) (k : t.keepsEntry r d p) : s.keepsEntry r d p :=
  ⟨k.mem.trans h.mem, k.acc.trans h.acc, k.ctxs.trans h.ctxs, sameClocks_trans h.clocks k.clocks, k.chose.trans h.chose,
    k.bound.trans h.bound⟩
theorem setCore_keepsEntry (s : State) (d p : Nat) {c : Core} (ht : c.timing = (s.core d p).timing) (hc : c.chose = (s.core d p).chose)
    (hb : c.bound = (s.core d p).bound) : s.keepsEntry (s.setCore d p c) d p :=
  ⟨rfl, rfl, rfl, setCore_sameClocks s d p ht, by rw [core_setCore, hc], by rw [core_setCore, hb]⟩
theorem hasEntered_of_keepsEntry {s t r : State} {d p D u j : Nat} {q : Cmd} (h : s.hasEntered t d p D u j q)
    (k : t.keepsEntry r d p) : s.hasEntered r d p D u j q where
  mem := k.mem.trans h.mem
  acc := k.acc.trans h.acc
  clocks := sameClocks_trans h.clocks k.clocks
  chose := k.chose.trans h.chose
  bound := k.bound.trans h.bound
  flight := by
    rw [State.ctx, k.ctxs]
    exact h.flight

/-- Reading a row touches the remap caches alone (R240). -/
theorem cacheRow_keepsEntry (s : State) (row d p : Nat) : s.keepsEntry (s.cacheRow row).1 d p := by
  unfold State.cacheRow
  extract_lets k c c1
  split <;> exact ⟨rfl, rfl, rfl, ⟨rfl, rfl⟩, rfl, rfl⟩
theorem issueBeat_keepsEntry (s : State) (d p : Nat) (x : Beat) : s.keepsEntry (s.issueBeat d p x) d p := by
  unfold State.issueBeat
  split
  · exact ⟨rfl, rfl, rfl, sameClocks_refl s d p, rfl, rfl⟩
  · exact keepsEntry_trans (cacheRow_keepsEntry s _ d p) (setCore_keepsEntry _ d p rfl rfl rfl)
theorem issueBeats_keepsEntry (s : State) (d p : Nat) : s.keepsEntry (s.issueBeats d p) d p :=
  List.foldlRecOn _ _ (motive := fun t => s.keepsEntry t d p) (setCore_keepsEntry s d p rfl rfl rfl)
    fun t ht x _ => keepsEntry_trans ht (issueBeat_keepsEntry t d p x)
/-- Counting an undeclared command touches counters of its job and its die alone (R426). -/
theorem burst_keepsEntry (s : State) (u d p : Nat) : s.keepsEntry (s.burst u) d p := by
  unfold State.burst
  extract_lets +onlyGivenNames p' s1
  have h1 : ∃ hjobs, s1 = { s with hjobs := hjobs } := by
    unfold s1
    split <;> exact ⟨_, rfl⟩
  obtain ⟨hjobs, e⟩ := h1
  rw [e]
  refine ⟨rfl, rfl, rfl, ⟨setDie_keeps Die.dcc _ _ ?_ d, rfl⟩, rfl, rfl⟩
  rfl

theorem enter_flight (s : State) (D memb : Nat) (starts : List Nat) {d p u : Nat} (j : Nat) (q : Cmd)
    (hd : (s.unit u).place.die = d) (hp : s.home u = p) :
    ∃ k ∈ ((s.enter D memb starts (u, j, q)).ctx u .matrix j).flight, k.cn = q.cn ∧ k.phase = .issued ∧ k.enter = s.free d p := by
  subst hd hp
  unfold State.enter
  extract_lets d p q n q1 s1 c
  exact ⟨q1, by simp, rfl, rfl, rfl⟩
/-- An array command that runs alone enters at the boundary of its core, which moves by its duration (R256). -/
theorem runAlone_enters (s : State) {d p u : Nat} (j : Nat) (q : Cmd) (hd : (s.unit u).place.die = d) (hp : s.home u = p) :
    s.hasEntered (s.runAlone d p u j q) d p (s.duration u (s.rowsOf u q) q.level (s.declares u q.level) q) u j q := by
  unfold State.runAlone
  generalize s.duration u (s.rowsOf u q) q.level (s.declares u q.level) q = D
  generalize s.declares u q.level = declared
  generalize s.cmdRuns u q = rs
  unfold State.runArray
  extract_lets s0 k s2 s3
  have clocks : s.sameClocks s0 d p := ⟨rfl, rfl⟩
  have entered : s.hasEntered (s0.setCore d p { k with beats := k.beats ++ beatsOf (s0.free d p) rs, bound := s0.free d p + D }) d p D u j q := by
    refine ⟨rfl, rfl, sameClocks_trans clocks (setCore_sameClocks s0 d p ?_), ?_, ?_, enter_flight s D 0 (startsOf rs) j q hd hp⟩
    · rfl
    · rw [core_setCore]
      rfl
    · rw [core_setCore, ← sameClocks_free clocks]
  have beats : s.hasEntered s2 d p D u j q := hasEntered_of_keepsEntry entered (issueBeats_keepsEntry _ d p)
  have counted : s.hasEntered s3 d p D u j q := by
    unfold s3
    split
    · exact beats
    · exact hasEntered_of_keepsEntry beats (burst_keepsEntry s2 u d p)
  obtain ⟨mem, acc, clocks, chose, bound, flight⟩ := counted
  refine ⟨mem, acc, refresh_sameClocks clocks d p 0, chose, bound, ?_⟩
  rw [(refresh_cmds s3 d p 0 u .matrix j).2]
  exact flight

/-! The decision of the matrix engine (R104, R302) -/

theorem unitOn_place {s : State} {d p u : Nat} (h : s.unitOn d p u = true) : (s.unit u).place.die = d ∧ s.home u = p := by
  unfold State.unitOn at h
  split at h
  · simp at h
  next t ht =>
    have e : s.unit u = t := by simp [State.unit, NMap.getD, ht]
    simp only [Bool.and_eq_true, decide_eq_true_eq] at h
    obtain ⟨⟨-, hd⟩, hp⟩ := h
    exact ⟨e ▸ hd, hp⟩
/-- The contexts at whose heads an engine looks are those of units on its core. -/
theorem heads_place {s : State} {d p : Nat} {e : Engine} {h : Nat × Nat × Ctx × Cmd} (hm : h ∈ s.heads d p e) :
    (s.unit h.1).place.die = d ∧ s.home h.1 = p := by
  obtain ⟨c, -, hc⟩ := List.mem_filterMap.1 hm
  split at hc
  next on =>
    obtain ⟨-, on, -⟩ := on
    suffices e : c.1 / 12 = h.1 from e ▸ unitOn_place on
    split at hc
    · simp at hc
    · split at hc
      · simp at hc
      · split at hc
        · exact congrArg Prod.fst (Option.some.inj hc)
        · simp at hc
  · simp at hc
/-- A timed command is no choice: it enters at its stamp (R264). -/
theorem mayIssue_untimed {s : State} {d p u : Nat} {q : Cmd} (h : s.mayIssue d p u q = true) : q.stamp = none := by
  unfold State.mayIssue at h
  split at h
  · simp at h
  next hs => simpa using hs
/-- A command that the engine may choose is a ready head, and not timed. -/
theorem matrixChoices_head {s : State} {d p u j : Nat} {q : Cmd} (h : pickRank (s.matrixChoices d p) = some (.cmd u j q)) :
    ∃ c, (u, j, c, q) ∈ s.heads d p .matrix ∧ q.stamp = none := by
  obtain ⟨r, hr⟩ := pickRank_mem h
  rcases List.mem_append.1 (List.mem_of_mem_filter hr) with hc | hg
  · obtain ⟨⟨u', j', c, q'⟩, hm, hp⟩ := List.mem_filterMap.1 hc
    split at hp
    next may =>
      simp only [Option.some.injEq, Prod.mk.injEq, Pick.cmd.injEq] at hp
      obtain ⟨-, rfl, rfl, rfl⟩ := hp
      exact ⟨c, hm, mayIssue_untimed may⟩
    · simp at hp
  · obtain ⟨g, -, hp⟩ := List.mem_filterMap.1 hg
    split at hp <;> simp at hp
theorem bareSync_usesNone {q : Cmd} (h : Instr.usesNone q.instr = false) : q.bareSync = false := by
  unfold Cmd.bareSync
  split
  next hi => simp [hi, Instr.usesNone] at h
  · rfl

section
variable {s : State} {d p : Nat}
  (ht : ((s.groupsClosed d p).heads d p .matrix).all (fun h => !Instr.isMmag h.2.2.2.instr || h.2.2.2.table.isSome) = true)
include ht

theorem no_table_unread : ((s.groupsClosed d p).heads d p .matrix).find? (fun h => Instr.isMmag h.2.2.2.instr && h.2.2.2.table.isNone) = none :=
  find?_eq_none_of_all ht fun h => by cases h.2.2.2.table <;> simp
/-- With no table left to read, a command that needs no part of the engine issues at once. -/
theorem matrixIssue_instant {u j : Nat} {c : Ctx} {q : Cmd}
    (hi : ((s.groupsClosed d p).heads d p .matrix).find? (fun h => Instr.usesNone h.2.2.2.instr && decide (h.2.2.2.stamp = none)) =
      some (u, j, c, q)) :
    s.matrixIssue d p = (s.groupsClosed d p).runPort d p u j q := by
  have unread := no_table_unread ht
  unfold State.groupsClosed at *
  unfold State.matrixIssue
  simp only [unread, hi]
/-- With nothing left that goes before the choice of its cycle, the engine takes the pick that ranks first. -/
theorem matrixIssue_chooses {x : Pick}
    (hi : ((s.groupsClosed d p).heads d p .matrix).find? (fun h => Instr.usesNone h.2.2.2.instr && decide (h.2.2.2.stamp = none)) = none)
    (hb : ((s.groupsClosed d p).heads d p .matrix).find? (fun h => decide (h.2.2.2.con ≠ 0) && (s.groupsClosed d p).consortBad h.1 h.2.2.2) =
      none)
    (hl : ((s.groupsClosed d p).heads d p .matrix).all (fun h => h.2.2.2.hlimit.isNone) = true)
    (hm : (s.groupsClosed d p).mayChoose d p .matrix = true) (hs : (s.groupsClosed d p).stamped d p = [])
    (hp : pickRank ((s.groupsClosed d p).matrixChoices d p) = some x) :
    s.matrixIssue d p = ((s.groupsClosed d p).choose d p .matrix).runPick d p x := by
  have unread := no_table_unread ht
  unfold State.groupsClosed at *
  unfold State.matrixIssue
  simp only [unread, hi, hb, hm, hs, hp]
  split
  next joins =>
    obtain ⟨h, hh, e⟩ := List.exists_of_findSome?_eq_some joins
    simp [Option.isNone_iff_eq_none.1 (List.all_eq_true.1 hl h hh)] at e
  · simp
end

/-! What each engine's choice leaves -/

theorem vectorIssue_takes {s : State} {d p u j : Nat} {c : Ctx} {q : Cmd} (hn : (s.core d p).vnext ≤ s.eclk d p .vector)
    (hm : s.mayChoose d p .vector = true) (hv : s.moving d p = false)
    (hp : pickRank ((s.heads d p .vector).map fun h => (s.rank h.1 .vector h.2.1 (h.2.2.2.readyAt.getD 0), h)) = some (u, j, c, q)) :
    (s.vectorIssue d p).hasIssued u .vector j q ∧ (s.vectorIssue d p).mayChoose d p .vector = false ∧
      (s.vectorIssue d p).mem = s.mem ∧ (s.vectorIssue d p).tiles = s.tiles := by
  obtain ⟨k, next, hc, hi, ph, e⟩ := vectorIssue_eq hn hm hv hp
  rw [e]
  have issued := toFlight_hasIssued (s.choose d p .vector) u .vector j hc hi ph
  have clocks := toFlight_sameClocks (s.choose d p .vector) u .vector j k d p
  refine ⟨refresh_hasIssued ?issued d p 0, hasChosen_mayChoose (hasChosen_trans (choose_hasChosen s d p .vector)
    (refresh_sameClocks (sameClocks_trans clocks (setCore_sameClocks _ d p ?timing)) d p 0) ?chose), ?mem, ?tiles⟩
  case mem => simp [State.refresh, State.toFlight, State.choose]
  case tiles => simp [State.refresh, State.toFlight, State.choose]
  case issued => exact issued
  case timing => rfl
  case chose => rw [core_refresh, core_setCore]
theorem copyIssue_takes {s : State} {d p u j : Nat} {c : Ctx} {q : Cmd}
    (hi : (s.heads d p .copy).all (fun h => !Instr.isGather h.2.2.2.instr || h.2.2.2.table.isSome) = true)
    (hn : s.channels d p < 8) (hm : s.mayChoose d p .copy = true) (hg : q.group = [])
    (hp : pickRank (((s.heads d p .copy).filter fun h =>
      (!Instr.isPub h.2.2.2.instr || s.pubReady h.1 h.2.2.2) && !s.measured h.1 h.2.2.2).map fun h =>
      (s.rank h.1 .copy h.2.1 (h.2.2.2.readyAt.getD 0), h)) = some (u, j, c, q)) :
    (s.copyIssue d p).hasIssued u .copy j q ∧ (s.copyIssue d p).mayChoose d p .copy = false ∧ (s.copyIssue d p).sp = s.sp ∧
      ((∀ sc, q.instr ≠ .cfnc sc) → (s.copyIssue d p).mem = s.mem) := by
  rw [copyIssue_eq hi hn hm hp]
  obtain ⟨k, mem, narrow, regions, hc, hk, ph, hmem, e⟩ := takeChannel_eq (s.choose d p .copy) d p u j hg
  rw [e]
  have issued := toFlight_hasIssued (s.choose d p .copy) u .copy j hc hk ph
  have clocks := toFlight_sameClocks (s.choose d p .copy) u .copy j k d p
  refine ⟨refresh_hasIssued ?_ d p 0, hasChosen_mayChoose (hasChosen_trans (choose_hasChosen s d p .copy)
    (refresh_sameClocks ?_ d p 0) rfl), rfl, hmem⟩
  · exact issued
  · exact ⟨clocks.dcc, clocks.timing⟩

/-- What the matrix engine holds in memory and in the accumulator stays as groups close. -/
theorem groupsClosed_storage (s : State) (d p : Nat) : (s.groupsClosed d p).mem = s.mem ∧ (s.groupsClosed d p).acc = s.acc := by
  rw [(groupsClosed_onlyGroups s d p).frame]
  exact ⟨rfl, rfl⟩
/-- A pick of the array alone: its command enters at the boundary, which moves by its duration (R256). -/
theorem runPick_array (s : State) {d p u j : Nat} {c : Ctx} {q : Cmd} (hh : (u, j, c, q) ∈ s.heads d p .matrix)
    (ha : Instr.usesArray q.instr = true) (hc : q.con = 0) :
    let x := s.choose d p .matrix
    x.hasEntered (x.runPick d p (.cmd u j q)) d p (x.duration u (x.rowsOf u q) q.level (x.declares u q.level) q) u j q := by
  intro x
  obtain ⟨hd, hp⟩ := heads_place hh
  have e : x.runPick d p (.cmd u j q) = x.runAlone d p u j q := by simp [State.runPick, ha, hc]
  rw [e]
  exact runAlone_enters x j q hd hp
theorem runPick_port (s : State) {d p u j : Nat} {q : Cmd} (ha : Instr.usesArray q.instr = false) :
    s.runPick d p (.cmd u j q) = s.runPort d p u j q := by
  simp [State.runPick, ha]

/-- Settles O45: each engine takes the pick that ranks first, and what then follows leaves the command in flight and the choice made. -/
theorem engineIssues : Obligations.EngineIssues := by
  unfold Obligations.EngineIssues
  intro d p u j s c q v m hs inFlight
  obtain ⟨hmem, hacc⟩ := groupsClosed_storage v d p
  refine ⟨fun on hn hm hv hp => ⟨_, if_pos on, vectorIssue_takes (s := v) hn hm hv hp⟩,
    fun on hi hn hm hg hp => ⟨_, if_pos on, copyIssue_takes (s := v) hi hn hm hg hp⟩,
    fun on ht => ⟨fun hi => ⟨_, (if_pos on).trans (congrArg _ (matrixIssue_instant ht hi)), ?instant⟩,
      fun hi hb hl hm hst hp => ?chosen⟩⟩
  case instant =>
    cases hq : q.bareSync with
    | false =>
      obtain ⟨issued, -, -, mem, acc⟩ := runPort_issues m d p u j hq
      exact ⟨mem.trans hmem, acc.trans hacc, fun _ => issued, by simp⟩
    | true =>
      obtain ⟨complete, mem, acc⟩ := runPort_completes m d p u j hq
      exact ⟨mem.trans hmem, acc.trans hacc, by simp, fun _ => complete⟩
  case chosen =>
    obtain ⟨c', head, untimed⟩ := matrixChoices_head hp
    have chosen := matrixIssue_chooses ht hi hb hl hm hst hp
    have choice := choose_hasChosen m d p .matrix
    intro x
    refine ⟨fun ha hc => ⟨_, (if_pos on).trans (congrArg _ chosen), ?array⟩,
      fun ha => ⟨_, (if_pos on).trans (congrArg _ (chosen.trans (runPick_port _ ha))), ?port⟩⟩
    case array =>
      obtain ⟨mem, acc, clocks, chose, bound, flight⟩ := runPick_array m head ha hc
      have closed : s.sameClocks m d p :=
        sameClocks_trans (refresh_sameClocks (sameClocks_refl s d p) d p 0) (groupsClosed_onlyGroups v d p).clocks
      have free : x.free d p = s.free d p := sameClocks_free (sameClocks_trans closed choice.clocks)
      exact ⟨mem.trans hmem, acc.trans hacc, hasChosen_mayChoose (hasChosen_trans choice clocks chose), free ▸ bound, free ▸ flight⟩
    case port =>
      have resource : Instr.usesNone q.instr = false := by
        simpa [untimed] using List.find?_eq_none.1 hi _ head
      obtain ⟨issued, clocks, chose, mem, acc⟩ := runPort_issues x d p u j (bareSync_usesNone resource)
      exact ⟨mem.trans hmem, acc.trans hacc, issued, hasChosen_mayChoose (hasChosen_trans choice clocks chose)⟩

end Sys2Proof.Machine
end

section
/-! PROOFS. Special registers read and written (O7). -/
namespace Sys2Proof.Machine
open Sys2Proof

/-! Team-scope registers with no write on its way (R121, R177) -/

theorem sees_settled {t : TeamUnit} (h : t.recent = []) (n : Nat) (cur : X) (dcc : Nat) : t.sees n cur dcc = cur := by
  simp [TeamUnit.sees, h]
/-- The only write of a register is what it holds once every write applies. -/
theorem regWrite_final {s : State} (h : (s.unit s.selUnit).recent = []) (n : Nat) (old v : X) : (s.regWrite n old v).final = v := by
  simp [State.regWrite, TeamUnit.wrote, h, Recent.final, Recent.fold]

/-! The two words (R175, R176) -/

theorem mfs_wroteX {s : State} {i : BitVec 12} {v : X} (sb : BitVec 1) (d : BitVec 6) (h : s.readSreg i.toNat = some v) :
    Completes (.mfs sb d i) s fun t => s.wroteX t d v := by
  refine ⟨s.result d fun _ => v, ?_, result_wroteX s d fun _ => v⟩
  show execMfs sb d i s = _
  rw [execMfs, h]
theorem mts_completes {s w : State} {i : BitVec 12} {P : State → Prop} (sb : BitVec 1) (a : BitVec 6)
    (h : s.writeSreg i.toNat (s.stream.getX a) = some w) (hp : P w.advance) : Completes (.mts sb a i) s P := by
  refine ⟨w.advance, ?_, hp⟩
  show execMts sb a i s = _
  rw [execMts, h]

/-- In `t` unit `u` is `x`, and every other unit, the registers of the stream in issue and global memory are as they were. -/
structure State.onlyUnit (s t : State) (u : Nat) (x : TeamUnit) : Prop where
  unit : t.unit u = x
  others : ∀ k, k ≠ u → t.unit k = s.unit k
  regs : s.sameRegs t
  memory : s.keepsMemory t

theorem onlyUnit_setUnit_advance (s : State) {u : Nat} {x : TeamUnit} (h : x.place = (s.unit u).place) :
    s.onlyUnit (s.setUnit u x).advance u x where
  unit := by simp
  others k hk := by rw [unit_advance, unit_setUnit_ne _ _ hk]
  regs := by
    have same : (s.setUnit u x).stream = s.stream := rfl
    constructor <;> intro r <;> simp [same]
  memory := sameStore_keepsMemory (sameStore_trans (setUnit_sameStore s u x h) (advance_sameStore _))
/-- An MTS that writes a register of its team. -/
theorem mts_team {s : State} {u : Nat} {x : TeamUnit} {i : BitVec 12} {P : State → Prop} (sb : BitVec 1) (a : BitVec 6)
    (h : s.writeSreg i.toNat (s.stream.getX a) = some (s.setUnit u x)) (hx : x.place = (s.unit u).place)
    (hp : ∀ t, s.onlyUnit t u x → P t) : Completes (.mts sb a i) s P :=
  mts_completes sb a h (hp _ (onlyUnit_setUnit_advance s hx))

/-- A voice in issue moves on with the trap registers it was given. -/
theorem trapRegs_setVoice_advance {s : State} {u j : Nat} (hs : s.sel = .voice u j) (v : Voice) :
    ((s.setVoice u j v).advance.voice u j).xpc = v.xpc ∧ ((s.setVoice u j v).advance.voice u j).xsw = v.xsw := by
  simp [State.advance, State.mapStream, hs]

/-- The code and class in a cause word. -/
theorem causeWord_code (code cls : Nat) (eng : Option Engine) (vx : Nat) :
    (causeWord code cls eng vx).toNat % 1024 = (code + cls * 256) % 1024 := by
  unfold causeWord
  rw [BitVec.toNat_ofNat]
  cases eng with
  | none => simp only; omega
  | some e => simp only; omega

/-- A write refused in a voice of a resident team is the illegal-instruction fault. -/
theorem mts_refused {s : State} {u j : Nat} {i : BitVec 12} (sb : BitVec 1) (a : BitVec 6) (hs : s.sel = .voice u j)
    (hr : (s.unit u).status = .resident) (h : s.writeSreg i.toNat (s.stream.getX a) = none) :
    Completes (.mts sb a i) s fun t => (t.unit u).status = .failing ∧ (t.voice u j).xcause.toNat % 1024 = 0x01 ∧
      (t.voice u j).xpc = (s.voice u j).st.pc := by
  obtain ⟨status, pc, cause, -, -⟩ := raiseTrap_classF s u j s.illegal hs hr (show 0x01 < 0x40 by decide)
  refine ⟨s.raiseTrap s.illegal, ?_, status, ?_, pc⟩
  · show execMts sb a i s = _
    rw [execMts, h]
  · rw [cause, causeWord_code]
    rfl

/-! Values as the registers' widths take them (R121) -/

theorem scope_toNat (v : X) : ((v &&& 7).setWidth 3 : BitVec 3).toNat = v.toNat % 8 := by
  have low : v.toNat &&& 7 = v.toNat % 8 := Nat.and_two_pow_sub_one_eq_mod v.toNat 3
  rw [BitVec.toNat_setWidth, BitVec.toNat_and, show (7 : X).toNat = 7 from rfl, low]
  exact Nat.mod_mod _ _
theorem wthr_clamp (v : X) :
    ((if v.setWidth 32 < (256 : BitVec 32) then 256 else (v.setWidth 32 : BitVec 32).setWidth 64 : X).setWidth 32 : BitVec 32).toNat =
      max 256 (v.toNat % 2 ^ 32) := by
  have below : v.setWidth 32 < (256 : BitVec 32) ↔ v.toNat % 2 ^ 32 < 256 := by simp [BitVec.lt_def]
  split
  next h => simpa using (below.1 h).le
  next h =>
    have := mt below.2 h
    simp only [BitVec.toNat_setWidth]
    omega
theorem mhl_clamp (v : X) :
    ((if 1024 < (v.setWidth 11 : BitVec 11).toNat then 1024 else v &&& 0x7FF : X).setWidth 11 : BitVec 11).toNat =
      min 1024 (v.toNat % 2 ^ 11) := by
  have low : v.toNat &&& 2047 = v.toNat % 2 ^ 11 := Nat.and_two_pow_sub_one_eq_mod v.toNat 11
  have field : (v.setWidth 11 : BitVec 11).toNat = v.toNat % 2 ^ 11 := BitVec.toNat_setWidth 11 v
  rw [field]
  split
  next h => simpa using h.le
  next h =>
    rw [BitVec.toNat_setWidth, BitVec.toNat_and, show (0x7FF : X).toNat = 2047 from rfl, low]
    omega

/-! What MTS makes of each register (R121, R176, R177) -/

section
variable {s : State} (settled : (s.unit s.selUnit).recent = []) (v : X)
include settled

theorem writeSreg_fpfl : ∃ x, s.writeSreg 0x024 v = some (s.setUnit s.selUnit x) ∧ x.place = (s.unit s.selUnit).place ∧
    x.fpfl = v &&& 0x7F := ⟨_, rfl, rfl, regWrite_final settled _ _ _⟩
theorem writeSreg_mhl : ∃ x, s.writeSreg 0x026 v = some (s.setUnit s.selUnit x) ∧ x.place = (s.unit s.selUnit).place ∧
    x.mhl.toNat = min 1024 (v.toNat % 2 ^ 11) := by
  refine ⟨_, rfl, rfl, ?_⟩
  rw [regWrite_final settled]
  exact mhl_clamp v
theorem writeSreg_xhnd {u j : Nat} (hs : s.sel = .voice u j) : ∃ x, s.writeSreg 0x014 v = some (s.setUnit s.selUnit x) ∧
    x.place = (s.unit s.selUnit).place ∧ x.xhnd = v &&& ~~~15 := by
  simp only [State.writeSreg, hs]
  exact ⟨_, rfl, rfl, regWrite_final settled _ _ _⟩
theorem writeSreg_wthr {u j : Nat} (hs : s.sel = .voice u j) : ∃ x, s.writeSreg 0x020 v = some (s.setUnit s.selUnit x) ∧
    x.place = (s.unit s.selUnit).place ∧ x.wthr.toNat = max 256 (v.toNat % 2 ^ 32) := by
  simp only [State.writeSreg, hs]
  refine ⟨_, rfl, rfl, ?_⟩
  rw [regWrite_final settled]
  exact wthr_clamp v
theorem writeSreg_stsc {u j : Nat} (hs : s.sel = .voice u j) (hv : v.toNat % 8 < 6) :
    ∃ x, s.writeSreg 0x022 v = some (s.setUnit s.selUnit x) ∧ x.place = (s.unit s.selUnit).place ∧ x.stsc.toNat = v.toNat % 8 := by
  have scope : ¬ 6 ≤ (v.setWidth 3 : BitVec 3).toNat := by rw [BitVec.toNat_setWidth]; omega
  simp only [State.writeSreg, hs, if_neg scope]
  refine ⟨_, rfl, rfl, ?_⟩
  rw [regWrite_final settled]
  exact scope_toNat v

end

/-- In a handler its voice writes what it returns to. -/
theorem writeSreg_handler {s : State} {u j : Nat} (hs : s.sel = .voice u j) (hh : (s.voice u j).hmode = true) (v : X) :
    s.writeSreg 0x010 v = some (s.setVoice u j { s.voice u j with xpc := v }) ∧
    s.writeSreg 0x011 v = some (s.setVoice u j { s.voice u j with xsw := v }) := by
  simp [State.writeSreg, hs, hh]
/-- What is refused: XPC and XSW outside a handler, a scope that is none, a row source that is none. -/
theorem writeSreg_refused {s : State} {u j : Nat} (hs : s.sel = .voice u j) {v : X} {i : BitVec 12}
    (hi : i ∈ (if (s.voice u j).hmode then [] else [0x010, 0x011] : List (BitVec 12)) ++ (if v.toNat % 8 < 6 then [] else [0x022]) ++
      (if v.setWidth 8 &&& (0x0C : BitVec 8) = 0 then [] else [0x021])) : s.writeSreg i.toNat v = none := by
  rcases List.mem_append.1 hi with hi | hi
  · rcases List.mem_append.1 hi with hi | hi
    · cases hh : (s.voice u j).hmode with
      | true => simp [hh] at hi
      | false =>
        have hi : i = 0x010 ∨ i = 0x011 := by simpa [hh] using hi
        rcases hi with rfl | rfl <;> simp [State.writeSreg, hs, hh]
    · split at hi
      · cases hi
      next hv =>
        obtain rfl := List.mem_singleton.1 hi
        have noScope : 6 ≤ (v.setWidth 3 : BitVec 3).toNat := by rw [BitVec.toNat_setWidth]; omega
        simp only [State.writeSreg, hs]
        exact if_pos noScope
  · split at hi
    · cases hi
    next hv =>
      obtain rfl := List.mem_singleton.1 hi
      exact if_neg hv

/-- Settles O7: by the value that MFS reads of each register, and by what MTS makes of each with no other write of it on its way, or
refuses. -/
theorem specialRegisters : Obligations.SpecialRegisters := by
  unfold Obligations.SpecialRegisters
  intro sb d a s
  refine ⟨mfs_wroteX sb d rfl, mfs_wroteX sb d rfl, fun settled => mfs_wroteX sb d ?_, mfs_wroteX sb d rfl,
    fun i v h => mfs_wroteX sb d h, fun settled => ?fpfl, fun u j hs => ⟨fun settled => ⟨?xhnd, ?wthr⟩, fun settled hv => ?stsc,
      fun hh => ⟨?xpc, ?xsw⟩, fun hr i hi => mts_refused sb a hs hr (writeSreg_refused hs hi)⟩, fun hv => ?fmsel, fun settled => ?mhl⟩
  · exact congrArg some (sees_settled settled _ _ _)
  case fpfl =>
    obtain ⟨x, hw, hx, value⟩ := writeSreg_fpfl settled (s.stream.getX a)
    exact mts_team sb a hw hx fun t h => ⟨by rw [h.unit, value], h.memory, h.regs.1, h.others⟩
  case fmsel =>
    refine mts_completes sb a (if_pos hv) ⟨?_, ⟨fun r => ?_, fun p => ?_⟩, ?_, ?_⟩
    · simp [Stream.setFmsel]
    · simp [Stream.setFmsel, Stream.getX]
    · simp [Stream.setFmsel, Stream.getP]
    · exact sameStore_keepsMemory (sameStore_trans (mapStream_sameStore s _) (advance_sameStore _))
    · simp
  case mhl =>
    obtain ⟨x, hw, hx, value⟩ := writeSreg_mhl settled (s.stream.getX a)
    exact mts_team sb a hw hx fun t h => ⟨by rw [h.unit, value], h.regs, h.memory, h.others⟩
  case xpc =>
    exact mts_completes sb a (writeSreg_handler hs hh _).1 (trapRegs_setVoice_advance hs _).1
  case xsw =>
    exact mts_completes sb a (writeSreg_handler hs hh _).2 (trapRegs_setVoice_advance hs _).symm
  all_goals
    obtain rfl : s.selUnit = u := by simp [State.selUnit, hs]
  case xhnd =>
    obtain ⟨x, hw, hx, value⟩ := writeSreg_xhnd settled (s.stream.getX a) hs
    exact mts_team sb a hw hx fun t h => ⟨by rw [h.unit, value], h.memory⟩
  case wthr =>
    obtain ⟨x, hw, hx, value⟩ := writeSreg_wthr settled (s.stream.getX a) hs
    exact mts_team sb a hw hx fun t h => by rw [h.unit, value]
  case stsc =>
    obtain ⟨x, hw, hx, value⟩ := writeSreg_stsc settled (s.stream.getX a) hs hv
    exact mts_team sb a hw hx fun t h => ⟨by rw [h.unit, value], h.regs, h.memory, h.others⟩

end Sys2Proof.Machine
end

section
/-! PROOFS. A command that passes its checks enters its queue: what that makes of its context, and what it leaves alone (R125, R222). -/
namespace Sys2Proof.Machine
open Sys2Proof

/-! What marking the head of a queue changes (R104, R263) -/

/-- A command but for the marks of its readiness. -/
def Cmd.unmarked (q : Cmd) : Cmd := { q with armed := false, armedAt := 0, readyAt := none }
/-- A context but for the marks of its head and the account of its readiness. -/
def Ctx.unmarked (c : Ctx) : Ctx := { c with queue := c.queue.map Cmd.unmarked, boost := 0, since := none, gap := 0 }

theorem unready_unmarked (c : Ctx) (n : Nat) : (c.unready n).unmarked = c.unmarked := by
  unfold Ctx.unready
  split <;> rfl
theorem readyFrom_unmarked (c : Ctx) (r : Nat) : (c.readyFrom r).unmarked = c.unmarked := by
  unfold Ctx.readyFrom
  split
  · rfl
  · split <;> rfl
/-- Another queue whose commands differ in marks alone. -/
theorem unmarked_withQueue {b c : Ctx} {l : List Cmd} (h : b.unmarked = c.unmarked) (hl : l.map Cmd.unmarked = c.queue.map Cmd.unmarked) :
    ({ b with queue := l } : Ctx).unmarked = c.unmarked := by
  have hb : ({ b with queue := l } : Ctx).unmarked = { b.unmarked with queue := l.map Cmd.unmarked } := rfl
  rw [hb, h, hl]
  rfl
theorem markHead_unmarked (s : State) (d p late : Nat) (e : Engine) (c : Ctx) : (s.markHead d p late e c).unmarked = c.unmarked := by
  unfold State.markHead
  split
  · rfl
  next q qs hq =>
    extract_lets q1
    have h1 : q1.unmarked = q.unmarked := by
      unfold q1
      split <;> rfl
    have marked : ∀ r, (({ q1 with readyAt := r } : Cmd) :: qs).map Cmd.unmarked = c.queue.map Cmd.unmarked := fun r => by
      rw [hq, List.map_cons, List.map_cons, ← h1]
      rfl
    split
    · exact unmarked_withQueue (unready_unmarked c _) (marked _)
    · split
      · exact unmarked_withQueue (readyFrom_unmarked c _) (marked _)
      · exact unmarked_withQueue rfl (marked q1.readyAt)
theorem refresh_unmarked (s : State) (d p late u : Nat) (e : Engine) (j : Nat) :
    ((s.refresh d p late).ctx u e j).unmarked = (s.ctx u e j).unmarked := by
  refine NMap.getD_map_keeps (g := Ctx.unmarked) (fun c => ?_) (fun c => ?_) _ _
  · split <;> rfl
  · split
    · exact markHead_unmarked _ _ _ _ _ _
    · rfl

/-! A command enters its queue (R125, R126) -/

/-- Command `c` as context `j` of engine `e` of unit `u` queues it. -/
def State.asQueued (s : State) (u : Nat) (e : Engine) (j : Nat) (c : Cmd) : Cmd :=
  { c with cn := (s.ctx u e j).nextCn, word := s.iw, raw := s.ir, entry := s.entryNow u e j, born := s.entryNow u e j, stsc := s.stscNow,
           pins := c.pins.eraseDups }

/-- Writing journal entries changes of a context the head of its ring. -/
theorem journal_ctx (s : State) (u : Nat) (e : Engine) (j : Nat) (q : Cmd) :
    ∃ n, (s.journal u e j q).ctx u e j = { s.ctx u e j with jpos := n } := by
  obtain ⟨m, hm, -⟩ := putEntries_eq s u e j (s.ctx u e j).jpos q.journalEntries (journalEntries_length q)
  rw [State.journal, hm]
  exact ⟨_, ctx_setCtx _ _ _ _ _⟩
/-- What entering the queue makes of a context, whose journal ring then begins at `n`. -/
def State.ctxQueued (s : State) (u : Nat) (e : Engine) (j : Nat) (c : Cmd) (n : Nat) : Ctx :=
  { s.ctx u e j with
    nextCn := (s.ctx u e j).nextCn + 1, queue := (s.ctx u e j).queue ++ [s.asQueued u e j c]
    hold := if Instr.takesHold c.instr then none else (s.ctx u e j).hold, jpos := n }

theorem enqueue_ctx {s : State} {u j : Nat} {e : Engine} (hs : s.sel = .ctx u e j) (c : Cmd) :
    ∃ n, (s.enqueue c).ctx u e j = s.ctxQueued u e j c n := by
  obtain ⟨n, hn⟩ := journal_ctx s u e j (s.asQueued u e j c)
  refine ⟨n, ?_⟩
  unfold State.enqueue
  rw [hs]
  dsimp only
  split
  · rw [ctx_setCtx]
    show ({ (s.journal u e j (s.asQueued u e j c)).ctx u e j with nextCn := _, queue := _, hold := _ } : Ctx) = _
    rw [hn]
    rfl
  · rw [ctx_setUnit, ctx_setCtx]
    show ({ (s.journal u e j (s.asQueued u e j c)).ctx u e j with nextCn := _, queue := _, hold := _ } : Ctx) = _
    rw [hn]
    rfl
theorem journal_sel (s : State) (u : Nat) (e : Engine) (j : Nat) (q : Cmd) : (s.journal u e j q).sel = s.sel := by
  obtain ⟨m, hm, -⟩ := putEntries_eq s u e j (s.ctx u e j).jpos q.journalEntries (journalEntries_length q)
  rw [State.journal, hm]
  rfl
theorem enqueue_sel (s : State) (c : Cmd) : (s.enqueue c).sel = s.sel := by
  unfold State.enqueue
  split
  · dsimp only
    split <;> simp only [setUnit_sel, setCtx_sel, journal_sel]
  · rfl
theorem ctx_advance {s : State} {u j : Nat} {e : Engine} (hs : s.sel = .ctx u e j) :
    s.advance.ctx u e j = { s.ctx u e j with st := (s.ctx u e j).st.advance 4 } := by
  simp [State.advance, State.mapStream, hs]

theorem entersQueue_imp {s t : State} {u j : Nat} {e : Engine} {i : Instr} {P Q : Cmd → Prop} (h : s.entersQueue t u e j i P)
    (hpq : ∀ g, P g → Q g) : s.entersQueue t u e j i Q := by
  obtain ⟨⟨c, last, cn, instr, word, hc⟩, rest⟩ := h
  exact ⟨⟨c, last, cn, instr, word, hpq c hc⟩, rest⟩

/-- In `t` the word in issue of context `j` of engine `e` of unit `u` has submitted `c` and moved on. -/
structure State.hasSubmitted (s t : State) (u : Nat) (e : Engine) (j : Nat) (c : Cmd) : Prop where
  sel : t.sel = s.sel
  stores : s.sameButJournal t u e j
  ctx : ∃ n, (t.ctx u e j).unmarked =
    ({ s.ctxQueued u e j c n with st := (s.ctx u e j).st.advance 4 } : Ctx).unmarked

theorem submit_hasSubmitted {s : State} {u j : Nat} {e : Engine} {c : Cmd} (hs : s.sel = .ctx u e j)
    (hp : c.pins.eraseDups.length ≤ 4096) (hf : s.pltFull (s.unit u).place.die c.pins.eraseDups = false) :
    ∃ t, s.submit c = .next t ∧ s.hasSubmitted t u e j c := by
  obtain rfl : s.selUnit = u := by simp [State.selUnit, hs]
  have ht : s.submit c = .next ((s.enqueue c).advance.refreshUnit s.selUnit 0) := by
    simp [State.submit, Nat.not_lt.2 hp, hf]
  have hsel := (enqueue_sel s c).trans hs
  obtain ⟨n, hn⟩ := enqueue_ctx hs c
  refine ⟨_, ht, ⟨?_, submit_sameButJournal hs ht, n, ?_⟩⟩
  · exact (advance_sel _).trans (enqueue_sel s c)
  · rw [State.refreshUnit, refresh_unmarked, ctx_advance hsel, hn]
    rfl

/-- The entries of tensors that the checks of the word refilled are no part of what it submits. -/
theorem hasSubmitted_of_launches {s t : State} {l : NMap Launch} {u j : Nat} {e : Engine} {c : Cmd}
    (h : ({ s with launches := l } : State).hasSubmitted t u e j c) : s.hasSubmitted t u e j c where
  sel := h.sel
  stores := ⟨h.stores.mem, h.stores.lineKey, h.stores.mpoison, h.stores.narrow, h.stores.fresh, h.stores.sp, h.stores.acc,
    h.stores.tiles, h.stores.masks, h.stores.lan, h.stores.dsc, h.stores.wt, h.stores.place⟩
  ctx := h.ctx
section
variable {s t : State} {u j : Nat} {e : Engine} {c : Cmd} (h : s.hasSubmitted t u e j c) (hs : s.sel = .ctx u e j)
include h

theorem hasSubmitted_entersQueue :
    s.entersQueue t u e j c.instr fun g => g.unmarked = (s.asQueued u e j c).unmarked := by
  obtain ⟨n, hc⟩ := h.ctx
  have queue : (t.ctx u e j).queue.map Cmd.unmarked = ((s.ctx u e j).queue ++ [s.asQueued u e j c]).map Cmd.unmarked :=
    congrArg Ctx.queue hc
  refine ⟨?_, ?_, congrArg Ctx.nextCn hc, (congrArg Ctx.flight hc :), (congrArg Ctx.done hc :),
    sameButJournal_keepsMemory h.stores, h.stores⟩
  · have last := congrArg List.getLast? queue
    rw [List.map_append, List.map_singleton, List.getLast?_concat, List.getLast?_map] at last
    obtain ⟨g, hg, unmarked⟩ := Option.map_eq_some_iff.1 last
    exact ⟨g, hg, congrArg Cmd.cn unmarked, (congrArg Cmd.instr unmarked :), congrArg Cmd.word unmarked, unmarked⟩
  · simpa using congrArg List.length queue
include hs
theorem hasSubmitted_sameRegs : s.sameRegs t := by
  obtain ⟨n, hc⟩ := h.ctx
  have st : t.stream = s.stream.advance 4 := by
    have ht : t.sel = .ctx u e j := h.sel.trans hs
    simp only [State.stream, ht, hs]
    exact congrArg Ctx.st hc
  exact ⟨fun r => by rw [st, getX_advance], fun p => by rw [st, getP_advance]⟩
end

/-! Checks of submission change no more than the tile entries of tensors (R221, R222) -/

theorem lookTile_ok {s s1 : State} {u tn i f : Nat} {acc : Access} {b : Bool} (h : s.lookTile u tn acc b i = .ok (s1, f)) :
    ∃ l, s1 = { s with launches := l } := by
  unfold State.lookTile at h
  extract_lets p l t va take at h
  have taken : ∀ {r x}, take r x = .ok (s1, f) → s1 = r := by
    intro r x hr
    unfold take at hr
    split at hr
    · injection hr with hr
      exact (congrArg Prod.fst hr).symm
    · cases hr
  split at h
  · exact ⟨s.launches, taken h⟩
  · split at h
    · cases h
    · cases h
    · split at h
      · exact ⟨_, taken h⟩
      · cases h
theorem lookTiles_ok {s s1 : State} {u tn : Nat} {acc : Access} {l : List (Bool × Nat)} {fs gs : List Nat}
    (h : s.lookTiles u tn acc l fs = .ok (s1, gs)) : ∃ l, s1 = { s with launches := l } := by
  induction l generalizing s fs with
  | nil =>
    injection h with h
    exact ⟨s.launches, (congrArg Prod.fst h).symm⟩
  | cons k ks ih =>
    rw [State.lookTiles] at h
    split at h
    · cases h
    next s2 f hk =>
      obtain ⟨l2, rfl⟩ := lookTile_ok hk
      obtain ⟨l3, rfl⟩ := ih h
      exact ⟨l3, rfl⟩

end Sys2Proof.Machine
end

section
/-! PROOFS. MMA and MMAG enter their queue, or are turned away (O28). -/
namespace Sys2Proof.Machine
open Sys2Proof

/-! What the checks of the words leave (R280) -/

theorem bind_ok {ε α β : Type} {x : Except ε α} {f : α → Except ε β} {b : β} (h : x >>= f = .ok b) : ∃ a, x = .ok a ∧ f a = .ok b := by
  cases x with
  | error e => cases h
  | ok a => exact ⟨a, rfl, h⟩
theorem checkA_ok {s : State} {u code sm m : Nat} {a : AOp} {cs : List Claim} {o : Operand} (h : s.checkA u a code sm m cs = .ok o) :
    ∃ l, o.state = { s with launches := l } := by
  unfold State.checkA at h
  split at h
  · split at h
    · cases h
    · split at h
      · cases h
      · extract_lets copy tiles at h
        obtain ⟨-, -, h⟩ := bind_ok h
        obtain ⟨-, -, h⟩ := bind_ok h
        obtain ⟨⟨s1, fs⟩, hl, h⟩ := bind_ok h
        obtain ⟨l, rfl⟩ := lookTiles_ok hl
        injection h with h
        exact ⟨l, (congrArg Operand.state h).symm⟩
  · extract_lets cs1 at h
    obtain ⟨-, -, h⟩ := bind_ok h
    injection h with h
    exact ⟨s.launches, (congrArg Operand.state h).symm⟩

/-- What the checks of an MMA or MMAG word leave: tile entries refilled at most, and a command of its instruction, its registers and its
stamp. -/
structure State.hasPrepared (s s1 : State) (i : Instr) (a w : BitVec 6) (t : Bool) (k : Cmd) : Prop where
  state : ∃ l, s1 = { s with launches := l }
  instr : k.instr = i
  regs : k.regs = [s.stream.getX a, s.stream.getX (a + 1), s.stream.getX w, s.stream.getX (w + 1)]
  stamp : k.stamp = if t then some (s.stream.getX (w + 1)).toNat else none

theorem prepMma_hasPrepared {s s1 : State} {i : Instr} {z : BitVec 4} {a w : BitVec 6} {acc d m t c : Bool} {f : Nat} {k : Cmd}
    (h : s.prepMma i z a w acc d m t c f = .ok (s1, k)) : s.hasPrepared s1 i a w t k := by
  unfold State.prepMma at h
  extract_lets u x un e o wa code sm rows slot limit at h
  obtain ⟨-, -, h⟩ := bind_ok h
  obtain ⟨-, -, h⟩ := bind_ok h
  split at h
  · cases h
  · obtain ⟨-, -, h⟩ := bind_ok h
    obtain ⟨-, -, h⟩ := bind_ok h
    obtain ⟨-, -, h⟩ := bind_ok h
    obtain ⟨op, hop, h⟩ := bind_ok h
    obtain ⟨-, -, h⟩ := bind_ok h
    injection h with h
    obtain ⟨rfl, rfl⟩ := Prod.mk.inj h
    exact ⟨checkA_ok hop, rfl, rfl, rfl⟩
theorem prepMmag_hasPrepared {s s1 : State} {i : Instr} {z : BitVec 4} {a w : BitVec 6} {acc t : Bool} {f : Nat} {k : Cmd}
    (h : s.prepMmag i z a w acc t f = .ok (s1, k)) : s.hasPrepared s1 i a w t k := by
  unfold State.prepMmag at h
  extract_lets u x e o tab code sm slot at h
  obtain ⟨-, -, h⟩ := bind_ok h
  obtain ⟨-, -, h⟩ := bind_ok h
  obtain ⟨op, hop, h⟩ := bind_ok h
  obtain ⟨-, -, h⟩ := bind_ok h
  injection h with h
  obtain ⟨rfl, rfl⟩ := Prod.mk.inj h
  exact ⟨checkA_ok hop, rfl, rfl, rfl⟩

/-! A word whose checks pass (R125, R419) -/

theorem engineWord_of_takes {s : State} {u j n : Nat} {e : Engine} {pins : List Nat} (h : s.takes u e j n pins)
    (c : State × Cmd) (f : State → Cmd → Out) : s.engineWord e n (.ok c) f = f c.1 c.2 := by
  obtain ⟨hs, room, -, -⟩ := h
  simp [State.engineWord, hs, room]

/-- Command `k` of context `j` of engine `e` of unit `u` is turned away: its team has the draw-level event, and its context the hold that
it would not have taken (R297, R419). -/
def State.turnedAway (s : State) (u : Nat) (e : Engine) (j : Nat) (k : Cmd) : State :=
  let s1 := s.event u e j ⟨0x83, s.wordInfo k.level⟩
  if Instr.takesHold k.instr then s1.setCtx u e j { s1.ctx u e j with hold := none } else s1

theorem submitDrawn_admitted {s s1 : State} {k : Cmd} (h : s.admits s.selUnit k.level) : s.submitDrawn s1 k = s1.submit k := by
  refine if_neg fun above => ?_
  rcases h with h | h <;> omega
theorem submitDrawn_above {s s1 : State} {u j : Nat} {e : Engine} {k : Cmd} (hs : s.sel = .ctx u e j) (h : ¬ s.admits u k.level) :
    s.submitDrawn s1 k = .next (s.turnedAway u e j k).advance := by
  obtain rfl : s.selUnit = u := by simp [State.selUnit, hs]
  obtain ⟨granted, above⟩ := not_or.1 h
  have trap : s.takeTrap ⟨0x83, s.wordInfo k.level⟩ = s.event s.selUnit e j ⟨0x83, s.wordInfo k.level⟩ := by
    simp [State.takeTrap, hs, Trap.cls]
  rw [State.submitDrawn, if_pos ⟨Nat.pos_of_ne_zero granted, Nat.lt_of_not_le above⟩, trap]
  simp only [hs, State.turnedAway]
  split <;> rfl

theorem event_ctx (s : State) (u : Nat) (e : Engine) (j : Nat) (t : Trap) (v : Nat) (g : Engine) (i : Nat) :
    (s.event u e j t).ctx v g i = s.ctx v g i := by
  unfold State.event
  dsimp only
  split <;> rfl
theorem event_sel (s : State) (u : Nat) (e : Engine) (j : Nat) (t : Trap) : (s.event u e j t).sel = s.sel := by
  unfold State.event
  dsimp only
  split <;> rfl
theorem event_events {s : State} {u : Nat} (e : Engine) (j : Nat) (t : Trap) (h : (s.unit u).events.length < 32) :
    ((s.event u e j t).unit u).events = (s.unit u).events ++ [(causeWord t.code 2 (some e) j, BitVec.ofNat 64 t.info)] := by
  simp [State.event, h]

section
variable (s : State) (u : Nat) (e : Engine) (j : Nat) (k : Cmd)

theorem turnedAway_sameStore : s.sameStore (s.turnedAway u e j k) := by
  unfold State.turnedAway
  dsimp only
  split
  · exact sameStore_trans (event_sameStore _ _ _ _ _) (setCtx_sameStore _ _ _ _ _)
  · exact event_sameStore _ _ _ _ _
theorem turnedAway_sel : (s.turnedAway u e j k).sel = s.sel := by
  unfold State.turnedAway
  dsimp only
  split <;> exact event_sel _ _ _ _ _
theorem turnedAway_unit (v : Nat) : (s.turnedAway u e j k).unit v = (s.event u e j ⟨0x83, s.wordInfo k.level⟩).unit v := by
  unfold State.turnedAway
  dsimp only
  split <;> rfl
theorem turnedAway_ctx : (s.turnedAway u e j k).ctx u e j =
    { s.ctx u e j with hold := if Instr.takesHold k.instr then none else (s.ctx u e j).hold } := by
  unfold State.turnedAway
  dsimp only
  split
  · rw [ctx_setCtx, event_ctx]
  · exact event_ctx _ _ _ _ _ _ _ _

end

section
variable {s s1 : State} {i : Instr} {a w : BitVec 6} {t : BitVec 1} {u j : Nat} {k : Cmd}
  (prepared : s.hasPrepared s1 i a w (decide (t = 1)) k) (run : exec i s = s.submitDrawn s1 k)
include prepared run

/-- At a level that the grant admits the word enters its queue. -/
theorem drawn_enters (takes : s.takes u .matrix j 4 k.pins) (admits : s.admits u k.level) :
    Completes i s fun x => s.sameRegs x ∧ s.entersQueue x u .matrix j i fun g =>
      g.regs = [s.stream.getX a, s.stream.getX (a + 1), s.stream.getX w, s.stream.getX (w + 1)] ∧ g.claims = k.claims ∧
        g.level = k.level ∧ g.stamp = if t = 1 then some (s.stream.getX (w + 1)).toNat else none := by
  obtain ⟨hs, -, tiles, locks⟩ := takes
  obtain ⟨⟨l, rfl⟩, instr, regs, stamp⟩ := prepared
  have unit : s.selUnit = u := by simp [State.selUnit, hs]
  obtain ⟨x, hx, checked⟩ := submit_hasSubmitted (s := { s with launches := l }) hs tiles locks
  have submitted : s.hasSubmitted x u .matrix j k := hasSubmitted_of_launches checked
  refine ⟨x, run.trans ((submitDrawn_admitted (unit ▸ admits)).trans hx), hasSubmitted_sameRegs submitted hs,
    instr ▸ entersQueue_imp (hasSubmitted_entersQueue submitted) fun g unmarked => ?_⟩
  have gstamp : g.stamp = k.stamp := (congrArg Cmd.stamp unmarked :)
  exact ⟨(congrArg Cmd.regs unmarked :).trans regs, (congrArg Cmd.claims unmarked :), (congrArg Cmd.level unmarked :),
    by simpa [stamp] using gstamp⟩
/-- Above the grant the word only raises its event and takes its hold. -/
theorem drawn_above (hs : s.sel = .ctx u .matrix j) (above : ¬ s.admits u k.level) (room : (s.unit u).events.length < 32) :
    Completes i s fun x => s.sameRegs x ∧ s.keepsMemory x ∧ s.keepsCores x ∧
      (x.ctx u .matrix j).queue = (s.ctx u .matrix j).queue ∧ (x.ctx u .matrix j).nextCn = (s.ctx u .matrix j).nextCn ∧
      (x.ctx u .matrix j).hold = (if Instr.takesHold i then none else (s.ctx u .matrix j).hold) ∧
      (x.unit u).events.map (fun e => e.1.toNat % 1024) = (s.unit u).events.map (fun e => e.1.toNat % 1024) ++ [0x83 + 2 * 256] := by
  have sel : (s.turnedAway u .matrix j k).sel = .ctx u .matrix j := (turnedAway_sel s u .matrix j k).trans hs
  have ctx := (ctx_advance sel).trans (by rw [turnedAway_ctx, prepared.instr])
  have stores : s.sameStore (s.turnedAway u .matrix j k).advance :=
    sameStore_trans (turnedAway_sameStore s u .matrix j k) (advance_sameStore _)
  have stream : (s.turnedAway u .matrix j k).stream = s.stream := by
    simp only [State.stream, sel, hs, turnedAway_ctx]
  refine ⟨_, run.trans (submitDrawn_above hs above), ⟨fun r => ?_, fun p => ?_⟩, sameStore_keepsMemory stores,
    sameStore_keepsCores stores, ?_, ?_, ?_, ?_⟩
  · rw [stream_advance, getX_advance, stream]
  · rw [stream_advance, getP_advance, stream]
  · rw [ctx]
  · rw [ctx]
  · rw [ctx]
  · rw [unit_advance, turnedAway_unit, event_events _ _ _ room]
    simp [causeWord_code]

end

/-- Settles O28: what the checks leave names the word, its registers and its stamp, and the grant decides between the queue and the event. -/
theorem arrayCommandsEnter : Obligations.ArrayCommandsEnter := by
  unfold Obligations.ArrayCommandsEnter
  intro z a w p q d m t c f s s1 u j k ran takes
  have settle : ∀ i, s.hasPrepared s1 i a w (decide (t = 1)) k → exec i s = s.submitDrawn s1 k → ran i :=
    fun i prepared run => ⟨drawn_enters prepared run takes, drawn_above prepared run takes.1⟩
  refine ⟨fun h => settle _ (prepMma_hasPrepared h) ?_, fun h => settle _ (prepMmag_hasPrepared h) ?_⟩
  · show execMma z a w p q d m t c f s = _
    rw [execMma, h, engineWord_of_takes takes]
  · show execMmag z a w p q t f s = _
    rw [execMmag, h, engineWord_of_takes takes]

end Sys2Proof.Machine
end

section
/-! PROOFS. What a step runs (O54). -/
namespace Sys2Proof.Machine
open Sys2Proof

/-! The move at the head of the agenda (log 2) -/

theorem step_turn {s : State} {t : Turn} {ts : List Turn} (h : s.agenda = t :: ts) :
    step s = ({ s with agenda := ts, fresh := s.fresh + 1 } : State).turn t := by
  simp only [step, h]
/-- An empty agenda takes the move that the environment chooses. -/
theorem step_chosen {s : State} (h : s.agenda = []) : step s = step { s with agenda := [Config.nextTurn s.fresh] } := by
  rw [step_turn (s := { s with agenda := [Config.nextTurn s.fresh] }) rfl]
  simp only [step, h]

/-! A word decoded (R141, R171) -/

section
variable {s : State} {sel : Sel} {u : Nat} {rep : Option Rep} {w : Word}

theorem instrOf_ok {i : Instr}
    (h : decodeWord (selKind sel) (s.accCount u) (repeatedWord (selKind sel) (s.accCount u) rep w) = .ok i) :
    s.instrOf sel u rep w = .ok (repeatedWord (selKind sel) (s.accCount u) rep w, i) := by
  simp only [State.instrOf, h]
theorem instrOf_error {x : DecodeError}
    (h : decodeWord (selKind sel) (s.accCount u) (repeatedWord (selKind sel) (s.accCount u) rep w) = .error x) :
    s.instrOf sel u rep w = .error x := by
  simp only [State.instrOf, h]

end

/-! The turn of a context (R124, R281) -/

theorem streamTurn_ctx {s : State} {u j : Nat} {e : Engine} (turn : s.mayTurn (.ctx u e j) = true) (h : s.decodes u e j = true) :
    s.streamTurn (.ctx u e j) = (s.begin (.ctx u e j) u).issueCtx u e j := by
  simp [State.streamTurn, turn, h]

section
variable {s : State} {u j : Nat} {e : Engine}

theorem issueCtx_unfetched {t : Trap} (h : s.fetchFor (.ctx u e j) (s.ctx u e j).st.pc = .error t) :
    s.issueCtx u e j = .next (s.raiseTrap t) := by
  simp only [State.issueCtx, h]

variable {f : Fetched} (fetched : s.fetchFor (.ctx u e j) (s.ctx u e j).st.pc = .ok f)
include fetched

theorem issueCtx_rejected {x : DecodeError}
    (h : (s.noteFetch u 4 f.pa).instrOf (.ctx u e j) u (s.ctx u e j).st.rep f.word = .error x) :
    s.issueCtx u e j = .next ((s.noteFetch u 4 f.pa).raiseTrap (State.decodeTrap f.word (s.ctx u e j).st.pc.toNat x)) := by
  simp only [State.issueCtx, fetched, h]
theorem issueCtx_decoded {w : Word} {i : Instr}
    (h : (s.noteFetch u 4 f.pa).instrOf (.ctx u e j) u (s.ctx u e j).st.rep f.word = .ok (w, i)) :
    s.issueCtx u e j = if ∃ r ∈ i.xregs, r.toNat ∈ (s.ctx u e j).owing then .next (s.noteFetch u 4 f.pa).putBack
      else exec i { s.noteFetch u 4 f.pa with ir := f.word, iw := w } := by
  have owed : (i.xregs.any fun r => (s.ctx u e j).owing.contains r.toNat) =
      decide (∃ r ∈ i.xregs, r.toNat ∈ (s.ctx u e j).owing) := by
    simp [List.any_eq]
  simp only [State.issueCtx, fetched, h, owed, decide_eq_true_eq]

end

/-! The turn of a voice (R112 to R114) -/

theorem streamTurn_voice {s : State} {u j : Nat} (turn : s.mayTurn (.voice u j) = true) (events : (s.unit u).events = [])
    (awake : (s.voice u j).idle = false) : s.streamTurn (.voice u j) = (s.begin (.voice u j) u).issueVoice u j := by
  simp [State.streamTurn, turn, State.eventDue, events, awake]

section
variable {s : State} {u j : Nat}

/-- A bundle without S bits, or one whose voices have met, is each voice's own. -/
theorem not_meeting_of_loose {n : Nat} {v : Voice} (loose : n ≠ 15 ∨ v.met = true) : ¬ (n = 15 ∧ v.met = false) := fun ⟨sync, met⟩ => by
  simp [sync, met] at loose
/-- Of a bundle that cannot be fetched the lowest voice that has reached it reports (R142). -/
theorem issueVoice_unfetched {t : Trap} (h : s.fetchUnit (.voice u j) (s.voice u j).st.pc = .error t) :
    s.issueVoice u j = .next (({ s.resume u [.voice u (s.reporter u j (s.voice u j).st.pc)] with
      sel := .voice u (s.reporter u j (s.voice u j).st.pc) } : State).raiseTrap t) := by
  simp only [State.issueVoice, h]

variable {ws : List Word} {pa : Option Nat} (fetched : s.fetchUnit (.voice u j) (s.voice u j).st.pc = .ok (ws, pa))
include fetched

section
variable (loose : sBits ws ≠ 15 ∨ (s.voice u j).met = true)
include loose

theorem issueVoice_refused {t : Trap} (h : pickWord (.voice u j) (s.voice u j).st.pc.toNat ws pa = .error t) :
    s.issueVoice u j = .next ((s.noteFetch u 16 pa).raiseTrap t) := by
  simp only [State.issueVoice, fetched, if_neg (not_meeting_of_loose loose), h]

variable {f : Fetched} (picked : pickWord (.voice u j) (s.voice u j).st.pc.toNat ws pa = .ok f)
include picked

theorem issueVoice_rejected {x : DecodeError}
    (h : (s.noteFetch u 16 pa).instrOf (.voice u j) u (s.voice u j).st.rep f.word = .error x) :
    s.issueVoice u j = .next ((s.noteFetch u 16 pa).raiseTrap (State.decodeTrap f.word (s.voice u j).st.pc.toNat x)) := by
  simp only [State.issueVoice, fetched, if_neg (not_meeting_of_loose loose), picked, h]
theorem issueVoice_decoded {w : Word} {i : Instr}
    (h : (s.noteFetch u 16 pa).instrOf (.voice u j) u (s.voice u j).st.rep f.word = .ok (w, i)) :
    s.issueVoice u j = if (s.noteFetch u 16 pa).dataStall u j i then .next (s.noteFetch u 16 pa).putBack
      else exec i { s.noteFetch u 16 pa with ir := f.word, iw := w } := by
  simp only [State.issueVoice, fetched, if_neg (not_meeting_of_loose loose), picked, h]

end

section
variable (sync : sBits ws = 15) (met : (s.voice u j).met = false)
include sync met

/-- A sync bundle that its one awake voice reaches issues (R114). -/
theorem issueVoice_alone (alone : (s.noteFetch u 16 pa).awake u = [j]) :
    s.issueVoice u j = (s.noteFetch u 16 pa).issueSync u (s.voice u j).st.pc [j] := by
  simp [State.issueVoice, fetched, sync, met, alone]
/-- A sync bundle that another awake voice has not reached makes its voice wait (R114). -/
theorem issueVoice_waits (running : (s.voice u j).status = .running)
    (other : ∃ k ∈ (s.noteFetch u 16 pa).awake u, k ≠ j ∧ (s.noteFetch u 16 pa).atSync u k (s.voice u j).st.pc = false) :
    ∃ t, s.issueVoice u j = .next t ∧ (t.voice u j).st = (s.voice u j).st ∧
      (t.voice u j).status = .waiting .sync ((s.noteFetch u 16 pa).unitCyc u) := by
  have absent : ((s.noteFetch u 16 pa).awake u).all
      (fun k => decide (k = j) || (s.noteFetch u 16 pa).atSync u k (s.voice u j).st.pc) = false := by
    obtain ⟨k, hk, hj, ha⟩ := other
    exact List.all_eq_false.2 ⟨k, hk, by simp [hj, ha]⟩
  simp only [State.issueVoice, fetched]
  rw [if_pos ⟨sync, met⟩, if_neg (by simp [absent])]
  simp only [running]
  refine ⟨_, rfl, ?_⟩
  rw [voice_setVoice]
  exact ⟨rfl, rfl⟩

end
end

/-! The sync bundle of a team with one voice awake (R114, R142, R193) -/

theorem rank_le (i : Instr) : Instr.rank i ≤ 4 := by
  unfold Instr.rank
  split
  · decide
  · split <;> decide
/-- Whatever its rank, a word alone has its turn. -/
theorem inRank_singleton (x : Slot) : inRank [x] = [x] := by
  have rank : Instr.rank x.instr < 5 := Nat.lt_succ_of_le (rank_le x.instr)
  unfold inRank
  generalize hr : Instr.rank x.instr = r at rank
  interval_cases r <;> simp [List.range_succ, hr]

section
variable {s : State} {u j : Nat} {pc : X} {ws : List Word} {p : Option Nat} {f : Fetched}
  (fetched : s.fetchUnit (.voice u j) pc = .ok (ws, p)) (picked : pickWord (.voice u j) pc.toNat ws p = .ok f)
include fetched picked

theorem checkSlot_rejected {y : DecodeError} (h : s.instrOf (.voice u j) u (s.voice u j).st.rep f.word = .error y) :
    s.checkSlot u pc j = .error (y.check, j, State.decodeTrap f.word pc.toNat y) := by
  simp only [State.checkSlot, fetched, picked, h]
theorem checkSlot_decoded {w : Word} {i : Instr} (h : s.instrOf (.voice u j) u (s.voice u j).st.rep f.word = .ok (w, i)) :
    s.checkSlot u pc j = .ok (⟨j, f.word, w, i⟩, p) := by
  simp only [State.checkSlot, fetched, picked, h]

end

section
variable {s : State} {u j : Nat} {pc : X}

/-- The state in which the word of a bundle of voice `j` alone is checked: its loop buffer filled, its faulted access being made
again. -/
def State.readyAlone (s : State) (u j : Nat) : State := (s.fillLoop (.voice u j)).resume u [.voice u j]
/-- The state in which the one word `x` of a bundle executes, where `n` has its fetch noted. -/
def State.meetsAlone (s n : State) (u j : Nat) (x : Slot) : State :=
  { n.meet u [j] with
    parks := parksOf [x], unparks := s.unparksOf u [x]
    bscope := if (s.readyAlone u j).reporting u [x] = some x.voice then 0 else (s.readyAlone u j).boundaryScope x }

theorem leastBy_singleton {α : Type} (f : α → Nat) (a : α) : leastBy f [a] = some a := by
  simp [leastBy]
theorem leastBy_nil {α : Type} (f : α → Nat) : leastBy f [] = none := rfl
/-- The scope of the boundary that a word alone makes, none where it only reports. -/
theorem bscope_alone (r : Option Nat) (g : Slot → Nat) (x : Slot) :
    ((([x] : List Slot).filter fun y => decide (r ≠ some y.voice)).map g).foldl max 0 = if r = some x.voice then 0 else g x := by
  by_cases h : r = some x.voice <;> simp [h]
/-- A word that fails a check reports its trap (R141, R142). -/
theorem issueSync_rejected {c k : Nat} {t : Trap} (h : (s.readyAlone u j).checkSlot u pc j = .error (c, k, t)) :
    s.issueSync u pc [j] = .next (({ s.readyAlone u j with sel := .voice u k } : State).raiseTrap t) := by
  unfold State.readyAlone at h ⊢
  simp [State.issueSync, h, leastBy]

variable {w1 w2 : Word} {i : Instr} {p : Option Nat} (checked : (s.readyAlone u j).checkSlot u pc j = .ok (⟨j, w1, w2, i⟩, p))
include checked

/-- A word that waits for data only has its fetch noted (R186). -/
theorem issueSync_stalled (h : (s.readyAlone u j).dataStall u j i = true) :
    s.issueSync u pc [j] = .next ((s.readyAlone u j).noteFetch u 16 p).putBack := by
  unfold State.readyAlone at checked h ⊢
  simp [State.issueSync, checked, leastBy, inRank_singleton, h]
/-- The word executes: what it leaves stands, or its trap is all that it leaves (R193). -/
theorem issueSync_ends (h : (s.readyAlone u j).dataStall u j i = false) {t : State}
    (run : (s.meetsAlone ((s.readyAlone u j).noteFetch u 16 p) u j ⟨j, w1, w2, i⟩).run1 u ⟨j, w1, w2, i⟩ = .next t) :
    s.issueSync u pc [j] = .next (t.stopTrap.elim (t.settleBundle u)
      fun k => ({ (s.readyAlone u j).noteFetch u 16 p with sel := .voice u j } : State).raiseTrap k) := by
  unfold State.meetsAlone at run
  rw [← bscope_alone] at run
  unfold State.readyAlone at checked h run ⊢
  cases trap : t.stopTrap <;>
    simp only [State.issueSync, List.foldl_cons, List.foldl_nil, List.map_cons, List.map_nil, List.filterMap_cons,
      List.filterMap_nil, checked, leastBy_nil, inRank_singleton, List.any_cons, List.any_nil, Bool.or_false, h, Bool.false_eq_true,
      if_false, State.runAll, run, trap, State.pickTrap, leastBy_singleton, Option.elim]

end

/-- Settles O54: by what each turn does, case by case of its fetch, its decoding and what stalls it; and of a sync bundle by its one
word. -/
theorem stepRunsDecodedInstruction : Obligations.StepRunsDecodedInstruction := by
  unfold Obligations.StepRunsDecodedInstruction
  intro s u j e ts f ws pa i s0
  refine ⟨?voice, ?context, fun sel hs turn => ?passes, fun hs home => ?event, step_turn, step_chosen⟩
  case voice =>
    intro hs turn events awake b v n w
    have run : step s = b.issueVoice u j := (step_turn hs).trans (streamTurn_voice turn events awake)
    rw [run]
    refine ⟨fun t h => issueVoice_unfetched h, fun fetched loose => ⟨fun t h => issueVoice_refused fetched loose h, fun picked =>
      ⟨fun decoded => ?loose, fun x h => issueVoice_rejected fetched loose picked (instrOf_error h)⟩⟩,
      fun fetched sync met => ⟨fun alone => ?alone, fun running other => issueVoice_waits fetched sync met running other⟩⟩
    case loose =>
      rw [issueVoice_decoded fetched loose picked (instrOf_ok decoded)]
      exact ⟨fun stall => if_neg (Bool.eq_false_iff.1 stall), fun stall => if_pos stall⟩
    case alone =>
      rw [issueVoice_alone fetched sync met alone]
      intro b1 w1 x p1 fetched1 n1 m picked
      refine ⟨fun y h => issueSync_rejected (checkSlot_rejected fetched1 picked (instrOf_error h)), fun decoded => ?_⟩
      have checked : b1.checkSlot u v.st.pc j = .ok (x, p1) := checkSlot_decoded fetched1 picked (instrOf_ok decoded)
      refine ⟨issueSync_stalled checked, fun stall t ran => ?_⟩
      rw [issueSync_ends checked stall ran]
      exact ⟨fun h => by rw [h]; rfl, fun k h => by rw [h]; rfl⟩
  case context =>
    intro hs turn decodes b c n w
    have run : step s = b.issueCtx u e j := (step_turn hs).trans (streamTurn_ctx turn decodes)
    rw [run]
    refine ⟨fun t h => issueCtx_unfetched h, fun fetched => ⟨fun decoded => ?_, fun x h => issueCtx_rejected fetched (instrOf_error h)⟩⟩
    rw [issueCtx_decoded fetched (instrOf_ok decoded)]
    exact ⟨fun free => if_neg fun ⟨r, hr, owed⟩ => free r hr owed, fun owed => if_pos owed⟩
  case passes =>
    exact (step_turn hs).trans (if_pos turn)
  case event =>
    exact (step_turn hs).trans (if_pos (by simp [home]))

end Sys2Proof.Machine
end

section
/-! PROOFS. Encoding and decoding: every word is its layout, a row of fields (O56, O55). -/
namespace Sys2Proof

/-! Layouts (R129): what a row of fields is worth, and what it is for a word to hold one -/

/-- A row of fields, the highest first: each field's width, and the value that stands in it. -/
abbrev Layout := List ((n : Nat) × BitVec n)

/-- The bits that a row of fields takes. -/
def Layout.width : Layout → Nat
  | [] => 0
  | f :: fs => f.1 + Layout.width fs

/-- The number that a row of fields stands for. -/
def Layout.value : Layout → Nat
  | [] => 0
  | f :: fs => f.2.toNat * 2 ^ Layout.width fs + Layout.value fs

/-- Every field of the row, the last at bit 0, is what `x` reads there. -/
def Layout.In (x : Nat) : Layout → Prop
  | [] => True
  | f :: fs => bits x (Layout.width fs) f.1 = f.2.toNat ∧ Layout.In x fs

theorem Layout.value_lt (fs : Layout) : fs.value < 2 ^ fs.width := by
  induction fs with
  | nil => exact Nat.one_pos
  | cons f fs ih =>
    calc f.2.toNat * 2 ^ width fs + value fs
      _ < (f.2.toNat + 1) * 2 ^ width fs := by rw [Nat.succ_mul]; omega
      _ ≤ 2 ^ f.1 * 2 ^ width fs := Nat.mul_le_mul_right _ f.2.isLt
      _ = 2 ^ (f.1 + width fs) := (pow_add ..).symm

/-- A row of fields is read in a number exactly when the number's low bits are the row's value. -/
theorem Layout.in_iff (x : Nat) (fs : Layout) : fs.In x ↔ x % 2 ^ fs.width = fs.value := by
  induction fs with
  | nil => simp [Layout.In, Layout.width, Layout.value, Nat.mod_one]
  | cons f fs ih =>
    have split : x % 2 ^ (f.1 + width fs) = bits x (width fs) f.1 * 2 ^ width fs + x % 2 ^ width fs := by
      rw [Nat.add_comm, pow_add, Nat.mod_mul, bits, Nat.mul_comm, Nat.add_comm]
    rw [Layout.In, ih, Layout.width, Layout.value, split]
    constructor
    · rintro ⟨high, low⟩
      rw [high, low]
    · intro h
      have low := Nat.mod_lt x (Nat.two_pow_pos (width fs))
      have high := congrArg (· / 2 ^ width fs) h
      simp only [Nat.mul_comm _ (2 ^ width fs), Nat.mul_add_div (Nat.two_pow_pos _), Nat.div_eq_of_lt low,
        Nat.div_eq_of_lt (Layout.value_lt fs), Nat.add_zero] at high
      exact ⟨high, Nat.add_left_cancel (high ▸ h)⟩

/-! The layout of every word (R133 to R139, R154, R282, R312, R341) -/

/-- A word of the common half (bit 31 is 0) or of the control core's map (1): the S bit, the opcode and the operands. -/
def voiceLayout (half sync : BitVec 1) (op : BitVec 6) (operands : Layout) : Layout :=
  ⟨_, half⟩ :: ⟨_, sync⟩ :: ⟨_, op⟩ :: operands
/-- A word of an engine's map, where the S bit must be 0. -/
def engineLayout (op : BitVec 6) (operands : Layout) : Layout := voiceLayout 1#1 0#1 op operands

/-- Where the operands of each instruction stand in its word, with the fixed fields between them: the one view that the encoder
(`encodeNat_eq_value`) and the decoder (`decodeHalf_of_in_layout`, `in_layout_of_decodeHalf`) are both compared with. A step that is
no word has none. -/
def Instr.layout : Instr → Layout
  | .nop s => voiceLayout 0#1 s 0x00#6 [⟨_, 0#24⟩]
  | .add s d a b => voiceLayout 0#1 s 0x01#6 [⟨_, d⟩, ⟨_, a⟩, ⟨_, b⟩, ⟨_, 0#6⟩]
  | .sub s d a b => voiceLayout 0#1 s 0x01#6 [⟨_, d⟩, ⟨_, a⟩, ⟨_, b⟩, ⟨_, 1#6⟩]
  | .and s d a b => voiceLayout 0#1 s 0x01#6 [⟨_, d⟩, ⟨_, a⟩, ⟨_, b⟩, ⟨_, 2#6⟩]
  | .or s d a b => voiceLayout 0#1 s 0x01#6 [⟨_, d⟩, ⟨_, a⟩, ⟨_, b⟩, ⟨_, 3#6⟩]
  | .xor s d a b => voiceLayout 0#1 s 0x01#6 [⟨_, d⟩, ⟨_, a⟩, ⟨_, b⟩, ⟨_, 4#6⟩]
  | .shl s d a b => voiceLayout 0#1 s 0x01#6 [⟨_, d⟩, ⟨_, a⟩, ⟨_, b⟩, ⟨_, 5#6⟩]
  | .shr s d a b => voiceLayout 0#1 s 0x01#6 [⟨_, d⟩, ⟨_, a⟩, ⟨_, b⟩, ⟨_, 6#6⟩]
  | .sra s d a b => voiceLayout 0#1 s 0x01#6 [⟨_, d⟩, ⟨_, a⟩, ⟨_, b⟩, ⟨_, 7#6⟩]
  | .mul s d a b => voiceLayout 0#1 s 0x01#6 [⟨_, d⟩, ⟨_, a⟩, ⟨_, b⟩, ⟨_, 8#6⟩]
  | .mulh s d a b => voiceLayout 0#1 s 0x01#6 [⟨_, d⟩, ⟨_, a⟩, ⟨_, b⟩, ⟨_, 9#6⟩]
  | .min s d a b => voiceLayout 0#1 s 0x01#6 [⟨_, d⟩, ⟨_, a⟩, ⟨_, b⟩, ⟨_, 10#6⟩]
  | .max s d a b => voiceLayout 0#1 s 0x01#6 [⟨_, d⟩, ⟨_, a⟩, ⟨_, b⟩, ⟨_, 11#6⟩]
  | .agen s d a b h => voiceLayout 0#1 s 0x01#6 [⟨_, d⟩, ⟨_, a⟩, ⟨_, b⟩, ⟨_, 4#4⟩, ⟨_, h⟩]
  | .addi s d a i => voiceLayout 0#1 s 0x02#6 [⟨_, d⟩, ⟨_, a⟩, ⟨_, i⟩]
  | .andi s d a i => voiceLayout 0#1 s 0x03#6 [⟨_, d⟩, ⟨_, a⟩, ⟨_, i⟩]
  | .ori s d a i => voiceLayout 0#1 s 0x04#6 [⟨_, d⟩, ⟨_, a⟩, ⟨_, i⟩]
  | .xori s d a i => voiceLayout 0#1 s 0x05#6 [⟨_, d⟩, ⟨_, a⟩, ⟨_, i⟩]
  | .shli s d a h => voiceLayout 0#1 s 0x06#6 [⟨_, d⟩, ⟨_, a⟩, ⟨_, 0#6⟩, ⟨_, h⟩]
  | .shri s d a h => voiceLayout 0#1 s 0x07#6 [⟨_, d⟩, ⟨_, a⟩, ⟨_, 0#6⟩, ⟨_, h⟩]
  | .srai s d a h => voiceLayout 0#1 s 0x08#6 [⟨_, d⟩, ⟨_, a⟩, ⟨_, 0#6⟩, ⟨_, h⟩]
  | .lui s d i => voiceLayout 0#1 s 0x09#6 [⟨_, d⟩, ⟨_, i⟩]
  | .cmp s p a b c => voiceLayout 0#1 s 0x0A#6 [⟨_, p⟩, ⟨_, a⟩, ⟨_, b⟩, ⟨_, c⟩, ⟨_, 0#2⟩]
  | .cmpi s p a i c => voiceLayout 0#1 s 0x0B#6 [⟨_, p⟩, ⟨_, a⟩, ⟨_, i⟩, ⟨_, c⟩, ⟨_, 0#2⟩]
  | .plog s d a b f => voiceLayout 0#1 s 0x0C#6 [⟨_, d⟩, ⟨_, a⟩, ⟨_, b⟩, ⟨_, f⟩]
  | .sel s d a b p => voiceLayout 0#1 s 0x0D#6 [⟨_, d⟩, ⟨_, a⟩, ⟨_, b⟩, ⟨_, p⟩]
  | .br s o => voiceLayout 0#1 s 0x0E#6 [⟨_, o⟩]
  | .brp s p n o => voiceLayout 0#1 s 0x0F#6 [⟨_, p⟩, ⟨_, n⟩, ⟨_, o⟩]
  | .call s o => voiceLayout 0#1 s 0x10#6 [⟨_, o⟩]
  | .jr s a => voiceLayout 0#1 s 0x11#6 [⟨_, 0#6⟩, ⟨_, a⟩, ⟨_, 0#12⟩]
  | .ret s => voiceLayout 0#1 s 0x12#6 [⟨_, 0#24⟩]
  | .loopImm s l n e => voiceLayout 0#1 s 0x13#6 [⟨_, l⟩, ⟨_, 0#1⟩, ⟨_, n⟩, ⟨_, e⟩]
  | .loopReg s l r e => voiceLayout 0#1 s 0x13#6 [⟨_, l⟩, ⟨_, 1#1⟩, ⟨_, 0#7⟩, ⟨_, r⟩, ⟨_, e⟩]
  | .loopxImm s l n e => voiceLayout 0#1 s 0x14#6 [⟨_, l⟩, ⟨_, 0#1⟩, ⟨_, n⟩, ⟨_, e⟩]
  | .loopxReg s l r e => voiceLayout 0#1 s 0x14#6 [⟨_, l⟩, ⟨_, 1#1⟩, ⟨_, 0#7⟩, ⟨_, r⟩, ⟨_, e⟩]
  | .lbrk s p n l => voiceLayout 0#1 s 0x15#6 [⟨_, p⟩, ⟨_, n⟩, ⟨_, 0#14⟩, ⟨_, l⟩]
  | .rep s c d a b => voiceLayout 0#1 s 0x16#6 [⟨_, c⟩, ⟨_, d⟩, ⟨_, a⟩, ⟨_, b⟩, ⟨_, 0#9⟩]
  | .mfs s d i => voiceLayout 0#1 s 0x17#6 [⟨_, d⟩, ⟨_, 0#6⟩, ⟨_, i⟩]
  | .mts s a i => voiceLayout 0#1 s 0x18#6 [⟨_, 0#6⟩, ⟨_, a⟩, ⟨_, i⟩]
  | .halt s => voiceLayout 0#1 s 0x19#6 [⟨_, 0#24⟩]
  | .ld s d a w x o => voiceLayout 1#1 s 0x00#6 [⟨_, d⟩, ⟨_, a⟩, ⟨_, w⟩, ⟨_, x⟩, ⟨_, o⟩]
  | .st s d a w o => voiceLayout 1#1 s 0x01#6 [⟨_, d⟩, ⟨_, a⟩, ⟨_, w⟩, ⟨_, 0#1⟩, ⟨_, o⟩]
  | .lds s d a w x o => voiceLayout 1#1 s 0x02#6 [⟨_, d⟩, ⟨_, a⟩, ⟨_, w⟩, ⟨_, x⟩, ⟨_, o⟩]
  | .sts s d a w o => voiceLayout 1#1 s 0x03#6 [⟨_, d⟩, ⟨_, a⟩, ⟨_, w⟩, ⟨_, 0#1⟩, ⟨_, o⟩]
  | .ldw s d a w x o => voiceLayout 1#1 s 0x04#6 [⟨_, d⟩, ⟨_, a⟩, ⟨_, w⟩, ⟨_, x⟩, ⟨_, o⟩]
  | .amo s w a b f c => voiceLayout 1#1 s 0x05#6 [⟨_, 0#5⟩, ⟨_, w⟩, ⟨_, a⟩, ⟨_, b⟩, ⟨_, f⟩, ⟨_, c⟩]
  | .amr s d a b f c => voiceLayout 1#1 s 0x06#6 [⟨_, d⟩, ⟨_, a⟩, ⟨_, b⟩, ⟨_, f⟩, ⟨_, c⟩]
  | .fadd s d a b r p => voiceLayout 1#1 s 0x08#6 [⟨_, d⟩, ⟨_, a⟩, ⟨_, b⟩, ⟨_, 0#3⟩, ⟨_, r⟩, ⟨_, p⟩]
  | .fsub s d a b r p => voiceLayout 1#1 s 0x09#6 [⟨_, d⟩, ⟨_, a⟩, ⟨_, b⟩, ⟨_, 0#3⟩, ⟨_, r⟩, ⟨_, p⟩]
  | .fmul s d a b r p => voiceLayout 1#1 s 0x0A#6 [⟨_, d⟩, ⟨_, a⟩, ⟨_, b⟩, ⟨_, 0#3⟩, ⟨_, r⟩, ⟨_, p⟩]
  | .ffma s d a b r p => voiceLayout 1#1 s 0x0B#6 [⟨_, d⟩, ⟨_, a⟩, ⟨_, b⟩, ⟨_, 0#3⟩, ⟨_, r⟩, ⟨_, p⟩]
  | .fmin s d a b p => voiceLayout 1#1 s 0x0C#6 [⟨_, d⟩, ⟨_, a⟩, ⟨_, b⟩, ⟨_, 0#5⟩, ⟨_, p⟩]
  | .fmax s d a b p => voiceLayout 1#1 s 0x0D#6 [⟨_, d⟩, ⟨_, a⟩, ⟨_, b⟩, ⟨_, 0#5⟩, ⟨_, p⟩]
  | .fsgn s d a b m p => voiceLayout 1#1 s 0x0E#6 [⟨_, d⟩, ⟨_, a⟩, ⟨_, b⟩, ⟨_, 0#3⟩, ⟨_, m⟩, ⟨_, p⟩]
  | .fcmp s d a b c p => voiceLayout 1#1 s 0x0F#6 [⟨_, d⟩, ⟨_, a⟩, ⟨_, b⟩, ⟨_, c⟩, ⟨_, p⟩, ⟨_, 0#1⟩]
  | .fcvt s d a r t f g => voiceLayout 1#1 s 0x10#6 [⟨_, d⟩, ⟨_, a⟩, ⟨_, r⟩, ⟨_, t⟩, ⟨_, 0#3⟩, ⟨_, f⟩, ⟨_, g⟩]
  | .fsqs s d a => voiceLayout 1#1 s 0x11#6 [⟨_, d⟩, ⟨_, a⟩, ⟨_, 0#12⟩]
  | .frcs s d a => voiceLayout 1#1 s 0x12#6 [⟨_, d⟩, ⟨_, a⟩, ⟨_, 0#12⟩]
  | .fcls s d a p => voiceLayout 1#1 s 0x13#6 [⟨_, d⟩, ⟨_, a⟩, ⟨_, 0#11⟩, ⟨_, p⟩]
  | .popc s d a => voiceLayout 1#1 s 0x14#6 [⟨_, d⟩, ⟨_, a⟩, ⟨_, 0#12⟩]
  | .clz s d a => voiceLayout 1#1 s 0x15#6 [⟨_, d⟩, ⟨_, a⟩, ⟨_, 0#12⟩]
  | .bext s d a b w => voiceLayout 1#1 s 0x16#6 [⟨_, d⟩, ⟨_, a⟩, ⟨_, b⟩, ⟨_, w⟩]
  | .span s c => voiceLayout 1#1 s 0x18#6 [⟨_, 0#21⟩, ⟨_, c⟩]
  | .fence s c => voiceLayout 1#1 s 0x19#6 [⟨_, 0#21⟩, ⟨_, c⟩]
  | .cflush s a c => voiceLayout 1#1 s 0x1A#6 [⟨_, 0#6⟩, ⟨_, a⟩, ⟨_, 0#9⟩, ⟨_, c⟩]
  | .bari s a b c => voiceLayout 1#1 s 0x1B#6 [⟨_, 0#6⟩, ⟨_, a⟩, ⟨_, b⟩, ⟨_, 0#3⟩, ⟨_, c⟩]
  | .bara s a => voiceLayout 1#1 s 0x1C#6 [⟨_, 0#6⟩, ⟨_, a⟩, ⟨_, 0#12⟩]
  | .barw s a => voiceLayout 1#1 s 0x1D#6 [⟨_, 0#6⟩, ⟨_, a⟩, ⟨_, 0#12⟩]
  | .mon s a => voiceLayout 1#1 s 0x1E#6 [⟨_, 0#6⟩, ⟨_, a⟩, ⟨_, 0#12⟩]
  | .mwait s d a => voiceLayout 1#1 s 0x1F#6 [⟨_, d⟩, ⟨_, a⟩, ⟨_, 0#12⟩]
  | .semw s a b c => voiceLayout 1#1 s 0x20#6 [⟨_, 0#6⟩, ⟨_, a⟩, ⟨_, b⟩, ⟨_, 0#3⟩, ⟨_, c⟩]
  | .semp s a b c => voiceLayout 1#1 s 0x21#6 [⟨_, 0#6⟩, ⟨_, a⟩, ⟨_, b⟩, ⟨_, 0#3⟩, ⟨_, c⟩]
  | .qpush s d a b => voiceLayout 1#1 s 0x22#6 [⟨_, d⟩, ⟨_, a⟩, ⟨_, b⟩, ⟨_, 0#6⟩]
  | .qpop s d a b => voiceLayout 1#1 s 0x23#6 [⟨_, d⟩, ⟨_, a⟩, ⟨_, b⟩, ⟨_, 0#6⟩]
  | .qtryPop s d a b => voiceLayout 1#1 s 0x24#6 [⟨_, d⟩, ⟨_, a⟩, ⟨_, b⟩, ⟨_, 0#3⟩, ⟨_, 0#3⟩]
  | .qtryPush s d a b => voiceLayout 1#1 s 0x24#6 [⟨_, d⟩, ⟨_, a⟩, ⟨_, b⟩, ⟨_, 1#3⟩, ⟨_, 0#3⟩]
  | .fork s c m v => voiceLayout 1#1 s 0x28#6 [⟨_, c⟩, ⟨_, m⟩, ⟨_, v⟩, ⟨_, 0#6⟩]
  | .rdv s e => voiceLayout 1#1 s 0x29#6 [⟨_, 0#18⟩, ⟨_, e⟩, ⟨_, 0#3⟩]
  | .ekill s e => voiceLayout 1#1 s 0x2A#6 [⟨_, 0#18⟩, ⟨_, e⟩, ⟨_, 0#3⟩]
  | .yield s => voiceLayout 1#1 s 0x2C#6 [⟨_, 0#24⟩]
  | .park s => voiceLayout 1#1 s 0x2D#6 [⟨_, 0#18⟩, ⟨_, 0#3⟩, ⟨_, 0#3⟩]
  | .parkUn s k => voiceLayout 1#1 s 0x2D#6 [⟨_, 0#18⟩, ⟨_, 1#1⟩, ⟨_, k⟩, ⟨_, 0#3⟩]
  | .retire s => voiceLayout 1#1 s 0x2E#6 [⟨_, 0#24⟩]
  | .cncl s d a l => voiceLayout 1#1 s 0x2F#6 [⟨_, d⟩, ⟨_, a⟩, ⟨_, 0#6⟩, ⟨_, 0#1⟩, ⟨_, l⟩, ⟨_, 0#3⟩]
  | .cmplr s d a l => voiceLayout 1#1 s 0x30#6 [⟨_, d⟩, ⟨_, a⟩, ⟨_, 0#6⟩, ⟨_, 0#1⟩, ⟨_, l⟩, ⟨_, 0#3⟩]
  | .brth s a b n => voiceLayout 1#1 s 0x34#6 [⟨_, 0#6⟩, ⟨_, a⟩, ⟨_, b⟩, ⟨_, 0#2⟩, ⟨_, n⟩]
  | .acqp s a => voiceLayout 1#1 s 0x35#6 [⟨_, 0#6⟩, ⟨_, a⟩, ⟨_, 0#12⟩]
  | .relp s => voiceLayout 1#1 s 0x36#6 [⟨_, 0#24⟩]
  | .clkd s a l => voiceLayout 1#1 s 0x37#6 [⟨_, 0#6⟩, ⟨_, a⟩, ⟨_, 0#6⟩, ⟨_, 0#1⟩, ⟨_, l⟩, ⟨_, 0#3⟩]
  | .trap s i => voiceLayout 1#1 s 0x3C#6 [⟨_, 0#6⟩, ⟨_, i⟩]
  | .tret s => voiceLayout 1#1 s 0x3D#6 [⟨_, 0#24⟩]
  | .probe s d w => voiceLayout 1#1 s 0x3E#6 [⟨_, d⟩, ⟨_, 0#12⟩, ⟨_, w⟩, ⟨_, 0#3⟩]
  | .mma z a w p q d m t c f => engineLayout 0x00#6 [⟨_, z⟩, ⟨_, a⟩, ⟨_, w⟩, ⟨_, p⟩, ⟨_, q⟩, ⟨_, d⟩, ⟨_, m⟩, ⟨_, t⟩, ⟨_, c⟩, ⟨_, f⟩]
  | .mmag z a w p q t f => engineLayout 0x01#6 [⟨_, z⟩, ⟨_, a⟩, ⟨_, w⟩, ⟨_, p⟩, ⟨_, q⟩, ⟨_, 0#2⟩, ⟨_, t⟩, ⟨_, 0#1⟩, ⟨_, f⟩]
  | .mfmt b r s => engineLayout 0x02#6 [⟨_, 0#10⟩, ⟨_, b⟩, ⟨_, r⟩, ⟨_, s⟩, ⟨_, 0#1⟩, ⟨_, 0#1⟩]
  | .mfmtTs a b => engineLayout 0x02#6 [⟨_, 0#4⟩, ⟨_, a⟩, ⟨_, b⟩, ⟨_, 0#6⟩, ⟨_, 1#1⟩, ⟨_, 0#1⟩]
  | .mfsel b s => engineLayout 0x03#6 [⟨_, 0#16⟩, ⟨_, b⟩, ⟨_, 0#2⟩, ⟨_, s⟩]
  | .mzero z b => engineLayout 0x04#6 [⟨_, z⟩, ⟨_, 0#6⟩, ⟨_, b⟩, ⟨_, 0#8⟩]
  | .mdcy z a b => engineLayout 0x05#6 [⟨_, z⟩, ⟨_, a⟩, ⟨_, b⟩, ⟨_, 0#7⟩, ⟨_, 0#1⟩]
  | .mdcySet z a => engineLayout 0x05#6 [⟨_, z⟩, ⟨_, a⟩, ⟨_, 0#13⟩, ⟨_, 1#1⟩]
  | .mdrn z a b c i f => engineLayout 0x06#6 [⟨_, z⟩, ⟨_, a⟩, ⟨_, b⟩, ⟨_, 0#4⟩, ⟨_, c⟩, ⟨_, i⟩, ⟨_, f⟩]
  | .mldz z a b => engineLayout 0x07#6 [⟨_, z⟩, ⟨_, a⟩, ⟨_, b⟩, ⟨_, 0#8⟩]
  | .mpref a => engineLayout 0x08#6 [⟨_, 0#4⟩, ⟨_, a⟩, ⟨_, 0#13⟩, ⟨_, 0#1⟩]
  | .mprefW a b => engineLayout 0x08#6 [⟨_, 0#4⟩, ⟨_, a⟩, ⟨_, b⟩, ⟨_, 0#7⟩, ⟨_, 1#1⟩]
  | .munp a => engineLayout 0x09#6 [⟨_, 0#4⟩, ⟨_, a⟩, ⟨_, 0#14⟩]
  | .mswp b n => engineLayout 0x0A#6 [⟨_, 0#10⟩, ⟨_, b⟩, ⟨_, 0#5⟩, ⟨_, n⟩]
  | .mbnk a n => engineLayout 0x0B#6 [⟨_, 0#4⟩, ⟨_, a⟩, ⟨_, 0#11⟩, ⟨_, n⟩]
  | .mhold b => engineLayout 0x0C#6 [⟨_, 0#10⟩, ⟨_, b⟩, ⟨_, 0#7⟩, ⟨_, 0#1⟩]
  | .mholdRel => engineLayout 0x0C#6 [⟨_, 0#23⟩, ⟨_, 1#1⟩]
  | .mtrq a b => engineLayout 0x0D#6 [⟨_, 0#4⟩, ⟨_, a⟩, ⟨_, b⟩, ⟨_, 0#8⟩]
  | .msync a w s => engineLayout 0x0E#6 [⟨_, 0#4⟩, ⟨_, a⟩, ⟨_, 0#10⟩, ⟨_, w⟩, ⟨_, s⟩]
  | .mstat a => engineLayout 0x0F#6 [⟨_, 0#4⟩, ⟨_, a⟩, ⟨_, 0#14⟩]
  | .mnop n => engineLayout 0x10#6 [⟨_, 0#16⟩, ⟨_, n⟩]
  | .vshp a => engineLayout 0x00#6 [⟨_, 0#5⟩, ⟨_, a⟩, ⟨_, 0#14⟩]
  | .vld d a b m z e => engineLayout 0x01#6 [⟨_, d⟩, ⟨_, a⟩, ⟨_, b⟩, ⟨_, m⟩, ⟨_, 0#2⟩, ⟨_, z⟩, ⟨_, e⟩]
  | .vst s a b m e => engineLayout 0x02#6 [⟨_, s⟩, ⟨_, a⟩, ⟨_, b⟩, ⟨_, m⟩, ⟨_, 0#3⟩, ⟨_, e⟩]
  | .vldg d a b m z e => engineLayout 0x03#6 [⟨_, d⟩, ⟨_, a⟩, ⟨_, b⟩, ⟨_, m⟩, ⟨_, 0#2⟩, ⟨_, z⟩, ⟨_, e⟩]
  | .vstg s a b m e => engineLayout 0x04#6 [⟨_, s⟩, ⟨_, a⟩, ⟨_, b⟩, ⟨_, m⟩, ⟨_, 0#3⟩, ⟨_, e⟩]
  | .vmov d a m z e => engineLayout 0x05#6 [⟨_, d⟩, ⟨_, a⟩, ⟨_, 0#5⟩, ⟨_, m⟩, ⟨_, 0#2⟩, ⟨_, z⟩, ⟨_, e⟩]
  | .vsplat d a m z e => engineLayout 0x06#6 [⟨_, d⟩, ⟨_, a⟩, ⟨_, 0#5⟩, ⟨_, m⟩, ⟨_, 0#2⟩, ⟨_, z⟩, ⟨_, e⟩]
  | .viota d m k z e => engineLayout 0x07#6 [⟨_, d⟩, ⟨_, 0#10⟩, ⟨_, m⟩, ⟨_, k⟩, ⟨_, z⟩, ⟨_, e⟩]
  | .vfadd d a b m r z e => engineLayout 0x08#6 [⟨_, d⟩, ⟨_, a⟩, ⟨_, b⟩, ⟨_, m⟩, ⟨_, r⟩, ⟨_, z⟩, ⟨_, e⟩]
  | .vfsub d a b m r z e => engineLayout 0x09#6 [⟨_, d⟩, ⟨_, a⟩, ⟨_, b⟩, ⟨_, m⟩, ⟨_, r⟩, ⟨_, z⟩, ⟨_, e⟩]
  | .vfmul d a b m r z e => engineLayout 0x0A#6 [⟨_, d⟩, ⟨_, a⟩, ⟨_, b⟩, ⟨_, m⟩, ⟨_, r⟩, ⟨_, z⟩, ⟨_, e⟩]
  | .vffma d a b c r => engineLayout 0x0B#6 [⟨_, d⟩, ⟨_, a⟩, ⟨_, b⟩, ⟨_, c⟩, ⟨_, r⟩, ⟨_, 0#2⟩]
  | .vfmin d a b m z e => engineLayout 0x0C#6 [⟨_, d⟩, ⟨_, a⟩, ⟨_, b⟩, ⟨_, m⟩, ⟨_, 0#2⟩, ⟨_, z⟩, ⟨_, e⟩]
  | .vfmax d a b m z e => engineLayout 0x0D#6 [⟨_, d⟩, ⟨_, a⟩, ⟨_, b⟩, ⟨_, m⟩, ⟨_, 0#2⟩, ⟨_, z⟩, ⟨_, e⟩]
  | .vfabs d a m z e => engineLayout 0x0E#6 [⟨_, d⟩, ⟨_, a⟩, ⟨_, 0#5⟩, ⟨_, m⟩, ⟨_, 0#2⟩, ⟨_, z⟩, ⟨_, e⟩]
  | .vfneg d a m z e => engineLayout 0x0F#6 [⟨_, d⟩, ⟨_, a⟩, ⟨_, 0#5⟩, ⟨_, m⟩, ⟨_, 0#2⟩, ⟨_, z⟩, ⟨_, e⟩]
  | .vadd d a b m r s z e => engineLayout 0x10#6 [⟨_, d⟩, ⟨_, a⟩, ⟨_, b⟩, ⟨_, m⟩, ⟨_, r⟩, ⟨_, s⟩, ⟨_, z⟩, ⟨_, e⟩]
  | .vsub d a b m r s z e => engineLayout 0x11#6 [⟨_, d⟩, ⟨_, a⟩, ⟨_, b⟩, ⟨_, m⟩, ⟨_, r⟩, ⟨_, s⟩, ⟨_, z⟩, ⟨_, e⟩]
  | .vmul d a b m r z e => engineLayout 0x12#6 [⟨_, d⟩, ⟨_, a⟩, ⟨_, b⟩, ⟨_, m⟩, ⟨_, r⟩, ⟨_, 0#1⟩, ⟨_, z⟩, ⟨_, e⟩]
  | .vmin d a b m u z e => engineLayout 0x13#6 [⟨_, d⟩, ⟨_, a⟩, ⟨_, b⟩, ⟨_, m⟩, ⟨_, 0#1⟩, ⟨_, u⟩, ⟨_, z⟩, ⟨_, e⟩]
  | .vmax d a b m u z e => engineLayout 0x14#6 [⟨_, d⟩, ⟨_, a⟩, ⟨_, b⟩, ⟨_, m⟩, ⟨_, 0#1⟩, ⟨_, u⟩, ⟨_, z⟩, ⟨_, e⟩]
  | .vand d a b m z e => engineLayout 0x15#6 [⟨_, d⟩, ⟨_, a⟩, ⟨_, b⟩, ⟨_, m⟩, ⟨_, 0#2⟩, ⟨_, z⟩, ⟨_, e⟩]
  | .vor d a b m z e => engineLayout 0x16#6 [⟨_, d⟩, ⟨_, a⟩, ⟨_, b⟩, ⟨_, m⟩, ⟨_, 0#2⟩, ⟨_, z⟩, ⟨_, e⟩]
  | .vxor d a b m z e => engineLayout 0x17#6 [⟨_, d⟩, ⟨_, a⟩, ⟨_, b⟩, ⟨_, m⟩, ⟨_, 0#2⟩, ⟨_, z⟩, ⟨_, e⟩]
  | .vshl d a b m z e => engineLayout 0x18#6 [⟨_, d⟩, ⟨_, a⟩, ⟨_, b⟩, ⟨_, m⟩, ⟨_, 0#2⟩, ⟨_, z⟩, ⟨_, e⟩]
  | .vshr d a b m z e => engineLayout 0x19#6 [⟨_, d⟩, ⟨_, a⟩, ⟨_, b⟩, ⟨_, m⟩, ⟨_, 0#2⟩, ⟨_, z⟩, ⟨_, e⟩]
  | .vsra d a b m z e => engineLayout 0x1A#6 [⟨_, d⟩, ⟨_, a⟩, ⟨_, b⟩, ⟨_, m⟩, ⟨_, 0#2⟩, ⟨_, z⟩, ⟨_, e⟩]
  | .vfcmp d a b m e c => engineLayout 0x1B#6 [⟨_, d⟩, ⟨_, a⟩, ⟨_, b⟩, ⟨_, m⟩, ⟨_, e⟩, ⟨_, c⟩]
  | .vcmp d a b m e c => engineLayout 0x1C#6 [⟨_, d⟩, ⟨_, a⟩, ⟨_, b⟩, ⟨_, m⟩, ⟨_, e⟩, ⟨_, c⟩]
  | .vsel d a b m => engineLayout 0x1D#6 [⟨_, d⟩, ⟨_, a⟩, ⟨_, b⟩, ⟨_, m⟩, ⟨_, 0#4⟩]
  | .mlog d a b f => engineLayout 0x1E#6 [⟨_, d⟩, ⟨_, a⟩, ⟨_, b⟩, ⟨_, 0#6⟩, ⟨_, f⟩]
  | .vrsqs d a m z e => engineLayout 0x1F#6 [⟨_, d⟩, ⟨_, a⟩, ⟨_, 0#5⟩, ⟨_, m⟩, ⟨_, 0#2⟩, ⟨_, z⟩, ⟨_, e⟩]
  | .vrcps d a m z e => engineLayout 0x20#6 [⟨_, d⟩, ⟨_, a⟩, ⟨_, 0#5⟩, ⟨_, m⟩, ⟨_, 0#2⟩, ⟨_, z⟩, ⟨_, e⟩]
  | .vexs d a m z e => engineLayout 0x21#6 [⟨_, d⟩, ⟨_, a⟩, ⟨_, 0#5⟩, ⟨_, m⟩, ⟨_, 0#2⟩, ⟨_, z⟩, ⟨_, e⟩]
  | .vlgs d a m z e => engineLayout 0x22#6 [⟨_, d⟩, ⟨_, a⟩, ⟨_, 0#5⟩, ⟨_, m⟩, ⟨_, 0#2⟩, ⟨_, z⟩, ⟨_, e⟩]
  | .vred d a x o m e => engineLayout 0x23#6 [⟨_, d⟩, ⟨_, a⟩, ⟨_, x⟩, ⟨_, o⟩, ⟨_, m⟩, ⟨_, 0#3⟩, ⟨_, e⟩]
  | .vscan d a x y o h => engineLayout 0x24#6 [⟨_, d⟩, ⟨_, a⟩, ⟨_, x⟩, ⟨_, y⟩, ⟨_, o⟩, ⟨_, h⟩, ⟨_, 0#4⟩]
  | .vtrn d a => engineLayout 0x25#6 [⟨_, d⟩, ⟨_, a⟩, ⟨_, 0#14⟩]
  | .vrot d a b x => engineLayout 0x26#6 [⟨_, d⟩, ⟨_, a⟩, ⟨_, b⟩, ⟨_, 0#8⟩, ⟨_, x⟩]
  | .vperm d a b x => engineLayout 0x27#6 [⟨_, d⟩, ⟨_, a⟩, ⟨_, b⟩, ⟨_, 0#8⟩, ⟨_, x⟩]
  | .vcvt d a s m f z e => engineLayout 0x28#6 [⟨_, d⟩, ⟨_, a⟩, ⟨_, 0#3⟩, ⟨_, s⟩, ⟨_, m⟩, ⟨_, f⟩, ⟨_, z⟩, ⟨_, e⟩]
  | .vqnt d a b f => engineLayout 0x29#6 [⟨_, d⟩, ⟨_, a⟩, ⟨_, b⟩, ⟨_, 0#5⟩, ⟨_, f⟩, ⟨_, 0#2⟩]
  | .vdqn d a b f => engineLayout 0x2A#6 [⟨_, d⟩, ⟨_, a⟩, ⟨_, b⟩, ⟨_, 0#5⟩, ⟨_, f⟩, ⟨_, 0#2⟩]
  | .vrns d a m f z e => engineLayout 0x2B#6 [⟨_, d⟩, ⟨_, a⟩, ⟨_, 0#5⟩, ⟨_, m⟩, ⟨_, 0#1⟩, ⟨_, f⟩, ⟨_, z⟩, ⟨_, e⟩]
  | .vcrt d a m f z e => engineLayout 0x2C#6 [⟨_, d⟩, ⟨_, a⟩, ⟨_, 0#5⟩, ⟨_, m⟩, ⟨_, 0#1⟩, ⟨_, f⟩, ⟨_, z⟩, ⟨_, e⟩]
  | .vacr d z b => engineLayout 0x2D#6 [⟨_, d⟩, ⟨_, z⟩, ⟨_, b⟩, ⟨_, 0#9⟩]
  | .vacw s z b m i n e => engineLayout 0x2E#6 [⟨_, s⟩, ⟨_, z⟩, ⟨_, b⟩, ⟨_, m⟩, ⟨_, 0#1⟩, ⟨_, i⟩, ⟨_, n⟩, ⟨_, e⟩]
  | .cpy d a b c n k => engineLayout 0x00#6 [⟨_, d⟩, ⟨_, a⟩, ⟨_, b⟩, ⟨_, c⟩, ⟨_, n⟩, ⟨_, k⟩]
  | .cpy2 d a b c n k => engineLayout 0x01#6 [⟨_, d⟩, ⟨_, a⟩, ⟨_, b⟩, ⟨_, c⟩, ⟨_, n⟩, ⟨_, k⟩]
  | .cpyt d a b c n k => engineLayout 0x02#6 [⟨_, d⟩, ⟨_, a⟩, ⟨_, b⟩, ⟨_, c⟩, ⟨_, n⟩, ⟨_, k⟩]
  | .gth d a b c n k => engineLayout 0x03#6 [⟨_, d⟩, ⟨_, a⟩, ⟨_, b⟩, ⟨_, c⟩, ⟨_, n⟩, ⟨_, k⟩]
  | .sct d a b c n k => engineLayout 0x04#6 [⟨_, d⟩, ⟨_, a⟩, ⟨_, b⟩, ⟨_, c⟩, ⟨_, n⟩, ⟨_, k⟩]
  | .cpys d a b c n k => engineLayout 0x05#6 [⟨_, d⟩, ⟨_, a⟩, ⟨_, b⟩, ⟨_, c⟩, ⟨_, n⟩, ⟨_, k⟩]
  | .pub d a b c n k => engineLayout 0x06#6 [⟨_, d⟩, ⟨_, a⟩, ⟨_, b⟩, ⟨_, c⟩, ⟨_, n⟩, ⟨_, k⟩]
  | .wprg d a b c n k => engineLayout 0x07#6 [⟨_, d⟩, ⟨_, a⟩, ⟨_, b⟩, ⟨_, c⟩, ⟨_, n⟩, ⟨_, k⟩]
  | .wvfy d a b c n k => engineLayout 0x08#6 [⟨_, d⟩, ⟨_, a⟩, ⟨_, b⟩, ⟨_, c⟩, ⟨_, n⟩, ⟨_, k⟩]
  | .wdig d a b c n k => engineLayout 0x09#6 [⟨_, d⟩, ⟨_, a⟩, ⟨_, b⟩, ⟨_, c⟩, ⟨_, n⟩, ⟨_, k⟩]
  | .cred d a b c n k => engineLayout 0x0A#6 [⟨_, d⟩, ⟨_, a⟩, ⟨_, b⟩, ⟨_, c⟩, ⟨_, n⟩, ⟨_, k⟩]
  | .cag d a b c n k => engineLayout 0x0B#6 [⟨_, d⟩, ⟨_, a⟩, ⟨_, b⟩, ⟨_, c⟩, ⟨_, n⟩, ⟨_, k⟩]
  | .cbct d a b c n k => engineLayout 0x0C#6 [⟨_, d⟩, ⟨_, a⟩, ⟨_, b⟩, ⟨_, c⟩, ⟨_, n⟩, ⟨_, k⟩]
  | .cwait a => engineLayout 0x0D#6 [⟨_, 0#6⟩, ⟨_, a⟩, ⟨_, 0#12⟩]
  | .csig a c => engineLayout 0x0E#6 [⟨_, 0#6⟩, ⟨_, a⟩, ⟨_, 0#6⟩, ⟨_, c⟩, ⟨_, 0#3⟩]
  | .cfnc c => engineLayout 0x0F#6 [⟨_, 0#18⟩, ⟨_, c⟩, ⟨_, 0#3⟩]
  | .cprq d a => engineLayout 0x10#6 [⟨_, d⟩, ⟨_, a⟩, ⟨_, 0#12⟩]
  | _ => []

theorem layout_width {i : Instr} {p : Half} (home : i.home = some p) : i.layout.width = 32 := by
  cases i <;> cases home <;> dsimp only [Instr.layout, engineLayout, voiceLayout, Layout.width]

/-- The encoder writes the value of an instruction's layout. -/
theorem encodeNat_eq_value {i : Instr} {p : Half} (home : i.home = some p) : encodeNat i = i.layout.value := by
  cases i <;> cases home
  all_goals
    dsimp only [encodeNat, Instr.layout, engineLayout, voiceLayout, Layout.width, Layout.value]
    simp only [BitVec.toNat_ofNat]
    ring

/-- The word of an instruction is the one word that holds its layout. -/
theorem encode_eq_iff {i : Instr} {p : Half} (home : i.home = some p) (w : Word) : encode i = w ↔ i.layout.In w.toNat := by
  have bound : encodeNat i < 2 ^ 32 := by
    rw [encodeNat_eq_value home, ← layout_width home]
    exact i.layout.value_lt
  rw [Layout.in_iff, layout_width home, ← encodeNat_eq_value home, Nat.mod_eq_of_lt w.isLt, encode, ← BitVec.toNat_inj,
    BitVec.toNat_ofNat, Nat.mod_eq_of_lt bound, eq_comm]

/-- Bits 31 and 30 of an instruction's word: whether it is of the common half, and the S bit (R129, R130). -/
theorem half_and_sync_of_in_layout {w : Word} {i : Instr} {p : Half} (home : i.home = some p) (h : i.layout.In w.toNat) :
    (bits w.toNat 31 1 = 0 ↔ p = .common) ∧ i.sync = decide (bits w.toNat 30 1 = 1) := by
  cases i <;> cases home
  all_goals
    dsimp only [Instr.layout, engineLayout, voiceLayout, Layout.In, Layout.width] at h
    simp only [BitVec.toNat_ofNat, Nat.reduceAdd, Nat.reducePow, Nat.reduceMod] at h
    simp [h, Instr.sync]

/-! Fields read from a word -/

@[simp] theorem toNat_fld (w : Word) (lo n : Nat) : (fld w lo n).toNat = bits w.toNat lo n := BitVec.toNat_ofNat ..

theorem fld_eq_ofNat (w : Word) (lo n : Nat) : fld w lo n = BitVec.ofNat n (bits w.toNat lo n) := by
  rw [← toNat_fld, BitVec.ofNat_toNat, BitVec.setWidth_eq]

theorem bits_lt (x lo n : Nat) : bits x lo n < 2 ^ n := Nat.mod_lt _ (Nat.two_pow_pos n)

/-- A field is its high bits above its low ones. -/
theorem bits_add (x lo n m : Nat) : bits x lo (n + m) = bits x (lo + n) m * 2 ^ n + bits x lo n := by
  rw [bits, pow_add, Nat.mod_mul, Nat.div_div_eq_div_mul, ← pow_add, Nat.mul_comm, Nat.add_comm, bits, bits]

/-! The maps (R134 to R138) -/

/-- The decoder of the common half or of a stream's own map (R130). -/
def decodeHalf : Half → Word → Except DecodeError Instr
  | .common => decodeCommon
  | .control => decodeControl
  | .matrix => decodeMatrix
  | .vector => decodeVector
  | .copy => decodeCopy

theorem build_eq_ok_iff {w : Word} {zs : List (Nat × Nat)} {i j : Instr} :
    build w zs i = .ok j ↔ i = j ∧ i.subOk = true ∧ i.zeroOk = true ∧ zeros w zs = true := by
  unfold build
  cases i.subOk <;> cases zeros w zs <;> cases i.zeroOk <;> simp

theorem build_eq_ok {w : Word} {zs : List (Nat × Nat)} {i j : Instr} (sub : j.subOk = true) (zero : j.zeroOk = true)
    (fields : i = j) (clear : zeros w zs = true) : build w zs i = .ok j :=
  build_eq_ok_iff.2 ⟨fields, fields ▸ sub, fields ▸ zero, clear⟩

/-- Sub-codes 0x10 to 0x13 are AGEN, by their high bits. -/
theorem decodeCommon_agen {w : Word} (op : bits w.toNat 24 6 = 0x01) (sub : bits w.toNat 2 4 = 4) :
    decodeCommon w = build w [] (.agen (fld w 30 1) (fld w 18 6) (fld w 12 6) (fld w 6 6) (fld w 0 2)) := by
  have code : bits w.toNat 0 6 = 16 + bits w.toNat 0 2 := (bits_add _ 0 2 4).trans (by rw [sub]; rfl)
  have low := bits_lt w.toNat 0 2
  unfold decodeCommon
  rw [op, code]
  generalize bits w.toNat 0 2 = h at low
  interval_cases h <;> rfl

/-- Sub-codes 4 to 7 are PARK_UN, by their high bit. -/
theorem decodeControl_parkUn {w : Word} (op : bits w.toNat 24 6 = 0x2D) (sub : bits w.toNat 5 1 = 1) :
    decodeControl w = build w [(0, 3), (6, 18)] (.parkUn (fld w 30 1) (fld w 3 2)) := by
  have code : bits w.toNat 3 3 = 4 + bits w.toNat 3 2 := (bits_add _ 3 2 1).trans (by rw [sub]; rfl)
  have low := bits_lt w.toNat 3 2
  unfold decodeControl
  rw [op, code]
  generalize bits w.toNat 3 2 = k at low
  interval_cases k <;> rfl

/-- A word that holds the layout of an instruction, whose fields agree, decodes to it. -/
theorem decodeHalf_of_in_layout {w : Word} {i : Instr} {p : Half} (home : i.home = some p) (sub : i.subOk = true)
    (zero : i.zeroOk = true) (h : i.layout.In w.toNat) : decodeHalf p w = .ok i := by
  cases i <;> cases home
  all_goals
    dsimp only [Instr.layout, engineLayout, voiceLayout, Layout.In, Layout.width] at h
    simp only [BitVec.toNat_ofNat, Nat.reduceAdd, Nat.reducePow, Nat.reduceMod] at h
    obtain ⟨-, sync, op, operands⟩ := h
  case agen =>
    have ⟨_, _, _, code, _⟩ := operands
    refine (decodeCommon_agen op code).trans (build_eq_ok sub zero ?_ rfl)
    simp only [fld_eq_ofNat, sync, operands, BitVec.ofNat_toNat, BitVec.setWidth_eq]
  case parkUn =>
    have ⟨_, code, _⟩ := operands
    refine (decodeControl_parkUn op code).trans (build_eq_ok sub zero ?_ ?_)
    · simp only [fld_eq_ofNat, sync, operands, BitVec.ofNat_toNat, BitVec.setWidth_eq]
    · simp [zeros, operands]
  all_goals
    dsimp only [decodeHalf, decodeCommon, decodeControl, decodeMatrix, decodeVector, decodeCopy]
    rw [op]
  -- the opcodes under which a sub-code chooses
  case' add | sub | and | or | xor | shl | shr | sra | mul | mulh | min | max | loopImm | loopReg | loopxImm | loopxReg |
      qtryPop | qtryPush | park | cncl | cmplr | clkd | mfmt | mfmtTs | mdcy | mdcySet | mpref | mprefW | mhold | mholdRel =>
    simp only [operands, zero_ne_one, if_false]
  all_goals
    refine build_eq_ok sub zero ?_ ?_
    · simp only [fld_eq_ofNat, sync, operands, BitVec.ofNat_toNat, BitVec.setWidth_eq]
    · simp [zeros, operands]

/-- The bits of a word that choose its map and that the map does not read (R129, R130). -/
def Half.Marks (w : Word) : Half → Prop
  | .common => bits w.toNat 31 1 = 0
  | .control => bits w.toNat 31 1 = 1
  | _ => bits w.toNat 31 1 = 1 ∧ bits w.toNat 30 1 = 0

/-- What a map decodes is an instruction of that map whose fields agree, and the word holds its layout. -/
theorem in_layout_of_decodeHalf {w : Word} {i : Instr} {p : Half} (marks : p.Marks w) (h : decodeHalf p w = .ok i) :
    i.home = some p ∧ i.subOk = true ∧ i.zeroOk = true ∧ i.layout.In w.toNat := by
  cases p
  all_goals
    dsimp only [decodeHalf, decodeCommon, decodeControl, decodeMatrix, decodeVector, decodeCopy, Half.Marks] at h marks
    repeat' split at h
  all_goals
    simp only [build_eq_ok_iff, reduceCtorEq] at h
  all_goals
    obtain ⟨rfl, sub, zero, clear⟩ := h
    refine ⟨rfl, sub, zero, ?_⟩
    dsimp only [Instr.layout, engineLayout, voiceLayout, Layout.In, Layout.width]
    simp_all [zeros]
  -- AGEN, PARK_UN and the words whose bit 5 is no sub-code: the sub-code as read against the fields it covers
  all_goals
    simp only [bits] at *
    omega

/-! The decoder of a stream -/

/-- The own map of a stream (R130). -/
def StreamKind.map : StreamKind → Half
  | .voice => .control
  | .ctx e => e.half

/-- The map that a stream reads a word by: bit 31 chooses (R130). -/
def StreamKind.half (k : StreamKind) (w : Word) : Half := if bits w.toNat 31 1 = 0 then .common else k.map

theorem StreamKind.map_ne_common (k : StreamKind) : k.map ≠ .common := by
  rcases k with _ | _ | _ | _ <;> decide

theorem StreamKind.half_marks {k : StreamKind} {w : Word} (sync : k = .voice ∨ bits w.toNat 30 1 ≠ 1) : (k.half w).Marks w := by
  have := bits_lt w.toNat 30 1
  have := bits_lt w.toNat 31 1
  unfold StreamKind.half
  split
  · assumption
  · rcases k with _ | _ | _ | _ <;> simp [StreamKind.map, Engine.half, Half.Marks] at sync ⊢ <;> omega

/-- What bit 31 and a map decode, a context checks against its registers (check 7 of R141). -/
theorem decodeMap_eq_ok_iff {k : StreamKind} {acc : Nat} {w : Word} {i : Instr} :
    decodeMap k acc w = .ok i ↔ decodeHalf (k.half w) w = .ok i ∧ (k = .voice ∨ i.regsOk acc = true) := by
  have map : (if bits w.toNat 31 1 = 0 then decodeCommon w else decodePrivate k w) = decodeHalf (k.half w) w := by
    unfold StreamKind.half
    split
    · rfl
    · rcases k with _ | _ | _ | _ <;> rfl
  unfold decodeMap
  rw [map]
  cases decodeHalf (k.half w) w with
  | error e => simp
  | ok j => cases k <;> grind

theorem decodeCommon_poolGuard {w : Word} (op : bits w.toNat 24 6 = 0x3F) : decodeCommon w = .error .majUnassigned := by
  unfold decodeCommon
  rw [op]
  rfl

theorem decodeWord_eq_ok_iff {k : StreamKind} {acc : Nat} {w : Word} {i : Instr} :
    decodeWord k acc w = .ok i ↔
      decodeHalf (k.half w) w = .ok i ∧ (k = .voice ∨ bits w.toNat 30 1 ≠ 1 ∧ i.regsOk acc = true) := by
  unfold decodeWord
  split
  case isTrue guard =>
    simp [StreamKind.half, guard, decodeHalf, decodeCommon_poolGuard]
  case isFalse =>
    cases k with
    | voice => simp [decodeMap_eq_ok_iff]
    | ctx e => by_cases sync : bits w.toNat 30 1 = 1 <;> simp [sync, decodeMap_eq_ok_iff]

/-- A word of a stream: an instruction of the common half or of the stream's map, whose fields agree and which the stream admits. -/
theorem Instr.wf_iff {k : StreamKind} {acc : Nat} {i : Instr} :
    i.wf k acc = true ↔ (∃ p, i.home = some p ∧ (p = .common ∨ p = k.map)) ∧ i.subOk = true ∧ i.zeroOk = true ∧
      (k = .voice ∨ i.sync = false ∧ i.regsOk acc = true) := by
  cases k <;> simp [Instr.wf, StreamKind.map] <;> grind

/-- A stream decodes a word to an instruction exactly when it is an instruction of the stream and the word its encoding. -/
theorem decodeWord_eq_ok_iff_encode {k : StreamKind} {acc : Nat} {w : Word} {i : Instr} :
    decodeWord k acc w = .ok i ↔ i.wf k acc = true ∧ encode i = w := by
  rw [decodeWord_eq_ok_iff, Instr.wf_iff]
  constructor
  · rintro ⟨decoded, admitted⟩
    obtain ⟨home, sub, zero, holds⟩ := in_layout_of_decodeHalf (StreamKind.half_marks (admitted.imp_right And.left)) decoded
    obtain ⟨-, sync⟩ := half_and_sync_of_in_layout home holds
    have read : k.half w = .common ∨ k.half w = k.map := by
      unfold StreamKind.half
      split <;> simp
    exact ⟨⟨⟨_, home, read⟩, sub, zero, by simpa [sync] using admitted⟩, (encode_eq_iff home w).2 holds⟩
  · rintro ⟨⟨⟨p, home, read⟩, sub, zero, admitted⟩, word⟩
    have holds := (encode_eq_iff home w).1 word
    obtain ⟨half, sync⟩ := half_and_sync_of_in_layout home holds
    have read : k.half w = p := by
      unfold StreamKind.half
      rcases read with rfl | rfl <;> simp [half, k.map_ne_common]
    exact ⟨read ▸ decodeHalf_of_in_layout home sub zero holds, by simpa [sync] using admitted⟩

end Sys2Proof

namespace Sys2Proof.Machine
open Sys2Proof

/-- Settles O56: a stream decodes a word to an instruction of its own exactly when the word is the instruction's encoding. -/
theorem decodeEncode : Obligations.DecodeEncode := by
  unfold Obligations.DecodeEncode
  exact fun k acc => ⟨fun i wf => decodeWord_eq_ok_iff_encode.2 ⟨wf, rfl⟩, fun w i => decodeWord_eq_ok_iff_encode.1⟩

/-- Settles O55: each word that decodes is the encoding of its instruction; the last two fail checks 3 and 2 of R141. -/
theorem decodeWords : Obligations.DecodeWords := by
  unfold Obligations.DecodeWords
  iterate 11 refine ⟨decodeWord_eq_ok_iff_encode.2 (by decide), ?_⟩
  exact ⟨rfl, rfl⟩

end Sys2Proof.Machine
end

section
/-! PROOFS. Arithmetic, compares, predicate logic and SEL of the common control subset (O1, O2). -/
namespace Sys2Proof.Machine
open Sys2Proof

/-! A word that writes one register or one predicate -/

theorem completes_result {i : Instr} {s : State} {d : BitVec 6} {f : Stream → X} {v : X} (run : exec i s = .next (s.result d f))
    (value : f s.stream = v) : Completes i s fun t => s.wroteX t d v :=
  ⟨s.result d f, run, value ▸ result_wroteX s d f⟩
theorem completes_resultP {i : Instr} {s : State} {p : BitVec 7} {f : Stream → Bool} {v : Bool}
    (run : exec i s = .next (s.resultP p f)) (value : f s.stream = v) : Completes i s fun t => s.wroteP t p v :=
  ⟨s.resultP p f, run, value ▸ resultP_wroteP s p f⟩

/-! Values (R155 to R159) -/

/-- Dividing a product by 2^64 rounding down leaves the bits of it from 64 up. -/
theorem mulHigh_eq_extract (a b : X) : mulHigh a b = BitVec.extractLsb' 64 64 (a.signExtend 128 * b.signExtend 128) := by
  have wide : a.signExtend 128 * b.signExtend 128 = BitVec.ofInt 128 (a.toInt * b.toInt) := (BitVec.ofInt_mul _ _).symm
  apply BitVec.eq_of_toNat_eq
  rw [mulHigh, wide, BitVec.extractLsb'_toNat, BitVec.toNat_ofInt, BitVec.toNat_ofInt, Nat.shiftRight_eq_div_pow]
  generalize a.toInt * b.toInt = x
  omega
theorem sMin_eq (a b : X) : sMin a b = if a.toInt ≤ b.toInt then a else b := by
  by_cases h : a.toInt ≤ b.toInt
  · simp [sMin, BitVec.slt, h]
  · simp [sMin, BitVec.slt, h, not_le.1 h]
theorem sMax_eq (a b : X) : sMax a b = if a.toInt ≤ b.toInt then b else a := by
  rcases lt_trichotomy a.toInt b.toInt with h | h | h
  · simp [sMax, BitVec.slt, h, h.le]
  · simp [sMax, BitVec.eq_of_toInt_eq h]
  · simp [sMax, BitVec.slt, h.not_ge, h.not_gt]
theorem shiftLeft_eq_mul (v : X) (n : Nat) : v <<< n = v * BitVec.ofNat 64 (2 ^ n) := by
  apply BitVec.eq_of_toNat_eq
  simp [Nat.shiftLeft_eq]
theorem setWidth_shiftLeft_eq (i : BitVec 18) : (i.setWidth 64 : X) <<< 12 = BitVec.ofNat 64 (i.toNat * 4096) := by
  apply BitVec.eq_of_toNat_eq
  simp [Nat.shiftLeft_eq]

/-- Settles O1: each word is one write of a register, and its value is that of the rule. -/
theorem arithmetic : Obligations.Arithmetic := by
  unfold Obligations.Arithmetic
  refine ⟨fun sb d a b h s => ⟨?_, ?_, ?_, ?_, ?_, ?_, ?_, ?_, ?_, ?mulh, ?min, ?max, ?agen⟩,
    fun sb d a h i j s => ⟨?_, ?_, ?_, ?_, ?_, ?_, ?_, ?lui⟩⟩
  case mulh => exact completes_result rfl (mulHigh_eq_extract _ _)
  case min => exact completes_result rfl (sMin_eq _ _)
  case max => exact completes_result rfl (sMax_eq _ _)
  case agen => exact completes_result rfl (congrArg _ (shiftLeft_eq_mul _ _))
  case lui => exact completes_result rfl (setWidth_shiftLeft_eq j)
  all_goals exact completes_result rfl rfl

/-- The conditions of CMP and CMPI (R158). -/
theorem intCond_values (x y : X) : intCond 0 x y = decide (x = y) ∧ intCond 1 x y = decide (x ≠ y) ∧
    intCond 2 x y = decide (x.toInt < y.toInt) ∧ intCond 3 x y = decide (y.toInt ≤ x.toInt) ∧
    intCond 4 x y = decide (x.toNat < y.toNat) ∧ intCond 5 x y = decide (y.toNat ≤ x.toNat) := by
  have not_less {a b : Int} : (!decide (a < b)) = decide (b ≤ a) := by rw [← decide_not, decide_eq_decide, not_lt]
  have not_below {a b : Nat} : (!decide (a < b)) = decide (b ≤ a) := by rw [← decide_not, decide_eq_decide, not_lt]
  exact ⟨rfl, (decide_not).symm, rfl, not_less, rfl, not_below⟩

/-- Settles O2: each word is one write of a predicate or a register, and its value is that of the condition or function named. -/
theorem predicates : Obligations.Predicates := by
  unfold Obligations.Predicates
  refine ⟨fun sb p a b i s c hc => ?compares, fun sb p q r d a b k s => ⟨fun f hf => ?logic, ?select⟩⟩
  case compares =>
    have cond : ∀ x y, intCond c.1 x y = c.2 x y := by
      intro x y
      obtain ⟨eq, ne, lt, ge, ltu, geu⟩ := intCond_values x y
      simp only [List.mem_cons, List.not_mem_nil, or_false] at hc
      rcases hc with rfl | rfl | rfl | rfl | rfl | rfl <;> assumption
    exact ⟨completes_resultP rfl (cond _ _), completes_resultP rfl (cond _ _)⟩
  case logic =>
    have table : ∀ x y, logFn f.1 x y = f.2 x y := by
      simp only [List.mem_cons, List.not_mem_nil, or_false] at hf
      rcases hf with rfl | rfl | rfl | rfl | rfl | rfl | rfl | rfl <;> decide
    exact completes_resultP rfl (table _ _)
  case select =>
    rw [BitVec.ofNat_toNat]
    exact completes_result rfl rfl

end Sys2Proof.Machine
end

section
/-! PROOFS. Loop levels of a stream and the words that move its PC: transfers, loops and their ends (O3, O4). -/
namespace Sys2Proof.Machine
open Sys2Proof

/-! Reads of the levels of a changed stream -/

@[simp] theorem lvl_with_pc (st : Stream) (a : X) (k : Nat) : ({ st with pc := a } : Stream).lvl k = st.lvl k := by
  unfold Stream.lvl; split <;> rfl
@[simp] theorem lvl_setX (st : Stream) (d : BitVec 6) (v : X) (k : Nat) : (st.setX d v).lvl k = st.lvl k := by
  unfold Stream.setX; split
  · rfl
  · unfold Stream.lvl; split <;> rfl
@[simp] theorem setLvl_pc (st : Stream) (l : Nat) (v : Loop) : (st.setLvl l v).pc = st.pc := by unfold Stream.setLvl; split <;> rfl
theorem lvl_setLvl (st : Stream) {l k : Nat} (hl : l < 3) (hk : k < 3) (v : Loop) :
    (st.setLvl l v).lvl k = if k = l then v else st.lvl k := by
  interval_cases l <;> interval_cases k <;> rfl
theorem lvl_clearFrom (st : Stream) {l k : Nat} (hl : l < 3) (hk : k < 3) :
    (st.clearFrom l).lvl k = if k < l then st.lvl k else { st.lvl k with act := false } := by
  interval_cases l <;> interval_cases k <;> rfl
theorem lvl_inactive_of_plain {st : Stream} (h : st.plain) {k : Nat} (hk : k < 3) : (st.lvl k).act = false := by
  obtain ⟨h0, h1, h2, -⟩ := h
  interval_cases k <;> assumption
/-- LOOP, LOOPX and LBRK name levels 0 to 2 (R165). -/
theorem level_lt {l : BitVec 2} (h : l ≠ 3) : l.toNat < 3 := by bv_omega

/-! What a word does that only changes the place where its stream stands, and what one does that only traps -/

/-- What `mapStream` makes of the stream in issue is all that counts of its function. -/
theorem mapStream_congr {s : State} {f g : Nat → Stream → Stream} (h : f (selSize s.sel) s.stream = g (selSize s.sel) s.stream) :
    s.mapStream f = s.mapStream g := by
  unfold State.mapStream
  unfold State.stream at h
  cases hs : s.sel <;> simp only [hs, selSize] at h ⊢ <;> rw [h]
theorem mapStream_movedOn {s : State} {f : Nat → Stream → Stream} (hx : (f (selSize s.sel) s.stream).x = s.stream.x)
    (hp : (f (selSize s.sel) s.stream).p = s.stream.p) (hf : (f (selSize s.sel) s.stream).fmsel = s.stream.fmsel) :
    s.movedOn (s.mapStream f) :=
  ⟨onlyStream_mapStream s f, fun r => by simp [Stream.getX, hx], fun p => by simp [Stream.getP, hp], by simp [hf]⟩
theorem raiseTrap_faults {o : Out} {s : State} {t : Trap} {info : X} (run : o = .next (s.raiseTrap t))
    (resident : (s.unit s.selUnit).status = .resident) (classF : t.code < 0x40) (detail : BitVec.ofNat 64 t.info = info) :
    ∃ r, o = .next r ∧ s.faultsWith r t.code info :=
  ⟨s.raiseTrap t, run, detail ▸ raiseTrap_faultsWith s t resident classF⟩

/-! Transfers (R161 to R164, R168) -/

/-- The stream in issue makes a taken transfer to `a`. -/
def State.jumped (s : State) (a : X) : State := s.mapStream fun _ st => st.jump a

@[simp] theorem jumped_stream (s : State) (a : X) : (s.jumped a).stream = s.stream.jump a := stream_mapStream s _
theorem jumped_movedOn (s : State) (a : X) : s.movedOn (s.jumped a) :=
  mapStream_movedOn (jump_keeps _ _).1 (jump_keeps _ _).2.1 (jump_keeps _ _).2.2
theorem completes_jumped {i : Instr} {s : State} {a : X} (run : exec i s = .next (s.jumped a)) :
    Completes i s fun t => s.movedOn t ∧ t.stream.pc = a :=
  ⟨s.jumped a, run, jumped_movedOn s a, by simp⟩

theorem exec_br (sb : BitVec 1) (o : BitVec 24) (s : State) :
    exec (.br sb o) s = .next (s.jumped (s.stream.pc + o.signExtend 64 * BitVec.ofNat 64 (selSize s.sel))) :=
  congrArg Host.Outcome.next (mapStream_congr rfl)
theorem exec_brp_taken {s : State} {p : BitVec 7} {n : BitVec 1} (sb : BitVec 1) (k : BitVec 16) (h : s.stream.getP p = decide (n = 1)) :
    exec (.brp sb p n k) s = .next (s.jumped (s.stream.pc + k.signExtend 64 * BitVec.ofNat 64 (selSize s.sel))) :=
  congrArg Host.Outcome.next (mapStream_congr (if_pos h))
theorem exec_brp_not_taken {s : State} {p : BitVec 7} {n : BitVec 1} (sb : BitVec 1) (k : BitVec 16)
    (h : s.stream.getP p ≠ decide (n = 1)) : exec (.brp sb p n k) s = .next s.advance :=
  congrArg Host.Outcome.next (mapStream_congr (if_neg h))
theorem jumpTo_aligned {s : State} {a : X} (h : a.toNat % selSize s.sel = 0) : s.jumpTo a = .next (s.jumped a) := if_neg (not_not.2 h)
theorem jumpTo_misaligned {s : State} {a : X} (resident : (s.unit s.selUnit).status = .resident) (h : a.toNat % selSize s.sel ≠ 0) :
    ∃ t, s.jumpTo a = .next t ∧ s.faultsWith t 0x06 a :=
  raiseTrap_faults (t := ⟨0x06, a.toNat⟩) (if_pos h) resident (show 0x06 < 0x40 by decide) (by simp)

/-- CALL writes its link, then transfers. -/
def State.called (s : State) (o : BitVec 24) : State :=
  s.mapStream fun u st => (st.setX 31 (st.pc + BitVec.ofNat 64 u)).jump (st.pc + o.signExtend 64 * BitVec.ofNat 64 u)
theorem exec_call (sb : BitVec 1) (o : BitVec 24) (s : State) : exec (.call sb o) s = .next (s.called o) := rfl
theorem called_stream (s : State) (o : BitVec 24) :
    (s.called o).stream = (s.stream.setX 31 (s.stream.pc + BitVec.ofNat 64 (selSize s.sel))).jump
      (s.stream.pc + o.signExtend 64 * BitVec.ofNat 64 (selSize s.sel)) := stream_mapStream s _
theorem called_wroteX (s : State) (o : BitVec 24) : s.wroteX (s.called o) 31 (s.stream.pc + BitVec.ofNat 64 (selSize s.sel)) := by
  refine ⟨onlyStream_mapStream s _, ?_, ?_, ?_, ?_⟩
  · rw [called_stream, getX_jump, getX_setX_self _ _ (by decide), if_neg (by decide)]
  · intro r hr
    rw [called_stream, getX_jump, getX_setX_ne _ _ hr]
  · intro p
    rw [called_stream, getP_jump]
    simp [Stream.getP]
  · simp [called_stream]

/-- A transfer to `a` does not leave the body of level `m`. -/
def Stream.stays (st : Stream) (a : X) (m : Nat) : Prop :=
  (st.lvl m).act = true → (st.lvl m).top ≤ a ∧ a ≤ (st.lvl m).fin

theorem stays_iff {st : Stream} {a : X} {m : Nat} : st.stays a m ↔ ((st.lvl m).act && !st.inBody m a) = false := by
  unfold Stream.stays Stream.inBody
  cases (st.lvl m).act <;> simp
/-- A transfer inside every active body leaves the levels as they are (R168). -/
theorem jump_within {st : Stream} {a : X} (h : ∀ m, m < 3 → st.stays a m) : st.jump a = { st with pc := a } := by
  have h0 : (st.l0.act && !st.inBody 0 a) = false := stays_iff.1 (h 0 (by decide))
  have h1 : (st.l1.act && !st.inBody 1 a) = false := stays_iff.1 (h 1 (by decide))
  have h2 : (st.l2.act && !st.inBody 2 a) = false := stays_iff.1 (h 2 (by decide))
  simp only [Stream.jump, h0, h1, h2, Bool.false_eq_true, if_false]
/-- A transfer out of a body ends its level and every deeper one (R168). -/
theorem jump_leaves {st : Stream} {a : X} {l : Nat} (hl : l < 3) (inside : ∀ m, m < l → st.stays a m) (out : ¬ st.stays a l) :
    st.jump a = { st.clearFrom l with pc := a } := by
  have left := Bool.not_eq_false _ ▸ mt stays_iff.2 out
  have stay (m : Nat) (hm : m < l) := stays_iff.1 (inside m hm)
  interval_cases l
  · have h0 : (st.l0.act && !st.inBody 0 a) = true := left
    simp only [Stream.jump, h0, if_true]
  · have h0 : (st.l0.act && !st.inBody 0 a) = false := stay 0 (by decide)
    have h1 : (st.l1.act && !st.inBody 1 a) = true := left
    simp only [Stream.jump, h0, h1, Bool.false_eq_true, if_false, if_true]
  · have h0 : (st.l0.act && !st.inBody 0 a) = false := stay 0 (by decide)
    have h1 : (st.l1.act && !st.inBody 1 a) = false := stay 1 (by decide)
    have h2 : (st.l2.act && !st.inBody 2 a) = true := left
    simp only [Stream.jump, h0, h1, h2, Bool.false_eq_true, if_false, if_true]

/-- The word ends in a taken transfer to `a`, made in the levels of the stream in issue. -/
def TransfersTo (i : Instr) (s : State) (a : X) : Prop :=
  Completes i s fun t => ∃ st : Stream, t.stream = st.jump a ∧ ∀ m, st.lvl m = s.stream.lvl m

theorem transfers_of_jumped {i : Instr} {s : State} {a : X} (run : exec i s = .next (s.jumped a)) : TransfersTo i s a :=
  ⟨s.jumped a, run, s.stream, jumped_stream s a, fun _ => rfl⟩
theorem call_transfers (sb : BitVec 1) (o : BitVec 24) (s : State) :
    TransfersTo (.call sb o) s (s.stream.pc + o.signExtend 64 * BitVec.ofNat 64 (selSize s.sel)) :=
  ⟨s.called o, rfl, _, called_stream s o, fun m => lvl_setX _ _ _ m⟩
theorem transfers_within {i : Instr} {s : State} {a : X} (h : TransfersTo i s a) (stays : ∀ m, m < 3 → s.stream.stays a m) :
    Completes i s fun t => t.stream.pc = a ∧ ∀ m, m < 3 → t.stream.lvl m = s.stream.lvl m := by
  obtain ⟨t, run, st, ht, same⟩ := h
  have stays' : ∀ m, m < 3 → st.stays a m := by simpa only [Stream.stays, same] using stays
  refine ⟨t, run, ?_⟩
  dsimp only
  rw [ht, jump_within stays']
  exact ⟨rfl, fun m _ => (lvl_with_pc st a m).trans (same m)⟩
theorem transfers_leaves {i : Instr} {s : State} {a : X} {l : Nat} (h : TransfersTo i s a) (hl : l < 3)
    (inside : ∀ m, m < l → s.stream.stays a m) (out : ¬ s.stream.stays a l) :
    Completes i s fun t => t.stream.pc = a ∧
      ∀ m, m < 3 → t.stream.lvl m = if m < l then s.stream.lvl m else { s.stream.lvl m with act := false } := by
  obtain ⟨t, run, st, ht, same⟩ := h
  have inside' : ∀ m, m < l → st.stays a m := by simpa only [Stream.stays, same] using inside
  have out' : ¬ st.stays a l := by simpa only [Stream.stays, same] using out
  refine ⟨t, run, ?_⟩
  dsimp only
  rw [ht, jump_leaves hl inside' out']
  exact ⟨rfl, fun m hm => by rw [lvl_with_pc, lvl_clearFrom st hl hm, same]⟩

/-- Settles O3: a taken transfer is one `jump` of the stream in issue, by whatever word, and what it does to the levels rests on the
outermost body that it leaves. -/
theorem transfers : Obligations.Transfers := by
  unfold Obligations.Transfers
  refine ⟨fun sb n p o k s => ⟨?br, ?taken, ?notTaken, ?call⟩, fun sb a s => ⟨?jr, ?ret, fun resident => ⟨?jrFault, ?retFault⟩⟩,
    ?levels⟩
  case br => exact completes_jumped (exec_br sb o s)
  case taken => exact fun h => completes_jumped (exec_brp_taken sb k h)
  case notTaken =>
    intro h plain
    exact ⟨s.advance, exec_brp_not_taken sb k h, advance_movedOn s, by rw [stream_advance, advance_pc _ plain]⟩
  case call => exact ⟨s.called o, exec_call sb o s, called_wroteX s o, by rw [called_stream, jump_pc]⟩
  case jr => exact fun h => completes_jumped (jumpTo_aligned h)
  case ret => exact fun h => completes_jumped (jumpTo_aligned h)
  case jrFault => exact fun h => jumpTo_misaligned resident h
  case retFault => exact fun h => jumpTo_misaligned resident h
  case levels =>
    intro sb n p a o k s u far w hw taken stays
    have moves : TransfersTo w.1 s w.2.2 := by
      simp only [List.mem_cons, List.not_mem_nil, or_false] at hw
      rcases hw with rfl | rfl | rfl | rfl | rfl
      · exact transfers_of_jumped (exec_br sb o s)
      · exact call_transfers sb o s
      · exact transfers_of_jumped (exec_brp_taken sb k (eq_of_beq taken))
      · exact transfers_of_jumped (jumpTo_aligned (eq_of_beq taken))
      · exact transfers_of_jumped (jumpTo_aligned (eq_of_beq taken))
    exact ⟨fun l hl inside out => transfers_leaves moves hl inside out, transfers_within moves⟩

end Sys2Proof.Machine
end

section
/-! PROOFS. Loops: their entry, the end of a body and the break (O4). -/
namespace Sys2Proof.Machine
open Sys2Proof

/-! The way back at the end of a body (R167) -/

/-- Where no active level ends at the unit, it is followed by the next one. -/
theorem loopBack_past {st : Stream} {a : X} {n : Nat} (u : Nat) (h : ∀ k, k < n → (st.lvl k).act = true → (st.lvl k).fin ≠ a) :
    st.loopBack u a n = { st with pc := a + BitVec.ofNat 64 u } := by
  induction n with
  | zero => rfl
  | succ n ih =>
    cases active : (st.lvl n).act with
    | false => rw [Stream.loopBack, if_pos active, ih fun k hk => h k (by omega)]
    | true => rw [Stream.loopBack, if_neg (by simp [active]), if_pos (h n (by omega) active)]
/-- Levels that are not active are passed over. -/
theorem loopBack_skips {st : Stream} {l n : Nat} (u : Nat) (a : X) (hl : l ≤ n) (h : ∀ k, l ≤ k → k < n → (st.lvl k).act = false) :
    st.loopBack u a n = st.loopBack u a l := by
  induction n, hl using Nat.le_induction with
  | base => rfl
  | succ n hn ih => rw [Stream.loopBack, if_pos (h n hn (by omega)), ih fun k hk hkn => h k hk (by omega)]
/-- A level that ends at the unit with rounds left goes back to its first unit. -/
theorem loopBack_again {st : Stream} {l : Nat} {a : X} (u : Nat) (h : st.loopsBack l a) :
    st.loopBack u a (l + 1) = { st.setLvl l { st.lvl l with lc := (st.lvl l).lc + 1 } with pc := (st.lvl l).top } := by
  obtain ⟨active, ends, left⟩ := h
  rw [Stream.loopBack, if_neg (by simp [active]), if_neg (not_not.2 ends)]
  simp only [Stream.loopEnd, if_pos left, if_true]
/-- A level that ends at the unit with no round left ends, and the level outside it is next. -/
theorem loopBack_over {st : Stream} {l : Nat} {a : X} (u : Nat) (active : (st.lvl l).act = true) (ends : (st.lvl l).fin = a)
    (counted : (st.lvl l).n ≠ 0) (done : (st.lvl l).n ≤ (st.lvl l).lc.toNat + 1) :
    st.loopBack u a (l + 1) = (st.setLvl l { st.lvl l with act := false }).loopBack u a l := by
  have none_left : ¬ ((st.lvl l).n = 0 ∨ (st.lvl l).lc.toNat + 1 < (st.lvl l).n) := by omega
  rw [Stream.loopBack, if_neg (by simp [active]), if_neg (not_not.2 ends)]
  simp only [Stream.loopEnd, if_neg none_left, Bool.false_eq_true, if_false]
/-- The first level outward that is active and ends at the unit goes back with rounds left; no other level changes. -/
theorem loopBack_goesBack {st : Stream} {o n : Nat} {a : X} (u : Nat) (ho : o < n) (hn : n ≤ 3) (back : st.loopsBack o a)
    (between : ∀ k, o < k → k < n → (st.lvl k).act = false) :
    st.wentBack (st.loopBack u a n) o ∧ ∀ k, k < 3 → k ≠ o → (st.loopBack u a n).lvl k = st.lvl k := by
  have h3 : o < 3 := by omega
  rw [loopBack_skips u a ho between, loopBack_again u back]
  exact ⟨⟨rfl, by rw [lvl_with_pc, lvl_setLvl st h3 h3, if_pos rfl]⟩,
    fun k hk hne => by rw [lvl_with_pc, lvl_setLvl st h3 hk, if_neg hne]⟩

theorem loopsBack_congr {st st' : Stream} {l : Nat} (h : st'.lvl l = st.lvl l) (a : X) : st'.loopsBack l a ↔ st.loopsBack l a := by
  simp only [Stream.loopsBack, h]
theorem wentBack_congr {st st' : Stream} {l : Nat} (h : st'.lvl l = st.lvl l) (t : Stream) : st'.wentBack t l ↔ st.wentBack t l := by
  simp only [Stream.wentBack, h]

/-! LOOP and LOOPX (R165, R166) -/

theorem inBody_iff {st : Stream} {l : Nat} {a : X} : st.inBody l a = true ↔ (st.lvl l).top ≤ a ∧ a ≤ (st.lvl l).fin := by
  simp [Stream.inBody]
/-- CheckNesting fails a level that is active, or whose outer level does not hold the LOOP and its body (R166). -/
theorem nestBad_iff {st : Stream} {l : Nat} {top fin : X} : st.nestBad l top fin = true ↔ (st.lvl l).act = true ∨ (l ≠ 0 ∧
    ((st.lvl (l - 1)).act = false ∨
      ¬ (st.inBody (l - 1) st.pc = true ∧ st.inBody (l - 1) top = true ∧ st.inBody (l - 1) fin = true))) := by
  simp only [Stream.nestBad, Bool.or_eq_true, Bool.and_eq_true, decide_eq_true_eq, Bool.not_eq_true', ← Bool.not_eq_true,
    Nat.pos_iff_ne_zero, and_assoc]

/-- The first unit of the body of a LOOP in issue, and the last one of a body of `len` units. -/
abbrev State.bodyTop (s : State) : X := s.stream.pc + BitVec.ofNat 64 (selSize s.sel)
abbrev State.bodyEnd (s : State) (len : Nat) : X := s.stream.pc + BitVec.ofNat 64 (len * selSize s.sel)
/-- A LOOP in issue makes its level active over its body. -/
def State.looped (s : State) (l len n : Nat) : State :=
  s.mapStream fun _ st => { st.setLvl l ⟨true, s.bodyTop, s.bodyEnd len, n, 0⟩ with pc := s.bodyTop }
/-- A LOOP in issue goes past its body, as from the body's end. -/
def State.skipsLoop (s : State) (l len : Nat) : State :=
  s.mapStream fun u st => (st.setLvl l { st.lvl l with lc := 0 }).loopBack u (s.bodyEnd len) 3

theorem looped_spec {s : State} {l : Nat} (hl : l < 3) (len n : Nat) : s.movedOn (s.looped l len n) ∧
    (s.looped l len n).stream.pc = s.bodyTop ∧ (s.looped l len n).stream.lvl l = ⟨true, s.bodyTop, s.bodyEnd len, n, 0⟩ := by
  refine ⟨mapStream_movedOn (setLvl_x _ _ _) (setLvl_p _ _ _) (setLvl_fmsel _ _ _), ?_, ?_⟩
  · simp [State.looped]
  · rw [State.looped, stream_mapStream, lvl_with_pc, lvl_setLvl _ hl hl, if_pos rfl]
theorem skipsLoop_spec {s : State} (len : Nat) (plain : s.stream.plain) : s.movedOn (s.skipsLoop 0 len) ∧
    (s.skipsLoop 0 len).stream.pc = s.bodyEnd len + BitVec.ofNat 64 (selSize s.sel) ∧
    ((s.skipsLoop 0 len).stream.lvl 0).act = false ∧ ((s.skipsLoop 0 len).stream.lvl 0).lc = 0 := by
  have past : (s.skipsLoop 0 len).stream = { s.stream.setLvl 0 { s.stream.lvl 0 with lc := 0 } with
      pc := s.bodyEnd len + BitVec.ofNat 64 (selSize s.sel) } := by
    rw [State.skipsLoop, stream_mapStream, loopBack_past]
    intro k hk active
    have outside := lvl_inactive_of_plain plain hk
    rw [lvl_setLvl _ (by decide) hk] at active
    split at active <;> simp_all
  refine ⟨mapStream_movedOn (by simp) (by simp) (by simp), ?_, ?_, ?_⟩ <;> rw [past]
  · exact lvl_inactive_of_plain plain (by decide)
  · rfl

section
variable {s : State} {x : Bool} {l len n : Nat} (few : n < 2 ^ 32)
include few

theorem enterLoop_nested (nested : s.stream.nestBad l s.bodyTop (s.bodyEnd len) = false) :
    s.enterLoop x l len n = if n = 0 ∧ x = false then .next (s.skipsLoop l len) else .next (s.looped l len n) := by
  rw [State.enterLoop, if_neg (by omega), if_neg (by simp [nested])]
  rfl
theorem enterLoop_misnested (resident : (s.unit s.selUnit).status = .resident)
    (bad : s.stream.nestBad l s.bodyTop (s.bodyEnd len) = true) :
    ∃ t, s.enterLoop x l len n = .next t ∧ s.faultsWith t 0x08 (BitVec.ofNat 64 l) := by
  refine raiseTrap_faults (t := ⟨0x08, l⟩) ?_ resident (show 0x08 < 0x40 by decide) rfl
  rw [State.enterLoop, if_neg (by omega), if_pos bad]

end

theorem enterLoop_overcounted {s : State} {x : Bool} {l len n : Nat} (many : 2 ^ 32 ≤ n)
    (resident : (s.unit s.selUnit).status = .resident) :
    ∃ t, s.enterLoop x l len n = .next t ∧ s.faultsWith t 0x07 (BitVec.ofNat 64 n) :=
  raiseTrap_faults (t := ⟨0x07, n⟩) (if_pos many) resident (show 0x07 < 0x40 by decide) rfl

/-! LBRK (R169) -/

/-- The stream in issue leaves level `l` and every deeper one, as from the end of the level's body. -/
def State.broke (s : State) (l : Nat) : State := s.mapStream fun u st => (st.clearFrom l).loopBack u (st.lvl l).fin 3

section
variable {s : State} {p : BitVec 7} {n : BitVec 1} (sb : BitVec 1) (l : BitVec 2)

theorem exec_lbrk_active (taken : s.stream.getP p = decide (n = 1)) (active : (s.stream.lvl l.toNat).act = true) :
    exec (.lbrk sb p n l) s = .next (s.broke l.toNat) := by
  show execLbrk sb p n l s = _
  rw [execLbrk, if_pos taken, if_pos active]
  rfl
theorem exec_lbrk_inactive (taken : s.stream.getP p = decide (n = 1)) (inactive : (s.stream.lvl l.toNat).act = false) :
    exec (.lbrk sb p n l) s = .next (s.raiseTrap ⟨0x08, l.toNat⟩) := by
  show execLbrk sb p n l s = _
  rw [execLbrk, if_pos taken, if_neg (by simp [inactive])]
theorem exec_lbrk_not_taken (h : s.stream.getP p ≠ decide (n = 1)) : exec (.lbrk sb p n l) s = .next s.advance := if_neg h

end

theorem broke_stream (s : State) (l : Nat) :
    (s.broke l).stream = (s.stream.clearFrom l).loopBack (selSize s.sel) (s.stream.lvl l).fin 3 := stream_mapStream s _
theorem broke_movedOn (s : State) (l : Nat) : s.movedOn (s.broke l) := mapStream_movedOn (by simp) (by simp) (by simp)
theorem clearFrom_inactive (st : Stream) {l k : Nat} (hl : l < 3) (hk : k < 3) (h : l ≤ k) : ((st.clearFrom l).lvl k).act = false := by
  rw [lvl_clearFrom st hl hk, if_neg (by omega)]
theorem clearFrom_outer (st : Stream) {l k : Nat} (hl : l < 3) (h : k < l) : (st.clearFrom l).lvl k = st.lvl k := by
  rw [lvl_clearFrom st hl (by omega), if_pos h]
/-- Where no outer active level ends there too, the unit past the body is next. -/
theorem broke_past {s : State} {l : Nat} (hl : l < 3)
    (outer : ∀ k, k < l → (s.stream.lvl k).act = true → (s.stream.lvl k).fin ≠ (s.stream.lvl l).fin) :
    (s.broke l).stream = { s.stream.clearFrom l with pc := (s.stream.lvl l).fin + BitVec.ofNat 64 (selSize s.sel) } := by
  rw [broke_stream, loopBack_past]
  intro k hk active
  by_cases h : k < l
  · rw [clearFrom_outer _ hl h] at active ⊢
    exact outer k h active
  · simp [clearFrom_inactive _ hl hk (by omega)] at active
/-- An outer level that ends there too goes back, where it has a round left. -/
theorem broke_goesBack {s : State} {l o : Nat} (hl : l < 3) (ho : o < l) (back : s.stream.loopsBack o (s.stream.lvl l).fin)
    (between : ∀ k, o < k → k < l → (s.stream.lvl k).act = false) : s.stream.wentBack (s.broke l).stream o ∧
      ∀ k, l ≤ k → k < 3 → ((s.broke l).stream.lvl k).act = false := by
  have same := clearFrom_outer s.stream hl ho
  have inactive : ∀ k, o < k → k < 3 → ((s.stream.clearFrom l).lvl k).act = false := by
    intro k hk hk3
    by_cases h : k < l
    · rw [clearFrom_outer _ hl h]
      exact between k hk h
    · exact clearFrom_inactive _ hl hk3 (by omega)
  obtain ⟨went, others⟩ := loopBack_goesBack (selSize s.sel) (by omega) (Nat.le_refl 3) ((loopsBack_congr same _).2 back) inactive
  rw [← broke_stream] at went others
  exact ⟨(wentBack_congr same _).1 went, fun k hk hk3 => by rw [others k hk3 (by omega), clearFrom_inactive _ hl hk3 hk]⟩

/-! A word that completes at the end of a body (R167) -/

/-- A word under no repeat is followed as the loops of its stream say. -/
theorem advance_unrepeated {s : State} (h : s.stream.rep = none) :
    s.advance.stream = s.stream.loopBack (selSize s.sel) s.stream.pc 3 := by
  rw [stream_advance]
  unfold Stream.advance
  rw [h]
  rfl
/-- Level `l`, the deepest active one, ends with its body. -/
theorem loopBack_ends {st : Stream} {l : Nat} {a : X} (u : Nat) (hl : l < 3) (deepest : ∀ k, l < k → k < 3 → (st.lvl k).act = false)
    (active : (st.lvl l).act = true) (ends : (st.lvl l).fin = a) (counted : (st.lvl l).n ≠ 0)
    (done : (st.lvl l).n ≤ (st.lvl l).lc.toNat + 1) :
    st.loopBack u a 3 = (st.setLvl l { st.lvl l with act := false }).loopBack u a l := by
  rw [loopBack_skips u a hl deepest, loopBack_over u active ends counted done]

section
variable {st : Stream} {l : Nat} {v : Loop} {a : X} (u : Nat) (hl : l < 3)
include hl

/-- With level `l` set, where no outer active level ends at the unit, the next unit follows. -/
theorem setLvl_loopBack_past (outer : ∀ k, k < l → (st.lvl k).act = true → (st.lvl k).fin ≠ a) :
    (st.setLvl l v).loopBack u a l = { st.setLvl l v with pc := a + BitVec.ofNat 64 u } := by
  refine loopBack_past u fun k hk => ?_
  rw [lvl_setLvl _ hl (by omega), if_neg (by omega)]
  exact outer k hk
/-- With level `l` set, an outer level that ends at the unit goes back, where it has a round left. -/
theorem setLvl_loopBack_goesBack {o : Nat} (ho : o < l) (back : st.loopsBack o a)
    (between : ∀ k, o < k → k < l → (st.lvl k).act = false) :
    st.wentBack ((st.setLvl l v).loopBack u a l) o ∧ ((st.setLvl l v).loopBack u a l).lvl l = v := by
  have same : ∀ k, k < l → (st.setLvl l v).lvl k = st.lvl k := fun k hk => by rw [lvl_setLvl _ hl (by omega), if_neg (by omega)]
  obtain ⟨went, others⟩ := loopBack_goesBack u ho (by omega) ((loopsBack_congr (same o ho) a).2 back)
    fun k hk hkl => by rw [same k hkl]; exact between k hk hkl
  exact ⟨(wentBack_congr (same o ho) _).1 went, by rw [others l hl (by omega), lvl_setLvl _ hl hl, if_pos rfl]⟩

end

/-- Settles O4: by the way back at the end of a body, taken outward level by level. -/
theorem loops : Obligations.Loops := by
  unfold Obligations.Loops
  refine ⟨?entry, ?faults, ?breaks, ?ends⟩
  case entry =>
    intro sb l n r e s u top fin made hl nested
    have enters {x : Bool} {k : Nat} (few : k < 2 ^ 32) (runs : k ≠ 0 ∨ x = true) :
        ∃ t, s.enterLoop x l.toNat (e.toNat + 1) k = .next t ∧ made k t := by
      have entered : ¬ (k = 0 ∧ x = false) := by rintro ⟨rfl, rfl⟩; simp at runs
      exact ⟨_, (enterLoop_nested few nested).trans (if_neg entered), looped_spec (level_lt hl) _ _⟩
    have small : n.toNat < 2 ^ 32 := by omega
    refine ⟨fun h => enters small (.inl ?_), fun h few => enters few (.inl ?_), enters small (.inr rfl), fun few => enters few (.inr rfl),
      fun outermost plain => ?_⟩
    · exact fun e => h (BitVec.eq_of_toNat_eq e)
    · exact fun e => h (BitVec.eq_of_toNat_eq e)
    · subst outermost
      intro skipped
      have skips {k : Nat} (zero : k = 0) : ∃ t, s.enterLoop false (0 : BitVec 2).toNat (e.toNat + 1) k = .next t ∧ skipped t :=
        ⟨_, (enterLoop_nested (by omega) nested).trans (if_pos ⟨zero, rfl⟩), skipsLoop_spec _ plain⟩
      exact ⟨fun h => skips (by rw [h]; rfl), fun h => skips (by rw [h]; rfl)⟩
  case faults =>
    intro sb l n r e s u at_ fin x up within hl resident
    refine ⟨fun many i hi => ?_, fun bad i hi => ?_⟩
    · have faults {y : Bool} := enterLoop_overcounted (x := y) (l := l.toNat) (len := e.toNat + 1) many resident
      rw [BitVec.ofNat_toNat, BitVec.setWidth_eq] at faults
      simp only [List.mem_cons, List.not_mem_nil, or_false] at hi
      rcases hi with rfl | rfl <;> exact faults
    · have bad' : s.stream.nestBad l.toNat s.bodyTop (s.bodyEnd (e.toNat + 1)) = true := by
        simp only [nestBad_iff, inBody_iff]
        exact bad.imp_right fun ⟨inner, unheld⟩ => ⟨fun zero => inner (BitVec.eq_of_toNat_eq zero), unheld⟩
      have faults {y : Bool} {k : Nat} (few : k < 2 ^ 32) := enterLoop_misnested (x := y) few resident bad'
      have small : n.toNat < 2 ^ 32 := by omega
      simp only [List.mem_append, List.mem_cons, List.not_mem_nil, or_false] at hi
      rcases hi with (rfl | rfl) | hi
      · exact faults small
      · exact faults small
      · split at hi
        next few =>
          simp only [List.mem_cons, List.not_mem_nil, or_false] at hi
          rcases hi with rfl | rfl <;> exact faults few
        · cases hi
  case breaks =>
    intro sb n p l s v left
    refine ⟨fun taken hl => ⟨fun active outer => ?_, fun active o ho back between => ?_, fun inactive resident => ?_⟩, fun h => ?_⟩
    · have past := broke_past (level_lt hl) outer
      refine ⟨_, exec_lbrk_active sb l taken active, ⟨broke_movedOn s _, ?_⟩, ?_, ?_⟩
      · intro k hk hk3
        rw [past, lvl_with_pc]
        exact clearFrom_inactive _ (level_lt hl) hk3 hk
      · intro k hk
        rw [past, lvl_with_pc]
        exact clearFrom_outer _ (level_lt hl) hk
      · rw [past]
    · obtain ⟨went, inactive⟩ := broke_goesBack (level_lt hl) ho back between
      exact ⟨_, exec_lbrk_active sb l taken active, ⟨broke_movedOn s _, inactive⟩, went⟩
    · exact raiseTrap_faults (exec_lbrk_inactive sb l taken inactive) resident (show 0x08 < 0x40 by decide) rfl
    · exact ⟨_, exec_lbrk_not_taken sb l h, advance_movedOn s, rfl⟩
  case ends =>
    intro sb l s v at_ ended hl unrepeated active ends deepest
    have next := advance_unrepeated unrepeated
    have moved := advance_movedOn s
    refine ⟨fun back => ⟨_, rfl, moved, ?_⟩, fun counted done => ⟨fun outer => ?_, fun o ho back between => ?_⟩⟩
    · rw [next]
      exact loopBack_goesBack _ hl (Nat.le_refl 3) back deepest
    · rw [loopBack_ends _ hl deepest active ends counted done, setLvl_loopBack_past _ hl outer] at next
      refine ⟨_, rfl, ⟨moved, ?_⟩, fun k hk hne => ?_, ?_⟩
      · rw [next, lvl_with_pc, lvl_setLvl _ hl hl, if_pos rfl]
      · rw [next, lvl_with_pc, lvl_setLvl _ hl hk, if_neg hne]
      · rw [next]
    · rw [loopBack_ends _ hl deepest active ends counted done] at next
      obtain ⟨went, ended⟩ := setLvl_loopBack_goesBack (selSize s.sel) hl ho back between
      exact ⟨_, rfl, ⟨moved, next ▸ ended⟩, next ▸ went⟩

end Sys2Proof.Machine
end

section
/-! PROOFS. NOP and HALT (O6), and the repeat prefix (O5). -/
namespace Sys2Proof.Machine
open Sys2Proof

/-! HALT (R179, R180) -/

theorem vkey_ne {u j k i : Nat} (hj : j < 4) (hi : i < 4) (h : (k, i) ≠ (u, j)) : vkey k i ≠ vkey u j := by
  unfold vkey
  rintro same
  exact h (Prod.ext (by omega) (by omega))
/-- That the counts of a stall start again changes nothing of a voice but its count and when it issues next. -/
theorem restartStall_keeps {α : Type} {g : Voice → α} (hg : ∀ v n a, g { v with stall := n, nextAt := a } = g v) (s : State) (u k i : Nat) :
    g ((s.restartStall u).voice k i) = g (s.voice k i) := by
  refine NMap.getD_map_keeps (fun c => ?_) (fun c => ?_) _ _
  · dsimp only
    split
    · split <;> rfl
    · rfl
  · dsimp only
    split
    · split
      · exact hg _ _ _
      · rfl
    · rfl
theorem restartStall_sameStore (s : State) (u : Nat) : s.sameStore (s.restartStall u) :=
  ⟨rfl, rfl, rfl, rfl, rfl, rfl, rfl, rfl, rfl, rfl, rfl, rfl, fun _ => rfl⟩
theorem turnOff_sameStore (s : State) (u j : Nat) (v : Voice) (st : VStatus) : s.sameStore (s.turnOff u j v st) :=
  sameStore_trans (setVoice_sameStore s u j _) (restartStall_sameStore _ u)
theorem turnOff_voice_self (s : State) (u j : Nat) (v : Voice) (st : VStatus) : ((s.turnOff u j v st).voice u j).status = st := by
  rw [State.turnOff, restartStall_keeps (g := Voice.status) fun _ _ _ => rfl, voice_setVoice]
theorem turnOff_voice_ne (s : State) {u j k i : Nat} (v : Voice) (st : VStatus) (h : vkey k i ≠ vkey u j) :
    ((s.turnOff u j v st).voice k i).st = (s.voice k i).st ∧ ((s.turnOff u j v st).voice k i).status = (s.voice k i).status := by
  rw [State.turnOff, restartStall_keeps (g := Voice.st) fun _ _ _ => rfl, restartStall_keeps (g := Voice.status) fun _ _ _ => rfl,
    voice_setVoice_ne s _ h]
  exact ⟨rfl, rfl⟩

theorem exec_halt_voice {s : State} {u j : Nat} (sb : BitVec 1) (hs : s.sel = .voice u j) (some_on : s.allOff u j = false) :
    exec (.halt sb) s = .next (s.turnOff u j (s.voice u j) .halted) := by
  show execHalt sb s = _
  simp only [execHalt, hs, some_on, Bool.false_eq_true, if_false]
theorem exec_halt_ctx {s : State} {u j : Nat} {e : Engine} (sb : BitVec 1) (hs : s.sel = .ctx u e j) :
    exec (.halt sb) s = .next (s.setCtx u e j (({ s.ctx u e j with status := .draining } : Ctx).settle (s.engEnd u e))) := by
  show execHalt sb s = _
  simp only [execHalt, hs]
/-- A context whose commands are all complete is idle, and one with a command queued is as it was. -/
theorem settle_empty {c : Ctx} (t : Nat) (draining : c.status = .draining) (queue : c.queue = []) (flight : c.flight = []) :
    (c.settle t).status = .idle := by rw [Ctx.settle, if_pos ⟨draining, queue, flight⟩]
theorem settle_queued {c : Ctx} (t : Nat) (queue : c.queue ≠ []) : c.settle t = c := if_neg fun h => queue h.2.1

/-- Settles O6: NOP is a bare advance, and HALT one write of its voice or context. -/
theorem nopAndHalt : Obligations.NopAndHalt := by
  unfold Obligations.NopAndHalt
  refine fun sb s => ⟨⟨s.advance, rfl, advance_movedOn s, ?nop⟩, ?voice, ?idle, ?draining⟩
  case nop => exact fun plain => by rw [stream_advance, advance_pc _ plain]
  case voice =>
    intro u j hs some_on hj
    have store := turnOff_sameStore s u j (s.voice u j) .halted
    exact ⟨_, exec_halt_voice sb hs some_on, turnOff_voice_self s u j _ _, sameStore_keepsMemory store, sameStore_keepsCores store,
      fun k i hi other => turnOff_voice_ne s _ _ (vkey_ne hj hi other)⟩
  case idle =>
    intro u e j hs queue flight
    have store := setCtx_sameStore s u e j (({ s.ctx u e j with status := .draining } : Ctx).settle (s.engEnd u e))
    refine ⟨_, exec_halt_ctx sb hs, ?_, sameStore_keepsMemory store, sameStore_keepsCores store⟩
    rw [ctx_setCtx]
    exact settle_empty _ rfl queue flight
  case draining =>
    intro u e j hs queue
    refine ⟨_, exec_halt_ctx sb hs, ?_⟩
    dsimp only
    rw [ctx_setCtx, settle_queued (c := { s.ctx u e j with status := .draining }) _ queue]
    exact ⟨rfl, rfl⟩

/-! REP (R171 to R173, R375) -/

/-- Noting a fetch changes no store, no stream and no team's state. -/
theorem noteReads_keeps (s : State) (u pa n : Nat) : (s.noteReads u pa n).sel = s.sel ∧ (s.noteReads u pa n).voices = s.voices ∧
    (s.noteReads u pa n).ctxs = s.ctxs ∧ ∀ k, ((s.noteReads u pa n).unit k).status = (s.unit k).status := by
  induction n generalizing s pa with
  | zero => exact ⟨rfl, rfl, rfl, fun _ => rfl⟩
  | succ n ih =>
    have one : (s.noteRead u pa).sel = s.sel ∧ (s.noteRead u pa).voices = s.voices ∧ (s.noteRead u pa).ctxs = s.ctxs ∧
        ∀ k, ((s.noteRead u pa).unit k).status = (s.unit k).status := by
      unfold State.noteRead
      split
      · exact ⟨rfl, rfl, rfl, fun _ => rfl⟩
      · refine ⟨rfl, rfl, rfl, fun k => ?_⟩
        by_cases hk : k = u
        · subst hk; rw [unit_setUnit]
        · rw [unit_setUnit_ne _ _ hk]
    obtain ⟨sel, voices, ctxs, status⟩ := ih (s.noteRead u pa) (pa + 1)
    obtain ⟨sel₁, voices₁, ctxs₁, status₁⟩ := one
    exact ⟨sel.trans sel₁, voices.trans voices₁, ctxs.trans ctxs₁, fun k => (status k).trans (status₁ k)⟩

/-- In `t` the same stream is in issue as in `s`, standing as it did, in a team in the same state, and every store is as it was. -/
structure State.sameIssue (s t : State) : Prop where
  store : s.sameStore t
  sel : t.sel = s.sel
  stream : t.stream = s.stream
  status : (t.unit t.selUnit).status = (s.unit s.selUnit).status

theorem noteFetch_sameIssue (s : State) (u n : Nat) (pa : Option Nat) : s.sameIssue (s.noteFetch u n pa) := by
  cases pa with
  | none => exact ⟨sameStore_refl s, rfl, rfl, rfl⟩
  | some pa =>
    obtain ⟨sel, voices, ctxs, status⟩ := noteReads_keeps s u pa n
    refine ⟨noteReads_sameStore s u pa n, sel, ?_, ?_⟩
    · simp only [State.noteFetch, State.stream, State.voice, State.ctx, sel, voices, ctxs]
    · simp only [State.noteFetch, State.selUnit, sel, status]
/-- A fault taken after the fetch was noted is one of the word in issue. -/
theorem faultsWith_of_sameIssue {s s1 t : State} {code : Nat} {info : X} (h : s.sameIssue s1) (f : s1.faultsWith t code info) :
    s.faultsWith t code info := by
  obtain ⟨fails, cause, detail, pc, stream, memory, cores⟩ := f
  have unit : s1.selUnit = s.selUnit := by simp only [State.selUnit, h.sel]
  have voice : s1.selVoice = s.selVoice := by simp only [State.selVoice, h.sel]
  have memory₁ := sameStore_keepsMemory h.store
  obtain ⟨sp, acc, tiles, masks, lan, dsc⟩ := cores
  rw [unit] at fails
  rw [unit, voice, h.sel] at cause
  rw [unit, voice] at detail
  rw [unit, voice, h.stream] at pc
  exact ⟨fails, cause, detail, pc, stream.trans h.stream, fun ag key pa => (memory ag key pa).trans (memory₁ ag key pa),
    sp.trans h.store.sp, acc.trans h.store.acc, tiles.trans h.store.tiles, masks.trans h.store.masks, lan.trans h.store.lan,
    dsc.trans h.store.dsc⟩

/-- REP sets the repeat state of the next unit. -/
def State.repeats (s : State) (r : Rep) : State :=
  s.mapStream fun u st => { st with pc := st.pc + BitVec.ofNat 64 u, rep := some r }

theorem pickWord_pa {sel : Sel} {va : Nat} {ws : List Word} {pa : Option Nat} {f : Fetched} (h : pickWord sel va ws pa = .ok f) :
    f.pa = pa := by
  unfold pickWord at h
  split at h
  · dsimp only at h
    split at h
    · cases h
    · split at h
      · cases h
      · cases h; rfl
  · cases h; rfl
/-- REP before a word that passes its fetch notes the fetch, and then sets the repeat state or faults. -/
theorem exec_rep_fetched {s : State} {f : Fetched} (sb : BitVec 1) (c : BitVec 6) (d a b : BitVec 3)
    (fetched : s.fetchFor s.sel (s.stream.pc + BitVec.ofNat 64 (selSize s.sel)) = .ok f) :
    exec (.rep sb c d a b) s = if s.repRefused f c d a b = true
      then .next ((s.noteFetch s.selUnit (selSize s.sel) f.pa).raiseTrap s.illegal)
      else .next ((s.noteFetch s.selUnit (selSize s.sel) f.pa).repeats ⟨0, c, d, a, b⟩) := by
  unfold State.fetchFor at fetched
  show execRep sb c d a b s = _
  split at fetched
  · cases fetched
  · next ws pa unit =>
    simp only [execRep, unit, fetched, pickWord_pa fetched]
    rfl

/-! What makes REP refuse the next word (R173) -/

/-- A step that takes a field out of its range at some repeat does so at the last one. -/
theorem repFieldOk_of_leaves {w k last y z : Nat} {step : BitVec 3} (hk : k ≤ last)
    (out : (bits w y z : Int) + step.toInt * k < 0 ∨ (2 : Int) ^ z ≤ (bits w y z : Int) + step.toInt * k) :
    repFieldOk w (some (y, z)) step last = false := by
  have below : (bits w y z : Int) < 2 ^ z := by
    have := Nat.mod_lt (w / 2 ^ y) (Nat.two_pow_pos z)
    exact_mod_cast this
  have start : (0 : Int) ≤ bits w y z := Int.natCast_nonneg _
  have hk₀ : (0 : Int) ≤ k := Int.natCast_nonneg _
  have hk₁ : (k : Int) ≤ last := by exact_mod_cast hk
  refine Bool.and_eq_false_iff.2 ?_
  rcases lt_or_ge step.toInt 0 with down | up
  · have further := mul_le_mul_of_nonpos_left hk₁ down.le
    have fell := mul_nonpos_of_nonpos_of_nonneg down.le hk₀
    exact .inl (decide_eq_false (not_le.2 (lt_of_le_of_lt (add_le_add_right further _) (out.resolve_right (by linarith)))))
  · have further := mul_le_mul_of_nonneg_left hk₁ up
    have rose := mul_nonneg up hk₀
    exact .inr (decide_eq_false (not_lt.2 ((out.resolve_left (by linarith)).trans (add_le_add_right further _))))
theorem repFieldOk_of_lacks {w last : Nat} {step : BitVec 3} (h : step ≠ 0) : repFieldOk w none step last = false := by
  simpa [repFieldOk, ← BitVec.toNat_inj] using h

section
variable {k : StreamKind} {acc last : Nat} {w : Word} {i : Instr} {d a b : BitVec 3}

theorem not_repAllowed_of_none (h : i.repFields = none) : repAllowed k acc w i d a b last = false := by rw [repAllowed, h]
/-- REP may not repeat a word one of whose fields refuses its step. -/
theorem not_repAllowed_of_field {g : RepFields} (h : i.repFields = some g) (idle : Instr.idleB i = false) {x : Option (Nat × Nat) × BitVec 3}
    (hx : x ∈ [(g.d, d), (g.a, a), (g.b, b)]) (refused : repFieldOk w.toNat x.1 x.2 last = false) :
    repAllowed k acc w i d a b last = false := by
  simp only [List.mem_cons, List.not_mem_nil, or_false] at hx
  rw [repAllowed, h]
  simp only [idle, Bool.false_eq_true, if_false]
  rcases hx with rfl | rfl | rfl <;> simp [refused]

end

theorem atLoopEnd_of {st : Stream} {l : Nat} (hl : l < 3) (active : (st.lvl l).act = true) (ends : (st.lvl l).fin = st.pc) :
    st.atLoopEnd = true := List.any_eq_true.2 ⟨l, List.mem_range.2 hl, by simp [active, ends]⟩

/-- Settles O5: REP refuses or repeats the word it fetched, and each ground of the rule makes it refuse. -/
theorem repeatPrefix : Obligations.RepeatPrefix := by
  unfold Obligations.RepeatPrefix
  intro sb c d a b s f fetched
  have run := exec_rep_fetched sb c d a b fetched
  have noted := noteFetch_sameIssue s s.selUnit (selSize s.sel) f.pa
  refine ⟨fun allowed => ?repeats, fun i decoded resident ground => ?refuses⟩
  case repeats =>
    rw [if_neg (by simp [allowed])] at run
    have stands : ((s.noteFetch s.selUnit (selSize s.sel) f.pa).repeats ⟨0, c, d, a, b⟩).stream =
        { s.stream with pc := s.stream.pc + BitVec.ofNat 64 (selSize s.sel), rep := some ⟨0, c, d, a, b⟩ } := by
      rw [State.repeats, stream_mapStream, noted.stream, noted.sel]
    exact ⟨_, run, mapStream_movedOn rfl rfl rfl, ⟨fun r => by rw [stands]; rfl, fun p => by rw [stands]; rfl⟩, by rw [stands], by rw [stands]⟩
  case refuses =>
    have refused : s.repRefused f c d a b = true := by
      simp only [State.repRefused, decoded, Bool.or_eq_true, Bool.not_eq_true']
      rcases ground with sync | ⟨l, hl, active, ends⟩ | repeatless | ⟨idle, g, fields, x, hx, lacks | ⟨y, k, z, field, hk, out⟩⟩
      · exact .inl (.inr sync)
      · exact .inl (.inl (atLoopEnd_of hl active ends))
      · exact .inr (not_repAllowed_of_none repeatless)
      · exact .inr (not_repAllowed_of_field fields idle hx (lacks.1 ▸ repFieldOk_of_lacks lacks.2))
      · exact .inr (not_repAllowed_of_field fields idle hx (field ▸ repFieldOk_of_leaves hk out))
    rw [if_pos refused] at run
    obtain ⟨t, taken, faults⟩ := raiseTrap_faults run (noted.status.trans resident) (show 0x01 < 0x40 by decide) rfl
    have word : s.illegal.info = s.ir.toNat * 2 ^ 32 := Nat.zero_add _
    exact ⟨t, taken, word ▸ faultsWith_of_sameIssue noted faults⟩

end Sys2Proof.Machine
end

section
/-! PROOFS. Scalar floating point and bit operations of the control core (O15). -/
namespace Sys2Proof.Machine
open Sys2Proof

/-! Words that raise flags (R72, R73, R181) -/

/-- With no other write on its way FPFL holds the flags joined to it. -/
theorem raise_fpfl {s : State} (settled : (s.unit s.selUnit).recent.find 0x024 = none) (fl : X) :
    ((s.raise fl).unit s.selUnit).fpfl = (s.unit s.selUnit).fpfl ||| fl := by
  rw [State.raise, State.raiseFrom, unit_setUnit, TeamUnit.raise]
  split
  next clear => exact clear ▸ BitVec.or_zero.symm
  next => simp [TeamUnit.wrote, settled, Recent.final, Recent.fold]
theorem completes_fpResult {i : Instr} {s : State} {d : BitVec 6} {v : Nat × X} (run : exec i s = .next (s.fpResult d v)) :
    Completes i s fun t => s.wroteFloat t d v :=
  ⟨s.fpResult d v, run, result_wroteX (s.raise v.2) d _, fun settled =>
    (congrArg TeamUnit.fpfl (unit_mapStream (s.raise v.2) _ s.selUnit)).trans (raise_fpfl settled v.2)⟩
/-- A conversion gives its result as a register value. -/
theorem completes_converted {i : Instr} {s : State} {d : BitVec 6} {v fl : X}
    (run : exec i s = .next ((s.raise fl).result d fun _ => v)) : Completes i s fun t => s.wroteFloat t d (v.toNat, fl) :=
  completes_fpResult (run.trans (by rw [State.fpResult, BitVec.ofNat_toNat, BitVec.setWidth_eq]))

/-! Values of the bit operations (R205) -/

theorem leadZeros_zero : leadZeros 0 = 64 := rfl
/-- The highest set bit of a value below 2^(64 - k) that 2^(63 - k) does not exceed stands under `k` zeros. -/
theorem leadZeros_eq {x : X} {k : Nat} (hk : k < 64) (above : x.toNat < 2 ^ (64 - k)) (below : 2 ^ (63 - k) ≤ x.toNat) :
    leadZeros x = k := by
  have nonzero : x.toNat ≠ 0 := (Nat.lt_of_lt_of_le (Nat.two_pow_pos _) below).ne'
  have top : Nat.log2 x.toNat = 63 - k :=
    (Nat.log2_eq_iff nonzero).2 ⟨below, by rwa [show 63 - k + 1 = 64 - k by omega]⟩
  rw [leadZeros, if_neg (fun h => nonzero (by rw [h]; rfl)), top]
  omega
/-- A field is what a mask leaves of the value shifted down. -/
theorem bitExtract_eq (v : X) (pos : Nat) {n : Nat} (hn : n ≤ 64) : bitExtract v pos n = (v >>> pos) &&& BitVec.ofNat 64 (2 ^ n - 1) := by
  have mask : (2 ^ n - 1) % 2 ^ 64 = 2 ^ n - 1 :=
    Nat.mod_eq_of_lt (Nat.lt_of_lt_of_le (Nat.sub_lt (Nat.two_pow_pos n) Nat.one_pos) (Nat.pow_le_pow_right Nat.two_pos hn))
  apply BitVec.eq_of_toNat_eq
  rw [bitExtract, BitVec.toNat_and, BitVec.toNat_ofNat, BitVec.toNat_ofNat, mask, Nat.and_two_pow_sub_one_eq_mod,
    BitVec.toNat_ushiftRight, Nat.shiftRight_eq_div_pow]
  exact Nat.mod_eq_of_lt (Nat.lt_of_le_of_lt (Nat.mod_le _ _) (Nat.lt_of_le_of_lt (Nat.div_le_self _ _) v.isLt))

/-- Settles O15: each word is one write of a register or predicate, of the state in which its flags are raised. -/
theorem floatAndBits : Obligations.FloatAndBits := by
  unfold Obligations.FloatAndBits
  refine ⟨fun sb p d a b q r c f g s => ?float, fun sb d a b w s => ?bits⟩
  case float =>
    refine ⟨completes_fpResult rfl, completes_fpResult rfl, completes_fpResult rfl, completes_fpResult rfl, completes_fpResult rfl,
      completes_fpResult rfl, completes_fpResult rfl, completes_fpResult rfl, ?xored, ⟨_, rfl, resultP_wroteP _ q _, ?compareFlags⟩,
      completes_fpResult rfl, completes_fpResult rfl, completes_result rfl rfl, completes_converted rfl, completes_converted rfl⟩
    case xored => exact completes_fpResult (by rw [← Bool.bne_eq_xor]; rfl)
    case compareFlags =>
      exact fun settled => (congrArg TeamUnit.fpfl (unit_mapStream (s.raise _) _ s.selUnit)).trans (raise_fpfl settled _)
  case bits =>
    refine ⟨completes_result rfl ?count, fun zero => completes_result rfl ?none, fun k hk above below => completes_result rfl ?zeros,
      completes_result rfl (bitExtract_eq _ _ w.isLt)⟩
    case count => rw [List.countP_eq_length_filter]; rfl
    case none => rw [zero, leadZeros_zero]; rfl
    case zeros => rw [leadZeros_eq hk above below]

end Sys2Proof.Machine
end

section
/-! PROOFS. Loads and stores of the scratchpad (O8, O9). -/
namespace Sys2Proof.Machine
open Sys2Proof

/-! A load's value and its register (R186, R188) -/

/-- The signed value of a number's low bits is that of the word they make. -/
theorem sint_eq_toInt {n : Nat} (hn : 0 < n) (v : Nat) : sint n v = (BitVec.ofNat n v).toInt := by
  obtain ⟨m, rfl⟩ := Nat.exists_eq_succ_of_ne_zero hn.ne'
  have half : v % 2 ^ (m + 1) < 2 ^ m ↔ 2 * (v % 2 ^ (m + 1)) < 2 ^ (m + 1) := by rw [Nat.pow_succ 2 m]; omega
  simp only [sint, BitVec.toInt, BitVec.toNat_ofNat, Nat.succ_eq_add_one, Nat.add_sub_cancel, half]
theorem widthOf_pos (w : BitVec 2) : 0 < widthOf w := Nat.two_pow_pos _
theorem extend_eq (x : BitVec 1) {n : Nat} (hn : 0 < n) (v : Nat) :
    extend x n v = if x = 1 then (BitVec.ofNat (8 * n) v).signExtend 64 else BitVec.ofNat 64 v := by
  rw [extend, sint_eq_toInt (by omega), BitVec.signExtend]

theorem selUnit_of_issues {s : State} {u j : Nat} (h : s.issues u j) : s.selUnit = u := by
  rw [State.issues] at h
  rw [State.selUnit, h]
theorem selVoice_of_issues {s : State} {u j : Nat} (h : s.issues u j) : s.selVoice = j := by
  rw [State.issues] at h
  rw [State.selVoice, h]
theorem onlyX_of_wroteX {s t : State} {d : BitVec 6} {v : X} (h : s.wroteX t d v) : s.onlyX t d v := by
  obtain ⟨-, written, others, predicates, -⟩ := h
  exact ⟨written, others, predicates⟩
/-- A word that changes more than its stream, and then writes one register. -/
theorem onlyX_result {s s1 : State} (same : s1.stream = s.stream) (d : BitVec 6) (v : X) : s.onlyX (s1.result d fun _ => v) d v := by
  obtain ⟨written, others, predicates⟩ := onlyX_of_wroteX (result_wroteX s1 d fun _ => v)
  exact ⟨written, same ▸ others, same ▸ predicates⟩
theorem result_sameStore (s : State) (d : BitVec 6) (f : Stream → X) : s.sameStore (s.result d f) := mapStream_sameStore s _
theorem sameRegs_advance {s s1 : State} (same : s1.stream = s.stream) : s.sameRegs s1.advance :=
  ⟨fun r => by rw [stream_advance, getX_advance, same], fun p => by rw [stream_advance, getP_advance, same]⟩

/-! The scratchpad seen by a word (R191, R224, R225) -/

theorem spBad_of_reaches {s : State} {u ea n align : Nat} (h : s.reachesSp u ea n align) : s.spBad u ea n align = none := by
  obtain ⟨aligned, near, above, below⟩ := h
  rw [State.spBad, if_neg (not_not.2 aligned), if_neg (not_le.2 near), Place.holds, decide_eq_true above, decide_eq_true below]
  rfl
theorem touch_unguarded {s : State} {u a n : Nat} (h : s.unguarded u a n) (agent : Nat) (wr : Bool) : s.touch u agent wr a n = s := by
  have off : ((List.range n).map (a + ·)).find? (s.unit u).place.guarded = none := by
    simp only [List.find?_eq_none, List.mem_map, List.mem_range]
    rintro _ ⟨i, hi, rfl⟩
    simp [h i hi]
  rw [State.touch, off]
/-- A record of a touched guard granule is all that a touch changes. -/
theorem touch_eq (s : State) (u agent : Nat) (wr : Bool) (a n : Nat) :
    s.touch u agent wr a n = s ∨ ∃ r, s.touch u agent wr a n = s.setUnit u { s.unit u with guard := some r } := by
  rw [State.touch]
  split
  · exact .inl rfl
  · exact .inr ⟨_, rfl⟩
theorem touch_sameStore (s : State) (u agent : Nat) (wr : Bool) (a n : Nat) : s.sameStore (s.touch u agent wr a n) := by
  rcases touch_eq s u agent wr a n with same | ⟨r, touched⟩
  · exact same.symm ▸ sameStore_refl s
  · exact touched.symm ▸ setUnit_sameStore s u _ rfl
theorem touch_stream (s : State) (u agent : Nat) (wr : Bool) (a n : Nat) : (s.touch u agent wr a n).stream = s.stream := by
  rcases touch_eq s u agent wr a n with same | ⟨r, touched⟩
  · rw [same]
  · rw [touched]; rfl
/-- Where a unit has stored nothing in its control cycle, its loads read what stands there. -/
theorem ldsBytes_settled {s : State} {u : Nat} (h : (s.unit u).spOld = []) (a n : Nat) : s.ldsBytes u a n = s.spBytes u a n := by
  refine List.map_congr_left fun i _ => ?_
  simp [State.ldsByte, State.spNow, h]

section
variable {s : State} {u j ea n : Nat} {a : BitVec 6} {w : BitVec 2} {o : BitVec 9} (sb x : BitVec 1) (d : BitVec 6)
  (at_ : (effAddr s.stream a w o).toNat = ea) (wide : widthOf w = n) (turn : s.issues u j) (reaches : s.reachesSp u ea n n)
include at_ wide turn reaches

theorem exec_lds : exec (.lds sb d a w x o) s =
    .next ((s.touch u 0 false ea n).result d fun _ => extend x n (leNat (s.ldsBytes u ea n))) := by
  show execLds sb d a w x o s = _
  simp only [execLds, selUnit_of_issues turn, at_, wide, spBad_of_reaches reaches]
theorem exec_sts : exec (.sts sb d a w o) s =
    .next ((s.touch u 0 true ea n).stsBytes u j ea (leBytes (s.stream.getX d).toNat n)).advance := by
  show execSts sb d a w o s = _
  simp only [execSts, selUnit_of_issues turn, selVoice_of_issues turn, at_, wide, spBad_of_reaches reaches]

end

/-- Settles O8: a load is a touch of its bytes, which changes a guard record at most, and a write of its register. -/
theorem scratchpadLoad : Obligations.ScratchpadLoad := by
  unfold Obligations.ScratchpadLoad
  intro sb x d a w o s u j ea n v
  refine ⟨fun settled => ldsBytes_settled settled _ _, fun turn reaches => ?load⟩
  have store := sameStore_trans (touch_sameStore s u 0 false ea n) (result_sameStore _ d fun _ => extend x n v)
  refine ⟨_, exec_lds (ea := ea) (n := n) sb x d rfl rfl turn reaches, ?_, sameStore_keepsMemory store, sameStore_keepsCores store, fun off => ?_⟩
  · exact extend_eq x (n := n) (widthOf_pos w) v ▸ onlyX_result (touch_stream ..) d _
  · exact (mapStream_units _ _).trans (congrArg State.units (touch_unguarded off 0 false))

/-! Stores of the scratchpad (R191, R225) -/

/-- Of all the machine, scratchpad bytes and what the loads of unit `u` see of them may differ in `t` (R191). -/
structure State.onlyScratch (s t : State) (u : Nat) : Prop where
  rest : t = { s with sp := t.sp, units := t.units }
  unit : t.unit u = { s.unit u with spOld := (t.unit u).spOld }
  others : ∀ k, k ≠ u → t.unit k = s.unit k

theorem onlyScratch_refl (s : State) (u : Nat) : s.onlyScratch s u := ⟨rfl, rfl, fun _ _ => rfl⟩
theorem onlyScratch_trans {s t r : State} {u : Nat} (h : s.onlyScratch t u) (k : t.onlyScratch r u) : s.onlyScratch r u where
  rest := k.rest.trans (by rw [h.rest])
  unit := k.unit.trans (by rw [h.unit])
  others v hv := (k.others v hv).trans (h.others v hv)

/-- The key of scratchpad byte `a` of unit `u`. -/
def State.spKeyOf (s : State) (u a : Nat) : Nat := spKey (s.unit u).place.die (s.home u) a

section
variable {s t : State} {u : Nat} (h : s.onlyScratch t u)
include h

theorem onlyScratch_place (k : Nat) : (t.unit k).place = (s.unit k).place := by
  by_cases hk : k = u
  · rw [hk, h.unit]
  · rw [h.others k hk]
theorem onlyScratch_spKeyOf (a : Nat) : t.spKeyOf u a = s.spKeyOf u a := by
  have dies : t.dies = s.dies := by rw [h.rest]
  simp only [State.spKeyOf, State.home, State.phys, State.die, dies, onlyScratch_place h]
theorem onlyScratch_acc : t.acc = s.acc := by rw [h.rest]
theorem onlyScratch_stream : t.stream = s.stream := by rw [h.rest]; rfl
theorem onlyScratch_keepsMemory : s.keepsMemory t := fun ag key pa =>
  seen_congr (by rw [h.rest]) (by rw [h.rest]) (by rw [h.rest]) (by rw [h.rest]) (by rw [h.rest]) (onlyScratch_place h) ag key pa

end

/-- A byte stored off the guard granules, where no higher voice has stored in the control cycle. -/
theorem stsByte_stands {s : State} {u j a : Nat} (b : Byte) (off : (s.unit u).place.guarded a = false)
    (lower : ∀ x ∈ (s.unit u).spOld, x.voice ≤ j) : s.onlyScratch (s.stsByte u j a b) u ∧
      (s.stsByte u j a b).sp = s.sp.put (s.spKeyOf u a) b ∧ ∀ x ∈ ((s.stsByte u j a b).unit u).spOld, x.voice ≤ j := by
  have stored : ∃ x live, x.voice = j ∧ (∀ y ∈ live, y ∈ (s.unit u).spOld) ∧ s.stsByte u j a b =
      ({ s with sp := s.sp.put (s.spKeyOf u a) b } : State).setUnit u { s.unit u with spOld := x :: live } := by
    simp only [State.stsByte, off, Bool.false_eq_true, if_false]
    split
    next x first =>
      rw [if_neg (not_lt.2 (lower x (List.mem_of_find?_eq_some first)))]
      exact ⟨{ x with voice := j }, _, rfl, fun _ => List.mem_of_mem_filter, rfl⟩
    next => exact ⟨_, _, rfl, fun _ => List.mem_of_mem_filter, rfl⟩
  obtain ⟨x, live, hx, earlier, e⟩ := stored
  rw [e]
  refine ⟨⟨rfl, by rw [unit_setUnit], fun k hk => unit_setUnit_ne _ _ hk⟩, rfl, ?_⟩
  rw [unit_setUnit]
  exact List.forall_mem_cons.2 ⟨hx.le, fun y hy => lower y (earlier y hy)⟩
/-- Bytes stored so stand at their addresses, and no other byte of any scratchpad changed. -/
theorem stsBytes_stand {s : State} {u j a : Nat} {bs : List Byte} (off : s.unguarded u a bs.length)
    (lower : ∀ x ∈ (s.unit u).spOld, x.voice ≤ j) : s.onlyScratch (s.stsBytes u j a bs) u ∧
      (∀ i b, bs[i]? = some b → (s.stsBytes u j a bs).sp.find (s.spKeyOf u (a + i)) = some b) ∧
      ∀ k, (∀ i, i < bs.length → k ≠ s.spKeyOf u (a + i)) → (s.stsBytes u j a bs).sp.find k = s.sp.find k := by
  induction bs generalizing s a with
  | nil => exact ⟨onlyScratch_refl s u, by simp, fun _ _ => rfl⟩
  | cons b bs ih =>
    obtain ⟨one, sp, lower₁⟩ := stsByte_stands (a := a) b (off 0 (by simp)) lower
    have off₁ : (s.stsByte u j a b).unguarded u (a + 1) bs.length := fun i hi => by
      rw [onlyScratch_place one, Nat.add_assoc, Nat.add_comm 1]
      exact off (i + 1) (by simpa using hi)
    obtain ⟨all, stands, frame⟩ := ih off₁ lower₁
    simp only [onlyScratch_spKeyOf one, sp, Nat.add_assoc, Nat.add_comm 1] at stands frame
    refine ⟨onlyScratch_trans one all, fun i c hc => ?_, fun k hk => ?_⟩
    · cases i with
      | zero =>
        obtain rfl : b = c := by simpa using hc
        refine (frame _ fun i _ => ?_).trans (NMap.find_put_self _ _ _)
        simp only [State.spKeyOf, spKey]
        omega
      | succ i => exact stands i c (by simpa using hc)
    · exact (frame k fun i hi => hk (i + 1) (by simpa using hi)).trans (NMap.find_put_ne (hk 0 (by simp)))
/-- What a unit's bytes off the guard granules hold is what it reads. -/
theorem spBytes_of_find {s : State} {u a : Nat} {bs : List Byte} (off : s.unguarded u a bs.length)
    (stands : ∀ i b, bs[i]? = some b → s.sp.find (s.spKeyOf u (a + i)) = some b) : s.spBytes u a bs.length = bs := by
  refine List.ext_getElem (by simp [State.spBytes]) fun i _ hi => ?_
  have found := stands i _ (List.getElem?_eq_getElem hi)
  rw [State.spKeyOf] at found
  simp [State.spBytes, State.spByte, off i hi, found]
@[simp] theorem spBytes_advance (s : State) (u a n : Nat) : s.advance.spBytes u a n = s.spBytes u a n := by
  simp [State.spBytes, State.spByte, State.home, State.phys, State.die]
/-- A store to a guard granule is discarded (R225). -/
theorem stsBytes_guarded {s : State} {u j a : Nat} (v : Nat) (guarded : (s.unit u).place.guarded a = true) :
    s.stsBytes u j a (leBytes v 1) = s := if_pos guarded
theorem touch_first {s : State} {u a : Nat} (guarded : (s.unit u).place.guarded a = true) (first : (s.unit u).guard = none) :
    s.touch u 0 true a 1 = s.setUnit u { s.unit u with guard := some ⟨a + 2 ^ 21⟩ } := by
  simp [State.touch, List.range_succ, guarded, first]

/-- Settles O9: off the guard granules the bytes are stored one by one, each as the last of its key; on one the touch is all. -/
theorem scratchpadStores : Obligations.ScratchpadStores := by
  unfold Obligations.ScratchpadStores
  refine ⟨fun sb d a w o s u j => ?stored, fun sb d a o s u j => ?guarded⟩
  case stored =>
    intro ea n at_ turn reaches off lower
    have run := exec_sts (ea := ea) (n := n) sb d rfl rfl turn reaches
    rw [touch_unguarded off] at run
    have len : (leBytes (s.stream.getX d).toNat n).length = n := leBytes_length _ _
    obtain ⟨only, stands, frame⟩ := stsBytes_stand (a := ea) (bs := leBytes (s.stream.getX d).toNat n) (len.symm ▸ off) lower
    have place := onlyScratch_place only u
    have memory := onlyScratch_keepsMemory only
    generalize s.stsBytes u j ea (leBytes (s.stream.getX d).toNat n) = t at *
    refine ⟨t.advance, run, ?read, fun k hk => ?frame, sameRegs_advance (onlyScratch_stream only), fun ag key pa => ?memory,
      (advance_acc t).trans (onlyScratch_acc only), fun k hk => (unit_advance t k).trans (only.others k hk), ?unit⟩
    case read =>
      have held : t.spBytes u ea (leBytes (s.stream.getX d).toNat n).length = leBytes (s.stream.getX d).toNat n :=
        spBytes_of_find (fun i hi => place.symm ▸ off i (len ▸ hi)) fun i b hb => by
          rw [onlyScratch_spKeyOf only]
          exact stands i b hb
      exact (spBytes_advance t u ea n).trans ((congrArg (t.spBytes u ea) len.symm).trans held)
    case frame =>
      rw [advance_sp]
      refine frame k fun i hi => ?_
      have here : s.spKeyOf u (ea + i) = at_ + i := by simp only [at_, State.spKeyOf, spKey, Nat.add_assoc]
      omega
    case memory => exact (sameStore_keepsMemory (advance_sameStore t) ag key pa).trans (memory ag key pa)
    case unit => rw [unit_advance]; exact only.unit
  case guarded =>
    intro ea turn reaches guarded first
    have byte : (effAddr s.stream a 0 o).toNat = ea := congrArg (fun v : X => (s.stream.getX a + v).toNat) (BitVec.mul_one _)
    have run := exec_sts (n := 1) sb d byte rfl turn reaches
    rw [touch_first guarded first, stsBytes_guarded _ (by rw [unit_setUnit]; exact guarded)] at run
    refine ⟨_, run, by rw [advance_sp, setUnit_sp], ?_, by rw [unit_advance, unit_setUnit]⟩
    exact sameStore_keepsMemory (sameStore_trans (setUnit_sameStore s u { s.unit u with guard := some ⟨ea + 2 ^ 21⟩ } rfl) (advance_sameStore _))

end Sys2Proof.Machine
end

section
/-! PROOFS. Loads and stores of global memory (O10, O11). -/
namespace Sys2Proof.Machine
open Sys2Proof

/-! The checks of an access (R187, R229) -/

theorem globalBad_misaligned {ea n : Nat} (h : ea % n ≠ 0) : globalBad ea n = some ⟨0x09, ea⟩ := if_pos h
theorem globalBad_beyond {ea n : Nat} (aligned : ea % n = 0) (h : 2 ^ 57 ≤ ea) : globalBad ea n = some ⟨0x0A, ea⟩ := by
  rw [globalBad, if_neg (not_not.2 aligned), if_pos h]
theorem globalBad_none {ea n : Nat} (aligned : ea % n = 0) (window : ea < 2 ^ 57) : globalBad ea n = none := by
  rw [globalBad, if_neg (not_not.2 aligned), if_neg (not_le.2 window)]
theorem checkGlobal_of_reaches {s : State} {u ea n pa : Nat} {acc : Access} (h : s.reachesGlobal u acc ea n pa) :
    ∃ l, s.checkGlobal u acc ea n = .ok l ∧ l.pa = pa := by
  obtain ⟨aligned, window, outside, l, translated, memory, at_⟩ := h
  refine ⟨l, ?_, at_⟩
  simp only [State.checkGlobal, globalBad_none aligned window, outside, translated, memory, Option.isSome_none, Bool.false_eq_true, if_false]

/-! LD (R187, R188, R229, R375) -/

theorem noteReads_stores (s : State) (u pa n : Nat) : ((s.noteReads u pa n).unit u).stores = (s.unit u).stores := by
  induction n generalizing s pa with
  | zero => rfl
  | succ n ih =>
    have one : ((s.noteRead u pa).unit u).stores = (s.unit u).stores := by
      unfold State.noteRead
      split
      · rfl
      · rw [unit_setUnit]
    exact (ih _ _).trans one
/-- A byte in no work area is read as the team's reads have it (R43). -/
theorem readBytes_eq {s : State} {u ea pa n : Nat} (h : ∀ i, i < n → s.inWork u (ea + i) (pa + i) = false) :
    s.readBytes u ea pa n = s.teamBytes u pa n :=
  List.map_congr_left fun i hi => by rw [h i (List.mem_range.1 hi), if_neg Bool.false_ne_true]

section
variable {s : State} {u j ea n : Nat} {a : BitVec 6} {w : BitVec 2} {o : BitVec 9} (sb x : BitVec 1) (d : BitVec 6)
  (at_ : (effAddr s.stream a w o).toNat = ea) (wide : widthOf w = n) (turn : s.issues u j)
include at_ wide turn

theorem exec_ld_translated {pa : Nat} (reaches : s.reachesGlobal u .read ea n pa) (room : s.versionFull u pa = false) :
    exec (.ld sb d a w x o) s = .next ((s.noteReads u pa n).result d fun _ => extend x n (leNat (s.readBytes u ea pa n))) := by
  obtain ⟨l, checked, rfl⟩ := checkGlobal_of_reaches reaches
  obtain ⟨aligned, window, outside, -⟩ := reaches
  show execLd sb d a w x o s = _
  simp only [execLd, selUnit_of_issues turn, at_, wide, globalBad_none aligned window, outside, checked, room, Bool.false_eq_true, if_false]
theorem exec_ld_aperture {k : Nat} {tn : Tensor} {ws : List (BitVec 32)} (aligned : ea % n = 0) (window : ea < 2 ^ 57)
    (inside : (s.unitLaunch u).aperture ea = some (k, tn)) (held : tn.snap.find ((ea - tn.aper) / 4096) = some ws) :
    exec (.ld sb d a w x o) s =
      .next (s.result d fun _ => extend x n (leAt (ws.flatMap fun e => leBytes e.toNat 4) ((ea - tn.aper) % 4096) n)) := by
  show execLd sb d a w x o s = _
  simp only [execLd, selUnit_of_issues turn, at_, wide, globalBad_none aligned window, inside, State.aperLoad, held]
theorem exec_st {pa : Nat} (reaches : s.reachesGlobal u .write ea n pa) (room : s.versionFull u pa = false) :
    exec (.st sb d a w o) s = .next (s.storeBytes u j pa (leBytes (s.stream.getX d).toNat n)).advance := by
  obtain ⟨l, checked, rfl⟩ := checkGlobal_of_reaches reaches
  show execSt sb d a w o s = _
  simp only [execSt, selUnit_of_issues turn, selVoice_of_issues turn, at_, wide, checked, room, Bool.false_eq_true, if_false]

end

/-- Settles O10: a load notes what it read, which changes no store, and writes its register; in an aperture it only writes it. -/
theorem globalLoad : Obligations.GlobalLoad := by
  unfold Obligations.GlobalLoad
  intro sb x d a w o s u j ea n ext turn
  have value : ∀ v, extend x n v = ext v := extend_eq x (widthOf_pos w)
  refine ⟨fun pa reaches room plain => ?translated, fun k tn ws aligned window inside held => ?aperture⟩
  case translated =>
    have noted := noteFetch_sameIssue s u n (some pa)
    have store := sameStore_trans noted.store (result_sameStore _ d fun _ => extend x n (leNat (s.readBytes u ea pa n)))
    refine ⟨_, exec_ld_translated (ea := ea) (n := n) sb x d rfl rfl turn reaches room, ?_, sameStore_keepsMemory store,
      sameStore_keepsCores store, ?_⟩
    · rw [readBytes_eq plain, value]
      exact onlyX_result noted.stream d _
    · exact (congrArg TeamUnit.stores (unit_mapStream (s.noteReads u pa n) _ u)).trans (noteReads_stores s u pa n)
  case aperture =>
    exact completes_result (exec_ld_aperture (ea := ea) (n := n) sb x d rfl rfl turn aligned window inside held) (value _)

/-! The open version (R375, R376) -/

theorem findLast_append_list {α : Type} (f : α → Bool) (l m : List α) : findLast f (l ++ m) = (findLast f m).or (findLast f l) := by
  induction l with
  | nil => simp [findLast]
  | cons a l ih =>
    simp only [List.cons_append, findLast, ih]
    cases findLast f m <;> rfl
theorem findLast_of_unique {α : Type} {f : α → Bool} {l : List α} {x : α} (hx : x ∈ l) (hf : f x = true)
    (unique : ∀ y ∈ l, f y = true → y = x) : findLast f l = some x := by
  induction l with
  | nil => cases hx
  | cons a l ih =>
    obtain ⟨first, rest⟩ := List.forall_mem_cons.1 unique
    by_cases later : x ∈ l
    · rw [findLast, ih later rest]
    · have none_later : findLast f l = none := findLast_none f l fun y hy => by
        by_contra found
        exact later (rest y hy (by simpa using found) ▸ hy)
      obtain rfl : x = a := (List.mem_cons.1 hx).resolve_right later
      rw [findLast, none_later]
      simp [hf]

/-- A store of no earlier cycle, by no lower voice of its cycle, comes last. -/
theorem insertStore_last {w : SWrite} {l : List SWrite}
    (h : ∀ e ∈ l, e.seenAt < w.seenAt ∨ (e.seenAt = w.seenAt ∧ e.voice ≤ w.voice)) : insertStore w l = l ++ [w] := by
  induction l with
  | nil => rfl
  | cons k l ih =>
    obtain ⟨first, rest⟩ := List.forall_mem_cons.1 h
    rw [insertStore, if_neg (by omega), ih rest, List.cons_append]
/-- What voice `j` adds to the open version with the bytes `bs` at `pa`. -/
def State.storesOf (s : State) (j pa : Nat) (bs : List Byte) : List SWrite :=
  (addressed pa bs).map fun c => ⟨c.1, c.2, s.stscNow.toNat, s.cycleEnd, j⟩
theorem mem_storesOf {s : State} {j pa : Nat} {bs : List Byte} {e : SWrite} :
    e ∈ s.storesOf j pa bs ↔ ∃ i, bs[i]? = some e.byte ∧ e = ⟨pa + i, e.byte, s.stscNow.toNat, s.cycleEnd, j⟩ := by
  simp only [State.storesOf, List.mem_map, mem_addressed]
  constructor
  · rintro ⟨⟨q, b⟩, ⟨i, hi, rfl⟩, rfl⟩
    exact ⟨i, hi, rfl⟩
  · rintro ⟨i, hi, same⟩
    exact ⟨(pa + i, e.byte), ⟨i, hi, rfl⟩, same.symm⟩
theorem foldl_insertStore {s : State} {j : Nat} {l : List SWrite}
    (h : ∀ e ∈ l, e.seenAt < s.cycleEnd ∨ (e.seenAt = s.cycleEnd ∧ e.voice ≤ j)) (ws : List SWrite)
    (hw : ∀ w ∈ ws, w.seenAt = s.cycleEnd ∧ w.voice = j) : ws.foldl (fun l w => insertStore w l) l = l ++ ws := by
  induction ws generalizing l with
  | nil => simp
  | cons w ws ih =>
    obtain ⟨⟨at_, voice⟩, rest⟩ := List.forall_mem_cons.1 hw
    have last : insertStore w l = l ++ [w] := insertStore_last (by rwa [at_, voice])
    rw [List.foldl_cons, last, ih (List.forall_mem_append.2 ⟨h, by simp [at_, voice]⟩) rest, List.append_assoc, List.singleton_append]

section
variable {s : State} {u j : Nat} (latest : ∀ e ∈ (s.unit u).stores, e.seenAt < s.cycleEnd ∨ (e.seenAt = s.cycleEnd ∧ e.voice ≤ j))
  (pa : Nat) (bs : List Byte)
include latest

theorem storeBytes_stores : ((s.storeBytes u j pa bs).unit u).stores = (s.unit u).stores ++ s.storesOf j pa bs := by
  have joined := foldl_insertStore latest (s.storesOf j pa bs) fun w hw => by
    obtain ⟨i, -, e⟩ := mem_storesOf.1 hw
    exact e ▸ ⟨rfl, rfl⟩
  rw [State.storesOf, addressed, List.map_map] at joined
  rw [State.storeBytes, unit_setUnit, State.storesOf, addressed, List.map_map]
  exact joined
/-- From the next cycle on the version has the bytes stored. -/
theorem storeBytes_versionByte {i c : Nat} (hi : i < bs.length) (hc : s.cycleEnd ≤ c) :
    (s.storeBytes u j pa bs).versionByte u (pa + i) c = bs[i]? := by
  have found : findLast (fun w => decide (w.pa = pa + i) && decide (w.seenAt ≤ c)) (s.storesOf j pa bs) =
      some ⟨pa + i, bs[i], s.stscNow.toNat, s.cycleEnd, j⟩ := by
    refine findLast_of_unique (mem_storesOf.2 ⟨i, List.getElem?_eq_getElem hi, rfl⟩) (by simp [hc]) fun y hy there => ?_
    obtain ⟨k, hk, e⟩ := mem_storesOf.1 hy
    rw [e] at there ⊢
    obtain rfl : k = i := by simpa using (Bool.and_eq_true_iff.1 there).1
    rw [List.getElem?_eq_getElem hi, Option.some.injEq] at hk
    rw [hk]
  rw [State.versionByte, storeBytes_stores latest, findLast_append_list, found, List.getElem?_eq_getElem hi]
  rfl
/-- Elsewhere, and in the cycles before, the version is what it was. -/
theorem storeBytes_versionByte_ne {q c : Nat} (h : q < pa ∨ pa + bs.length ≤ q ∨ c < s.cycleEnd) :
    (s.storeBytes u j pa bs).versionByte u q c = s.versionByte u q c := by
  have none_new : findLast (fun w => decide (w.pa = q) && decide (w.seenAt ≤ c)) (s.storesOf j pa bs) = none := by
    refine findLast_none _ _ fun y hy => ?_
    obtain ⟨k, hk, e⟩ := mem_storesOf.1 hy
    have := (List.getElem?_eq_some_iff.1 hk).1
    rw [e, Bool.and_eq_false_iff, decide_eq_false_iff_not, decide_eq_false_iff_not]
    dsimp only
    omega
  rw [State.versionByte, storeBytes_stores latest, findLast_append_list, none_new]
  rfl

end

theorem storeBytes_sameStore (s : State) (u j pa : Nat) (bs : List Byte) : s.sameStore (s.storeBytes u j pa bs) :=
  setUnit_sameStore s u _ rfl
theorem versionByte_congr {s t : State} {u : Nat} (h : t.unit u = s.unit u) (pa c : Nat) : t.versionByte u pa c = s.versionByte u pa c := by
  rw [State.versionByte, h, State.versionByte]
/-- A byte of the version is what the team's reads return (R375). -/
theorem teamByte_of_versionByte {s : State} {u pa : Nat} {b : Byte} (h : s.versionByte u pa (s.dcc (s.unit u).place.die) = some b) :
    s.teamByte u pa = b := by
  rw [State.versionByte, Option.map_eq_some_iff] at h
  obtain ⟨w, found, byte⟩ := h
  rw [State.teamByte, found]
  exact byte

/-- Settles O11: the stores of one word come last in the open version, which is all that they change. -/
theorem globalStore : Obligations.GlobalStore := by
  unfold Obligations.GlobalStore
  intro sb d a w o s u j pa ea n turn reaches room latest
  have len : (leBytes (s.stream.getX d).toNat n).length = n := leBytes_length _ _
  have new := fun {i c : Nat} => storeBytes_versionByte latest pa (leBytes (s.stream.getX d).toNat n) (i := i) (c := c)
  have old := fun {q c : Nat} => storeBytes_versionByte_ne latest pa (leBytes (s.stream.getX d).toNat n) (q := q) (c := c)
  have store := storeBytes_sameStore s u j pa (leBytes (s.stream.getX d).toNat n)
  have after := sameStore_trans store (advance_sameStore _)
  rw [len] at new old
  refine ⟨_, exec_st (ea := ea) (n := n) sb d rfl rfl turn reaches room, sameStore_keepsMemory after, sameStore_keepsCores after,
    sameRegs_advance rfl, fun i hi => ?stored, fun r same late => ?read, fun q c h => ?frame, ?reads⟩
  case stored => exact (versionByte_congr (unit_advance _ u) _ _).trans (new hi le_rfl)
  case read =>
    have place : (r.unit u).place = (s.unit u).place := by rw [same, unit_advance, store.place]
    refine List.ext_getElem (by simp [State.teamBytes]) fun i hi hb => ?_
    simp only [State.teamBytes, List.getElem_map, List.getElem_range]
    apply teamByte_of_versionByte
    rw [place, versionByte_congr (same.trans (unit_advance _ u)), new (len ▸ hb) late, List.getElem?_eq_getElem hb]
  case frame => exact (versionByte_congr (unit_advance _ u) _ _).trans (old h)
  case reads => rw [unit_advance, State.storeBytes, unit_setUnit]

end Sys2Proof.Machine
end

section
/-! PROOFS. The checks that a load, a store or an atomic fails (O12). -/
namespace Sys2Proof.Machine
open Sys2Proof

/-! The words that R187 checks -/

/-- An atomic, with its address and the bytes it updates (R194, R195). -/
inductive State.AtomicWord (s : State) : Instr → X → Nat → Prop where
  | amo8 (sb a b f c) : s.AtomicWord (.amo sb 1 a b f c) (s.stream.getX a) 8
  | amo4 (sb a b f c) : s.AtomicWord (.amo sb 0 a b f c) (s.stream.getX a) 4
  | amr (sb d a b f c) : s.AtomicWord (.amr sb d a b f c) (s.stream.getX a) (if f.toNat % 2 = 1 then 8 else 4)
/-- A word that accesses global memory or the weight tier, with its access, address and size. -/
inductive State.GlobalWord (s : State) : Instr → Access → X → Nat → Prop where
  | ld (sb d a w x o) : s.GlobalWord (.ld sb d a w x o) .read (effAddr s.stream a w o) (widthOf w)
  | st (sb d a w o) : s.GlobalWord (.st sb d a w o) .write (effAddr s.stream a w o) (widthOf w)
  | ldw (sb d a w x o) : s.GlobalWord (.ldw sb d a w x o) .ldw (effAddr s.stream a w o) (widthOf w)
  | atomic {i va n} (word : s.AtomicWord i va n) : s.GlobalWord i .atomic va n
/-- A word that accesses the scratchpad, with its address and size. -/
inductive State.NearWord (s : State) : Instr → X → Nat → Prop where
  | lds (sb d a w x o) : s.NearWord (.lds sb d a w x o) (effAddr s.stream a w o) (widthOf w)
  | sts (sb d a w o) : s.NearWord (.sts sb d a w o) (effAddr s.stream a w o) (widthOf w)

/-! The first check that fails (R187, R211, R229) -/

/-- The first check of R187 that an access to global memory or the weight tier fails takes fault `code`. -/
inductive State.FirstFailure (s : State) (u : Nat) (acc : Access) (ea n : Nat) : Nat → Prop where
  | misaligned (h : ea % n ≠ 0) : s.FirstFailure u acc ea n 0x09
  | beyond (aligned : ea % n = 0) (h : 2 ^ 57 ≤ ea) : s.FirstFailure u acc ea n 0x0A
  | aperture (aligned : ea % n = 0) (window : ea < 2 ^ 57) (inside : (s.unitLaunch u).aperture ea ≠ none) (unread : acc ≠ .read) :
    s.FirstFailure u acc ea n 0x0B
  | forbidden (aligned : ea % n = 0) (window : ea < 2 ^ 57) (outside : (s.unitLaunch u).aperture ea = none) {l : Leaf}
    (walked : s.walk (s.unit u).place.die (s.unit u).place.job ea = .ok l) (h : l.permits acc = false) : s.FirstFailure u acc ea n 0x0B
  | kind (aligned : ea % n = 0) (window : ea < 2 ^ 57) (outside : (s.unitLaunch u).aperture ea = none) {l : Leaf}
    (walked : s.walk (s.unit u).place.die (s.unit u).place.job ea = .ok l) (permitted : l.permits acc = true)
    (h : l.ww = decide (acc ≠ .ldw)) : s.FirstFailure u acc ea n 0x0D

theorem translate_of_walk {s : State} {u ea : Nat} {l : Leaf} (walked : s.walk (s.unit u).place.die (s.unit u).place.job ea = .ok l)
    (acc : Access) : s.translate u acc ea = if l.permits acc then .ok l else .error ⟨0x0B, ea⟩ := by rw [State.translate, walked]

section
variable {s : State} {u ea n code : Nat} {acc : Access}

theorem checkGlobal_fails (f : s.FirstFailure u acc ea n code) (memory : acc ≠ .ldw) : s.checkGlobal u acc ea n = .error ⟨code, ea⟩ := by
  cases f with
  | misaligned h => rw [State.checkGlobal, globalBad_misaligned h]
  | beyond aligned h => rw [State.checkGlobal, globalBad_beyond aligned h]
  | aperture aligned window inside =>
    simp only [State.checkGlobal, globalBad_none aligned window, Option.isSome_iff_ne_none.2 inside, if_true]
  | forbidden aligned window outside walked h =>
    simp [State.checkGlobal, globalBad_none aligned window, outside, translate_of_walk walked, h]
  | kind aligned window outside walked permitted h =>
    simp [State.checkGlobal, globalBad_none aligned window, outside, translate_of_walk walked, permitted, h, memory]
theorem checkWindow_fails (f : s.FirstFailure u .ldw ea n code) : s.checkWindow u ea n = .error ⟨code, ea⟩ := by
  cases f with
  | misaligned h => rw [State.checkWindow, globalBad_misaligned h]
  | beyond aligned h => rw [State.checkWindow, globalBad_beyond aligned h]
  | aperture aligned window inside =>
    simp only [State.checkWindow, globalBad_none aligned window, Option.isSome_iff_ne_none.2 inside, if_true]
  | forbidden aligned window outside walked h =>
    simp [State.checkWindow, globalBad_none aligned window, outside, translate_of_walk walked, h]
  | kind aligned window outside walked permitted h =>
    simp [State.checkWindow, globalBad_none aligned window, outside, translate_of_walk walked, permitted, h]
/-- An access of more bytes that is aligned fails as one of a byte does. -/
theorem firstFailure_byte (f : s.FirstFailure u acc ea n code) (aligned : ea % n = 0) : s.FirstFailure u acc ea 1 code := by
  cases f with
  | misaligned h => exact absurd aligned h
  | beyond _ h => exact .beyond (Nat.mod_one _) h
  | aperture _ window inside unread => exact .aperture (Nat.mod_one _) window inside unread
  | forbidden _ window outside walked h => exact .forbidden (Nat.mod_one _) window outside walked h
  | kind _ window outside walked permitted h => exact .kind (Nat.mod_one _) window outside walked permitted h
theorem checkAtomic_fails (f : s.FirstFailure u .atomic ea n code) : s.checkAtomic u ea n n = .error ⟨code, ea⟩ := by
  by_cases aligned : ea % n = 0
  · rw [State.checkAtomic, if_neg (not_not.2 aligned), checkGlobal_fails (firstFailure_byte f aligned) (by decide)]
  · cases f with
    | misaligned => exact if_pos aligned
    | beyond h | aperture h | forbidden h | kind h => exact absurd h aligned
/-- An LD that fails is in no aperture, unless its address is bad. -/
theorem globalBad_or_outside (f : s.FirstFailure u .read ea n code) : globalBad ea n ≠ none ∨ (s.unitLaunch u).aperture ea = none := by
  cases f with
  | misaligned h => exact .inl (by simp [globalBad_misaligned h])
  | beyond aligned h => exact .inl (by simp [globalBad_beyond aligned h])
  | aperture _ _ _ unread => exact absurd rfl unread
  | forbidden _ _ outside | kind _ _ outside => exact .inr outside

end

section
variable {s : State} {u j n code : Nat} {acc : Access} {i : Instr} {va : X} (turn : s.issues u j)
include turn

theorem exec_atomic_error (word : s.AtomicWord i va n) {t : Trap} (failed : s.checkAtomic u va.toNat n n = .error t) :
    exec i s = .next (s.raiseTrap t) := by
  cases word with
  | amo8 sb a b f c =>
    show execAmo sb 1 a b f c s = _
    simp only [execAmo, selUnit_of_issues turn, if_true, failed]
  | amo4 sb a b f c =>
    show execAmo sb 0 a b f c s = _
    simp only [execAmo, selUnit_of_issues turn, show ¬ (0 : BitVec 1) = 1 by decide, if_false, failed]
  | amr sb d a b f c =>
    show execAmr sb d a b f c s = _
    simp only [execAmr, selUnit_of_issues turn, failed]
theorem exec_near_error (word : s.NearWord i va n) {t : Trap} (failed : s.spBad u va.toNat n n = some t) :
    exec i s = .next (s.raiseTrap t) := by
  cases word with
  | lds sb d a w x o =>
    show execLds sb d a w x o s = _
    simp only [execLds, selUnit_of_issues turn, failed]
  | sts sb d a w o =>
    show execSts sb d a w o s = _
    simp only [execSts, selUnit_of_issues turn, failed]
theorem exec_firstFailure (word : s.GlobalWord i acc va n) (f : s.FirstFailure u acc va.toNat n code) :
    exec i s = .next (s.raiseTrap ⟨code, va.toNat⟩) := by
  cases word with
  | ld sb d a w x o =>
    have failed := checkGlobal_fails f (by decide)
    show execLd sb d a w x o s = _
    simp only [execLd, selUnit_of_issues turn]
    split
    next good inside =>
      rcases globalBad_or_outside f with bad | outside
      · exact absurd good bad
      · exact absurd (outside.symm.trans inside) (by simp)
    next => rw [failed]
  | st sb d a w o =>
    show execSt sb d a w o s = _
    simp only [execSt, selUnit_of_issues turn, checkGlobal_fails f (by decide)]
  | ldw sb d a w x o =>
    show execLdw sb d a w x o s = _
    simp only [execLdw, selUnit_of_issues turn, checkWindow_fails f]
  | atomic word => exact exec_atomic_error turn word (checkAtomic_fails f)

end

/-! The checks of the scratchpad (R187, R224) -/

theorem spBad_above {s : State} {u ea n align : Nat} (aligned : ea % align = 0) (above : 2 ^ 21 ≤ ea) :
    s.spBad u ea n align = some ⟨0x0A, ea⟩ := by rw [State.spBad, if_neg (not_not.2 aligned), if_pos above]
theorem spBad_outside {s : State} {u ea n align : Nat} (aligned : ea % align = 0) (low : ea < 2 ^ 21)
    (out : ea < (s.unit u).place.lo ∨ (s.unit u).place.hi < ea + n) : s.spBad u ea n align = some ⟨0x10, ea⟩ := by
  have outside : (s.unit u).place.holds ea n = false := by
    rw [Place.holds, Bool.and_eq_false_iff, decide_eq_false_iff_not, decide_eq_false_iff_not, not_le, not_le]
    exact out
  rw [State.spBad, if_neg (not_not.2 aligned), if_neg (not_le.2 low), if_pos outside]

/-! LDW past the checks of its page (R192, R206) -/

theorem checkWindow_of_walk {s : State} {u ea n : Nat} {l : Leaf} (aligned : ea % n = 0) (window : ea < 2 ^ 57)
    (outside : (s.unitLaunch u).aperture ea = none) (walked : s.walk (s.unit u).place.die (s.unit u).place.job ea = .ok l)
    (permitted : l.permits .ldw = true) (tier : l.ww = true) : s.checkWindow u ea n = .ok (l.pa % 2 ^ 40) := by
  simp [State.checkWindow, globalBad_none aligned window, outside, translate_of_walk walked, permitted, tier]
theorem exec_ldw_unbound {s : State} {u j n wa : Nat} {i : Instr} {va : X} (turn : s.issues u j) (word : s.GlobalWord i .ldw va n)
    (passed : s.checkWindow u va.toNat n = .ok wa) (unbound : s.boundAt u wa = none) : exec i s = .next (s.raiseTrap ⟨0x0E, va.toNat⟩) := by
  cases word with
  | ldw sb d a w x o =>
    show execLdw sb d a w x o s = _
    simp only [execLdw, selUnit_of_issues turn, passed, unbound]

/-! Atomics past the checks of their page (R393) -/

theorem checkAtomic_of_reaches {s : State} {u ea n pa : Nat} (h : s.reachesGlobal u .atomic ea n pa) : ∃ l, l.pa = pa ∧
    s.checkAtomic u ea n n = if s.overSpan u pa n then .error ⟨0x11, ea⟩ else .ok l := by
  obtain ⟨aligned, window, outside, translated⟩ := h
  obtain ⟨l, checked, rfl⟩ := checkGlobal_of_reaches (n := 1) ⟨Nat.mod_one ea, window, outside, translated⟩
  exact ⟨l, rfl, by rw [State.checkAtomic, if_neg (not_not.2 aligned), checked]⟩

/-- Settles O12: each word fails as the first of its checks that does not pass, and a class F trap is all that it then does. -/
theorem accessFaults : Obligations.AccessFaults := by
  unfold Obligations.AccessFaults
  intro sb x d a b w o f c s u j ea n p va atomics global near fails turn resident
  have takes : ∀ {i : Instr} {code : Nat} {va : X}, exec i s = .next (s.raiseTrap ⟨code, va.toNat⟩) → code < 0x40 →
      Completes i s fun t => s.faultsWith t code va := fun run small =>
    raiseTrap_faults run (by rwa [selUnit_of_issues turn]) small (BitVec.ofNat_toNat .. |>.trans (BitVec.setWidth_eq _))
  have atomicWords : ∀ y ∈ atomics, s.AtomicWord y.1 y.2.2.1 y.2.2.2 := by
    simp only [atomics, List.forall_mem_cons]
    exact ⟨.amo8 .., .amo4 .., .amr .., by simp⟩
  have atomicAccess : ∀ y ∈ atomics, y.2.1 = .atomic := by simp [atomics]
  have globalWords : ∀ y ∈ global, s.GlobalWord y.1 y.2.1 y.2.2.1 y.2.2.2 := by
    refine List.forall_mem_append.2 ⟨?_, fun y hy => atomicAccess y hy ▸ .atomic (atomicWords y hy)⟩
    simp only [List.forall_mem_cons]
    exact ⟨.ld .., .st .., .ldw .., by simp⟩
  have nearWords : ∀ y ∈ near, s.NearWord y.1 y.2.2.1 y.2.2.2 := by
    simp only [near, List.forall_mem_cons]
    exact ⟨.lds .., .sts .., by simp⟩
  refine ⟨List.forall_mem_append.2 ⟨fun y hy misaligned => ?globalMisaligned, fun y hy misaligned => ?nearMisaligned⟩,
    fun y hy aligned => ⟨fun beyond => ?beyond, fun window => ⟨fun inside unread => ?aperture,
      fun outside l walked => ⟨fun forbidden => ?forbidden, fun permitted kind => ?kind, fun permitted tier ldw unbound => ?unbound⟩⟩⟩,
    fun y hy aligned => ⟨fun above => ?nearAbove, fun low out => ?nearOut⟩, fun y hy pa reaches ⟨z, hz, held⟩ => ?overSpan⟩
  case globalMisaligned => exact takes (exec_firstFailure turn (globalWords y hy) (.misaligned misaligned)) (by decide)
  case nearMisaligned => exact takes (exec_near_error turn (nearWords y hy) (if_pos misaligned)) (by decide)
  case beyond => exact takes (exec_firstFailure turn (globalWords y hy) (.beyond aligned beyond)) (by decide)
  case aperture => exact takes (exec_firstFailure turn (globalWords y hy) (.aperture aligned window inside unread)) (by decide)
  case forbidden => exact takes (exec_firstFailure turn (globalWords y hy) (.forbidden aligned window outside walked forbidden)) (by decide)
  case kind => exact takes (exec_firstFailure turn (globalWords y hy) (.kind aligned window outside walked permitted kind)) (by decide)
  case unbound =>
    exact takes (exec_ldw_unbound turn (ldw ▸ globalWords y hy)
      (checkWindow_of_walk aligned window outside walked (ldw ▸ permitted) tier) unbound) (by decide)
  case nearAbove => exact takes (exec_near_error turn (nearWords y hy) (spBad_above aligned above)) (by decide)
  case nearOut => exact takes (exec_near_error turn (nearWords y hy) (spBad_outside aligned low out)) (by decide)
  case overSpan =>
    obtain ⟨l, -, checked⟩ := checkAtomic_of_reaches reaches
    have spans : s.overSpan u pa y.2.2.2 = true := List.any_eq_true.2 ⟨z, hz, by simpa using held⟩
    exact takes (exec_atomic_error turn (atomicWords y hy) (checked.trans (if_pos spans))) (by decide)

end Sys2Proof.Machine
end

section
/-! PROOFS. What a write under its own key leaves of global memory, and what an atomic of a team writes. -/
namespace Sys2Proof.Machine
open Sys2Proof

/-! The last write of a byte that a reader meets (R371, R375) -/

/-- The last write to byte `q` of those that `sees` lets through, as a reader under `key` finds it. -/
def State.lastOf (s : State) (sees : NWrite → Bool) (key q : Nat) : Byte :=
  if s.poisoned q = false ∧ s.keyOk key q = true then
    (((findLast (fun w => decide (w.pa = q) && sees w) s.narrow).map (·.byte)).or (NMap.find s.mem q)).getD (s.freeByte q)
  else s.freeByte q

theorem seen_eq_lastOf (s : State) (ag : Agent) (key q : Nat) : s.seen ag key q = s.lastOf (fun w => s.reaches w ag) key q := by
  unfold State.seen State.lastOf State.memByte
  cases s.poisoned q <;> cases s.keyOk key q <;> cases findLast _ s.narrow <;> rfl
theorem latest_eq_lastOf (s : State) (key q : Nat) : s.latest key q = s.lastOf (fun _ => true) key q := by
  unfold State.latest State.lastOf State.memByte
  simp only [Bool.and_true]
  cases s.poisoned q <;> cases s.keyOk key q <;> cases findLast _ s.narrow <;> rfl
/-- What the reading of a byte turns on. -/
theorem lastOf_ext {s t : State} {sees : NWrite → Bool} {key q : Nat} (poison : t.poisoned q = s.poisoned q)
    (line : t.keyOk key q = s.keyOk key q) (free : t.freeByte q = s.freeByte q)
    (last : findLast (fun w => decide (w.pa = q) && sees w) t.narrow = findLast (fun w => decide (w.pa = q) && sees w) s.narrow)
    (mem : NMap.find t.mem q = NMap.find s.mem q) : t.lastOf sees key q = s.lastOf sees key q := by
  rw [State.lastOf, poison, line, free, last, mem, State.lastOf]
theorem lastOf_congr {s t : State} (h : s.sameStore t) (sees : NWrite → Bool) (key q : Nat) : t.lastOf sees key q = s.lastOf sees key q :=
  lastOf_ext (by simp only [State.poisoned, h.mpoison]) (by simp only [State.keyOk, h.lineKey]) (by simp only [State.freeByte, h.fresh])
    (by rw [h.narrow]) (by rw [h.mem])

/-- A claim changes nothing under its own key: what it takes away could not be read. -/
theorem claim_lastOf (s : State) (sees : NWrite → Bool) (key pa q : Nat) : (s.claim key pa).lastOf sees key q = s.lastOf sees key q := by
  by_cases mine : s.keyOk key pa = true
  · rw [State.claim, if_pos mine]
  have mem : NMap.find (s.claim key pa).mem q = if q / 128 = pa / 128 then none else NMap.find s.mem q := by
    rw [State.claim, if_neg mine]
    exact (NMap.find_filter_key s.mem (fun a => decide (a / 128 ≠ pa / 128)) q).trans (by by_cases line : q / 128 = pa / 128 <;> simp [line])
  have narrow : (s.claim key pa).narrow = s.narrow.filter fun w => decide (w.pa / 128 ≠ pa / 128) := by rw [State.claim, if_neg mine]
  by_cases line : q / 128 = pa / 128
  · have unread : s.keyOk key q = false := by rw [keyOk_line s key line]; simpa using mine
    have gone : findLast (fun w => decide (w.pa = q) && sees w) (s.claim key pa).narrow = none := by
      rw [narrow]
      exact findLast_filter_none _ _ _ fun w _ other => by
        have : w.pa ≠ q := fun e => by simp [e, line] at other
        simp [this]
    simp [State.lastOf, State.freeByte, unread, gone, mem, line]
  · have kept : findLast (fun w => decide (w.pa = q) && sees w) (s.claim key pa).narrow =
        findLast (fun w => decide (w.pa = q) && sees w) s.narrow := by
      rw [narrow]
      exact findLast_filter _ _ _ fun w _ here => by
        have : w.pa = q := by simpa using (Bool.and_eq_true_iff.1 here).1
        simpa [this] using line
    exact lastOf_ext (by simp only [State.poisoned, claim_mpoison]) (claim_keyOk_ne s key line)
      (by simp only [State.freeByte, claim_fresh]) kept (mem.trans (if_neg line))
/-- A write leaves what its own key reads of every other byte alone, also of its own line. -/
theorem writeAt_lastOf_ne (s : State) (sees : NWrite → Bool) (u scope key : Nat) {pa q : Nat} (b : Byte) (h : q ≠ pa) :
    (s.writeAt u scope key pa b).lastOf sees key q = s.lastOf sees key q := by
  rw [← claim_lastOf s sees key pa q, State.writeAt]
  split
  · refine lastOf_ext rfl rfl rfl (findLast_filter _ _ _ fun w _ here => ?_) (NMap.find_put_ne h)
    have : w.pa = q := by simpa using (Bool.and_eq_true_iff.1 here).1
    simpa [this] using h
  · exact lastOf_ext rfl rfl rfl ((findLast_append _ _ _).trans (if_neg (by simp [h.symm]))) rfl
theorem writeList_lastOf_ne (s : State) (sees : NWrite → Bool) (u scope key : Nat) {q : Nat} (l : List (Nat × Byte))
    (h : q ∉ l.map (·.1)) : (s.writeList u scope key l).lastOf sees key q = s.lastOf sees key q := by
  induction l generalizing s with
  | nil => rfl
  | cons c l ih =>
    obtain ⟨first, rest⟩ := not_or.1 (mt List.mem_cons.2 h)
    exact (ih _ rest).trans (writeAt_lastOf_ne s sees u scope key c.2 first)

/-! Writes of global memory and nothing else (R369, R371) -/

/-- Of all the machine, the bytes of global memory with their keys and their narrower writes may differ in `t`. -/
def State.onlyBytes (s t : State) : Prop := t = { s with mem := t.mem, lineKey := t.lineKey, narrow := t.narrow }

theorem onlyBytes_trans {s t r : State} (h : s.onlyBytes t) (k : t.onlyBytes r) : s.onlyBytes r :=
  Eq.trans k (congrArg (fun x : State => { x with mem := r.mem, lineKey := r.lineKey, narrow := r.narrow }) h)
theorem claim_onlyBytes (s : State) (key pa : Nat) : s.onlyBytes (s.claim key pa) := by
  unfold State.onlyBytes State.claim
  split <;> rfl
theorem writeAt_onlyBytes (s : State) (u scope key pa : Nat) (b : Byte) : s.onlyBytes (s.writeAt u scope key pa b) := by
  refine onlyBytes_trans (claim_onlyBytes s key pa) ?_
  unfold State.onlyBytes State.writeAt State.writeSys
  split <;> rfl
theorem writeList_onlyBytes (s : State) (u scope key : Nat) (l : List (Nat × Byte)) : s.onlyBytes (s.writeList u scope key l) := by
  induction l generalizing s with
  | nil => rfl
  | cons c l ih => exact onlyBytes_trans (writeAt_onlyBytes s u scope key c.1 c.2) (ih _)
section
variable {s t : State} (h : s.onlyBytes t)
include h

theorem onlyBytes_poisoned (q : Nat) : t.poisoned q = s.poisoned q := by rw [h]; rfl
theorem onlyBytes_sel : t.sel = s.sel := by rw [h]
theorem onlyBytes_stream : t.stream = s.stream := by rw [h]; rfl
theorem onlyBytes_keys : t.keys = s.keys := by rw [h]
theorem onlyBytes_units : t.units = s.units := by rw [h]
theorem onlyBytes_keepsCores : s.keepsCores t := by rw [h]; exact ⟨rfl, rfl, rfl, rfl, rfl, rfl⟩

end

/-- Of writes at distinct addresses each is the last to its byte, where its line is not poisoned. -/
theorem writeList_latest {s : State} (u scope key : Nat) {l : List (Nat × Byte)} (distinct : (l.map (·.1)).Nodup) {c : Nat × Byte}
    (hc : c ∈ l) (clean : s.poisoned c.1 = false) : (s.writeList u scope key l).latest key c.1 = c.2 := by
  induction l generalizing s with
  | nil => cases hc
  | cons a l ih =>
    obtain ⟨once, distinct⟩ := List.nodup_cons.1 distinct
    rcases List.mem_cons.1 hc with rfl | hc
    · rw [State.writeList, latest_eq_lastOf, writeList_lastOf_ne _ _ _ _ _ l once, ← latest_eq_lastOf,
        writeAt_latest_self s u scope key c.1 c.2 clean]
    · exact ih distinct hc ((onlyBytes_poisoned (writeAt_onlyBytes s u scope key a.1 a.2) _).trans clean)
/-- Fewer bytes than a line's end no poison. -/
theorem unpoison_few (s : State) {pas : List Nat} (few : pas.length < 128) : s.unpoison pas = s := by
  have kept : ∀ l ∈ s.mpoison, (!((List.range 128).all fun i => pas.contains (l.1 * 128 + i))) = true := by
    intro l _
    rw [Bool.not_eq_true', Bool.eq_false_iff]
    intro whole
    have line : (List.range 128).map (l.1 * 128 + ·) ⊆ pas := by
      intro q hq
      obtain ⟨i, hi, rfl⟩ := List.mem_map.1 hq
      simpa using List.all_eq_true.1 whole i hi
    have distinct : ((List.range 128).map (l.1 * 128 + ·)).Nodup := List.nodup_range.map fun _ _ => Nat.add_left_cancel
    have := (List.subperm_of_subset distinct line).length_le
    rw [List.length_map, List.length_range] at this
    omega
  rw [State.unpoison, List.filter_eq_self.2 kept]

/-! What an atomic of a team writes (R371, R375, R402) -/

theorem dropSnaps_sameStore (s : State) (pas : List Nat) : s.sameStore (s.dropSnaps pas) :=
  ⟨rfl, rfl, rfl, rfl, rfl, rfl, rfl, rfl, rfl, rfl, rfl, rfl, fun _ => rfl⟩
theorem fire_sameStore (s : State) (ok : Nat → Nat → Bool) (pas : List Nat) : s.sameStore (s.fire ok pas) :=
  ⟨rfl, rfl, rfl, rfl, rfl, rfl, rfl, rfl, rfl, rfl, rfl, rfl, fun _ => rfl⟩
/-- Watches that fire change no stream. -/
theorem fire_stream (s : State) (ok : Nat → Nat → Bool) (pas : List Nat) : (s.fire ok pas).stream = s.stream := by
  have voice : ∀ u j, ((s.fire ok pas).voice u j).st = (s.voice u j).st := fun u j => by
    refine NMap.getD_map_keeps (g := Voice.st) (fun c => ?_) (fun c => ?_) _ _
    · rfl
    · dsimp only
      split
      · rfl
      · split <;> rfl
  unfold State.stream
  rw [show (s.fire ok pas).sel = s.sel from rfl]
  cases s.sel with
  | voice u j => exact voice u j
  | ctx u e j => rfl

/-- The bytes at their home that an atomic of unit `u` leaves. -/
def State.homeBytes (s : State) (u scope pa : Nat) (bs : List Byte) : State := s.writeList u scope (s.unitKey u) (addressed pa bs)

theorem homeBytes_onlyBytes (s : State) (u scope pa : Nat) (bs : List Byte) : s.onlyBytes (s.homeBytes u scope pa bs) :=
  writeList_onlyBytes s u scope _ _
/-- Beside the bytes of fewer than a line, an atomic changes no store, and neither the stream in issue nor a key. -/
theorem atomicWrite_past_bytes (s : State) (u scope pa : Nat) {bs : List Byte} (few : bs.length < 128) :
    (s.homeBytes u scope pa bs).sameStore (s.atomicWrite u scope pa bs) ∧ (s.atomicWrite u scope pa bs).sel = s.sel ∧
      (s.atomicWrite u scope pa bs).stream = s.stream ∧ (s.atomicWrite u scope pa bs).keys = s.keys := by
  have only := homeBytes_onlyBytes s u scope pa bs
  have landed : s.land u scope (s.unitKey u) (addressed pa bs) = s.homeBytes u scope pa bs :=
    unpoison_few _ (by rw [addressed_keys, List.length_range']; exact few)
  have home : s.homeWrite u scope pa bs = ((s.homeBytes u scope pa bs).dropSnaps ((addressed pa bs).map (·.1))).fire
      (fun _ _ => true) ((addressed pa bs).map (·.1)) := landed ▸ rfl
  have stream : (s.homeWrite u scope pa bs).stream = s.stream := by
    rw [home, fire_stream]
    show (s.homeBytes u scope pa bs).stream = s.stream
    exact onlyBytes_stream only
  unfold State.atomicWrite
  refine ⟨?_, ?_, stream, ?_⟩
  · rw [home]
    exact sameStore_trans (sameStore_trans (dropSnaps_sameStore _ _) (fire_sameStore _ _ _)) (setUnit_sameStore _ u _ rfl)
  · rw [setUnit_sel, home]
    show (s.homeBytes u scope pa bs).sel = s.sel
    exact onlyBytes_sel only
  · rw [setUnit_keys, home]
    show (s.homeBytes u scope pa bs).keys = s.keys
    exact onlyBytes_keys only

theorem unitKey_congr {s t : State} (place : ∀ k, (t.unit k).place = (s.unit k).place) (keys : t.keys = s.keys) (u : Nat) :
    t.unitKey u = s.unitKey u := by
  rw [State.unitKey, State.jobKey, place, keys, State.unitKey, State.jobKey]
/-- In `t` the bytes `bs` stand at `pa` for unit `u`'s key, and every other byte of memory is as in `s`. -/
structure State.leftBytes (s t : State) (u pa : Nat) (bs : List Byte) : Prop where
  bytes : t.latestNat u pa bs.length = leNat bs
  frame : s.keepsMemoryBut t (s.unitKey u) pa bs.length

theorem leftBytes_of_sameStore {s t r : State} {u pa : Nat} {bs : List Byte} (h : s.leftBytes t u pa bs) (store : t.sameStore r)
    (keys : r.keys = t.keys) : s.leftBytes r u pa bs where
  bytes := by
    refine Eq.trans (congrArg leNat (List.map_congr_left fun i _ => ?_)) h.bytes
    rw [unitKey_congr store.place keys, latest_eq_lastOf, lastOf_congr store, latest_eq_lastOf]
  frame ag q out := (sameStore_keepsMemory store ag _ q).trans (h.frame ag q out)
theorem homeBytes_leftBytes {s : State} (u scope : Nat) {pa : Nat} {bs : List Byte} (clean : s.poisoned pa = false)
    (line : pa % 128 + bs.length ≤ 128) : s.leftBytes (s.homeBytes u scope pa bs) u pa bs where
  bytes := by
    have only := homeBytes_onlyBytes s u scope pa bs
    have key : (s.homeBytes u scope pa bs).unitKey u = s.unitKey u :=
      unitKey_congr (fun k => by rw [unit_congr (onlyBytes_units only)]) (onlyBytes_keys only) u
    refine congrArg leNat (List.ext_getElem (by simp) fun i _ hi => ?_)
    rw [List.getElem_map, List.getElem_range, key]
    have same : s.poisoned (pa + i) = s.poisoned pa := by rw [State.poisoned, show (pa + i) / 128 = pa / 128 by omega, State.poisoned]
    exact writeList_latest u scope (s.unitKey u) (addressed_nodup pa bs) (c := (pa + i, bs[i]))
      (mem_addressed.2 ⟨i, List.getElem?_eq_getElem hi, rfl⟩) (same.trans clean)
  frame ag q out := by
    have only := homeBytes_onlyBytes s u scope pa bs
    have off : q ∉ (addressed pa bs).map (·.1) := by
      rw [addressed_keys, List.mem_range'_1]
      omega
    have sees : (fun w => (s.homeBytes u scope pa bs).reaches w ag) = fun w => s.reaches w ag :=
      funext fun w => reaches_congr (onlyBytes_units only) w ag
    rw [seen_eq_lastOf, seen_eq_lastOf, sees]
    exact writeList_lastOf_ne s _ u scope _ _ off
/-- The state in which an atomic of bytes of one line, not poisoned, has been performed. -/
theorem atomicWrite_leftBytes {s : State} (u scope : Nat) {pa : Nat} {bs : List Byte} (clean : s.poisoned pa = false)
    (few : bs.length < 128) (line : pa % 128 + bs.length ≤ 128) : s.leftBytes (s.atomicWrite u scope pa bs) u pa bs := by
  obtain ⟨store, -, -, keys⟩ := atomicWrite_past_bytes s u scope pa few
  refine leftBytes_of_sameStore (homeBytes_leftBytes u scope clean line) store
    (keys.trans (onlyBytes_keys (homeBytes_onlyBytes s u scope pa bs)).symm)
theorem atomicWrite_keepsCores (s : State) (u scope pa : Nat) {bs : List Byte} (few : bs.length < 128) :
    s.keepsCores (s.atomicWrite u scope pa bs) := by
  obtain ⟨sp, acc, tiles, masks, lan, dsc⟩ := sameStore_keepsCores (atomicWrite_past_bytes s u scope pa few).1
  obtain ⟨sp₁, acc₁, tiles₁, masks₁, lan₁, dsc₁⟩ := onlyBytes_keepsCores (homeBytes_onlyBytes s u scope pa bs)
  exact ⟨sp.trans sp₁, acc.trans acc₁, tiles.trans tiles₁, masks.trans masks₁, lan.trans lan₁, dsc.trans dsc₁⟩

end Sys2Proof.Machine
end

section
/-! PROOFS. Atomics (O13) and loads of the weight tier (O14). -/
namespace Sys2Proof.Machine
open Sys2Proof

theorem completes_imp {i : Instr} {s : State} {P Q : State → Prop} (h : Completes i s P) (imp : ∀ t, P t → Q t) : Completes i s Q := by
  obtain ⟨t, run, holds⟩ := h
  exact ⟨t, run, imp t holds⟩
theorem leNat_lt (bs : List Byte) : leNat bs < 2 ^ (8 * bs.length) := by
  induction bs with
  | nil => exact Nat.one_pos
  | cons b bs ih =>
    have := b.isLt
    rw [leNat, List.length_cons, Nat.mul_succ, Nat.pow_add]
    omega

/-! Registers whose data have not arrived (R186) -/

theorem setBusy_voice {s : State} {u j : Nat} {d : BitVec 6} (hs : s.sel = .voice u j) (hd : d ≠ 0) :
    s.setBusy d = s.setVoice u j { s.voice u j with busy := d.toNat :: (s.voice u j).busy } := by
  rw [State.setBusy, hs]
  exact if_neg hd
/-- A mark of its voice is all that it can change. -/
theorem setBusy_eq (s : State) (d : BitVec 6) : s.setBusy d = s ∨ ∃ u j, s.sel = .voice u j ∧
    s.setBusy d = s.setVoice u j { s.voice u j with busy := d.toNat :: (s.voice u j).busy } := by
  cases hs : s.sel with
  | voice u j =>
    by_cases hd : d = 0
    · exact .inl (by rw [State.setBusy, hs]; exact if_pos hd)
    · exact .inr ⟨u, j, rfl, setBusy_voice hs hd⟩
  | ctx u e j => exact .inl (by rw [State.setBusy, hs])
theorem setBusy_stream (s : State) (d : BitVec 6) : (s.setBusy d).stream = s.stream := by
  rcases setBusy_eq s d with same | ⟨u, j, hs, marked⟩
  · rw [same]
  · simp [marked, State.stream, hs]
theorem setBusy_sameStore (s : State) (d : BitVec 6) : s.sameStore (s.setBusy d) := by
  rcases setBusy_eq s d with same | ⟨u, j, -, marked⟩
  · exact same.symm ▸ sameStore_refl s
  · exact marked.symm ▸ setVoice_sameStore s u j _
theorem setBusy_keys (s : State) (d : BitVec 6) : (s.setBusy d).keys = s.keys := by
  rcases setBusy_eq s d with same | ⟨u, j, -, marked⟩
  · rw [same]
  · rw [marked, setVoice_keys]

/-- The word in issue gives `v` to register `d` of its voice, which may use it once it arrives. -/
def State.gives (s : State) (d : BitVec 6) (v : X) : State := (s.result d fun _ => v).setBusy d

section
variable {s s1 : State} {u j : Nat} (turn : s1.sel = .voice u j) (same : s1.stream = s.stream) (d : BitVec 6) (v : X)

include same in
theorem gives_onlyX : s.onlyX (s1.gives d v) d v := by
  have written := onlyX_result same d v
  rwa [State.onlyX, ← setBusy_stream] at written
include turn in
theorem gives_busy (hd : d ≠ 0) : d.toNat ∈ ((s1.gives d v).voice u j).busy := by
  have here : (s1.result d fun _ => v).sel = .voice u j := (mapStream_sel s1 _).trans turn
  rw [State.gives, setBusy_voice here hd, voice_setVoice]
  exact List.mem_cons_self
theorem gives_sameStore (s : State) : s.sameStore (s.gives d v) := sameStore_trans (result_sameStore s d _) (setBusy_sameStore _ d)
theorem gives_keys (s : State) : (s.gives d v).keys = s.keys := (setBusy_keys _ d).trans (mapStream_keys s _)

end

/-! The values of the updates (R194, R195) -/

theorem amoFn_of_mem {n : Nat} {old x : BitVec n} {f : BitVec 3 × BitVec n} (h : f ∈ ([(0, old + x),
    (1, if x.toInt < old.toInt then x else old), (2, if old.toInt < x.toInt then x else old), (3, old &&& x), (4, old ||| x), (5, old ^^^ x),
    (6, if x.toNat < old.toNat then x else old), (7, if old.toNat < x.toNat then x else old)] : List (BitVec 3 × BitVec n))) :
    amoFn f.1 old x = f.2 := by
  revert f
  simp [amoFn, BitVec.slt, BitVec.ult]
/-- AMR exchanges or adds 8 bytes, or 4 (R195). -/
theorem amrFn_eight {old cmp : Nat} {x : X} {f : BitVec 3 × X} (h : f ∈ ([(1, x), (5, BitVec.ofNat 64 old + x)] : List (BitVec 3 × X))) :
    f.1.toNat % 2 = 1 ∧ amrFn f.1 old cmp x.toNat = some f.2.toNat := by
  simp only [List.mem_cons, List.not_mem_nil, or_false] at h
  rcases h with rfl | rfl
  · exact ⟨by simp, rfl⟩
  · refine ⟨by simp, congrArg some ?_⟩
    rw [BitVec.toNat_add, BitVec.toNat_ofNat, Nat.mod_add_mod]
theorem amrFn_four {old cmp : Nat} {x : X} {f : BitVec 3 × X} (h : f ∈ ([(0, x), (4, BitVec.ofNat 64 old + x)] : List (BitVec 3 × X))) :
    ¬ f.1.toNat % 2 = 1 ∧ amrFn f.1 old cmp x.toNat = some (f.2.toNat % 2 ^ 32) := by
  simp only [List.mem_cons, List.not_mem_nil, or_false] at h
  rcases h with rfl | rfl
  · exact ⟨by simp, rfl⟩
  · refine ⟨by simp, congrArg some ?_⟩
    rw [BitVec.toNat_add, BitVec.toNat_ofNat]
    omega
/-- AMR compares 8 bytes, or 4, before it exchanges them (R195). -/
theorem amrFn_compare_eight (old cmp x : Nat) : amrFn 3 old cmp x = if old = cmp then some x else none := rfl
theorem amrFn_compare_four (old cmp x : Nat) : amrFn 2 old cmp x = if old = cmp % 2 ^ 32 then some (x % 2 ^ 32) else none := rfl
theorem ofNat_toNat_mod {n : Nat} (v : BitVec n) : BitVec.ofNat n (v.toNat % 2 ^ n) = v := by
  rw [Nat.mod_eq_of_lt v.isLt, BitVec.ofNat_toNat, BitVec.setWidth_eq]
theorem homeNat_eq {s : State} {u va pa n : Nat} (plain : ∀ i, i < n → s.inWork u (va + i) (pa + i) = false) :
    s.homeNat u va pa n = s.latestNat u pa n :=
  congrArg leNat (List.map_congr_left fun i hi => by rw [plain i (List.mem_range.1 hi), if_neg Bool.false_ne_true])
theorem latestNat_lt (s : State) (u pa n : Nat) : s.latestNat u pa n < 2 ^ (8 * n) := by
  have := leNat_lt ((List.range n).map fun i => s.latest (s.unitKey u) (pa + i))
  rwa [List.length_map, List.length_range] at this

theorem checkAtomic_ok {s : State} {u ea n pa : Nat} (h : s.reachesAtomic u ea n pa) :
    ∃ l, s.checkAtomic u ea n n = .ok l ∧ l.pa = pa := by
  obtain ⟨reaches, apart⟩ := h
  obtain ⟨l, at_, checked⟩ := checkAtomic_of_reaches reaches
  exact ⟨l, by rw [checked, apart]; rfl, at_⟩

section
variable {s : State} {u j pa n v scope : Nat} {i : Instr} {a b d : BitVec 6} {f c : BitVec 3} {x : X} (turn : s.issues u j)

section
variable (sb : BitVec 1) (reaches : s.reachesAtomic u (s.stream.getX a).toNat n pa)
  (plain : ∀ i, i < n → s.inWork u ((s.stream.getX a).toNat + i) (pa + i) = false)
include turn reaches plain

theorem exec_amo8 (eight : n = 8) : exec (.amo sb 1 a b f c) s = .next (s.atomicWrite u c.toNat pa
    (leBytes (amoFn f (BitVec.ofNat 64 (s.latestNat u pa n)) (s.stream.getX b)).toNat n)).advance := by
  subst eight
  obtain ⟨l, checked, rfl⟩ := checkAtomic_ok reaches
  show execAmo sb 1 a b f c s = _
  simp only [execAmo, selUnit_of_issues turn, if_true, checked, homeNat_eq plain]
theorem exec_amo4 (four : n = 4) : exec (.amo sb 0 a b f c) s = .next (s.atomicWrite u c.toNat pa
    (leBytes (amoFn f (BitVec.ofNat 32 (s.latestNat u pa n)) ((s.stream.getX b).setWidth 32)).toNat n)).advance := by
  subst four
  obtain ⟨l, checked, rfl⟩ := checkAtomic_ok reaches
  show execAmo sb 0 a b f c s = _
  simp only [execAmo, selUnit_of_issues turn, show ¬ (0 : BitVec 1) = 1 by decide, if_false, checked, homeNat_eq plain]
theorem exec_amr_some (wide : (if f.toNat % 2 = 1 then 8 else 4) = n)
    (met : amrFn f (s.latestNat u pa n) (s.stream.getX d).toNat (s.stream.getX b).toNat = some v) :
    exec (.amr sb d a b f c) s = .next ((s.atomicWrite u c.toNat pa (leBytes v n)).gives d (BitVec.ofNat 64 (s.latestNat u pa n))) := by
  obtain ⟨l, checked, rfl⟩ := checkAtomic_ok reaches
  show execAmr sb d a b f c s = _
  simp only [execAmr, selUnit_of_issues turn, wide, checked, homeNat_eq plain, met]
  rfl
theorem exec_amr_none (wide : (if f.toNat % 2 = 1 then 8 else 4) = n)
    (failed : amrFn f (s.latestNat u pa n) (s.stream.getX d).toNat (s.stream.getX b).toNat = none) :
    exec (.amr sb d a b f c) s = .next ((s.fire (fun _ _ => true) [pa]).gives d (BitVec.ofNat 64 (s.latestNat u pa n))) := by
  obtain ⟨l, checked, rfl⟩ := checkAtomic_ok reaches
  show execAmr sb d a b f c s = _
  simp only [execAmr, selUnit_of_issues turn, wide, checked, homeNat_eq plain, failed]
  rfl

end

/-- `v` came to register `d` of voice `j`, which may use it once it arrives, and the storage of the cores is as it was (R186). -/
def State.gave (s t : State) (u j : Nat) (d : BitVec 6) (v : X) : Prop :=
  s.onlyX t d v ∧ (d ≠ 0 → d.toNat ∈ (t.voice u j).busy) ∧ s.keepsCores t

theorem keepsCores_of_sameStore {s t r : State} (h : s.keepsCores t) (store : t.sameStore r) : s.keepsCores r := by
  obtain ⟨sp, acc, tiles, masks, lan, dsc⟩ := h
  exact ⟨store.sp.trans sp, store.acc.trans acc, store.tiles.trans tiles, store.masks.trans masks, store.lan.trans lan, store.dsc.trans dsc⟩
include turn in
theorem gives_gave {s1 : State} (sel : s1.sel = s.sel) (stream : s1.stream = s.stream) (cores : s.keepsCores s1) :
    s.gave (s1.gives d x) u j d x :=
  ⟨gives_onlyX stream d x, gives_busy (sel.trans turn) d x, keepsCores_of_sameStore cores (gives_sameStore d x s1)⟩

section
variable (clean : s.poisoned pa = false) (small : n ≤ 8) (line : pa % 128 + n ≤ 128)
include clean small line

/-- What stands once an atomic of `n` bytes has been performed, and no store after it. -/
theorem atomicWrite_leaves {r : State} (store : (s.atomicWrite u scope pa (leBytes v n)).sameStore r)
    (keys : r.keys = (s.atomicWrite u scope pa (leBytes v n)).keys) :
    r.latestNat u pa n = v % 2 ^ (8 * n) ∧ s.keepsMemoryBut r (s.unitKey u) pa n ∧ s.keepsCores r := by
  have len : (leBytes v n).length = n := leBytes_length _ _
  have few : (leBytes v n).length < 128 := by omega
  obtain ⟨bytes, frame⟩ := leftBytes_of_sameStore (atomicWrite_leftBytes u scope clean few (by omega)) store keys
  rw [leNat_leBytes_mod, len] at bytes
  rw [len] at frame
  exact ⟨bytes, frame, keepsCores_of_sameStore (atomicWrite_keepsCores s u scope pa few) store⟩
theorem completes_update (run : exec i s = .next (s.atomicWrite u scope pa (leBytes v n)).advance) :
    Completes i s fun t => t.latestNat u pa n = v % 2 ^ (8 * n) ∧ s.keepsMemoryBut t (s.unitKey u) pa n ∧ s.sameRegs t ∧ s.keepsCores t := by
  obtain ⟨-, -, stream, -⟩ := atomicWrite_past_bytes s u scope pa (bs := leBytes v n) (by rw [leBytes_length]; omega)
  obtain ⟨bytes, frame, cores⟩ := atomicWrite_leaves clean small line (advance_sameStore (s.atomicWrite u scope pa (leBytes v n)))
    (advance_keys _)
  exact ⟨_, run, bytes, frame, sameRegs_advance stream, cores⟩
include turn in
theorem completes_exchange (sb : BitVec 1) (reaches : s.reachesAtomic u (s.stream.getX a).toNat n pa)
    (plain : ∀ i, i < n → s.inWork u ((s.stream.getX a).toNat + i) (pa + i) = false) (wide : (if f.toNat % 2 = 1 then 8 else 4) = n)
    (met : amrFn f (s.latestNat u pa n) (s.stream.getX d).toNat (s.stream.getX b).toNat = some v) :
    Completes (.amr sb d a b f c) s fun t => s.gave t u j d (BitVec.ofNat 64 (s.latestNat u pa n)) ∧
      t.latestNat u pa n = v % 2 ^ (8 * n) ∧ s.keepsMemoryBut t (s.unitKey u) pa n := by
  obtain ⟨-, sel, stream, -⟩ := atomicWrite_past_bytes s u c.toNat pa (bs := leBytes v n) (by rw [leBytes_length]; omega)
  obtain ⟨-, -, cores⟩ := atomicWrite_leaves (u := u) (v := v) (scope := c.toNat) clean small line (sameStore_refl _) rfl
  obtain ⟨bytes, frame, -⟩ := atomicWrite_leaves clean small line
    (gives_sameStore d (BitVec.ofNat 64 (s.latestNat u pa n)) (s.atomicWrite u c.toNat pa (leBytes v n))) (gives_keys d _ _)
  exact ⟨_, exec_amr_some turn sb reaches plain wide met, gives_gave turn sel stream cores, bytes, frame⟩

end

include turn in
/-- A comparison that fails only fires the watches of its line. -/
theorem completes_unexchanged (run : exec i s = .next ((s.fire (fun _ _ => true) [pa]).gives d x)) :
    Completes i s fun t => s.gave t u j d x ∧ s.keepsMemory t := by
  have fired := fire_sameStore s (fun _ _ => true) [pa]
  exact ⟨_, run, gives_gave turn rfl (fire_stream ..) (sameStore_keepsCores fired),
    sameStore_keepsMemory (sameStore_trans fired (gives_sameStore d x _))⟩

end

/-- Settles O13: each atomic is one write of its bytes at their home, or none, and a move or a write of a register. -/
theorem atomics : Obligations.Atomics := by
  unfold Obligations.Atomics
  refine ⟨?amo, ?amr⟩
  case amo =>
    intro sb a b c s u j pa ea F turn clean plain
    refine ⟨fun reaches line f hf => ?doubleword, fun reaches line f hf => ?word⟩
    case doubleword =>
      refine completes_imp (completes_update clean le_rfl (by omega) (exec_amo8 turn sb reaches plain rfl)) fun t
        ⟨bytes, rest⟩ => ⟨?_, rest⟩
      rw [bytes, amoFn_of_mem hf]
      exact ofNat_toNat_mod f.2
    case word =>
      have plain : ∀ i, i < 4 → s.inWork u (ea + i) (pa + i) = false := fun i hi => plain i (by omega)
      refine completes_imp (completes_update clean (by decide) (by omega) (exec_amo4 turn sb reaches plain rfl)) fun t
        ⟨bytes, rest⟩ => ⟨?_, rest⟩
      rw [bytes, amoFn_of_mem hf]
      exact ofNat_toNat_mod f.2
  case amr =>
    intro sb d a b c s u j pa ea old old4 x gave turn clean plain
    refine ⟨fun reaches line => ?doubleword, fun reaches line => ?word⟩
    case doubleword =>
      refine ⟨fun f hf => ?moves, fun same => ?meets, fun other => ?fails⟩
      case moves =>
        obtain ⟨wide, value⟩ := amrFn_eight (cmp := (s.stream.getX d).toNat) hf
        refine completes_imp (completes_exchange turn clean le_rfl (by omega) sb reaches plain (if_pos wide) value) fun t
          ⟨given, bytes, frame⟩ => ⟨given, ?_, frame⟩
        exact bytes ▸ ofNat_toNat_mod f.2
      case meets =>
        have met : s.latestNat u pa 8 = (s.stream.getX d).toNat := by
          rw [← same]
          exact (Nat.mod_eq_of_lt (latestNat_lt s u pa 8)).symm
        have value := (amrFn_compare_eight (s.latestNat u pa 8) (s.stream.getX d).toNat x.toNat).trans (if_pos met)
        refine completes_imp (completes_exchange turn clean le_rfl (by omega) sb reaches plain rfl value) fun t
          ⟨given, bytes, frame⟩ => ⟨given, ?_, frame⟩
        exact bytes ▸ ofNat_toNat_mod x
      case fails =>
        have unmet : s.latestNat u pa 8 ≠ (s.stream.getX d).toNat := fun same => other (by
          simp only [old, same, BitVec.ofNat_toNat, BitVec.setWidth_eq])
        have value := (amrFn_compare_eight (s.latestNat u pa 8) (s.stream.getX d).toNat x.toNat).trans (if_neg unmet)
        exact completes_unexchanged turn (exec_amr_none turn sb reaches plain rfl value)
    case word =>
      have plain : ∀ i, i < 4 → s.inWork u (ea + i) (pa + i) = false := fun i hi => plain i (by omega)
      have whole : old4.toNat = s.latestNat u pa 4 := Nat.mod_eq_of_lt (Nat.lt_trans (latestNat_lt s u pa 4) (by decide))
      refine ⟨fun f hf => ?moves, fun same => ?meets, fun other => ?fails⟩
      case moves =>
        obtain ⟨wide, value⟩ := amrFn_four (cmp := (s.stream.getX d).toNat) hf
        exact completes_imp (completes_exchange turn clean (by decide) (by omega) sb reaches plain (if_neg wide) value) fun t
          ⟨given, bytes, frame⟩ => ⟨given, bytes.trans (Nat.mod_mod _ _), frame⟩
      case meets =>
        have value := (amrFn_compare_four (s.latestNat u pa 4) (s.stream.getX d).toNat x.toNat).trans (if_pos (whole.symm.trans same))
        exact completes_imp (completes_exchange turn clean (by decide) (by omega) sb reaches plain rfl value) fun t
          ⟨given, bytes, frame⟩ => ⟨given, bytes.trans (Nat.mod_mod _ _), frame⟩
      case fails =>
        have value := (amrFn_compare_four (s.latestNat u pa 4) (s.stream.getX d).toNat x.toNat).trans
          (if_neg fun same => other (whole.trans same))
        exact completes_unexchanged turn (exec_amr_none turn sb reaches plain rfl value)

/-! LDW (R192) -/

theorem exec_ldw {s : State} {u j wa k n ea off : Nat} {r : Region} {m bank sc : Bool} {a : BitVec 6} {w : BitVec 2} {o : BitVec 9}
    (sb x : BitVec 1) (d : BitVec 6) (at_ : (effAddr s.stream a w o).toNat = ea) (wide : widthOf w = n) (turn : s.issues u j)
    (window : s.checkWindow u ea n = .ok wa) (bound : s.boundAt u wa = some (k, r, m, bank, sc, off))
    (clean : s.poisonAt r (r.addr (waDie wa) (waCore wa) (r.actOn (waCore wa)) sc off) n = none)
    (owned : s.owns (s.unit u).place.die (s.unit u).place.job r = true) :
    exec (.ldw sb d a w x o) s = .next (s.gives d (extend x n (leNat ((List.range n).map fun i =>
      s.cell (r.addr (waDie wa) (waCore wa) (r.actOn (waCore wa)) sc off + i))))) := by
  show execLdw sb d a w x o s = _
  simp only [execLdw, selUnit_of_issues turn, at_, wide, window, bound, clean, State.ownCell, owned, if_true]
  rfl

/-- Settles O14: past its checks a load of the tier gives the cells of the active bank to its register, and changes no store. -/
theorem weightLoad : Obligations.WeightLoad := by
  unfold Obligations.WeightLoad
  intro sb x d a w o s u j wa k off r m bank sc ea n at_ v turn window bound clean owned
  have store := gives_sameStore d (extend x n v) s
  obtain ⟨written, busy, cores⟩ := gives_gave (d := d) (x := extend x n v) turn rfl rfl (sameStore_keepsCores (sameStore_refl s))
  refine ⟨_, exec_ldw (ea := ea) (n := n) sb x d rfl rfl turn window bound clean owned, ?_, busy, sameStore_keepsMemory store, cores,
    store.wt⟩
  exact extend_eq x (n := n) (widthOf_pos w) v ▸ written

end Sys2Proof.Machine
end

section
/-! PROOFS. Translation messages (O39). -/
namespace Sys2Proof.Machine
open Sys2Proof

/-! Messages received (R214, R216, R460) -/

/-- A higher generation changes the job's record and its pages' counts of faults, and nothing else. -/
theorem newGen_eq (s : State) (d job gen : Nat) : ∃ jobs pfaults, s.newGen d job gen = { s with jobs := jobs, pfaults := pfaults } := by
  unfold State.newGen
  split
  · exact ⟨_, _, rfl⟩
  · exact ⟨_, _, rfl⟩
/-- A page stays listed when the generation rises. -/
theorem newGen_pfault {s : State} {k : Nat} {f : PFault} (d job gen : Nat) (listed : s.pfaults.find k = some f) :
    ∃ g, (s.newGen d job gen).pfaults.find k = some g := by
  unfold State.newGen
  split
  · refine ⟨_, (NMap.find_map_key s.pfaults _ (fun c => ?_) k).trans (congrArg _ listed)⟩
    split <;> rfl
  · exact ⟨f, listed⟩

section
variable {s : State} {m : XlatMsg}

theorem receiveMsg_acts {ty : Nat} (f : State → State) (die : msgDie m < 12) (up : s.reached (msgDie m) = true) (good : s.badMsg m = false)
    (type : msgType m = ty) : s.receiveMsg ty m f = .next (f (s.newGen (msgDie m) (msgJob m) (msgGen m))) := by
  unfold State.receiveMsg
  rw [if_neg (by simp [Config.dies, up]; omega), good, if_neg (by simp), if_neg (not_not_intro type)]
theorem receiveMsg_bad (ty : Nat) (f : State → State) (die : msgDie m < 12) (up : s.reached (msgDie m) = true) (bad : s.badMsg m = true) :
    s.receiveMsg ty m f = .next (s.setDie (msgDie m) { s.die (msgDie m) with linkErrors := (s.die (msgDie m)).linkErrors + 1 }) := by
  unfold State.receiveMsg
  rw [if_neg (by simp [Config.dies, up]; omega), if_pos bad]
theorem receiveMsg_unreached (ty : Nat) (f : State → State) (down : s.reached (msgDie m) = false) : s.receiveMsg ty m f = .next s := by
  unfold State.receiveMsg
  rw [if_pos (.inr down)]

end

/-! PREADY (R216) -/

theorem makeReady_ready (s : State) (u : Nat) : ((s.makeReady u).unit u).ready.isSome = true := by
  unfold State.makeReady
  split
  · assumption
  · rw [unit_setUnit]; rfl
theorem makeReady_keepsReady {s : State} {v : Nat} (u : Nat) (ready : (s.unit v).ready.isSome = true) :
    ((s.makeReady u).unit v).ready.isSome = true := by
  by_cases same : v = u
  · exact same ▸ makeReady_ready s u
  · unfold State.makeReady
    split
    · exact ready
    · rw [unit_setUnit_ne _ _ same]; exact ready
/-- The unit no longer waits for a page, and may start. -/
def State.pageArrived (s : State) (u : Nat) : State := (s.setUnit u { s.unit u with page := none }).makeReady u
/-- The page of the message's address, and where its faults are kept. -/
abbrev msgPage (m : XlatMsg) : Nat := msgVa m / 4096 * 4096
abbrev msgFault (m : XlatMsg) : Nat := jkey (msgDie m) (msgJob m) * 2 ^ 57 + msgPage m
/-- What a PREADY of the die does (R216). -/
def State.pageAnswered (m : XlatMsg) (s : State) : State :=
  let s1 : State := match s.pfaults.find (msgFault m) with
    | some f => { s with pfaults := s.pfaults.put (msgFault m) { f with outstanding := false } }
    | none => s
  (s1.waiters (msgDie m) (msgJob m) (msgPage m)).foldl State.pageArrived s1
theorem exec_pready (m : XlatMsg) (s : State) : exec (.pready m) s = s.receiveMsg 2 m (State.pageAnswered m) := rfl
theorem pageAnswered_of_listed {s : State} {m : XlatMsg} {f : PFault}
    (listed : s.pfaults.find (msgFault m) = some f) :
    s.pageAnswered m = (s.waiters (msgDie m) (msgJob m) (msgPage m)).foldl State.pageArrived
      { s with pfaults := s.pfaults.put (msgFault m) { f with outstanding := false } } := by
  unfold State.pageAnswered
  simp only [listed]
  rfl
theorem pageArrived_mem (s : State) (u : Nat) : (s.pageArrived u).mem = s.mem ∧ (s.pageArrived u).pfaults = s.pfaults := by
  unfold State.pageArrived State.makeReady
  split <;> exact ⟨rfl, rfl⟩
theorem pageArrived_keepsReady {s : State} {v : Nat} (u : Nat) (ready : (s.unit v).ready.isSome = true) :
    ((s.pageArrived u).unit v).ready.isSome = true := by
  refine makeReady_keepsReady u ?_
  by_cases same : v = u
  · subst same; rw [unit_setUnit]; exact ready
  · rw [unit_setUnit_ne _ _ same]; exact ready
/-- Of the teams let go one after another each may start. -/
theorem foldl_pageArrived_ready (l : List Nat) (s : State) {v : Nat} (h : v ∈ l ∨ (s.unit v).ready.isSome = true) :
    ((l.foldl State.pageArrived s).unit v).ready.isSome = true := by
  induction l generalizing s with
  | nil => simpa using h
  | cons u t ih =>
    refine ih _ ?_
    rcases h with h | h
    · rcases List.mem_cons.1 h with rfl | h
      · exact .inr (makeReady_ready _ _)
      · exact .inl h
    · exact .inr (pageArrived_keepsReady u h)
theorem foldl_pageArrived_mem (l : List Nat) (s : State) :
    (l.foldl State.pageArrived s).mem = s.mem ∧ (l.foldl State.pageArrived s).pfaults = s.pfaults := by
  induction l generalizing s with
  | nil => exact ⟨rfl, rfl⟩
  | cons u t ih => exact ⟨(ih _).1.trans (pageArrived_mem s u).1, (ih _).2.trans (pageArrived_mem s u).2⟩

section
variable {s : State} {m : XlatMsg} {f : PFault} {c : Nat × Inval} {die : Nat}

/-- An answered page is asked for no more, and each team that waits for it may start (R216). -/
theorem pready_completes (low : msgDie m < 12) (up : s.reached (msgDie m) = true) (good : s.badMsg m = false) (type : msgType m = 2)
    (listed : s.pfaults.find (msgFault m) = some f) :
    Completes (.pready m) s fun t =>
      (∃ g, t.pfaults.find (msgFault m) = some g ∧ g.outstanding = false) ∧
      t.mem = s.mem ∧ ∀ u ∈ s.waiters (msgDie m) (msgJob m) (msgPage m), (t.unit u).ready.isSome = true := by
  obtain ⟨g, still⟩ := newGen_pfault (msgDie m) (msgJob m) (msgGen m) listed
  obtain ⟨jobs, pfaults, fields⟩ := newGen_eq s (msgDie m) (msgJob m) (msgGen m)
  refine ⟨_, (exec_pready m s).trans (receiveMsg_acts _ low up good type), ?_⟩
  rw [pageAnswered_of_listed still]
  obtain ⟨mem, found⟩ := foldl_pageArrived_mem ((s.newGen (msgDie m) (msgJob m) (msgGen m)).waiters (msgDie m) (msgJob m) (msgPage m)) _
  refine ⟨⟨{ g with outstanding := false }, ?_, rfl⟩, mem.trans (by rw [fields]), fun u waits => foldl_pageArrived_ready _ _ (.inl ?_)⟩
  · rw [found, NMap.find_put_self]
  · rw [fields]; exact waits

/-! INVAL and INVACK (R218) -/

/-- A tensor with the entries of the named pages invalid: those named are invalid, and the others stand. -/
theorem unmap_entries (t : Tensor) (m : XlatMsg) :
    (t.unmap m).base = t.base ∧ (t.unmap m).scale = t.scale ∧
    (∀ e ∈ (t.unmap m).tiles, msgNames m (t.base / 4096 + e.1) = true → e.2.ok = false) ∧
    (∀ e ∈ t.tiles, msgNames m (t.base / 4096 + e.1) = false → e ∈ (t.unmap m).tiles) ∧
    (∀ e ∈ (t.unmap m).stiles, msgNames m (t.scale / 4096 + e.1) = true → e.2.ok = false) ∧
    (∀ e ∈ t.stiles, msgNames m (t.scale / 4096 + e.1) = false → e ∈ (t.unmap m).stiles) := by
  have off : ∀ (l : NMap Tile) (b : Nat), ∀ e ∈ l.map (fun (c : Nat × Tile) =>
      if msgNames m (b + c.1) then (c.1, { c.2 with ok := false }) else c), msgNames m (b + e.1) = true → e.2.ok = false := by
    intro l b e he named
    obtain ⟨c, -, rfl⟩ := List.mem_map.1 he
    split
    · rfl
    · next other => rw [if_neg other] at named; exact absurd named other
  have stands : ∀ (l : NMap Tile) (b : Nat), ∀ e ∈ l, msgNames m (b + e.1) = false → e ∈ l.map (fun (c : Nat × Tile) =>
      if msgNames m (b + c.1) then (c.1, { c.2 with ok := false }) else c) :=
    fun l b e he named => List.mem_map.2 ⟨e, he, if_neg (by simp [named])⟩
  exact ⟨rfl, rfl, off _ _, stands _ _, off _ _, stands _ _⟩

/-- A listed launch after an INVAL: the tensors of one of the message's job on its die have their named entries invalid. -/
def unmapLaunch (m : XlatMsg) (l : Nat × Launch) : Nat × Launch :=
  if l.2.die = msgDie m ∧ l.2.job = msgJob m then (l.1, { l.2 with tensors := l.2.tensors.map fun t => t.unmap m }) else l
/-- The voices after an INVAL: a watch on a named page has fired (R402). -/
def State.watchesFired (s : State) (m : XlatMsg) : NMap Voice :=
  s.voices.map fun (v : Nat × Voice) => match v.2.watch with
    | some w => if ((s.unit (v.1 / 4)).place.die = msgDie m ∧ (s.unit (v.1 / 4)).place.job = msgJob m) ∧ msgNames m (w.va / 4096) = true
        then (v.1, { v.2 with watch := some { w with fired := true } }) else v
    | none => v
/-- What an INVAL of the die does (R218). -/
def State.invalidated (m : XlatMsg) (s : State) : State :=
  { s with
    launches := s.launches.map (unmapLaunch m)
    voices := s.watchesFired m
    invals := s.invals ++ [(msgDie m, ⟨m, s.namedFrames m, s.jobLoads m, s.jobWaits m⟩)] }
theorem exec_inval (m : XlatMsg) (s : State) : exec (.inval m) s = s.receiveMsg 3 m (State.invalidated m) := rfl
theorem invalidated_tensors {l : Nat} (die : (s.launch l).die = msgDie m) (job : (s.launch l).job = msgJob m) :
    ((s.invalidated m).launch l).tensors = (s.launch l).tensors.map fun t => t.unmap m := by
  have found := NMap.find_map_key s.launches (unmapLaunch m) (fun c => by unfold unmapLaunch; split <;> rfl) l
  unfold State.launch NMap.getD at *
  show (((NMap.find (s.launches.map (unmapLaunch m)) l).getD {}).tensors) = _
  rw [found]
  cases listed : s.launches.find l with
  | none => rfl
  | some x =>
    rw [listed] at die job
    exact congrArg (fun c : Nat × Launch => c.2.tensors) (if_pos ⟨die, job⟩)

theorem inval_completes (low : msgDie m < 12) (up : s.reached (msgDie m) = true) (good : s.badMsg m = false) (type : msgType m = 3) :
    Completes (.inval m) s (fun t =>
      t.invals = s.invals ++ [(msgDie m, ⟨m, s.namedFrames m, s.jobLoads m, s.jobWaits m⟩)] ∧ t.mem = s.mem ∧
      ∀ l, (s.launch l).die = msgDie m → (s.launch l).job = msgJob m →
        (t.launch l).tensors = (s.launch l).tensors.map fun t => t.unmap m) := by
  obtain ⟨jobs, pfaults, fields⟩ := newGen_eq s (msgDie m) (msgJob m) (msgGen m)
  refine ⟨_, (exec_inval m s).trans (receiveMsg_acts _ low up good type), ?_⟩
  rw [fields]
  exact ⟨rfl, rfl, fun l die job => invalidated_tensors (s := { s with jobs := jobs, pfaults := pfaults }) die job⟩

/-- The oldest INVAL of the die is answered when nothing of what it waits for is left. -/
theorem invack_completes (oldest : s.invals.find? (fun c => decide (c.1 = die)) = some c) (frames : ∀ g ∈ c.2.frames, g ∉ s.pinned die)
    (loads : ∀ x ∈ c.2.loads, x.2.2 ∉ (s.voice x.1 x.2.1).busy) (waits : ∀ w ∈ c.2.waits, s.inWait w.1 w.2.1 w.2.2 = false) :
    execInvack die s = .next { s with
      invals := s.invals.erase c
      xlatOut := s.xlatOut ++ [xlatMsg 4 die 0 (msgJob c.2.msg) (msgVa c.2.msg) (msgGen c.2.msg) 0 (msgTag c.2.msg)] } := by
  have unpinned : (c.2.frames.any fun f => (s.pinned die).contains f) = false := by simpa using frames
  have arrived : (c.2.loads.any fun l => (s.voice l.1 l.2.1).busy.contains l.2.2) = false := by simpa using loads
  have met : (c.2.waits.any fun w => s.inWait w.1 w.2.1 w.2.2) = false := by simpa using waits
  unfold execInvack
  rw [oldest]
  dsimp only
  rw [unpinned, arrived, met]
  rfl

end

/-- Settles O39: a message that a die acts on is its action on a state in which a new generation may stand; any other leaves at most
its die's count of link errors. -/
theorem translationMessages : Obligations.TranslationMessages := by
  unfold Obligations.TranslationMessages
  intro m s die f c d page k
  refine ⟨pready_completes, fun low up good type => ?_, fun low up bad => ?_, fun low down => ?_,
    fun oldest frames loads waits => ⟨_, invack_completes oldest frames loads waits, rfl⟩⟩
  · obtain ⟨t, runs, owed, mem, tensors⟩ := inval_completes low up good type
    refine ⟨t, runs, owed, mem, fun l hd hj => ?_⟩
    rw [tensors l hd hj]
    refine ⟨List.length_map _, fun x hx => ?_⟩
    obtain ⟨i, hi, rfl⟩ := List.mem_iff_getElem.1 hx
    rw [List.getElem_zip, List.getElem_map]
    exact unmap_entries _ m
  · have counted : ∀ ty g, ∃ t, s.receiveMsg ty m g = .next t ∧
        (t.die d).linkErrors = (s.die d).linkErrors + 1 ∧ t = { s with dies := t.dies } :=
      fun ty g => ⟨_, receiveMsg_bad ty g low up bad, by rw [die_setDie], rfl⟩
    intro i hi
    rcases List.mem_pair.1 hi with rfl | rfl
    · exact counted 2 (State.pageAnswered m)
    · exact counted 3 (State.invalidated m)
  · intro i hi
    rcases List.mem_pair.1 hi with rfl | rfl
    · exact ⟨s, receiveMsg_unreached 2 (State.pageAnswered m) down, rfl⟩
    · exact ⟨s, receiveMsg_unreached 3 (State.invalidated m) down, rfl⟩

end Sys2Proof.Machine
end

section
/-! PROOFS. The canonical forms of the stores, and what the operations of the state do to them (O58). A function that
changes no store has an equivalence, by which `simp` passes it; one that may write to a store keeps its form, which is an implication. -/
namespace Sys2Proof.Machine
open Sys2Proof

/-- A global memory and a weight tier, both in their canonical forms. -/
def Canonical (mem : List Host.Cell) (wt : NMap Byte) : Prop := Memory.wf mem ∧ Weights.wf wt
/-- The stores of the machine are in their canonical forms (R207, R231). -/
def State.canonical : State → Prop
  | { mem, wt, .. } => Canonical mem wt
/-- So are those of the state that an instruction leads to, where it leads to one. -/
def Out.canonical : Out → Prop
  | .next t => t.canonical
  | _ => True
@[simp] theorem next_canonical (t : State) : Out.canonical (.next t) ↔ t.canonical := by rw [Out.canonical]
@[simp] theorem fault_canonical (r : Fault) : Out.canonical (.fault r) := trivial

section
variable {s t : State}

theorem canonical_iff : s.canonical ↔ Canonical s.mem s.wt := Iff.rfl
/-- The definition's equation: only the stores of a state that is written out field by field count. It is proved by `rw`, since `simp`
could not discharge side goals through it if it held by `rfl` in the file. -/
@[simp] theorem canonical_mk : type_of% @State.canonical.eq_1 := by
  intros
  rw [State.canonical]
@[simp] theorem canonical_stores : Canonical s.mem s.wt ↔ s.canonical := by rw [canonical_iff]
/-- Whether its stores are canonical is settled by the lemmas below: `simp` need not look into the state for it. -/
@[congr] theorem canonical_opaque (s : State) : s.canonical = s.canonical := rfl
@[simp] theorem ite_canonical {c : Prop} [Decidable c] : (if c then s else t).canonical ↔ if c then s.canonical else t.canonical := by
  split <;> rfl
@[simp] theorem ite_out_canonical {c : Prop} [Decidable c] {x y : Out} :
    (if c then x else y).canonical ↔ if c then x.canonical else y.canonical := by
  split <;> rfl
/-- Steps that each keep the canonical forms keep them together. -/
theorem foldl_canonical {α : Type} {f : State → α → State} (hf : ∀ t a, t.canonical → (f t a).canonical) (wf : s.canonical) (l : List α) :
    (l.foldl f s).canonical := List.foldlRecOn l f wf fun t ht a _ => hf t a ht
/-- Steps that each change no store change none together. -/
theorem foldl_canonical_iff {α : Type} {f : State → α → State} (hf : ∀ t a, (f t a).canonical ↔ t.canonical) (s) (l : List α) :
    (l.foldl f s).canonical ↔ s.canonical := List.foldlRecOn l f Iff.rfl fun t ht a _ => (hf t a).trans ht
theorem canonical_congr (mem : t.mem = s.mem) (wt : t.wt = s.wt) : t.canonical ↔ s.canonical := by
  rw [canonical_iff, canonical_iff, mem, wt]
theorem canonical_of_sameStore (h : s.sameStore t) : t.canonical ↔ s.canonical := canonical_congr h.mem h.wt
theorem canonical_of_sameContents (h : s.sameContents t) : t.canonical ↔ s.canonical := canonical_of_sameStore h.store

/-! Parts of the state that are no store -/

@[simp] theorem setUnit_canonical (u x) : (s.setUnit u x).canonical ↔ s.canonical := canonical_congr rfl rfl
@[simp] theorem setVoice_canonical (u j v) : (s.setVoice u j v).canonical ↔ s.canonical := canonical_congr rfl rfl
@[simp] theorem setCtx_canonical (u e j c) : (s.setCtx u e j c).canonical ↔ s.canonical := canonical_congr rfl rfl
@[simp] theorem setLaunch_canonical (l x) : (s.setLaunch l x).canonical ↔ s.canonical := canonical_congr rfl rfl
@[simp] theorem setDie_canonical (d x) : (s.setDie d x).canonical ↔ s.canonical := canonical_congr rfl rfl
@[simp] theorem setCore_canonical (d p c) : (s.setCore d p c).canonical ↔ s.canonical := canonical_congr rfl rfl
@[simp] theorem mapStream_canonical (f) : (s.mapStream f).canonical ↔ s.canonical := canonical_of_sameStore (mapStream_sameStore _ _)
@[simp] theorem advance_canonical : s.advance.canonical ↔ s.canonical := canonical_of_sameStore (advance_sameStore _)
@[simp] theorem unpoison_canonical (pas) : (s.unpoison pas).canonical ↔ s.canonical := canonical_congr rfl rfl
@[simp] theorem dropVersion_canonical (u) : (s.dropVersion u).canonical ↔ s.canonical := canonical_congr rfl rfl
@[simp] theorem dropSnaps_canonical (pas) : (s.dropSnaps pas).canonical ↔ s.canonical := canonical_congr rfl rfl
@[simp] theorem fire_canonical (ok pas) : (s.fire ok pas).canonical ↔ s.canonical := canonical_congr rfl rfl

/-! Writes to global memory (R369 to R371, R387), and cells of the weight tier -/

theorem claim_canonical (wf : s.canonical) (key pa) : (s.claim key pa).canonical := by
  refine canonical_iff.2 ⟨claim_wf key pa wf.1, ?_⟩
  unfold State.claim
  split
  · exact wf.2
  · exact wf.2
theorem writeSys_canonical (wf : s.canonical) (key pa b) : (s.writeSys key pa b).canonical :=
  ⟨writeSys_wf key pa b wf.1, (claim_canonical wf key pa).2⟩
theorem writeAt_canonical (wf : s.canonical) (u scope key pa b) : (s.writeAt u scope key pa b).canonical := by
  unfold State.writeAt
  split
  · exact writeSys_canonical wf key pa b
  · exact claim_canonical wf key pa
theorem writeList_canonical (wf : s.canonical) (u scope key) (l : List (Nat × Byte)) : (s.writeList u scope key l).canonical := by
  induction l generalizing s with
  | nil => exact wf
  | cons c l ih => exact ih (writeAt_canonical wf u scope key c.1 c.2)
@[simp] theorem land_canonical (wf : s.canonical) (u scope key l) : (s.land u scope key l).canonical :=
  writeList_canonical wf u scope key l
theorem writeSysList_canonical (wf : s.canonical) (key) (l : List (Nat × Byte)) : (s.writeSysList key l).canonical := by
  induction l generalizing s with
  | nil => exact wf
  | cons c l ih => exact ih (writeSys_canonical wf key c.1 c.2)
@[simp] theorem landSys_canonical (wf : s.canonical) (key l) : (s.landSys key l).canonical := writeSysList_canonical wf key l
@[simp] theorem widenAt_canonical (wf : s.canonical) (u S f) : (s.widenAt u S f).canonical := ⟨widenAt_wf u S f wf.1, wf.2⟩
@[simp] theorem widen_canonical (wf : s.canonical) (u S) : (s.widen u S).canonical := widenAt_canonical wf u S _
@[simp] theorem homeWrite_canonical (wf : s.canonical) (u scope pa bs) : (s.homeWrite u scope pa bs).canonical :=
  land_canonical wf u scope _ _
@[simp] theorem atomicWrite_canonical (wf : s.canonical) (u scope pa bs) : (s.atomicWrite u scope pa bs).canonical :=
  homeWrite_canonical wf u scope pa bs
@[simp] theorem engineWrite_canonical (wf : s.canonical) (u scope l) : (s.engineWrite u scope l).canonical :=
  land_canonical wf u scope _ l
@[simp] theorem markFrame_canonical (wf : s.canonical) (u fstate) : (s.markFrame u fstate).canonical := landSys_canonical wf _ _
@[simp] theorem commitList_canonical (wf : s.canonical) (u S key) (l : List SWrite) : (s.commitList u S key l).canonical := by
  induction l generalizing s with
  | nil => exact wf
  | cons c l ih => exact ih (writeAt_canonical wf u _ key c.pa c.byte)
/-- A commit changes memory by the writes of its version and by those that it widens alone (R373, R387). -/
theorem commit_canonical (wf : s.canonical) {u S} (e : s.commit u S = .ok t) : t.canonical := by
  unfold State.commit at e
  split at e
  · cases e
  · injection e with e
    subst e
    simp [wf]
@[simp] theorem putCells_canonical (wf : s.canonical) (l) : (s.putCells l).canonical := ⟨wf.1, putCells_wf l wf.2⟩

/-! Traps (R440 to R447) -/

@[simp] theorem raiseAt_canonical (u fl) : (s.raiseAt u fl).canonical ↔ s.canonical := canonical_congr rfl rfl
@[simp] theorem noteReads_canonical (u pa n) : (s.noteReads u pa n).canonical ↔ s.canonical :=
  canonical_of_sameStore (noteReads_sameStore _ _ _ _)
@[simp] theorem freeze_canonical (u) : (s.freeze u).canonical ↔ s.canonical := canonical_congr rfl rfl
@[simp] theorem abandon_canonical (u ok) : (s.abandon u ok).canonical ↔ s.canonical := canonical_congr rfl rfl
@[simp] theorem failUnit_canonical (u j pc cause info) : (s.failUnit u j pc cause info).canonical ↔ s.canonical :=
  canonical_of_sameStore (failUnit_sameStore _ _ _ _ _ _)
@[simp] theorem stopUnit_canonical (u cause info) : (s.stopUnit u cause info).canonical ↔ s.canonical :=
  canonical_of_sameStore (stopUnit_sameStore _ _ _ _)
@[simp] theorem putBack_canonical : s.putBack.canonical ↔ s.canonical :=
  canonical_of_sameStore (putBack_sameStore _)
@[simp] theorem enterHandler_canonical (u j cause info) : (s.enterHandler u j cause info).canonical ↔ s.canonical :=
  canonical_of_sameStore (enterHandler_sameStore _ _ _ _ _)
@[simp] theorem event_canonical (u e j t) : (s.event u e j t).canonical ↔ s.canonical :=
  canonical_of_sameStore (event_sameStore _ _ _ _ _)
@[simp] theorem takeTrap_canonical (t) : (s.takeTrap t).canonical ↔ s.canonical :=
  canonical_of_sameStore (takeTrap_sameStore _ _)
@[simp] theorem raiseTrap_canonical (t) : (s.raiseTrap t).canonical ↔ s.canonical :=
  canonical_of_sameStore (raiseTrap_sameStore _ _)

/-! Operands (R118, R190, R220) -/

theorem writeSreg_canonical (wf : s.canonical) {n v} (e : s.writeSreg n v = some t) : t.canonical := by
  unfold State.writeSreg at e
  dsimp only at e
  split at e <;> (repeat' split at e) <;> cases e <;> simp [wf]
@[simp] theorem spPut_canonical (u a b) : (s.spPut u a b).canonical ↔ s.canonical := by simp [State.spPut]
@[simp] theorem spPuts_canonical (u a) (bs : List Byte) : (s.spPuts u a bs).canonical ↔ s.canonical := by
  induction bs generalizing s a with
  | nil => rfl
  | cons b bs ih => exact (ih (a + 1)).trans (spPut_canonical u a b)
@[simp] theorem stsByte_canonical (u j a b) : (s.stsByte u j a b).canonical ↔ s.canonical := by
  unfold State.stsByte
  dsimp only
  (repeat' split) <;> simp
@[simp] theorem stsBytes_canonical (u j a) (bs : List Byte) : (s.stsBytes u j a bs).canonical ↔ s.canonical := by
  induction bs generalizing s a with
  | nil => rfl
  | cons b bs ih => exact (ih (a + 1)).trans (stsByte_canonical u j a b)
@[simp] theorem keepLate_canonical (u l) : (s.keepLate u l).canonical ↔ s.canonical := by
  unfold State.keepLate
  split <;> simp
@[simp] theorem touch_canonical (u agent wr a n) : (s.touch u agent wr a n).canonical ↔ s.canonical :=
  canonical_of_sameStore (touch_sameStore _ _ _ _ _ _)
theorem lookTiles_canonical (wf : s.canonical) {u tn acc fs r} {ks : List (Bool × Nat)} (e : s.lookTiles u tn acc ks fs = .ok r) :
    r.1.canonical := by
  obtain ⟨l, he⟩ := lookTiles_ok e
  simp [he, wf]
/-- A load in an aperture forms its tile of what is looked up (R230). -/
theorem aperLoad_canonical (wf : s.canonical) {u ea size k x r} (e : s.aperLoad u ea size k x = .ok r) : r.1.canonical := by
  unfold State.aperLoad at e
  dsimp only at e
  split at e
  · cases e
    exact wf
  · split at e
    · cases e
    · next s1 fs looked =>
      cases e
      exact lookTiles_canonical wf looked

/-! Fetching (R112, R123) -/

@[simp] theorem mapSel_canonical (sel f) : (s.mapSel sel f).canonical ↔ s.canonical := by
  unfold State.mapSel
  split <;> simp
theorem fillUnit_canonical (sel va m) : (s.fillUnit sel va m).1.canonical ↔ s.canonical := by
  unfold State.fillUnit
  split
  · rfl
  · exact noteReads_canonical _ _ _
theorem fillUnits_canonical (sel m) (vas : List Nat) : (s.fillUnits sel m vas).1.canonical ↔ s.canonical := by
  induction vas generalizing s m with
  | nil => rfl
  | cons va vas ih => exact (ih _).trans (fillUnit_canonical sel va m)
@[simp] theorem fillLoop_canonical (sel) : (s.fillLoop sel).canonical ↔ s.canonical := by
  unfold State.fillLoop
  dsimp only
  split
  · simp
  · split
    · rfl
    · exact (mapSel_canonical sel _).trans (fillUnits_canonical sel _ _)
@[simp] theorem noteFetch_canonical (u n pa) : (s.noteFetch u n pa).canonical ↔ s.canonical := by
  unfold State.noteFetch
  split <;> simp

/-! Words that write a register, move on or park (R118, R161, R165, R415) -/

theorem leaves_canonical (wf : s.canonical) {o : Out} (ho : o.canonical) : (leaves s o).canonical := by
  unfold leaves
  split
  · exact ho
  · exact wf
@[simp] theorem result_canonical (d f) : (s.result d f).canonical ↔ s.canonical :=
  canonical_of_sameStore (result_sameStore _ _ _)
@[simp] theorem resultP_canonical (p f) : (s.resultP p f).canonical ↔ s.canonical := by simp [State.resultP]
@[simp] theorem fpResult_canonical (d r) : (s.fpResult d r).canonical ↔ s.canonical :=
  result_canonical d _
@[simp] theorem jumpTo_canonical (wf : s.canonical) (a) : (s.jumpTo a).canonical := by simp [State.jumpTo, wf]
@[simp] theorem enterLoop_canonical (wf : s.canonical) (x l len n) : (s.enterLoop x l len n).canonical := by
  unfold State.enterLoop
  split <;> simp [wf]
@[simp] theorem turnOff_canonical (u j v st) : (s.turnOff u j v st).canonical ↔ s.canonical :=
  canonical_of_sameStore (turnOff_sameStore _ _ _ _ _)
@[simp] theorem allParked_canonical (wf : s.canonical) (u j) : (s.allParked u j).canonical := by
  unfold State.allParked
  refine (raiseTrap_canonical _).2 (foldl_canonical (fun t k wf => ?_) wf _)
  split <;> simp [wf]
@[simp] theorem storeBytes_canonical (u j pa bs) : (s.storeBytes u j pa bs).canonical ↔ s.canonical :=
  canonical_of_sameStore (storeBytes_sameStore _ _ _ _ _)
@[simp] theorem setBusy_canonical (d) : (s.setBusy d).canonical ↔ s.canonical :=
  canonical_of_sameStore (setBusy_sameStore _ _)

end

end Sys2Proof.Machine
end

section
/-! PROOFS. Work, synchronisation and submission keep the stores canonical (O58). -/
namespace Sys2Proof.Machine
open Sys2Proof

section
variable {s t : State}

/-! Team-scope registers: a write is seen by the cycles that begin after its own (R73, R121, R177) -/

@[simp] theorem raise_canonical (fl) : (s.raise fl).canonical ↔ s.canonical := canonical_congr rfl rfl

/-! Commands of a context (R124 to R126) -/

@[simp] theorem closeRegion_canonical (k) : (s.closeRegion k).canonical ↔ s.canonical := by
  unfold State.closeRegion
  (repeat' split) <;> simp
@[simp] theorem closeRegions_canonical : (s.closeRegions).canonical ↔ s.canonical := foldl_canonical_iff (fun t x => by simp) _ _
@[simp] theorem killAll_canonical (u) : (s.killAll u).canonical ↔ s.canonical := by simp [State.killAll]

/-! Stage queues (R27 to R30, R408) -/

@[simp] theorem setQueue_canonical (l q x) : (s.setQueue l q x).canonical ↔ s.canonical := canonical_congr rfl rfl
@[simp] theorem finishWait_canonical (u j d v) : (s.finishWait u j d v).canonical ↔ s.canonical :=
  canonical_of_sameStore (finishWait_sameStore _ _ _ _ _)
@[simp] theorem serve_canonical (l q n) : (s.serve l q n).canonical ↔ s.canonical := by
  induction n generalizing s with
  | zero => rfl
  | succ n ih =>
    unfold State.serve
    dsimp only
    (repeat' split) <;> simp [ih]
@[simp] theorem serveQueue_canonical (l q) : (s.serveQueue l q).canonical ↔ s.canonical := by simp [State.serveQueue]
@[simp] theorem closeQueue_canonical (l q) : (s.closeQueue l q).canonical ↔ s.canonical := by simp [State.closeQueue]
@[simp] theorem serveAll_canonical (l) : (s.serveAll l).canonical ↔ s.canonical := foldl_canonical_iff (fun t x => by simp) _ _

/-! Counters (R89, R90, R459) -/

@[simp] theorem noteAbove_canonical (x f) : (s.noteAbove x f).canonical ↔ s.canonical := by
  unfold State.noteAbove
  dsimp only
  split <;> simp
@[simp] theorem closeLaunch_canonical (l st) : (s.closeLaunch l st).canonical ↔ s.canonical := by simp [State.closeLaunch]
@[simp] theorem outLess_canonical (l n) : (s.outLess l n).canonical ↔ s.canonical := canonical_congr rfl rfl
@[simp] theorem outDown_canonical (l) : (s.outDown l).canonical ↔ s.canonical := by simp [State.outDown]

/-! Divisors (R8, R422, R428) -/

@[simp] theorem noteClocks_canonical (d p) : (s.noteClocks d p).canonical ↔ s.canonical := foldl_canonical_iff (fun t x => by simp) _ _
@[simp] theorem releaseUnit_canonical (wf : s.canonical) (u) : (s.releaseUnit u).canonical := by simp [State.releaseUnit, wf]
@[simp] theorem endUnit_canonical (wf : s.canonical) (u) : (s.endUnit u).canonical := by simp [State.endUnit, wf]

/-! Cancelling (R91) -/

@[simp] theorem cancelUnit_canonical (u) : (s.cancelUnit u).canonical ↔ s.canonical := by simp [State.cancelUnit]
@[simp] theorem cancelLaunch_canonical (l) : (s.cancelLaunch l).canonical ↔ s.canonical := by
  unfold State.cancelLaunch
  dsimp only
  split
  · rfl
  · split
    · simp
    · exact (foldl_canonical_iff (fun _ u => cancelUnit_canonical u) _ _).trans (setLaunch_canonical _ _)
@[simp] theorem cancelLaunches_canonical (ls : List Nat) : (ls.foldl (fun t k => t.cancelLaunch k) s).canonical ↔ s.canonical :=
  foldl_canonical_iff (fun _ k => cancelLaunch_canonical k) _ _
@[simp] theorem settleJob_canonical (job now) : (s.settleJob job now).canonical ↔ s.canonical := by
  unfold State.settleJob
  split <;> simp
@[simp] theorem settlePhase_canonical (job ph now) : (s.settlePhase job ph now).canonical ↔ s.canonical := by
  unfold State.settlePhase
  dsimp only
  (repeat' split) <;> simp
@[simp] theorem settleGraph_canonical (job g now) : (s.settleGraph job g now).canonical ↔ s.canonical := by
  unfold State.settleGraph
  dsimp only
  (repeat' split) <;> simp
@[simp] theorem reportLaunch_canonical (l) : (s.reportLaunch l).canonical ↔ s.canonical := by
  unfold State.reportLaunch
  dsimp only
  (repeat' split) <;> simp
@[simp] theorem cancelGraph_canonical (job g now) : (s.cancelGraph job g now).canonical ↔ s.canonical := by
  unfold State.cancelGraph
  dsimp only
  (repeat' split) <;> simp
@[simp] theorem cancelPhase_canonical (job ph now) : (s.cancelPhase job ph now).canonical ↔ s.canonical := by
  unfold State.cancelPhase
  dsimp only
  (repeat' split)
  · rfl
  · rfl
  · simp [foldl_canonical_iff]
@[simp] theorem cancelJob_canonical (job now) : (s.cancelJob job now).canonical ↔ s.canonical := by
  unfold State.cancelJob
  dsimp only
  (repeat' split)
  · rfl
  · rfl
  · simp [foldl_canonical_iff]
@[simp] theorem cancelLevel_canonical (job level id now) : (s.cancelLevel job level id now).canonical ↔ s.canonical := by
  unfold State.cancelLevel
  split <;> simp

/-! Synchronisation, power and system instructions (16) -/

@[simp] theorem setMe_canonical (v) : (s.setMe v).canonical ↔ s.canonical := canonical_congr rfl rfl
@[simp] theorem waitOn_canonical (w) : (s.waitOn w).canonical ↔ s.canonical := by
  unfold State.waitOn
  split <;> simp
@[simp] theorem waitAt_canonical (va) : (s.waitAt va).canonical ↔ s.canonical := canonical_congr rfl rfl
@[simp] theorem stallOn_canonical (a) : (s.stallOn a).canonical ↔ s.canonical := canonical_congr rfl rfl

/-! Span boundaries (R225, R372, R395) -/

@[simp] theorem report_canonical (t) : (s.report t).canonical ↔ s.canonical := by simp [State.report]
@[simp] theorem stopMove_canonical (u) : (s.stopMove u).canonical ↔ s.canonical := by
  unfold State.stopMove
  split <;> simp
theorem closeSpan_canonical (wf : s.canonical) {S} (e : s.closeSpan S = .ok t) : t.canonical := commit_canonical wf e
@[simp] theorem boundary_canonical (wf : s.canonical) (S) : (s.boundary S).canonical := by
  unfold State.boundary
  split
  · simp [wf]
  · next t closed => simp [closeSpan_canonical wf closed]

/-! Barriers (R398 to R401) -/

@[simp] theorem putBarrier_canonical (wf : s.canonical) (u scope pa b) : (s.putBarrier u scope pa b).canonical := by
  simp [State.putBarrier, wf]
@[simp] theorem noteRelease_canonical (u pa) : (s.noteRelease u pa).canonical ↔ s.canonical := canonical_congr rfl rfl
@[simp] theorem releaseAll_canonical (wf : s.canonical) (pa S) : (s.releaseAll pa S).canonical :=
  foldl_canonical (fun t u wf => widenAt_canonical wf u S _) (by simp [wf]) _
@[simp] theorem dropProgress_canonical (pa) : (s.dropProgress pa).canonical ↔ s.canonical := canonical_congr rfl rfl

/-! Semaphores (R404 to R406) -/

@[simp] theorem putSem_canonical (wf : s.canonical) (u scope pa v) : (s.putSem u scope pa v).canonical := by simp [State.putSem, wf]
@[simp] theorem grantSem_canonical (wf : s.canonical) (pa n) : (s.grantSem pa n).canonical := by
  induction n generalizing s with
  | zero => exact wf
  | succ n ih =>
    unfold State.grantSem
    (repeat' split) <;> simp [wf, ih]
@[simp] theorem grantAll_canonical (wf : s.canonical) (pa) : (s.grantAll pa).canonical := by simp [State.grantAll, wf]

/-! Stage queues (R407, R408) -/

@[simp] theorem push_canonical (wf : s.canonical) (try_ d a b) : (s.push try_ d a b).canonical := by
  unfold State.push
  split <;> simp [wf]
@[simp] theorem pop_canonical (wf : s.canonical) (try_ d a b) : (s.pop try_ d a b).canonical := by
  unfold State.pop
  dsimp only
  (repeat' split) <;> simp [wf]

/-! Engines (R410 to R412) -/

@[simp] theorem startCtx_canonical (e r) : (s.startCtx e r).canonical ↔ s.canonical := by simp [State.startCtx]

/-! Work (R413 to R418) -/

@[simp] theorem stopOthers_canonical (u j) : (s.stopOthers u j).canonical ↔ s.canonical := canonical_congr rfl rfl
@[simp] theorem openStores_canonical (wf : s.canonical) (job level id) : (s.openStores job level id).canonical := by
  unfold State.openStores
  split
  · exact wf
  · exact foldl_canonical (fun t k wf => widen_canonical wf k 5) wf _

/-! Power and clocks (R420 to R422) -/

@[simp] theorem putGrant_canonical (u v) : (s.putGrant u v).canonical ↔ s.canonical := canonical_congr rfl rfl

/-! Submission (R125, R126, R222, R223) -/

@[simp] theorem putEntries_canonical (u e j i) (l : List (List Byte)) : (s.putEntries u e j i l).canonical ↔ s.canonical := by
  induction l generalizing s i with
  | nil => rfl
  | cons b l ih => exact (ih (i + 1)).trans (spPuts_canonical u _ b)
@[simp] theorem journal_canonical (wf : s.canonical) (u e j q) : (s.journal u e j q).canonical := by simp [State.journal, wf]
@[simp] theorem enqueue_canonical (wf : s.canonical) (c) : (s.enqueue c).canonical := by
  unfold State.enqueue
  split <;> simp [wf]
@[simp] theorem instant_canonical (wf : s.canonical) : (s.instant).canonical := by
  unfold State.instant
  split <;> simp [wf]

/-! Readiness and arbitration (R104, R105) -/

@[simp] theorem refresh_canonical (d p late) : (s.refresh d p late).canonical ↔ s.canonical :=
  canonical_of_sameStore (refresh_sameStore _ _ _ _)
@[simp] theorem refreshUnit_canonical (u late) : (s.refreshUnit u late).canonical ↔ s.canonical := canonical_congr rfl rfl
/-- An engine word leaves what its checks, if they pass, go on to. -/
theorem engineWord_canonical (wf : s.canonical) {e n r k} (hk : ∀ t c, r = .ok (t, c) → (k t c).canonical) :
    (s.engineWord e n r k).canonical := by
  unfold State.engineWord
  split
  · simp [wf]
  · split
    · simp [wf]
    · split
      · exact wf
      · split
        · simp [wf]
        · next t c => exact hk t c rfl
theorem decodeTime_canonical (wf : s.canonical) {e r} (hr : ∀ t, r = .ok t → t.canonical) : (s.decodeTime e r).canonical := by
  unfold State.decodeTime
  split
  · simp [wf]
  · split
    · simp [wf]
    · split
      · exact wf
      · split
        · simp [wf]
        · next t => simp [hr t rfl]
@[simp] theorem submit_canonical (wf : s.canonical) (c) : (s.submit c).canonical := by simp [State.submit, wf]
@[simp] theorem choose_canonical (d p e) : (s.choose d p e).canonical ↔ s.canonical := canonical_congr rfl rfl
@[simp] theorem toFlight_canonical (u e j q) : (s.toFlight u e j q).canonical ↔ s.canonical := canonical_congr rfl rfl
@[simp] theorem completeCmd_canonical (u e j q) : (s.completeCmd u e j q).canonical ↔ s.canonical := canonical_congr rfl rfl
@[simp] theorem touchCmd_canonical (u agent q) : (s.touchCmd u agent q).canonical ↔ s.canonical := by
  unfold State.touchCmd
  split <;> simp
@[simp] theorem failCmd_canonical (u e j t) : (s.failCmd u e j t).canonical ↔ s.canonical := by simp [State.failCmd]

/-! Accumulator slots (R98, R120, R224) -/

@[simp] theorem putAcc_canonical (l : List (Nat × BitVec 32)) : (s.putAcc l).canonical ↔ s.canonical := by
  induction l generalizing s with
  | nil => rfl
  | cons c l ih => exact ih.trans (canonical_congr rfl rfl)
@[simp] theorem setLan_canonical (slot u j q) : (s.setLan slot u j q).canonical ↔ s.canonical := canonical_congr rfl rfl

/-! Completion objects (R299, R365, R398, R455) -/

@[simp] theorem noteApplied_canonical (ctx pa cn) : (s.noteApplied ctx pa cn).canonical ↔ s.canonical := canonical_congr rfl rfl
@[simp] theorem countObject_canonical (wf : s.canonical) (u scope pa) : (s.countObject u scope pa).canonical := by
  simp [State.countObject, wf]

/-! Draw levels (R419) -/

@[simp] theorem submitDrawn_canonical (wf : s.canonical) (wt : t.canonical) (c) : (s.submitDrawn t c).canonical := by
  unfold State.submitDrawn
  dsimp only
  (repeat' split) <;> simp [wf, wt]
/-- A word whose checks leave canonical stores enters its queue, or is turned away, with such stores (R125, R419). -/
theorem engineWord_submit_canonical (wf : s.canonical) {e n r} (hr : ∀ x, r = .ok x → x.1.canonical) :
    (s.engineWord e n r State.submit).canonical :=
  engineWord_canonical wf fun t c checked => submit_canonical (hr (t, c) checked) c
theorem engineWord_submitDrawn_canonical (wf : s.canonical) {e n r} (hr : ∀ x, r = .ok x → x.1.canonical) :
    (s.engineWord e n r s.submitDrawn).canonical :=
  engineWord_canonical wf fun t c checked => submitDrawn_canonical wf (hr (t, c) checked) c

/-! Operands (R275 to R279) -/

theorem checkA_canonical (wf : s.canonical) {u a code sm m cs o} (e : s.checkA u a code sm m cs = .ok o) : o.state.canonical := by
  obtain ⟨l, he⟩ := checkA_ok e
  simp [he, wf]

/-! MMA and MMAG (R284 to R286) -/

theorem prepMma_canonical (wf : s.canonical) {i z a w acc d m t' c f r} (e : s.prepMma i z a w acc d m t' c f = .ok r) : r.1.canonical := by
  obtain ⟨⟨l, he⟩, -⟩ := prepMma_hasPrepared e
  simp [he, wf]
theorem prepMmag_canonical (wf : s.canonical) {i z a w acc t' f r} (e : s.prepMmag i z a w acc t' f = .ok r) : r.1.canonical := by
  obtain ⟨⟨l, he⟩, -⟩ := prepMmag_hasPrepared e
  simp [he, wf]

/-! Format table and selector (R287, R288) -/

@[simp] theorem putFormat_canonical (ix v) : (s.putFormat ix v).canonical ↔ s.canonical := canonical_congr rfl rfl
@[simp] theorem putScale_canonical (ix v) : (s.putScale ix v).canonical ↔ s.canonical := canonical_congr rfl rfl

/-! Accumulator moves (R289 to R292) -/

theorem prepRows_canonical (wf : s.canonical) {i regs claims f r} (e : s.prepRows i regs claims f = .ok r) : r.1.canonical := by
  obtain ⟨-, -, e⟩ := bind_ok e
  cases e
  exact wf

/-! Prefetch and unpin (R293, R294) -/

theorem prepPref_canonical (wf : s.canonical) {i a r} (e : s.prepPref i a = .ok r) : r.1.canonical := by
  obtain ⟨-, -, e⟩ := bind_ok e
  obtain ⟨op, checked, e⟩ := bind_ok e
  cases e
  exact checkA_canonical wf checked

/-! Merge control (R297) -/

@[simp] theorem closeGroups_canonical (d p f) : (s.closeGroups d p f).canonical ↔ s.canonical :=
  canonical_of_sameContents (closeGroups_sameContents _ _ _ _)

end

end Sys2Proof.Machine
end

section
/-! PROOFS. The engines at work keep the stores canonical (O58). -/
namespace Sys2Proof.Machine
open Sys2Proof

section
variable {s t : State}

/-! Beats (R231, R232, R240, R242, R253) -/

@[simp] theorem cacheRow_canonical (row) : (s.cacheRow row).1.canonical ↔ s.canonical := by
  unfold State.cacheRow
  dsimp only
  split <;> simp
@[simp] theorem issueBeat_canonical (d p x) : (s.issueBeat d p x).canonical ↔ s.canonical := by
  unfold State.issueBeat
  split
  · rfl
  · exact (setCore_canonical _ _ _).trans (cacheRow_canonical _)
@[simp] theorem issueBeats_canonical (d p) : (s.issueBeats d p).canonical ↔ s.canonical := by
  simp [State.issueBeats, foldl_canonical_iff]
@[simp] theorem enter_canonical (D memb starts m) : (s.enter D memb starts m).canonical ↔ s.canonical := canonical_congr rfl rfl
@[simp] theorem enterAll_canonical (D memb starts) (l : List (Nat × Nat × Cmd)) : (s.enterAll D memb starts l).canonical ↔ s.canonical := by
  induction l generalizing s with
  | nil => rfl
  | cons c l ih => exact ih.trans (enter_canonical D memb starts c)
@[simp] theorem burst_canonical (u) : (s.burst u).canonical ↔ s.canonical := by
  unfold State.burst
  dsimp only
  split <;> simp
@[simp] theorem runArray_canonical (d p D memb rs ms declared) : (s.runArray d p D memb rs ms declared).canonical ↔ s.canonical := by
  unfold State.runArray
  (repeat' split) <;> simp
@[simp] theorem missCmd_canonical (u j code q) : (s.missCmd u j code q).canonical ↔ s.canonical := by simp [State.missCmd]

/-! The group table of MMAG (R286) -/

@[simp] theorem readTable_canonical (u j q) : (s.readTable u j q).canonical ↔ s.canonical := by
  unfold State.readTable
  dsimp only
  (repeat' split) <;> simp

/-! The merge buffer (R269 to R272) -/

@[simp] theorem closeFull_canonical (d p u q) : (s.closeFull d p u q).canonical ↔ s.canonical := by
  unfold State.closeFull
  split <;> simp
theorem join_canonical {d p u j q h} (e : s.join d p u j q h = some t) : t.canonical ↔ s.canonical := by
  unfold State.join at e
  dsimp only at e
  (repeat' split at e) <;> cases e <;> simp

/-! Consorts (R266 to R268) -/

@[simp] theorem breakConsort_canonical (u q) : (s.breakConsort u q).canonical ↔ s.canonical := foldl_canonical_iff (fun t x => by simp) _ _
@[simp] theorem closeByPrio_canonical (d p) : (s.closeByPrio d p).canonical ↔ s.canonical := canonical_congr rfl rfl
@[simp] theorem runConsort_canonical (D a) (l : List (Nat × Nat × Cmd)) : (s.runConsort D a l).canonical ↔ s.canonical := by
  induction l generalizing s with
  | nil => rfl
  | cons c l ih => exact ih.trans (by simp)

/-! Issue (R104, R302) -/

@[simp] theorem runAlone_canonical (d p u j q) : (s.runAlone d p u j q).canonical ↔ s.canonical := by simp [State.runAlone]
@[simp] theorem runPort_canonical (d p u j q) : (s.runPort d p u j q).canonical ↔ s.canonical := by simp [State.runPort]
@[simp] theorem runPick_canonical (d p x) : (s.runPick d p x).canonical ↔ s.canonical := by
  unfold State.runPick
  split <;> simp
@[simp] theorem matrixIssue_canonical (d p) : (s.matrixIssue d p).canonical ↔ s.canonical := by
  unfold State.matrixIssue
  extract_lets t hs
  have closed : t.canonical ↔ s.canonical :=
    (foldl_canonical_iff (fun t h => by split <;> simp) _ _).trans (closeByPrio_canonical d p)
  clear_value t
  (repeat' split)
  · simp [closed]
  · simp [closed]
  · simp [closed]
  · next joined =>
    obtain ⟨h, -, joined⟩ := List.exists_of_findSome?_eq_some joined
    split at joined
    · exact (join_canonical joined).trans closed
    · cases joined
  · exact closed
  · simp [closed]
  · exact closed

/-! Completion (R256, R259 to R261, R273, R274) -/

@[simp] theorem setMstat_canonical (u j v) : (s.setMstat u j v).canonical ↔ s.canonical := canonical_congr rfl rfl
@[simp] theorem countMerged_canonical (u q) : (s.countMerged u q).canonical ↔ s.canonical := by
  unfold State.countMerged
  (repeat' split) <;> simp
@[simp] theorem landProduct_canonical (s0 u j q) : (s.landProduct s0 u j q).canonical ↔ s.canonical := by
  unfold State.landProduct
  (repeat' split) <;> simp
@[simp] theorem landRows_canonical (u j q) : (s.landRows u j q).canonical ↔ s.canonical := by
  unfold State.landRows
  (repeat' split) <;> simp
@[simp] theorem landDrain_canonical (u j q) : (s.landDrain u j q).canonical ↔ s.canonical := by
  unfold State.landDrain
  dsimp only
  (repeat' split) <;> simp [foldl_canonical_iff]
@[simp] theorem landMtrq_canonical (u j q) : (s.landMtrq u j q).canonical ↔ s.canonical := by
  unfold State.landMtrq
  dsimp only
  (repeat' split) <;> simp [foldl_canonical_iff]
@[simp] theorem landMatrix_canonical (wf : s.canonical) (s0 u j q) : (s.landMatrix s0 u j q).canonical := by
  unfold State.landMatrix
  (repeat' split) <;> simp [wf]
@[simp] theorem matrixDone_canonical (wf : s.canonical) (s0 u j q) : (s.matrixDone s0 u j q).canonical := by simp [State.matrixDone, wf]
@[simp] theorem finishTogether_canonical (wf : s.canonical) (s0) (l : List (Nat × Nat × Cmd)) : (s.finishTogether s0 l).canonical := by
  induction l generalizing s with
  | nil => exact wf
  | cons c l ih => exact ih (matrixDone_canonical wf s0 c.1 c.2.1 c.2.2)

/-! Global hold (R240, R241) -/

@[simp] theorem holdCore_canonical (d p n) : (s.holdCore d p n).canonical ↔ s.canonical := canonical_congr rfl rfl
@[simp] theorem hold_canonical (d p n) : (s.hold d p n).canonical ↔ s.canonical := foldl_canonical_iff (fun t x => by simp) _ _
@[simp] theorem holdDue_canonical (d p) : (s.holdDue d p).canonical ↔ s.canonical := by simp [State.holdDue]
@[simp] theorem setDue_canonical (d p x y) : (s.setDue d p x y).canonical ↔ s.canonical := canonical_congr rfl rfl

/-! A matrix cycle of a core (R240, R258, R259, R263) -/

@[simp] theorem dropMembers_canonical (va) (l : List (Nat × Nat × Cmd)) : (s.dropMembers va l).canonical ↔ s.canonical := by
  induction l generalizing s with
  | nil => rfl
  | cons c l ih => exact ih.trans (by simp)
@[simp] theorem readStep_canonical (u j q g) : (s.readStep u j q g).canonical ↔ s.canonical := by
  unfold State.readStep
  dsimp only
  split <;> simp
@[simp] theorem pauseOn_canonical (d p enter) : (s.pauseOn d p enter).canonical ↔ s.canonical := canonical_congr rfl rfl
@[simp] theorem pause_canonical (u j q) : (s.pause u j q).canonical ↔ s.canonical := by
  unfold State.pause
  split <;> simp [foldl_canonical_iff]
@[simp] theorem tfu_canonical (wf : s.canonical) (d p m) : (s.tfu d p m).canonical := by
  unfold State.tfu
  split <;> simp [wf]
@[simp] theorem matrixCycle_canonical (wf : s.canonical) (d p) : (s.matrixCycle d p).canonical := by
  unfold State.matrixCycle
  dsimp only
  split
  · simp [wf]
  · exact (issueBeats_canonical d p).2 (foldl_canonical (fun t m wf => tfu_canonical wf d p m) (by simp [wf]) _)

/-! Shape, tile registers, masks (R119, R303 to R306) -/

@[simp] theorem putTile_canonical (u r k) (l : List Byte) : (s.putTile u r k l).canonical ↔ s.canonical := by
  induction l generalizing s k with
  | nil => rfl
  | cons b l ih => exact (ih (k + 1)).trans (canonical_congr rfl rfl)
@[simp] theorem putElem_canonical (u r sz e v) : (s.putElem u r sz e v).canonical ↔ s.canonical := by simp [State.putElem]
@[simp] theorem putMask_canonical (u m v) : (s.putMask u m v).canonical ↔ s.canonical := canonical_congr rfl rfl
@[simp] theorem mapElems_canonical (u d sz n act z f) : (s.mapElems u d sz n act z f).canonical ↔ s.canonical := by
  unfold State.mapElems
  exact foldl_canonical_iff (fun t k => by simp) _ _

/-! Submission (R307, R308, R315) -/

/-- A vector word leaves stores that its operand leaves (R315). -/
theorem vectorWord_canonical (wf : s.canonical) {i f fields size shape ents op} (h : ∀ o, op = .ok o → o.state.canonical) :
    (s.vectorWord i f fields size shape ents op).canonical := by
  refine engineWord_canonical wf fun t c e => ?_
  obtain ⟨-, -, e⟩ := bind_ok e
  obtain ⟨-, -, e⟩ := bind_ok e
  obtain ⟨o, he, e⟩ := bind_ok e
  cases e
  exact submit_canonical (h o he) _
/-- One that names no operand outside its registers leaves its own state. -/
theorem vectorWord_self (wf : s.canonical) (i f fields size shape ents cl) :
    (s.vectorWord i f fields size shape ents (.ok { state := s, claims := cl })).canonical :=
  vectorWord_canonical wf fun o e => by
    cases e
    exact wf
theorem tileWord_canonical (wf : s.canonical) (i f size shape) : (s.tileWord i f size shape).canonical :=
  vectorWord_self wf i f true size shape [] []

/-! Loads and stores (R317 to R319) -/

theorem checkTile_canonical (wf : s.canonical) {v store o} (e : s.checkTile v store = .ok o) : o.state.canonical := by
  unfold State.checkTile at e
  dsimp only at e
  split at e
  · split at e
    · cases e
    · split at e
      · cases e
      · obtain ⟨-, -, e⟩ := bind_ok e
        obtain ⟨r, looked, e⟩ := bind_ok e
        cases e
        exact lookTiles_canonical wf looked
  · obtain ⟨-, -, e⟩ := bind_ok e
    cases e
    exact wf

/-! Accumulator access (R336) -/

theorem checkWin_canonical (wf : s.canonical) {z v rd wr o} (e : s.checkWin z v rd wr = .ok o) : o.state.canonical := by
  obtain ⟨-, -, e⟩ := bind_ok e
  cases e
  exact wf

/-! Completion (R309, R318 to R336) -/

@[simp] theorem readLine_canonical (u j q ls) : (s.readLine u j q ls).canonical ↔ s.canonical := by simp [State.readLine]
@[simp] theorem touchFirst_canonical (u wr size as) : (s.touchFirst u wr size as).canonical ↔ s.canonical := by
  unfold State.touchFirst
  split <;> simp
theorem landVld_canonical {u q d m z e} (h : s.landVld u q d m z e = .ok t) : t.canonical ↔ s.canonical := by
  unfold State.landVld at h
  dsimp only at h
  (repeat' split at h) <;> cases h <;> simp
@[simp] theorem landLine_canonical (wf : s.canonical) (u j q ls) : (s.landLine u j q ls).canonical := by
  unfold State.landLine
  split <;> simp [wf]
@[simp] theorem landVst_canonical (u q r m e) : (s.landVst u q r m e).canonical ↔ s.canonical := by
  unfold State.landVst
  dsimp only
  split <;> simp [foldl_canonical_iff]
theorem landVldg_canonical {u q d b m z e} (h : s.landVldg u q d b m z e = .ok t) : t.canonical ↔ s.canonical := by
  obtain ⟨l, -, h⟩ := bind_ok h
  cases h
  simp
theorem landVstg_canonical {u q r b m e} (h : s.landVstg u q r b m e = .ok t) : t.canonical ↔ s.canonical := by
  obtain ⟨l, -, h⟩ := bind_ok h
  cases h
  simp [foldl_canonical_iff]
@[simp] theorem landCmp_canonical (u n d m e f) : (s.landCmp u n d m e f).canonical ↔ s.canonical := canonical_congr rfl rfl
@[simp] theorem landRed_canonical (u h d a x o act) : (s.landRed u h d a x o act).canonical ↔ s.canonical :=
  foldl_canonical_iff (fun t x => by simp) _ _
@[simp] theorem landScan_canonical (u h d a x y o m) : (s.landScan u h d a x y o m).canonical ↔ s.canonical := by simp [State.landScan]
@[simp] theorem landQnt_canonical (u q d a b) : (s.landQnt u q d a b).canonical ↔ s.canonical := by simp [State.landQnt]
@[simp] theorem landDqn_canonical (u q d a b) : (s.landDqn u q d a b).canonical ↔ s.canonical := by simp [State.landDqn]
@[simp] theorem landCvt_canonical (u q d a m z e) : (s.landCvt u q d a m z e).canonical ↔ s.canonical := by simp [State.landCvt]
@[simp] theorem landAcr_canonical (u q d z) : (s.landAcr u q d z).canonical ↔ s.canonical := by simp [State.landAcr]
@[simp] theorem landAcw_canonical (u q r z m i n e) : (s.landAcw u q r z m i n e).canonical ↔ s.canonical := by simp [State.landAcw]
theorem landVector_canonical {u q} (h : s.landVector u q = .ok t) : t.canonical ↔ s.canonical := by
  unfold State.landVector at h
  dsimp only at h
  split at h
  case h_1 => exact landVld_canonical h
  case h_3 => exact landVldg_canonical h
  case h_4 => exact landVstg_canonical h
  all_goals
    injection h with h
    simp [← h]
@[simp] theorem vectorIssue_canonical (d p) : (s.vectorIssue d p).canonical ↔ s.canonical := by
  unfold State.vectorIssue
  split <;> simp
@[simp] theorem execVectorCommandComplete_canonical (wf : s.canonical) (u j) : (execVectorCommandComplete u j s).canonical := by
  unfold execVectorCommandComplete
  dsimp only
  split
  · exact wf
  · split
    · split
      · simp [wf]
      · split
        · split
          · next landed => simp [landVector_canonical landed, wf]
          · simp [wf]
        · simp [wf]
    · exact wf
theorem checked_eq {o p : CopyOp} {u fs y} (e : o.checked u fs y = .ok p) : p = o := by
  unfold CopyOp.checked at e
  split at e
  · cases e
  · obtain ⟨-, -, e⟩ := bind_ok e
    dsimp only at e
    split at e
    · cases e
    · exact (Except.ok.inj e).symm

/-! Operands as checked at submission (R222, R343) -/

/-- A copy word leaves the stores that its operands leave (R343). -/
theorem copyWord_canonical (wf : s.canonical) {op : CopyOp} (h : op.state.canonical) (i d r k ok) :
    (s.copyWord i d r k ok op).canonical := by
  refine engineWord_canonical wf fun s1 c e => ?_
  obtain ⟨-, -, e⟩ := bind_ok e
  obtain ⟨o, checked, made⟩ := bind_ok e
  obtain rfl := checked_eq checked
  obtain ⟨rfl, -⟩ := Prod.mk.inj (Except.ok.inj made)
  have entered := submit_canonical h c
  dsimp only
  split
  · next submitted _ =>
    rw [submitted] at entered
    split
    · exact entered
    · simpa using entered
  · exact entered
theorem location_canonical (wr w stride len n) : (s.location wr w stride len n).state.canonical ↔ s.canonical := by
  unfold State.location
  dsimp only
  split <;> rfl

/-! Linear, 2-D and tensor copies (R350 to R353) -/

theorem linear_canonical (r ss ds len n) : (s.linear r ss ds len n).state.canonical ↔ s.canonical := location_canonical _ _ _ _ _
theorem tensorTiles_canonical (wf : s.canonical) (tn x wr copy rs) : (s.tensorTiles tn x wr copy rs).state.canonical := by
  unfold State.tensorTiles
  dsimp only
  split
  · exact wf
  · split
    · exact wf
    · next looked => exact lookTiles_canonical wf looked
theorem onTensor_canonical (wf : s.canonical) (tn) {f : Tensor → CopyOp} (hf : ∀ x, (f x).state.canonical) :
    (s.onTensor tn f).state.canonical := by
  unfold State.onTensor
  split
  · exact hf _
  · exact wf
theorem cpytOp_canonical (wf : s.canonical) (r) : (s.cpytOp r).state.canonical :=
  onTensor_canonical wf _ fun x => by
    dsimp only
    split
    · exact wf
    · exact tensorTiles_canonical wf _ _ _ _ _
theorem gatherOp_canonical (wf : s.canonical) (r scatter) : (s.gatherOp r scatter).state.canonical :=
  onTensor_canonical wf _ fun x => by
    dsimp only
    split
    · exact wf
    · exact tensorTiles_canonical wf _ _ _ _ _

/-! Shadowed tensors (R355, R356) -/

theorem cpysOp_canonical (wf : s.canonical) (tn) : (s.cpysOp tn).state.canonical :=
  onTensor_canonical wf _ fun _ => tensorTiles_canonical (tensorTiles_canonical wf _ _ _ _ _) _ _ _ _ _
theorem pubOp_canonical (wf : s.canonical) (tn) : (s.pubOp tn).state.canonical := onTensor_canonical wf _ fun _ => wf

/-! Weight commands (R357 to R359) -/

theorem wdigOp_canonical (wf : s.canonical) (r) : (s.wdigOp r).state.canonical := by
  unfold State.wdigOp
  dsimp only
  (repeat' split) <;> exact wf

/-! Collectives (R360, R361, R363) -/

theorem collective_canonical (wf : s.canonical) (kind r) : (s.collective kind r).state.canonical := by
  unfold State.collective
  dsimp only
  split <;> exact wf

/-! Issue (R337, R353, R356) -/

@[simp] theorem readIndex_canonical (u j q) : (s.readIndex u j q).canonical ↔ s.canonical := by
  unfold State.readIndex
  dsimp only
  split <;> simp

/-! Collectives (R362) -/

@[simp] theorem setCopy_canonical (u j q) : (s.setCopy u j q).canonical ↔ s.canonical := canonical_congr rfl rfl
@[simp] theorem endFor_canonical (st) (l : List (Nat × Nat × Cmd)) : (s.endFor st l).canonical ↔ s.canonical := by
  induction l generalizing s with
  | nil => rfl
  | cons c l ih => exact ih.trans (by simp)
@[simp] theorem endColl_canonical (u j st q) : (s.endColl u j st q).canonical ↔ s.canonical := by simp [State.endColl]
@[simp] theorem abortColl_canonical (u j q) : (s.abortColl u j q).canonical ↔ s.canonical := by simp [State.abortColl]
@[simp] theorem moveColl_canonical (q ms) : (s.moveColl q ms).canonical ↔ s.canonical := foldl_canonical_iff (fun t x => by simp) _ _
@[simp] theorem formColl_canonical (u j q) : (s.formColl u j q).canonical ↔ s.canonical := by
  unfold State.formColl
  split <;> simp
@[simp] theorem takeChannel_canonical (wf : s.canonical) (d p u j q) : (s.takeChannel d p u j q).canonical := by
  unfold State.takeChannel
  dsimp only
  (repeat' split) <;> simp [wf]
@[simp] theorem copyIssue_canonical (wf : s.canonical) (d p) : (s.copyIssue d p).canonical := by
  unfold State.copyIssue
  dsimp only
  (repeat' split) <;> simp [wf]

/-! Pieces and completion (R337, R346, R347, R349, R367) -/

@[simp] theorem landed_canonical (wf : s.canonical) (u j q piece n) : (s.landed u j q piece n).canonical := by
  unfold State.landed
  dsimp only
  split
  · split
    · simp [wf]
    · refine homeWrite_canonical ?_ _ _ _ _
      split
      · exact releaseAll_canonical (by simp [wf]) _ _
      · simp [wf]
  · simp [wf]
@[simp] theorem stopPoison_canonical (u j t q) : (s.stopPoison u j t q).canonical ↔ s.canonical := by simp [State.stopPoison]
@[simp] theorem landPiece_canonical (wf : s.canonical) (u j piece q) : (s.landPiece u j piece q).canonical := by
  unfold State.landPiece
  dsimp only
  split
  · exact wf
  · split
    · simp [wf]
    · refine landed_canonical ?_ _ _ _ _ _
      split <;> simp [foldl_canonical_iff, wf]
@[simp] theorem publish_canonical (wf : s.canonical) (u scope tn) : (s.publish u scope tn).canonical := by simp [State.publish, wf]
@[simp] theorem finishCopy_canonical (wf : s.canonical) (u j q) : (s.finishCopy u j q).canonical := by
  unfold State.finishCopy
  (repeat' split) <;> simp [wf]
@[simp] theorem takeMiss_canonical (u j q) : (s.takeMiss u j q).canonical ↔ s.canonical := by simp [State.takeMiss]

/-! Remap tables (R234, R249, R251) -/

@[simp] theorem writeTable_canonical (bank) : (s.writeTable bank).canonical ↔ s.canonical := canonical_congr rfl rfl
@[simp] theorem damageRows_canonical (f) : (s.damageRows f).canonical ↔ s.canonical := canonical_congr rfl rfl
@[simp] theorem checkBank_canonical (bank) : (s.checkBank bank).canonical ↔ s.canonical := by
  unfold State.checkBank
  dsimp only
  split <;> simp
theorem remapRow_canonical {row} (e : s.remapRow row = some t) : t.canonical ↔ s.canonical := by
  unfold State.remapRow at e
  dsimp only at e
  split at e <;> cases e
  simp
@[simp] theorem programRow_canonical (row n passes) : (s.programRow row n passes).1.canonical ↔ s.canonical := by
  induction n generalizing s passes with
  | zero => rfl
  | succ n ih =>
    unfold State.programRow
    dsimp only
    split
    · rfl
    · next s1 fresh =>
      have remapped : s1.canonical ↔ s.canonical := by
        split at fresh
        · exact remapRow_canonical fresh
        · cases fresh
          rfl
      split
      · simp [remapped]
      · split
        · simp [remapped]
        · next again => simp [ih, remapRow_canonical again, remapped]
@[simp] theorem rewriteRow_canonical (die k row) : (s.rewriteRow die k row).canonical ↔ s.canonical := by
  unfold State.rewriteRow
  split <;> simp
@[simp] theorem damage_canonical (k) : (s.damage k).canonical ↔ s.canonical := by
  unfold State.damage
  split <;> simp
@[simp] theorem execVoicerRowProgram_canonical (wf : s.canonical) (u j cn row passes) :
    (execVoicerRowProgram u j cn row passes s).canonical := by
  unfold execVoicerRowProgram
  dsimp only
  (repeat' split) <;> simp [wf]

end

end Sys2Proof.Machine
end

section
/-! PROOFS. Units, power, resets, packets and the Drone keep the stores canonical (O58). -/
namespace Sys2Proof.Machine
open Sys2Proof

section
variable {s t : State}

/-! Reading the frame again (R453 step 2) -/

@[simp] theorem loadTiles_canonical (u) : (s.loadTiles u).canonical ↔ s.canonical := canonical_congr rfl rfl
@[simp] theorem loadSp_canonical (u) : (s.loadSp u).canonical ↔ s.canonical := by
  unfold State.loadSp
  dsimp only
  split <;> simp
@[simp] theorem loadSlot_canonical (u z) : (s.loadSlot u z).canonical ↔ s.canonical := by
  unfold State.loadSlot
  dsimp only
  split <;> simp
@[simp] theorem loadImages_canonical (u) : (s.loadImages u).canonical ↔ s.canonical := by
  unfold State.loadImages
  (repeat' split) <;> simp [foldl_canonical_iff]
@[simp] theorem loadFrame_canonical (u) : (s.loadFrame u).canonical ↔ s.canonical := by
  unfold State.loadFrame
  split
  · rfl
  · have context : ∀ (t : State) (e : Engine) (k : Nat) (c : Ctx),
        (if (t.ctxs.find (ckey u e k)).isSome then t.setCtx u e k c else t).canonical ↔ t.canonical := by
      intro t e k c
      split <;> simp
    simp [foldl_canonical_iff, context]

/-! Creating a unit (R23, R46, R94 to R98, R450) -/

@[simp] theorem freshStorage_canonical (p) : (s.freshStorage p).canonical ↔ s.canonical := canonical_congr rfl rfl
theorem createUnit_canonical (wf : s.canonical) {lid stg fails} (e : s.createUnit lid stg fails = some t) : t.canonical := by
  unfold State.createUnit at e
  dsimp only at e
  (repeat' split at e) <;> cases e
  simp [foldl_canonical_iff, wf]
theorem createUnits_canonical (wf : s.canonical) {lid stg n} (e : s.createUnits lid stg n = some t) : t.canonical := by
  induction n generalizing s with
  | zero =>
    cases e
    exact wf
  | succ n ih =>
    unfold State.createUnits at e
    split at e
    · next created => exact ih (createUnit_canonical wf created) e
    · cases e
theorem createStages_canonical {lid} (l : List (Stage × Nat)) (wf : s.canonical)
    (e : l.foldlM (fun t p => t.createUnits lid p.2 p.1.umin) s = some t) : t.canonical := by
  induction l generalizing s with
  | nil =>
    cases e
    exact wf
  | cons p l ih =>
    rw [List.foldlM_cons, Option.bind_eq_bind, Option.bind_eq_some_iff] at e
    obtain ⟨t1, created, e⟩ := e
    exact ih (createUnits_canonical wf created) e
theorem createAll_canonical (wf : s.canonical) {lid} (e : s.createAll lid = some t) : t.canonical := createStages_canonical _ wf e

/-! What freed resources allow (R23, R99, R102, R458) -/

@[simp] theorem failPast_canonical (lid cause unitid) : (s.failPast lid cause unitid).canonical ↔ s.canonical := by
  unfold State.failPast
  dsimp only
  split <;> simp [foldl_canonical_iff]
@[simp] theorem retryOne_canonical (wf : s.canonical) (lid r) : (s.retryOne lid r).canonical := by
  unfold State.retryOne
  dsimp only
  split
  · exact wf
  · split
    · exact wf
    · split
      · simp [wf]
      · split
        · next created => exact createUnit_canonical wf created
        · simp [wf]
@[simp] theorem tryRetries_canonical (wf : s.canonical) (lid) : (s.tryRetries lid).canonical :=
  (serveAll_canonical lid).2 (foldl_canonical (fun t r wf => retryOne_canonical wf lid r) (by simp [wf]) _)
theorem growUnit_canonical (wf : s.canonical) {lid k} (e : s.growUnit lid k = some t) : t.canonical := by
  unfold State.growUnit at e
  split at e
  · cases e
  · obtain ⟨t1, created, rfl⟩ := Option.map_eq_some_iff.1 e
    simp [createUnit_canonical wf created]
@[simp] theorem tryGrow_canonical (wf : s.canonical) (lid) : (s.tryGrow lid).canonical := by
  refine foldl_canonical (fun t k wf => ?_) wf _
  split
  · split
    · split
      · next grown => simp [growUnit_canonical wf grown]
      · exact wf
    · exact wf
  · exact wf
@[simp] theorem freed_canonical (wf : s.canonical) (d) : (s.freed d).canonical := foldl_canonical (fun t x wf => by simp [wf]) wf _

/-! Thermal migration (R108 to R111) -/

@[simp] theorem askYield_canonical (u cause D) : (s.askYield u cause D).canonical ↔ s.canonical :=
  canonical_of_sameContents (askYield_sameContents _ _ _ _)
@[simp] theorem dropYield_canonical (u cause) : (s.dropYield u cause).canonical ↔ s.canonical :=
  canonical_of_sameContents (dropYield_sameContents _ _ _)
@[simp] theorem setMig_canonical (d l m) : (s.setMig d l m).canonical ↔ s.canonical := canonical_congr rfl rfl
@[simp] theorem tryMigrate_canonical (d l) : (s.tryMigrate d l).canonical ↔ s.canonical := by
  unfold State.tryMigrate
  dsimp only
  (repeat' split) <;> simp [foldl_canonical_iff]
@[simp] theorem moveUnit_canonical (d p q t) : (s.moveUnit d p q t).canonical ↔ s.canonical := foldl_canonical_iff (fun t x => by simp) _ _
@[simp] theorem bump_canonical (d k) : (s.bump d k).canonical ↔ s.canonical := canonical_congr rfl rfl
@[simp] theorem makeReady_canonical (u) : (s.makeReady u).canonical ↔ s.canonical := canonical_of_sameContents (makeReady_sameContents _ _)
@[simp] theorem releaseMoved_canonical (us ok) : (s.releaseMoved us ok).canonical ↔ s.canonical :=
  foldl_canonical_iff (fun t x => by simp) _ _
@[simp] theorem vacated_canonical (d l) : (s.vacated d l).canonical ↔ s.canonical := by
  unfold State.vacated
  dsimp only
  (repeat' split) <;> simp [foldl_canonical_iff]
@[simp] theorem leaveZone_canonical (u) : (s.leaveZone u).canonical ↔ s.canonical := by simp [State.leaveZone]
@[simp] theorem dropAsks_canonical (d z us) : (s.dropAsks d z us).canonical ↔ s.canonical := canonical_congr rfl rfl
/-- A migration moves the records of the units that it moves, within global memory (R110). -/
@[simp] theorem moveCore_canonical (wf : s.canonical) (d l k) : (s.moveCore d l k).canonical := by
  unfold State.moveCore
  extract_lets +onlyGivenNames p q us s1 s2
  have placed : s1.canonical := by simp [s1, foldl_canonical_iff, wf]
  have moved : s2.canonical := by
    refine foldl_canonical (fun t c wf => ?_) placed _
    exact canonical_iff.2 ⟨rising_moveRange _ _ _ (canonical_iff.1 wf).1, (canonical_iff.1 wf).2⟩
  clear_value s2
  simp [foldl_canonical_iff, moved]
@[simp] theorem execMigrationMove_canonical (wf : s.canonical) (die core) : (execMigrationMove die core s).canonical := by
  unfold execMigrationMove
  dsimp only
  split
  · split
    · exact wf
    · rw [next_canonical]
      refine freed_canonical ((vacated_canonical _ _).2 ?_) die
      split <;> simp [wf]
  · exact wf
@[simp] theorem dropMove_canonical (wf : s.canonical) (d l again) : (s.dropMove d l again).canonical := by
  unfold State.dropMove
  dsimp only
  split <;> simp [foldl_canonical_iff, wf]
@[simp] theorem giveUpMove_canonical (wf : s.canonical) (d l) : (s.giveUpMove d l).canonical := by simp [State.giveUpMove, wf]
@[simp] theorem execOfflineMove_canonical (wf : s.canonical) (die core) : (execOfflineMove die core s).canonical := by
  unfold execOfflineMove
  dsimp only
  (repeat' split) <;> simp [wf]

/-! Starts (R100, R427, R453) -/

@[simp] theorem reenter_canonical (u) : (s.reenter u).canonical ↔ s.canonical := canonical_congr rfl rfl
@[simp] theorem startUnit_canonical (wf : s.canonical) (u) : (s.startUnit u).canonical := by simp [State.startUnit, wf]
@[simp] theorem wakeSwapped_canonical (u) : (s.wakeSwapped u).canonical ↔ s.canonical := by
  unfold State.wakeSwapped
  split <;> simp
@[simp] theorem wakeAll_canonical (d) : (s.wakeAll d).canonical ↔ s.canonical := foldl_canonical_iff (fun t x => by simp) _ _

/-! Samples (R101 to R103) -/

@[simp] theorem setStage_canonical (lid k g) : (s.setStage lid k g).canonical ↔ s.canonical := canonical_congr rfl rfl
@[simp] theorem grow_canonical (wf : s.canonical) (lid k) : (s.grow lid k).canonical := by
  unfold State.grow
  split
  · next grown => exact growUnit_canonical wf grown
  · (repeat' split) <;> simp [wf]
@[simp] theorem withdraw_canonical (lid u q) : (s.withdraw lid u q).canonical ↔ s.canonical := foldl_canonical_iff (fun t x => by simp) _ _

/-! Waits that end or last too long (R115, R117, R402, R403, R446) -/

@[simp] theorem deliver_canonical (u j) : (s.deliver u j).canonical ↔ s.canonical := by
  unfold State.deliver
  split <;> simp

/-! Ends (R91, R416, R436, R458) -/

@[simp] theorem execRetire_canonical (wf : s.canonical) (x) : (execRetire x s).canonical := by
  unfold execRetire
  dsimp only
  split
  · simp [wf]
  · generalize asks : (if ((s.unit s.selUnit).retireAt.isSome : Prop) then s else _) = s0
    have asked : s0.canonical := by
      rw [← asks]
      split <;> simp [wf]
    split
    · simp [wf]
    · split
      · simp [asked]
      · split
        · split
          · simp [wf]
          · next closed => simp [closeSpan_canonical ((stopOthers_canonical _ _).2 asked) closed]
        · simp [asked]
@[simp] theorem execUnitFail_canonical (wf : s.canonical) (u) : (execUnitFail u s).canonical := by
  unfold execUnitFail
  dsimp only
  split
  · exact wf
  · split
    · simp [wf]
    · rw [next_canonical, vacated_canonical]
      apply freed_canonical
      rw [serveAll_canonical]
      (repeat' split) <;> simp [wf]
@[simp] theorem execCancelComplete_canonical (wf : s.canonical) (lid) : (execCancelComplete lid s).canonical := by
  unfold execCancelComplete
  dsimp only
  split
  · exact wf
  · have released : ∀ us : List Nat, (us.foldl (fun t u => t.releaseUnit u) s).canonical :=
      fun us => foldl_canonical (fun t u wf => by simp [wf]) wf us
    simp [foldl_canonical_iff, released]

/-! Power, clocks, heat and soft errors (17) -/

@[simp] theorem setZone_canonical (d z x) : (s.setZone d z x).canonical ↔ s.canonical :=
  canonical_of_sameContents (setZone_sameContents _ _ _ _)

/-! Valves (R432, R433) -/

@[simp] theorem setValve_canonical (d z v) : (s.setValve d z v).canonical ↔ s.canonical := by simp [State.setValve]
@[simp] theorem askValve_canonical (d z) : (s.askValve d z).canonical ↔ s.canonical := by simp [State.askValve]
@[simp] theorem setPump_canonical : (s.setPump).canonical ↔ s.canonical := by simp [State.setPump]
@[simp] theorem enterFallback_canonical (d z) : (s.enterFallback d z).canonical ↔ s.canonical :=
  canonical_of_sameContents (enterFallback_sameContents _ _ _)
@[simp] theorem resendPump_canonical : (s.resendPump).canonical ↔ s.canonical := canonical_of_sameContents (resendPump_sameContents _)

/-! Thermal states (R429 to R431) -/

@[simp] theorem zoneThs_canonical (d z n) : (s.zoneThs d z n).canonical ↔ s.canonical := foldl_canonical_iff (fun t x => by simp) _ _
@[simp] theorem sampleZone_canonical (d z) : (s.sampleZone d z).canonical ↔ s.canonical := by simp [State.sampleZone]
@[simp] theorem shut_canonical (wf : s.canonical) (d p) : (s.shut d p).canonical := by
  unfold State.shut
  dsimp only
  split <;> simp [wf]
@[simp] theorem goOffline_canonical (wf : s.canonical) (d p) : (s.goOffline d p).canonical := by
  simp [State.goOffline, foldl_canonical_iff, wf]
@[simp] theorem retryMove_canonical (wf : s.canonical) (d p) : (s.retryMove d p).canonical := by simp [State.retryMove, wf]
@[simp] theorem sampleCore_canonical (wf : s.canonical) (d p) : (s.sampleCore d p).canonical := by simp [State.sampleCore, wf]
@[simp] theorem setTemps_canonical (d) (temps : List Nat) (ps : List Nat) :
    (ps.foldl (fun t p => t.setCore d p { t.core d p with temp := temps[p]?.getD (t.core d p).temp }) s).canonical ↔ s.canonical :=
  foldl_canonical_iff (fun _ _ => setCore_canonical _ _ _) _ _
@[simp] theorem sampleZones_canonical (d) (zs : List Nat) : (zs.foldl (fun t z => t.sampleZone d z) s).canonical ↔ s.canonical :=
  foldl_canonical_iff (fun _ z => sampleZone_canonical d z) _ _
@[simp] theorem sampleCores_canonical (wf : s.canonical) (d) (ps : List Nat) : (ps.foldl (fun t p => t.sampleCore d p) s).canonical :=
  foldl_canonical (fun _ p wf => sampleCore_canonical wf d p) wf ps
@[simp] theorem askValves_canonical (d) (zs : List Nat) : (zs.foldl (fun t z => t.askValve d z) s).canonical ↔ s.canonical :=
  foldl_canonical_iff (fun _ z => askValve_canonical d z) _ _
@[simp] theorem execThermalSample_canonical (wf : s.canonical) (die temps) : (execThermalSample die temps s).canonical := by
  unfold execThermalSample
  dsimp only
  split
  · exact wf
  · simp [wf]

/-! Undervolting (R435, R436) -/

@[simp] theorem chargeDomain_canonical (d z) : (s.chargeDomain d z).canonical ↔ s.canonical := canonical_congr rfl rfl
@[simp] theorem endCharged_canonical (d z u) : (s.endCharged d z u).canonical ↔ s.canonical :=
  canonical_of_sameContents (endCharged_sameContents _ _ _ _)
@[simp] theorem execUndervoltUe_canonical (wf : s.canonical) (die zone units) : (execUndervoltUe die zone units s).canonical := by
  unfold execUndervoltUe
  split <;> simp [foldl_canonical_iff, wf]

/-! Lasting faults (R253, R437, R438) -/

@[simp] theorem leaveCore_canonical (wf : s.canonical) (d p) : (s.leaveCore d p).canonical := by simp [State.leaveCore, wf]
@[simp] theorem retire_canonical (wf : s.canonical) (d w) : (s.retire d w).canonical := by
  unfold State.retire
  split <;> simp [wf]
@[simp] theorem noteError_canonical (k hours) : (s.noteError k hours).canonical ↔ s.canonical := canonical_congr rfl rfl
@[simp] theorem logError_canonical (wf : s.canonical) (d w hours) : (s.logError d w hours).canonical := by simp [State.logError, wf]
@[simp] theorem softError_canonical (wf : s.canonical) (d w hours) : (s.softError d w hours).canonical := by
  unfold State.softError
  split <;> simp [wf]
@[simp] theorem rowError_canonical (wf : s.canonical) (d row hours) : (s.rowError d row hours).canonical := by simp [State.rowError, wf]
@[simp] theorem codewordError_canonical (wf : s.canonical) (cw hours) : (s.codewordError cw hours).canonical := by
  simp [State.codewordError, wf]
@[simp] theorem loseLine_canonical (l) : (s.loseLine l).canonical ↔ s.canonical := by
  unfold State.loseLine
  split <;> simp
@[simp] theorem uncorrectable_canonical (wf : s.canonical) (d w hours l) : (s.uncorrectable d w hours l).canonical := by
  unfold State.uncorrectable
  (repeat' split) <;> simp [wf]
@[simp] theorem reread_canonical (cw ok) : (s.reread cw ok).canonical ↔ s.canonical := by simp [State.reread]

/-! Engine reset and replay (R310, R454 to R457) -/

@[simp] theorem abortColls_canonical (u j mine) : (s.abortColls u j mine).canonical ↔ s.canonical :=
  foldl_canonical_iff (fun t x => by simp) _ _
@[simp] theorem resetEngine_canonical (die core e) : (s.resetEngine die core e).canonical ↔ s.canonical := by
  unfold State.resetEngine
  dsimp only
  split <;> simp [foldl_canonical_iff]
@[simp] theorem execEngineReset_canonical (wf : s.canonical) (die core e bad vregs hours) :
    (execEngineReset die core e bad vregs hours s).canonical := by
  unfold execEngineReset
  extract_lets z uv fail s1
  have failed : ∀ t code u j info, (fail t code u j info).canonical ↔ t.canonical := by
    intro t code u j info
    unfold fail
    (repeat' split) <;> simp
  have struck : s1.canonical := by
    unfold s1
    split <;> simp [foldl_canonical_iff, failed, wf]
  clear_value s1
  split <;> simp [struck]
@[simp] theorem execEngineResetEnd_canonical (wf : s.canonical) (die core e) : (execEngineResetEnd die core e s).canonical := by
  unfold execEngineResetEnd
  dsimp only
  (repeat' split) <;> simp [foldl_canonical_iff, wf]

/-! Format (R76, R77) -/

@[simp] theorem send_canonical (d ty port fields body) : (s.send d ty port fields body).canonical ↔ s.canonical :=
  canonical_of_sameContents (send_sameContents _ _ _ _ _ _)

/-! Checks (R78, R79) -/

/-- A packet leaves what acting on it leaves, and no store else (R458, R462). -/
theorem receive_canonical (wf : s.canonical) {ty p f} (hf : ∀ t : State, t.canonical → (f t).canonical) : (s.receive ty p f).canonical := by
  unfold State.receive
  extract_lets far d c die s1 s2
  have acted : s2.canonical := hf s1 ((setDie_canonical _ _).2 wf)
  clear_value far c s2
  (repeat' split) <;> simp [acted, wf]

/-! Reports (R86 to R88) -/

@[simp] theorem sendReport_canonical (d port) : (s.sendReport d port).canonical ↔ s.canonical := canonical_congr rfl rfl

/-! What the types do (R77, R83 to R85, R89 to R91) -/

@[simp] theorem forwardOpen_canonical (p) : (s.forwardOpen p).canonical ↔ s.canonical := by simp [State.forwardOpen]
@[simp] theorem takeSlice_canonical (d) : (s.takeSlice d).canonical ↔ s.canonical := canonical_of_sameContents (takeSlice_sameContents _ _)
@[simp] theorem preempt_canonical (d) : (s.preempt d).canonical ↔ s.canonical := canonical_of_sameContents (preempt_sameContents _ _)

/-! Completion records (R92, R93) -/

@[simp] theorem doneLaunch_canonical (wf : s.canonical) (lid) : (s.doneLaunch lid).canonical := by
  unfold State.doneLaunch
  dsimp only
  split
  · exact wf
  · split
    · exact wf
    · exact (send_canonical _ _ _ _ _).2
        ((setLaunch_canonical _ _).2 (foldl_canonical (fun t u wf => widen_canonical wf u 5) wf _))

/-! Provisional reads and eligibility (R44, R80, R81) -/

@[simp] theorem provisional_canonical (lid) : (s.provisional lid).canonical ↔ s.canonical := by
  unfold State.provisional
  dsimp only
  (repeat' split) <;> simp
theorem admitWith_canonical (wf : s.canonical) {lid l} (e : s.admitWith lid l = some t) : t.canonical :=
  createAll_canonical ((setLaunch_canonical _ _).2 wf) e
@[simp] theorem passOver_canonical (lid) : (s.passOver lid).canonical ↔ s.canonical := canonical_congr rfl rfl
@[simp] theorem execLaunchAdmission_canonical (wf : s.canonical) (lid) : (execLaunchAdmission lid s).canonical := by
  unfold execLaunchAdmission
  extract_lets l0 t l
  have settled : t.canonical := (provisional_canonical lid).2 wf
  clear_value t
  split
  · exact wf
  · split
    · simp [settled]
    · split
      · simp [settled]
      · split
        · simp [settled]
        · split
          · exact settled
          · dsimp only
            split
            · simp [settled]
            · split
              · simp [settled]
              · split
                · next admitted => exact admitWith_canonical settled admitted
                · simp [settled]

/-! Translation messages from the host -/

@[simp] theorem newGen_canonical (d job gen) : (s.newGen d job gen).canonical ↔ s.canonical := by simp [State.newGen]
theorem receiveMsg_canonical (wf : s.canonical) {ty m f} (hf : ∀ t : State, t.canonical → (f t).canonical) :
    (s.receiveMsg ty m f).canonical := by
  unfold State.receiveMsg
  dsimp only
  (repeat' split) <;> simp [hf, wf]

/-! Each die's Drone -/

@[simp] theorem setDrone_canonical (d x) : (s.setDrone d x).canonical ↔ s.canonical := canonical_congr rfl rfl

/-! Start-up (R248, R251, R462, R463) -/

@[simp] theorem bootDie_canonical (d) : (s.bootDie d).canonical ↔ s.canonical := by simp [State.bootDie]
/-- A cold start loses global memory, and keeps the weight tier (R8, R231). -/
@[simp] theorem cold_canonical (wf : s.canonical) : s.cold.canonical := canonical_iff.2 ⟨rfl, (canonical_iff.1 wf).2⟩
@[simp] theorem findCopies_canonical (cs) : (s.findCopies cs).canonical ↔ s.canonical := canonical_congr rfl rfl
@[simp] theorem checkBanks_canonical (cs) : (s.checkBanks cs).canonical ↔ s.canonical := foldl_canonical_iff (fun t x => by simp) _ _
@[simp] theorem execPowerOnReset_canonical (wf : s.canonical) (x) : (execPowerOnReset x s).canonical := by
  simp [execPowerOnReset, foldl_canonical_iff, wf]

/-! Requests and answers (R465) -/

@[simp] theorem answer_canonical (d code status bs) : (s.answer d code status bs).canonical ↔ s.canonical := canonical_congr rfl rfl
theorem request_canonical (wf : s.canonical) {d code status f} (hf : ∀ t : State, t.canonical → (f t).canonical) :
    (s.request d code status f).canonical := by
  unfold State.request
  (repeat' split) <;> simp [hf, wf]
theorem managed_canonical (wf : s.canonical) {d code status f} (hf : ∀ t : State, t.canonical → (f t).canonical) :
    (s.managed d code status f).canonical := request_canonical wf hf
@[simp] theorem spdmTo_canonical (d code n bs) : (s.spdmTo d code n bs).canonical ↔ s.canonical := canonical_congr rfl rfl
@[simp] theorem beginRemeas_canonical (d name) : (s.beginRemeas d name).canonical ↔ s.canonical := canonical_congr rfl rfl
@[simp] theorem endRemeas_canonical (d l) : (s.endRemeas d l).canonical ↔ s.canonical := canonical_congr rfl rfl
@[simp] theorem finishRemeas_canonical (d) : (s.finishRemeas d).canonical ↔ s.canonical := by
  unfold State.finishRemeas
  split <;> simp
@[simp] theorem startRemeas_canonical (d) : (s.startRemeas d).canonical ↔ s.canonical := by
  unfold State.startRemeas
  split <;> simp
@[simp] theorem serveRemeas_canonical (d) : (s.serveRemeas d).canonical ↔ s.canonical := by simp [State.serveRemeas]
/-- A die that starts again loses its part of global memory (R462). -/
@[simp] theorem resetDie_canonical (wf : s.canonical) (d) : (s.resetDie d).canonical :=
  canonical_iff.2 ⟨NMap.rising_filter _ (canonical_iff.1 wf).1, (canonical_iff.1 wf).2⟩

/-! The Voicer's rewrites (R250, R438, R463) -/

@[simp] theorem writeImageRow_canonical (wf : s.canonical) (d row passes) : (s.writeImageRow d row passes).canonical := by
  unfold State.writeImageRow
  extract_lets n s1 left
  have written : s1.canonical := by
    unfold s1
    split
    · exact putCells_canonical ((programRow_canonical _ _ _).2 wf) _
    · exact wf
  clear_value s1
  split <;> simp [written]
@[simp] theorem renewRow_canonical (row passes) : (s.renewRow row passes).canonical ↔ s.canonical := by
  unfold State.renewRow
  dsimp only
  split
  · rfl
  · split
    · rfl
    · split
      · exact canonical_congr rfl rfl
      · next s1 renewed =>
        have remapped : s1.canonical ↔ s.canonical := by
          split at renewed
          · cases renewed
            exact canonical_congr rfl rfl
          · exact (remapRow_canonical renewed).trans (canonical_congr rfl rfl)
        split <;> simp [remapped]

end

end Sys2Proof.Machine
end

section
/-! PROOFS. Instructions and events that keep the stores canonical by rules of their own (O58). -/
namespace Sys2Proof.Machine
open Sys2Proof

section
variable {s t : State}

/-! The repeat prefix (R171 to R173) -/

@[simp] theorem execRep_canonical (wf : s.canonical) (sb c d a b) : (execRep sb c d a b s).canonical := by
  unfold execRep
  dsimp only
  (repeat' split) <;> simp [wf]

/-! Special registers (R175, R176) -/

@[simp] theorem execMfs_canonical (wf : s.canonical) (sb d i) : (execMfs sb d i s).canonical := by
  unfold execMfs
  split <;> simp [wf]
@[simp] theorem execMts_canonical (wf : s.canonical) (x a i) : (execMts x a i s).canonical := by
  unfold execMts
  split
  · next written => simp [writeSreg_canonical wf written]
  · simp [wf]

/-! HALT (R179, R180) -/

@[simp] theorem execHalt_canonical (wf : s.canonical) (sb) : (execHalt sb s).canonical := by
  unfold execHalt
  split <;> simp [wf]

/-! Memory access (R187) -/

@[simp] theorem execLd_canonical (wf : s.canonical) (x d a w y o) : (execLd x d a w y o s).canonical := by
  unfold execLd
  dsimp only
  split
  · split
    · simp [wf]
    · next loaded => simp [aperLoad_canonical wf loaded]
  · split
    · simp [wf]
    · split <;> simp [wf]
@[simp] theorem execSt_canonical (wf : s.canonical) (sb d a w o) : (execSt sb d a w o s).canonical := by
  unfold execSt
  dsimp only
  split <;> simp [wf]
@[simp] theorem execLds_canonical (wf : s.canonical) (sb d a w x o) : (execLds sb d a w x o s).canonical := by
  unfold execLds
  dsimp only
  split <;> simp [wf]
@[simp] theorem execSts_canonical (wf : s.canonical) (sb d a w o) : (execSts sb d a w o s).canonical := by
  unfold execSts
  dsimp only
  split <;> simp [wf]

/-! Atomics (R194 to R196) -/

@[simp] theorem execAmo_canonical (wf : s.canonical) (sb w a b f c) : (execAmo sb w a b f c s).canonical := by
  unfold execAmo
  dsimp only
  split <;> simp [wf]
@[simp] theorem execAmr_canonical (wf : s.canonical) (sb d a b f c) : (execAmr sb d a b f c s).canonical := by
  unfold execAmr
  dsimp only
  (repeat' split) <;> simp [wf]

/-! Span boundaries (R225, R372, R395) -/

@[simp] theorem execSpan_canonical (wf : s.canonical) (sb c) : (execSpan sb c s).canonical := by
  unfold execSpan
  split <;> simp [wf]
@[simp] theorem execCflush_canonical (wf : s.canonical) (sb a c) : (execCflush sb a c s).canonical := by
  unfold execCflush
  (repeat' split) <;> simp [wf]

/-! Barriers (R398 to R401) -/

@[simp] theorem execBari_canonical (wf : s.canonical) (sb a b c) : (execBari sb a b c s).canonical := by
  unfold execBari
  dsimp only
  split <;> simp [wf]
@[simp] theorem execBara_canonical (wf : s.canonical) (x a) : (execBara x a s).canonical := by
  unfold execBara
  dsimp only
  split
  · simp [wf]
  · split
    · simp [wf]
    · split
      · simp [wf]
      · next closed =>
        have settled := closeSpan_canonical wf closed
        split
        · simp [settled]
        · split <;> simp [settled]
@[simp] theorem execBarw_canonical (wf : s.canonical) (sb a) : (execBarw sb a s).canonical := by
  unfold execBarw
  dsimp only
  (repeat' split) <;> simp [wf]

/-! Monitor and wait (R402, R403) -/

@[simp] theorem execMon_canonical (wf : s.canonical) (sb a) : (execMon sb a s).canonical := by
  unfold execMon
  dsimp only
  split <;> simp [wf]
@[simp] theorem execMwait_canonical (wf : s.canonical) (sb d a) : (execMwait sb d a s).canonical := by
  unfold execMwait
  (repeat' split) <;> simp [wf]

/-! Semaphores (R404 to R406) -/

@[simp] theorem execSemw_canonical (wf : s.canonical) (sb a b c) : (execSemw sb a b c s).canonical := by
  unfold execSemw
  dsimp only
  split <;> simp [wf]
@[simp] theorem execSemp_canonical (wf : s.canonical) (x a b c) : (execSemp x a b c s).canonical := by
  unfold execSemp
  dsimp only
  split
  · simp [wf]
  · have widened := widen_canonical wf s.selUnit c.toNat
    have granted : ∀ pa v, ((((s.widen s.selUnit c.toNat).putSem s.selUnit c.toNat pa v).advance).grantAll pa).canonical :=
      fun pa v => by simp [widened]
    simp [wf, granted]

/-! Engines (R410 to R412) -/

@[simp] theorem execFork_canonical (wf : s.canonical) (sb c m v) : (execFork sb c m v s).canonical := by
  unfold execFork
  split <;> simp [wf]
@[simp] theorem execEkill_canonical (wf : s.canonical) (x e) : (execEkill x e s).canonical := by
  simp [execEkill, foldl_canonical_iff, wf]

/-! Work (R413 to R418) -/

@[simp] theorem execYield_canonical (wf : s.canonical) (x) : (execYield x s).canonical := by
  unfold execYield
  dsimp only
  split
  · simp [wf]
  · split
    · simp [wf]
    · next closed =>
      have settled := closeSpan_canonical wf closed
      (repeat' split) <;> simp [settled]
@[simp] theorem execHoldingDieAnswer_canonical (wf : s.canonical) (u j) : (execHoldingDieAnswer u j s).canonical := by
  unfold execHoldingDieAnswer
  dsimp only
  split <;> simp [wf]

/-! The weight tier -/

@[simp] theorem execLdw_canonical (wf : s.canonical) (sb d a w x o) : (execLdw sb d a w x o s).canonical := by
  unfold execLdw
  dsimp only
  (repeat' split) <;> simp [wf]

/-! Format table and selector (R287, R288) -/

@[simp] theorem execMfmt_canonical (wf : s.canonical) (b r k) : (execMfmt b r k s).canonical :=
  decodeTime_canonical wf fun t e => by
    (repeat' split at e) <;> cases e
    simp [wf]
@[simp] theorem execMfmtTs_canonical (wf : s.canonical) (a b) : (execMfmtTs a b s).canonical :=
  decodeTime_canonical wf fun t e => by
    (repeat' split at e) <;> cases e
    simp [wf]
@[simp] theorem execMfsel_canonical (wf : s.canonical) (b k) : (execMfsel b k s).canonical :=
  decodeTime_canonical wf fun t e => by
    cases e
    simp [wf]

/-! Accumulator moves (R289 to R292) -/

@[simp] theorem execMzero_canonical (wf : s.canonical) (z b) : (execMzero z b s).canonical :=
  engineWord_submit_canonical wf fun x e => by
    split at e
    · cases e
    · exact prepRows_canonical wf e
@[simp] theorem execMdcy_canonical (wf : s.canonical) (z a b) : (execMdcy z a b s).canonical :=
  engineWord_submit_canonical wf fun x e => by
    split at e
    · cases e
    · split at e
      · cases e
      · exact prepRows_canonical wf e
@[simp] theorem execMdcySet_canonical (wf : s.canonical) (z a) : (execMdcySet z a s).canonical :=
  engineWord_submit_canonical wf fun x e => by
    split at e
    · cases e
    · exact prepRows_canonical wf e
@[simp] theorem execMdrn_canonical (wf : s.canonical) (z a b c i f) : (execMdrn z a b c i f s).canonical :=
  engineWord_submit_canonical wf fun x e => by
    split at e
    · split at e
      · cases e
      · exact prepRows_canonical wf e
    · cases e
@[simp] theorem execMldz_canonical (wf : s.canonical) (z a b) : (execMldz z a b s).canonical :=
  engineWord_submit_canonical wf fun x e => by
    split at e
    · exact prepRows_canonical wf e
    · cases e

/-! Prefetch and unpin (R293, R294) -/

@[simp] theorem execMprefW_canonical (wf : s.canonical) (a b) : (execMprefW a b s).canonical :=
  engineWord_submitDrawn_canonical wf fun x e => by
    (repeat' split at e) <;> cases e
    exact wf
@[simp] theorem execMunp_canonical (wf : s.canonical) (a) : (execMunp a s).canonical :=
  engineWord_submit_canonical wf fun x e => by
    split at e
    · cases e
      exact wf
    · exact prepPref_canonical wf e

/-! Banks and swaps (R295, R296) -/

@[simp] theorem execMswp_canonical (wf : s.canonical) (b n) : (execMswp b n s).canonical :=
  engineWord_submit_canonical wf fun x e => by
    (repeat' split at e) <;> cases e
    exact wf
@[simp] theorem execMbnk_canonical (wf : s.canonical) (a n) : (execMbnk a n s).canonical :=
  decodeTime_canonical wf fun t e => by
    (repeat' split at e) <;> cases e
    simp [wf]

/-! Merge control (R297) -/

@[simp] theorem execMhold_canonical (wf : s.canonical) (b) : (execMhold b s).canonical :=
  decodeTime_canonical wf fun t e => by
    cases e
    split <;> simp [wf]
@[simp] theorem execMholdRel_canonical (wf : s.canonical) : (execMholdRel s).canonical :=
  decodeTime_canonical wf fun t e => by
    cases e
    split <;> simp [wf]

/-! MTRQ, synchronisation, status (R298 to R301) -/

@[simp] theorem execMtrq_canonical (wf : s.canonical) (a b) : (execMtrq a b s).canonical :=
  engineWord_submitDrawn_canonical wf fun x e => by
    (repeat' split at e)
    case h_2.isFalse.isFalse =>
      obtain ⟨-, -, e⟩ := bind_ok e
      cases e
      exact wf
    all_goals cases e
@[simp] theorem execMsync_canonical (wf : s.canonical) (a w c) : (execMsync a w c s).canonical := by
  unfold execMsync
  extract_lets stopAt
  have stopped : ∀ o : Out, o.canonical → (stopAt o).canonical := by
    intro o ho
    unfold stopAt
    (repeat' split) <;> simp_all
  refine stopped _ (engineWord_submit_canonical wf fun x e => ?_)
  split at e
  · cases e
    exact wf
  · obtain ⟨p, -, e⟩ := bind_ok e
    cases e
    exact wf
@[simp] theorem execMstat_canonical (wf : s.canonical) (a) : (execMstat a s).canonical :=
  engineWord_submit_canonical wf fun x e => by
    cases e
    exact wf
@[simp] theorem execMnop_canonical (wf : s.canonical) (n) : (execMnop n s).canonical := by
  unfold execMnop
  split
  · refine decodeTime_canonical wf fun t e => ?_
    cases e
    exact wf
  · refine engineWord_submit_canonical wf fun x e => ?_
    cases e
    exact wf

/-! Issue (R104, R302) -/

@[simp] theorem execMergeGroupClose_canonical (wf : s.canonical) (die core g) : (execMergeGroupClose die core g s).canonical := by
  unfold execMergeGroupClose
  split <;> simp [wf]
@[simp] theorem execConsortTimeout_canonical (wf : s.canonical) (u j) : (execConsortTimeout u j s).canonical := by
  unfold execConsortTimeout
  split <;> simp [wf]
@[simp] theorem execTimedCommandStamp_canonical (wf : s.canonical) (u j) : (execTimedCommandStamp u j s).canonical := by
  unfold execTimedCommandStamp
  dsimp only
  (repeat' split) <;> simp [wf]

/-! Completion (R256, R259 to R261, R273, R274) -/

@[simp] theorem execMatrixCommandComplete_canonical (wf : s.canonical) (u j cn) : (execMatrixCommandComplete u j cn s).canonical := by
  unfold execMatrixCommandComplete
  split <;> simp [wf]

/-! Swaps (R244, R245, R295) -/

@[simp] theorem execSwapBegin_canonical (wf : s.canonical) (u j) : (execSwapBegin u j s).canonical := by
  unfold execSwapBegin
  dsimp only
  (repeat' split) <;> simp [wf]
@[simp] theorem execSwapSignalArrival_canonical (wf : s.canonical) (die core region) :
    (execSwapSignalArrival die core region s).canonical := by
  unfold execSwapSignalArrival
  dsimp only
  split <;> simp [wf]
@[simp] theorem execSwapLand_canonical (wf : s.canonical) (die core region) : (execSwapLand die core region s).canonical := by
  unfold execSwapLand
  dsimp only
  split <;> simp [wf]

/-! Submission (R307, R308, R315) -/

@[simp] theorem execVshp_canonical (wf : s.canonical) (a) : (execVshp a s).canonical :=
  decodeTime_canonical wf fun t e => by
    (repeat' split at e) <;> cases e
    simp [wf]

/-! Waiting, signalling, status (R364 to R366) -/

@[simp] theorem execCwait_canonical (wf : s.canonical) (a) : (execCwait a s).canonical := by
  have waited : (s.decodeTime .copy (.ok s)).canonical :=
    decodeTime_canonical wf fun t e => by
      cases e
      exact wf
  simp [execCwait, waited, wf]
@[simp] theorem execCsig_canonical (wf : s.canonical) (a c) : (execCsig a c s).canonical :=
  engineWord_submit_canonical wf fun x e => by
    obtain ⟨p, -, e⟩ := bind_ok e
    cases e
    exact wf
@[simp] theorem execCfnc_canonical (wf : s.canonical) (c) : (execCfnc c s).canonical :=
  engineWord_submit_canonical wf fun x e => by
    cases e
    exact wf
@[simp] theorem execCprq_canonical (wf : s.canonical) (d a) : (execCprq d a s).canonical :=
  decodeTime_canonical wf fun t e => by
    cases e
    simp [wf]

/-! Collectives (R362) -/

@[simp] theorem execEngineIssue_canonical (wf : s.canonical) (die core e) : (execEngineIssue die core e s).canonical := by
  unfold execEngineIssue
  (repeat' split) <;> simp [wf]

/-! Pieces and completion (R337, R346, R347, R349, R367) -/

@[simp] theorem execCopyPieceLand_canonical (wf : s.canonical) (u j cn piece) : (execCopyPieceLand u j cn piece s).canonical := by
  unfold execCopyPieceLand
  split <;> simp [wf]
@[simp] theorem execCopyCommandComplete_canonical (wf : s.canonical) (u j cn) : (execCopyCommandComplete u j cn s).canonical := by
  unfold execCopyCommandComplete
  (repeat' split) <;> simp [wf]
@[simp] theorem execMissedPromise_canonical (wf : s.canonical) (u j cn) : (execMissedPromise u j cn s).canonical := by
  unfold execMissedPromise
  split <;> simp [wf]
@[simp] theorem execCollectiveTimeout_canonical (wf : s.canonical) (u j cn) : (execCollectiveTimeout u j cn s).canonical := by
  unfold execCollectiveTimeout
  split <;> simp [wf]

/-! Samples (R101 to R103) -/

@[simp] theorem execDwsSample_canonical (wf : s.canonical) (lid stg) : (execDwsSample lid stg s).canonical := by
  unfold execDwsSample
  dsimp only
  (repeat' split) <;> simp [wf]
@[simp] theorem execYieldRequestPost_canonical (wf : s.canonical) (u) : (execYieldRequestPost u s).canonical := by
  unfold execYieldRequestPost
  dsimp only
  split <;> simp [wf]

/-! Saving a unit (R449) -/

@[simp] theorem execContextSave_canonical (wf : s.canonical) (u) : (execContextSave u s).canonical := by
  unfold execContextSave
  split <;> simp [wf]

/-! Waits that end or last too long (R115, R117, R402, R403, R446) -/

@[simp] theorem execSyncStall_canonical (wf : s.canonical) (u) : (execSyncStall u s).canonical := by
  unfold execSyncStall
  (repeat' split) <;> simp [wf]
@[simp] theorem execMwaitDeadline_canonical (wf : s.canonical) (u j) : (execMwaitDeadline u j s).canonical := by
  unfold execMwaitDeadline
  dsimp only
  split <;> simp [wf]
@[simp] theorem execEngineEventDelivery_canonical (wf : s.canonical) (u) : (execEngineEventDelivery u s).canonical := by
  unfold execEngineEventDelivery
  split <;> simp [wf]

/-! Valves (R432, R433) -/

@[simp] theorem execValveResend_canonical (wf : s.canonical) (die zone) : (execValveResend die zone s).canonical := by
  unfold execValveResend
  dsimp only
  (repeat' split) <;> simp [wf]

/-! Current grants, breath windows and clocks (R425, R427, R428) -/

@[simp] theorem execBellowsGrant_canonical (wf : s.canonical) (die zone) : (execBellowsGrant die zone s).canonical := by
  unfold execBellowsGrant
  dsimp only
  split <;> simp [wf]
@[simp] theorem execBreathPreposition_canonical (wf : s.canonical) (u) : (execBreathPreposition u s).canonical := by
  unfold execBreathPreposition
  split <;> simp [wf]
@[simp] theorem execClockSwitch_canonical (wf : s.canonical) (die core dom) : (execClockSwitch die core dom s).canonical := by
  unfold execClockSwitch
  dsimp only
  split <;> simp [wf]

/-! Undervolting (R435, R436) -/

@[simp] theorem execUndervoltReenable_canonical (wf : s.canonical) (die zone) : (execUndervoltReenable die zone s).canonical := by
  unfold execUndervoltReenable
  dsimp only
  split <;> simp [wf]

/-! Lasting faults (R253, R437, R438) -/

@[simp] theorem execCorrectedError_canonical (wf : s.canonical) (die w hours lost) : (execCorrectedError die w hours lost s).canonical := by
  unfold execCorrectedError
  split <;> simp [wf]
@[simp] theorem execGlobalHold_canonical (wf : s.canonical) (die core cause) : (execGlobalHold die core cause s).canonical := by
  unfold execGlobalHold
  (repeat' split) <;> simp [wf]

/-! What the types do (R77, R83 to R85, R89 to R91) -/

@[simp] theorem execJobopen_canonical (wf : s.canonical) (p) : (execJobopen p s).canonical :=
  receive_canonical ((forwardOpen_canonical p).2 wf) fun t wf => by
    simp [wf]
@[simp] theorem execJobclose_canonical (wf : s.canonical) (p) : (execJobclose p s).canonical :=
  receive_canonical wf fun t wf => by
    dsimp only
    split <;> simp [wf]
@[simp] theorem execCancel_canonical (wf : s.canonical) (p) : (execCancel p s).canonical :=
  receive_canonical wf fun t wf => by
    simp [wf]
@[simp] theorem execSlice_canonical (wf : s.canonical) (p) : (execSlice p s).canonical :=
  receive_canonical wf fun t wf => by
    dsimp only
    split <;> simp [wf]
@[simp] theorem execSliceStart_canonical (wf : s.canonical) (die) : (execSliceStart die s).canonical := by
  unfold execSliceStart
  split <;> simp [wf]
@[simp] theorem execQuery_canonical (wf : s.canonical) (p) : (execQuery p s).canonical :=
  receive_canonical wf fun t wf => by
    simp [wf]

/-! Completion records (R92, R93) -/

@[simp] theorem execDone_canonical (wf : s.canonical) (level id) : (execDone level id s).canonical := by
  unfold execDone
  (repeat' split) <;> simp [wf]

/-! Provisional reads and eligibility (R44, R80, R81) -/

@[simp] theorem execLaunchBlocking_canonical (wf : s.canonical) (lid) : (execLaunchBlocking lid s).canonical := by
  unfold execLaunchBlocking
  dsimp only
  split <;> simp [wf]
@[simp] theorem execLaunch_canonical (wf : s.canonical) (p) : (execLaunch p s).canonical :=
  receive_canonical wf fun t wf => by
    dsimp only
    split <;> simp [wf]

/-! Translation messages from the host -/

@[simp] theorem execPready_canonical (wf : s.canonical) (m) : (execPready m s).canonical :=
  receiveMsg_canonical wf fun t wf => by
    dsimp only
    split <;> simp [foldl_canonical_iff, wf]
@[simp] theorem execInval_canonical (wf : s.canonical) (m) : (execInval m s).canonical :=
  receiveMsg_canonical wf fun t wf => by
    simp [wf]
@[simp] theorem execInvack_canonical (wf : s.canonical) (die) : (execInvack die s).canonical := by
  unfold execInvack
  split <;> simp [wf]

/-! Requests and answers (R465) -/

@[simp] theorem execRegdel_canonical (wf : s.canonical) (die name) : (execRegdel die name s).canonical :=
  managed_canonical wf fun t wf => by
    simp [wf]
@[simp] theorem execRemeas_canonical (wf : s.canonical) (die name) : (execRemeas die name s).canonical :=
  managed_canonical wf fun t wf => by
    simp [wf]
@[simp] theorem execCfgset_canonical (wf : s.canonical) (die tt window undervolt) : (execCfgset die tt window undervolt s).canonical :=
  managed_canonical wf fun t wf => by
    simp [foldl_canonical_iff, wf]
@[simp] theorem execRcvdata_canonical (wf : s.canonical) (die off bytes last) : (execRcvdata die off bytes last s).canonical := by
  unfold execRcvdata
  split
  · exact wf
  · split
    · exact request_canonical wf fun _ wf => wf
    · dsimp only
      (repeat' split) <;> simp [wf]
/-- A region that is made starts with no cell written, and no other cell changes (R465). -/
@[simp] theorem execRegmk_canonical (wf : s.canonical) (die r) : (execRegmk die r s).canonical :=
  managed_canonical wf fun _ wf =>
    (answer_canonical _ _ _ _).2 (canonical_iff.2 ⟨(canonical_iff.1 wf).1, weights_filter _ (canonical_iff.1 wf).2⟩)

end

end Sys2Proof.Machine
end

section
/-! PROOFS. Every instruction, event and turn keeps the stores canonical (O58). -/
namespace Sys2Proof.Machine
open Sys2Proof

section
variable {s t : State}

/-- Every instruction and event keeps the stores canonical: by the shape that its word shares with others, or by its own rule. -/
theorem exec_canonical (wf : s.canonical) (i : Instr) : Out.canonical (exec i s) := by
  cases i with
  | add | sub | and | or | xor | shl | shr | sra | mul | mulh | min | max | agen | addi | andi | ori | xori | shli | shri | srai | lui | sel
  | fcls | popc | clz | bext | probe => exact (next_canonical _).2 ((result_canonical _ _).2 wf)
  | fadd | fsub | fmul | ffma | fmin | fmax | fsgn | fsqs | frcs => exact (next_canonical _).2 ((fpResult_canonical _ _).2 wf)
  | cmp | cmpi | plog => exact (next_canonical _).2 ((resultP_canonical _ _).2 wf)
  | br | brp | call => exact (next_canonical _).2 ((mapStream_canonical _).2 wf)
  | jr | ret => exact jumpTo_canonical wf _
  | loopImm | loopReg | loopxImm | loopxReg => exact enterLoop_canonical wf _ _ _ _
  | qpush | qtryPush => exact push_canonical wf _ _ _ _
  | qpop | qtryPop => exact pop_canonical wf _ _ _ _
  | cncl | cmplr => exact (next_canonical _).2 ((stallOn_canonical _).2 wf)
  | vmov | vsplat | viota | vfadd | vfsub | vfmul | vffma | vfmin | vfmax | vfabs | vfneg | vmul | vmin | vmax | vand | vor | vxor | vshl
  | vshr | vsra | vfcmp | vcmp | vsel | mlog | vrsqs | vrcps | vexs | vlgs | vred | vscan | vtrn | vrot | vperm | vrns | vcrt =>
    exact tileWord_canonical wf _ _ _ _
  | vldg | vstg | vadd | vsub | vcvt | vqnt | vdqn => exact vectorWord_self wf _ _ _ _ _ _ _
  | vld | vst => exact vectorWord_canonical wf fun _ e => checkTile_canonical wf e
  | vacr | vacw => exact vectorWord_canonical wf fun _ e => checkWin_canonical wf e
  | cpy | cpy2 => exact copyWord_canonical wf ((linear_canonical _ _ _ _ _).2 wf) _ _ _ _ _
  | cpyt => exact copyWord_canonical wf (cpytOp_canonical wf _) _ _ _ _ _
  | gth | sct => exact copyWord_canonical wf (gatherOp_canonical wf _ _) _ _ _ _ _
  | cpys => exact copyWord_canonical wf (cpysOp_canonical wf _) _ _ _ _ _
  | pub => exact copyWord_canonical wf (pubOp_canonical wf _) _ _ _ _ _
  | wprg => exact copyWord_canonical wf (op := s.wprgOp _) ((location_canonical _ _ _ _ _).2 wf) _ _ _ _ _
  | wvfy => exact copyWord_canonical wf (op := s.wvfyOp _) ((location_canonical _ _ _ _ _).2 wf) _ _ _ _ _
  | wdig => exact copyWord_canonical wf (wdigOp_canonical wf _) _ _ _ _ _
  | cred | cag | cbct => exact copyWord_canonical wf (collective_canonical wf _ _) _ _ _ _ _
  | mma => exact engineWord_submitDrawn_canonical wf fun _ e => prepMma_canonical wf e
  | mmag => exact engineWord_submitDrawn_canonical wf fun _ e => prepMmag_canonical wf e
  | mpref => exact engineWord_submit_canonical wf fun _ e => prepPref_canonical wf e
  | phasedef | graphdef =>
    simp only [exec, execPhasedef, execGraphdef]
    exact receive_canonical wf fun t wf => by simp [wf]
  | getVersion | getCapabilities | negotiateAlgorithms | keyExchange | finish | endSession =>
    simp only [exec, execGetVersion, execGetCapabilities, execNegotiateAlgorithms, execKeyExchange, execFinish, execEndSession]
    exact request_canonical wf fun _ wf => (spdmTo_canonical _ _ _ _).2 wf
  | getDigests | getCertificate | challenge | getMeasurements =>
    simp only [exec, execGetDigests, execGetCertificate, execChallenge, execGetMeasurements]
    exact request_canonical wf fun _ wf => (answer_canonical _ _ _ _).2 wf
  | keyset | keydel | reglist | cntrd =>
    simp only [exec, execKeyset, execKeydel, execReglist, execCntrd]
    exact managed_canonical wf fun t wf => by simp [wf]
  | nop | lbrk | fcmp | fcvt | fence | rdv | park | parkUn | brth | acqp | relp | clkd | trap | tret | migrationAbandon | unitStart
  | swapOut | dataArrival | updateLineMerge | completionReport | stat | refresh | undervoltInterval | verticalBusRetire | powerLoss
  | voicerRowRewrite | hostWrite | hostReadRequest | ualinkReadRequest =>
    simp [exec, execNop, execLbrk, execFcmp, execFcvt, execFence, execRdv, execPark, execParkUn, execBrth, execAcqp, execRelp, execClkd,
      execTrap, execTret, execMigrationAbandon, execUnitStart, execSwapOut, execDataArrival, execUpdateLineMerge, execCompletionReport,
      execStat, execRefresh, execUndervoltInterval, execVerticalBusRetire, execPowerLoss, execVoicerRowRewrite, execHostWrite,
      execHostReadRequest, execUalinkReadRequest, wf]
  | _ => simp [exec, wf]

/-! The turns of a step (R104, R126, R142) -/

@[simp] theorem takeCycle_canonical (sel) : (s.takeCycle sel).canonical ↔ s.canonical := by
  unfold State.takeCycle
  split <;> simp
@[simp] theorem resume_canonical (u sels) : (s.resume u sels).canonical ↔ s.canonical := by simp [State.resume]
@[simp] theorem begin_canonical (sel u) : (s.begin sel u).canonical ↔ s.canonical := by simp [State.begin]
theorem run1_canonical (wf : s.canonical) (u x) : Out.canonical (s.run1 u x) := exec_canonical (by simp [wf]) _
theorem runAll_canonical (wf : s.canonical) (u ts) (xs : List Slot) : (s.runAll u ts xs).1.canonical := by
  induction xs generalizing s ts with
  | nil => exact wf
  | cons x xs ih =>
    unfold State.runAll
    split
    · next t run =>
      have ran := run1_canonical wf u x
      rw [run] at ran
      split
      · exact ih ran ts
      · exact ih wf _
    · exact ih wf ts
@[simp] theorem meet_canonical (u) (ks : List Nat) : (s.meet u ks).canonical ↔ s.canonical := by
  induction ks generalizing s with
  | nil => rfl
  | cons k ks ih => exact ih.trans (by simp)
@[simp] theorem settleBundle_canonical (u) : (s.settleBundle u).canonical ↔ s.canonical := by
  unfold State.settleBundle
  split <;> simp
@[simp] theorem issueSync_canonical (wf : s.canonical) (u pc ks) : (s.issueSync u pc ks).canonical := by
  unfold State.issueSync
  extract_lets +onlyGivenNames s0 got bad ok sf
  have fetched : sf.canonical := by simp [sf, s0, foldl_canonical_iff, wf]
  clear_value sf
  split
  · simp [fetched]
  · dsimp only
    split
    · simp [fetched]
    · split
      · simp [fetched]
      · simp only [next_canonical, settleBundle_canonical]
        exact runAll_canonical (by simp [fetched]) u [] _
@[simp] theorem issueVoice_canonical (wf : s.canonical) (u j) : (s.issueVoice u j).canonical := by
  unfold State.issueVoice
  dsimp only
  split
  · simp [wf]
  · split
    · split
      · simp [wf]
      · simp [wf]
    · split
      · simp [wf]
      · split
        · simp [wf]
        · split
          · simp [wf]
          · exact exec_canonical (by simp [wf]) _
@[simp] theorem issueCtx_canonical (wf : s.canonical) (u e j) : (s.issueCtx u e j).canonical := by
  unfold State.issueCtx
  dsimp only
  split
  · simp [wf]
  · split
    · simp [wf]
    · split
      · simp [wf]
      · exact exec_canonical (by simp [wf]) _
@[simp] theorem streamTurn_canonical (wf : s.canonical) (sel) : (s.streamTurn sel).canonical := by
  unfold State.streamTurn
  (repeat' split) <;> simp [wf]

/-! The passing of die clock cycles (R104, R105) -/

theorem endCycle_canonical (wf : s.canonical) (d p) : (s.endCycle d p).canonical := by
  unfold State.endCycle
  split
  · refine foldl_canonical (fun t m wf => ?_) wf _
    have stamped := leaves_canonical wf (execTimedCommandStamp_canonical wf m.1 m.2)
    exact leaves_canonical stamped (execSwapBegin_canonical stamped m.1 m.2)
  · exact wf
theorem startCycle_canonical (wf : s.canonical) (d p) : (s.startCycle d p).canonical := by
  unfold State.startCycle
  split
  · simp [foldl_canonical_iff, wf]
  · exact wf
theorem pass_canonical (wf : s.canonical) (d n) : (s.pass d n).canonical := by
  unfold State.pass
  extract_lets +onlyGivenNames s0
  have granted : s0.canonical := (wakeAll_canonical d).2 (foldl_canonical (fun t pa wf => grantAll_canonical wf pa) wf _)
  clear_value s0
  refine foldl_canonical (fun t l wf => giveUpMove_canonical wf d l) ?_ _
  simp [granted]
theorem endCycles_canonical (wf : s.canonical) (d) (ps : List Nat) : (ps.foldl (fun t p => t.endCycle d p) s).canonical :=
  foldl_canonical (fun _ p wf => endCycle_canonical wf d p) wf ps
theorem startCycles_canonical (wf : s.canonical) (d) (ps : List Nat) : (ps.foldl (fun t p => t.startCycle d p) s).canonical :=
  foldl_canonical (fun _ p wf => startCycle_canonical wf d p) wf ps
theorem tick1_canonical (wf : s.canonical) (d) : (s.tick1 d).canonical := by
  have ended := endCycles_canonical wf d (s.busyCores d)
  simp only [State.tick1]
  generalize (s.busyCores d).foldl (fun t p => t.endCycle d p) s = s1 at *
  exact startCycles_canonical (pass_canonical ended d 1) d _
theorem ticks_canonical (wf : s.canonical) (d n) : (s.ticks d n).canonical := by
  induction n generalizing s with
  | zero => exact wf
  | succ n ih => exact ih (tick1_canonical wf d)
theorem tick_canonical (wf : s.canonical) (d n) : (s.tick d n).canonical := by
  unfold State.tick
  split
  · exact pass_canonical wf d n
  · exact ticks_canonical wf d n
theorem turn_canonical (wf : s.canonical) (x) : (s.turn x).canonical := by
  unfold State.turn
  split
  · exact streamTurn_canonical wf _
  · split
    · exact exec_canonical wf _
    · exact wf
  · exact tick_canonical wf _ _
theorem step_canonical (wf : s.canonical) : Out.canonical (step s) := by
  unfold step
  split
  · exact turn_canonical (by simp [wf]) _
  · exact turn_canonical (by simp [wf]) _

end

/-- Settles O58: memory and the weight tier change only by writes of single cells, by filters, by the moves of a migration and by a cold
start, each of which keeps its form, and a turn is made of these. -/
theorem stepKeepsMemoryWf : Obligations.StepKeepsMemoryWf := by
  unfold Obligations.StepKeepsMemoryWf
  intro s t mem wt e
  have kept := step_canonical (canonical_iff.2 ⟨mem, wt⟩)
  rw [e, next_canonical] at kept
  exact canonical_iff.1 kept

end Sys2Proof.Machine
end

section
/-! PROOFS. What the operations of the state do to the cells of the weight tier: all but the Voicer's and the making of a region leave
them (O59). -/
namespace Sys2Proof.Machine
open Sys2Proof

/-- The cells of a weight tier, as they stand. -/
def Cells (wt : NMap Byte) : NMap Byte := wt
/-- The cells of the machine's weight tier (R231). -/
def State.tier : State → NMap Byte
  | { wt, .. } => Cells wt
/-- The tier of the state that an instruction leads to, where it leads to one, holds the cells `w`. -/
def Out.tierIs (w : NMap Byte) : Out → Prop
  | .next t => t.tier = w
  | _ => True
@[simp] theorem next_tierIs {w : NMap Byte} {t : State} : Out.tierIs w (.next t) ↔ t.tier = w := by rw [Out.tierIs]
@[simp] theorem fault_tierIs {w : NMap Byte} {r : Fault} : Out.tierIs w (.fault r) := trivial

section
variable {s t : State} {w : NMap Byte}

theorem tier_eq_iff : t.tier = s.tier ↔ t.wt = s.wt := Iff.rfl
theorem tier_eq : s.tier = Cells s.wt := rfl
/-- The definition's equation: only the tier of a state that is written out field by field counts. -/
@[simp] theorem tier_mk : type_of% @State.tier.eq_1 := by
  intros
  rw [State.tier]
@[simp] theorem cells_wt : Cells s.wt = s.tier := by rw [tier_eq]
/-- Which cells a tier holds is settled by the lemmas below: `simp` need not look into the state for it. -/
@[congr] theorem tier_opaque (s : State) : s.tier = s.tier := rfl
@[simp] theorem ite_tier {c : Prop} [Decidable c] : (if c then s else t).tier = if c then s.tier else t.tier := apply_ite _ _ _ _
@[simp] theorem ite_tierIs {c : Prop} [Decidable c] {x y : Out} :
    (if c then x else y).tierIs w ↔ if c then x.tierIs w else y.tierIs w := by
  split <;> rfl
/-- Steps that each leave the tier leave it together. -/
theorem foldl_tier {α : Type} {f : State → α → State} (hf : ∀ t a, (f t a).tier = t.tier) (s) (l : List α) :
    (l.foldl f s).tier = s.tier := 
  List.foldlRecOn l f (motive := fun t => t.tier = s.tier) rfl fun t ht a _ => (hf t a).trans ht
theorem tier_congr (h : t.wt = s.wt) : t.tier = s.tier := h
theorem tier_of_sameStore (h : s.sameStore t) : t.tier = s.tier := tier_congr h.wt
theorem tier_of_sameContents (h : s.sameContents t) : t.tier = s.tier := tier_of_sameStore h.store

/-! Parts of the state that are no store -/

@[simp] theorem setUnit_tier (u x) : (s.setUnit u x).tier = s.tier := tier_congr rfl
@[simp] theorem setVoice_tier (u j v) : (s.setVoice u j v).tier = s.tier := tier_congr rfl
@[simp] theorem setCtx_tier (u e j c) : (s.setCtx u e j c).tier = s.tier := tier_congr rfl
@[simp] theorem setLaunch_tier (l x) : (s.setLaunch l x).tier = s.tier := tier_congr rfl
@[simp] theorem setDie_tier (d x) : (s.setDie d x).tier = s.tier := tier_congr rfl
@[simp] theorem setCore_tier (d p c) : (s.setCore d p c).tier = s.tier := tier_congr rfl
@[simp] theorem mapStream_tier (f) : (s.mapStream f).tier = s.tier := tier_of_sameStore (mapStream_sameStore _ _)
@[simp] theorem advance_tier : s.advance.tier = s.tier := tier_of_sameStore (advance_sameStore _)
@[simp] theorem unpoison_tier (pas) : (s.unpoison pas).tier = s.tier := tier_congr rfl
@[simp] theorem dropVersion_tier (u) : (s.dropVersion u).tier = s.tier := tier_congr rfl
@[simp] theorem dropSnaps_tier (pas) : (s.dropSnaps pas).tier = s.tier := tier_congr rfl
@[simp] theorem fire_tier (ok pas) : (s.fire ok pas).tier = s.tier := tier_congr rfl

/-! Writes to global memory (R369 to R371, R387), and cells of the weight tier -/

theorem claim_tier (key pa) : (s.claim key pa).tier = s.tier := by
  unfold State.claim
  split <;> rfl
theorem writeSys_tier (key pa b) : (s.writeSys key pa b).tier = s.tier := claim_tier key pa
theorem writeAt_tier (u scope key pa b) : (s.writeAt u scope key pa b).tier = s.tier := by
  unfold State.writeAt
  split
  · exact writeSys_tier key pa b
  · exact claim_tier key pa
theorem writeList_tier (u scope key) (l : List (Nat × Byte)) : (s.writeList u scope key l).tier = s.tier := by
  induction l generalizing s with
  | nil => rfl
  | cons c l ih => exact ih.trans (writeAt_tier u scope key c.1 c.2)
@[simp] theorem land_tier (u scope key l) : (s.land u scope key l).tier = s.tier := writeList_tier u scope key l
theorem writeSysList_tier (key) (l : List (Nat × Byte)) : (s.writeSysList key l).tier = s.tier := by
  induction l generalizing s with
  | nil => rfl
  | cons c l ih => exact ih.trans (writeSys_tier key c.1 c.2)
@[simp] theorem landSys_tier (key l) : (s.landSys key l).tier = s.tier := writeSysList_tier key l
@[simp] theorem widenAt_tier (u S f) : (s.widenAt u S f).tier = s.tier := tier_congr rfl
@[simp] theorem widen_tier (u S) : (s.widen u S).tier = s.tier := widenAt_tier u S _
@[simp] theorem homeWrite_tier (u scope pa bs) : (s.homeWrite u scope pa bs).tier = s.tier := land_tier u scope _ _
@[simp] theorem atomicWrite_tier (u scope pa bs) : (s.atomicWrite u scope pa bs).tier = s.tier := homeWrite_tier u scope pa bs
@[simp] theorem engineWrite_tier (u scope l) : (s.engineWrite u scope l).tier = s.tier := land_tier u scope _ l
@[simp] theorem markFrame_tier (u fstate) : (s.markFrame u fstate).tier = s.tier := landSys_tier _ _
@[simp] theorem commitList_tier (u S key) (l : List SWrite) : (s.commitList u S key l).tier = s.tier := by
  induction l generalizing s with
  | nil => rfl
  | cons c l ih => exact ih.trans (writeAt_tier u _ key c.pa c.byte)
/-- A commit changes memory by the writes of its version and by those that it widens alone (R373, R387). -/
theorem commit_tier {u S} (e : s.commit u S = .ok t) : t.tier = s.tier := by
  unfold State.commit at e
  split at e
  · cases e
  · injection e with e
    subst e
    simp

/-! Traps (R440 to R447) -/

@[simp] theorem raiseAt_tier (u fl) : (s.raiseAt u fl).tier = s.tier := tier_congr rfl
@[simp] theorem noteReads_tier (u pa n) : (s.noteReads u pa n).tier = s.tier := tier_of_sameStore (noteReads_sameStore _ _ _ _)
@[simp] theorem freeze_tier (u) : (s.freeze u).tier = s.tier := tier_congr rfl
@[simp] theorem abandon_tier (u ok) : (s.abandon u ok).tier = s.tier := tier_congr rfl
@[simp] theorem failUnit_tier (u j pc cause info) : (s.failUnit u j pc cause info).tier = s.tier :=
  tier_of_sameStore (failUnit_sameStore _ _ _ _ _ _)
@[simp] theorem stopUnit_tier (u cause info) : (s.stopUnit u cause info).tier = s.tier := tier_of_sameStore (stopUnit_sameStore _ _ _ _)
@[simp] theorem putBack_tier : s.putBack.tier = s.tier := tier_of_sameStore (putBack_sameStore _)
@[simp] theorem enterHandler_tier (u j cause info) : (s.enterHandler u j cause info).tier = s.tier :=
  tier_of_sameStore (enterHandler_sameStore _ _ _ _ _)
@[simp] theorem event_tier (u e j t) : (s.event u e j t).tier = s.tier := tier_of_sameStore (event_sameStore _ _ _ _ _)
@[simp] theorem takeTrap_tier (t) : (s.takeTrap t).tier = s.tier := tier_of_sameStore (takeTrap_sameStore _ _)
@[simp] theorem raiseTrap_tier (t) : (s.raiseTrap t).tier = s.tier := tier_of_sameStore (raiseTrap_sameStore _ _)

/-! Operands (R118, R190, R220) -/

theorem writeSreg_tier {n v} (e : s.writeSreg n v = some t) : t.tier = s.tier := by
  unfold State.writeSreg at e
  dsimp only at e
  split at e <;> (repeat' split at e) <;> cases e <;> simp
@[simp] theorem spPut_tier (u a b) : (s.spPut u a b).tier = s.tier := by simp [State.spPut]
@[simp] theorem spPuts_tier (u a) (bs : List Byte) : (s.spPuts u a bs).tier = s.tier := by
  induction bs generalizing s a with
  | nil => rfl
  | cons b bs ih => exact (ih (a + 1)).trans (spPut_tier u a b)
@[simp] theorem stsByte_tier (u j a b) : (s.stsByte u j a b).tier = s.tier := by
  unfold State.stsByte
  dsimp only
  (repeat' split) <;> simp
@[simp] theorem stsBytes_tier (u j a) (bs : List Byte) : (s.stsBytes u j a bs).tier = s.tier := by
  induction bs generalizing s a with
  | nil => rfl
  | cons b bs ih => exact (ih (a + 1)).trans (stsByte_tier u j a b)
@[simp] theorem keepLate_tier (u l) : (s.keepLate u l).tier = s.tier := by
  unfold State.keepLate
  split <;> simp
@[simp] theorem touch_tier (u agent wr a n) : (s.touch u agent wr a n).tier = s.tier := tier_of_sameStore (touch_sameStore _ _ _ _ _ _)
theorem lookTiles_tier {u tn acc fs r} {ks : List (Bool × Nat)} (e : s.lookTiles u tn acc ks fs = .ok r) :
    r.1.tier = s.tier := by
  obtain ⟨l, he⟩ := lookTiles_ok e
  simp [he]
/-- A load in an aperture forms its tile of what is looked up (R230). -/
theorem aperLoad_tier {u ea size k x r} (e : s.aperLoad u ea size k x = .ok r) : r.1.tier = s.tier := by
  unfold State.aperLoad at e
  dsimp only at e
  split at e
  · cases e
    rfl
  · split at e
    · cases e
    · next s1 fs looked =>
      cases e
      exact lookTiles_tier looked

/-! Fetching (R112, R123) -/

@[simp] theorem mapSel_tier (sel f) : (s.mapSel sel f).tier = s.tier := by
  unfold State.mapSel
  split <;> simp
theorem fillUnit_tier (sel va m) : (s.fillUnit sel va m).1.tier = s.tier := by
  unfold State.fillUnit
  split
  · rfl
  · exact noteReads_tier _ _ _
theorem fillUnits_tier (sel m) (vas : List Nat) : (s.fillUnits sel m vas).1.tier = s.tier := by
  induction vas generalizing s m with
  | nil => rfl
  | cons va vas ih => exact (ih _).trans (fillUnit_tier sel va m)
@[simp] theorem fillLoop_tier (sel) : (s.fillLoop sel).tier = s.tier := by
  unfold State.fillLoop
  dsimp only
  split
  · simp
  · split
    · rfl
    · exact (mapSel_tier sel _).trans (fillUnits_tier sel _ _)
@[simp] theorem noteFetch_tier (u n pa) : (s.noteFetch u n pa).tier = s.tier := by
  unfold State.noteFetch
  split <;> simp

/-! Words that write a register, move on or park (R118, R161, R165, R415) -/

theorem leaves_tier (h : s.tier = w) {o : Out} (ho : o.tierIs w) : (leaves s o).tier = w := by
  unfold leaves
  split
  · exact ho
  · exact h
@[simp] theorem result_tier (d f) : (s.result d f).tier = s.tier := tier_of_sameStore (result_sameStore _ _ _)
@[simp] theorem resultP_tier (p f) : (s.resultP p f).tier = s.tier := by simp [State.resultP]
@[simp] theorem fpResult_tier (d r) : (s.fpResult d r).tier = s.tier := result_tier d _
@[simp] theorem jumpTo_tier (h : s.tier = w) (a) : (s.jumpTo a).tierIs w := by simp [State.jumpTo, h]
@[simp] theorem enterLoop_tier (h : s.tier = w) (x l len n) : (s.enterLoop x l len n).tierIs w := by
  unfold State.enterLoop
  split <;> simp [h]
@[simp] theorem turnOff_tier (u j v st) : (s.turnOff u j v st).tier = s.tier := tier_of_sameStore (turnOff_sameStore _ _ _ _ _)
@[simp] theorem allParked_tier (h : s.tier = w) (u j) : (s.allParked u j).tierIs w := by
  unfold State.allParked
  refine (raiseTrap_tier _).trans ((foldl_tier (fun t k => ?_) s _).trans h)
  split <;> simp
@[simp] theorem storeBytes_tier (u j pa bs) : (s.storeBytes u j pa bs).tier = s.tier := tier_of_sameStore (storeBytes_sameStore _ _ _ _ _)
@[simp] theorem setBusy_tier (d) : (s.setBusy d).tier = s.tier := tier_of_sameStore (setBusy_sameStore _ _)

end

end Sys2Proof.Machine
end

section
/-! PROOFS. Work, synchronisation and submission leave the weight tier (O59). -/
namespace Sys2Proof.Machine
open Sys2Proof

section
variable {s t : State} {w : NMap Byte}

/-! Team-scope registers: a write is seen by the cycles that begin after its own (R73, R121, R177) -/

@[simp] theorem raise_tier (fl) : (s.raise fl).tier = s.tier := tier_congr rfl

/-! Commands of a context (R124 to R126) -/

@[simp] theorem closeRegion_tier (k) : (s.closeRegion k).tier = s.tier := by
  unfold State.closeRegion
  (repeat' split) <;> simp
@[simp] theorem closeRegions_tier : (s.closeRegions).tier = s.tier := foldl_tier (fun t x => by simp) _ _
@[simp] theorem killAll_tier (u) : (s.killAll u).tier = s.tier := by simp [State.killAll]

/-! Stage queues (R27 to R30, R408) -/

@[simp] theorem setQueue_tier (l q x) : (s.setQueue l q x).tier = s.tier := tier_congr rfl
@[simp] theorem finishWait_tier (u j d v) : (s.finishWait u j d v).tier = s.tier := tier_of_sameStore (finishWait_sameStore _ _ _ _ _)
@[simp] theorem serve_tier (l q n) : (s.serve l q n).tier = s.tier := by
  induction n generalizing s with
  | zero => rfl
  | succ n ih =>
    unfold State.serve
    dsimp only
    (repeat' split) <;> simp [ih]
@[simp] theorem serveQueue_tier (l q) : (s.serveQueue l q).tier = s.tier := by simp [State.serveQueue]
@[simp] theorem closeQueue_tier (l q) : (s.closeQueue l q).tier = s.tier := by simp [State.closeQueue]
@[simp] theorem serveAll_tier (l) : (s.serveAll l).tier = s.tier := foldl_tier (fun t x => by simp) _ _

/-! Counters (R89, R90, R459) -/

@[simp] theorem noteAbove_tier (x f) : (s.noteAbove x f).tier = s.tier := by
  unfold State.noteAbove
  dsimp only
  split <;> simp
@[simp] theorem closeLaunch_tier (l st) : (s.closeLaunch l st).tier = s.tier := by simp [State.closeLaunch]
@[simp] theorem outLess_tier (l n) : (s.outLess l n).tier = s.tier := tier_congr rfl
@[simp] theorem outDown_tier (l) : (s.outDown l).tier = s.tier := by simp [State.outDown]

/-! Divisors (R8, R422, R428) -/

@[simp] theorem noteClocks_tier (d p) : (s.noteClocks d p).tier = s.tier := foldl_tier (fun t x => by simp) _ _
@[simp] theorem releaseUnit_tier (u) : (s.releaseUnit u).tier = s.tier := by simp [State.releaseUnit]
@[simp] theorem endUnit_tier (u) : (s.endUnit u).tier = s.tier := by simp [State.endUnit]

/-! Cancelling (R91) -/

@[simp] theorem cancelUnit_tier (u) : (s.cancelUnit u).tier = s.tier := by simp [State.cancelUnit]
@[simp] theorem cancelLaunch_tier (l) : (s.cancelLaunch l).tier = s.tier := by
  unfold State.cancelLaunch
  dsimp only
  split
  · rfl
  · split
    · simp
    · exact (foldl_tier (fun _ u => cancelUnit_tier u) _ _).trans (setLaunch_tier _ _)
@[simp] theorem cancelLaunches_tier (ls : List Nat) : (ls.foldl (fun t k => t.cancelLaunch k) s).tier = s.tier :=
  foldl_tier (fun _ k => cancelLaunch_tier k) _ _
@[simp] theorem settleJob_tier (job now) : (s.settleJob job now).tier = s.tier := by
  unfold State.settleJob
  split <;> simp
@[simp] theorem settlePhase_tier (job ph now) : (s.settlePhase job ph now).tier = s.tier := by
  unfold State.settlePhase
  dsimp only
  (repeat' split) <;> simp
@[simp] theorem settleGraph_tier (job g now) : (s.settleGraph job g now).tier = s.tier := by
  unfold State.settleGraph
  dsimp only
  (repeat' split) <;> simp
@[simp] theorem reportLaunch_tier (l) : (s.reportLaunch l).tier = s.tier := by
  unfold State.reportLaunch
  dsimp only
  (repeat' split) <;> simp
@[simp] theorem cancelGraph_tier (job g now) : (s.cancelGraph job g now).tier = s.tier := by
  unfold State.cancelGraph
  dsimp only
  (repeat' split) <;> simp
@[simp] theorem cancelPhase_tier (job ph now) : (s.cancelPhase job ph now).tier = s.tier := by
  unfold State.cancelPhase
  dsimp only
  (repeat' split)
  · rfl
  · rfl
  · simp [foldl_tier]
@[simp] theorem cancelJob_tier (job now) : (s.cancelJob job now).tier = s.tier := by
  unfold State.cancelJob
  dsimp only
  (repeat' split)
  · rfl
  · rfl
  · simp [foldl_tier]
@[simp] theorem cancelLevel_tier (job level id now) : (s.cancelLevel job level id now).tier = s.tier := by
  unfold State.cancelLevel
  split <;> simp

/-! Synchronisation, power and system instructions (16) -/

@[simp] theorem setMe_tier (v) : (s.setMe v).tier = s.tier := tier_congr rfl
@[simp] theorem waitOn_tier (w) : (s.waitOn w).tier = s.tier := by
  unfold State.waitOn
  split <;> simp
@[simp] theorem waitAt_tier (va) : (s.waitAt va).tier = s.tier := tier_congr rfl
@[simp] theorem stallOn_tier (a) : (s.stallOn a).tier = s.tier := tier_congr rfl

/-! Span boundaries (R225, R372, R395) -/

@[simp] theorem report_tier (t) : (s.report t).tier = s.tier := by simp [State.report]
@[simp] theorem stopMove_tier (u) : (s.stopMove u).tier = s.tier := by
  unfold State.stopMove
  split <;> simp
theorem closeSpan_tier {S} (e : s.closeSpan S = .ok t) : t.tier = s.tier := commit_tier e
@[simp] theorem boundary_tier (h : s.tier = w) (S) : (s.boundary S).tierIs w := by
  unfold State.boundary
  split
  · simp [h]
  · next t closed => simp [closeSpan_tier closed, h]

/-! Barriers (R398 to R401) -/

@[simp] theorem putBarrier_tier (u scope pa b) : (s.putBarrier u scope pa b).tier = s.tier := by simp [State.putBarrier]
@[simp] theorem noteRelease_tier (u pa) : (s.noteRelease u pa).tier = s.tier := tier_congr rfl
@[simp] theorem releaseAll_tier (pa S) : (s.releaseAll pa S).tier = s.tier :=
  foldl_tier (fun _ u => widenAt_tier u S _) { s with barRel := s.barRel.del pa } _
@[simp] theorem dropProgress_tier (pa) : (s.dropProgress pa).tier = s.tier := tier_congr rfl

/-! Semaphores (R404 to R406) -/

@[simp] theorem putSem_tier (u scope pa v) : (s.putSem u scope pa v).tier = s.tier := by simp [State.putSem]
@[simp] theorem grantSem_tier (pa n) : (s.grantSem pa n).tier = s.tier := by
  induction n generalizing s with
  | zero => rfl
  | succ n ih =>
    unfold State.grantSem
    (repeat' split) <;> simp [ih]
@[simp] theorem grantAll_tier (pa) : (s.grantAll pa).tier = s.tier := by simp [State.grantAll]

/-! Stage queues (R407, R408) -/

@[simp] theorem push_tier (h : s.tier = w) (try_ d a b) : (s.push try_ d a b).tierIs w := by
  unfold State.push
  split <;> simp [h]
@[simp] theorem pop_tier (h : s.tier = w) (try_ d a b) : (s.pop try_ d a b).tierIs w := by
  unfold State.pop
  dsimp only
  (repeat' split) <;> simp [h]

/-! Engines (R410 to R412) -/

@[simp] theorem startCtx_tier (e r) : (s.startCtx e r).tier = s.tier := by simp [State.startCtx]

/-! Work (R413 to R418) -/

@[simp] theorem stopOthers_tier (u j) : (s.stopOthers u j).tier = s.tier := tier_congr rfl
@[simp] theorem openStores_tier (job level id) : (s.openStores job level id).tier = s.tier := by
  unfold State.openStores
  split
  · rfl
  · exact foldl_tier (fun t k => widen_tier k 5) s _

/-! Power and clocks (R420 to R422) -/

@[simp] theorem putGrant_tier (u v) : (s.putGrant u v).tier = s.tier := tier_congr rfl

/-! Submission (R125, R126, R222, R223) -/

@[simp] theorem putEntries_tier (u e j i) (l : List (List Byte)) : (s.putEntries u e j i l).tier = s.tier := by
  induction l generalizing s i with
  | nil => rfl
  | cons b l ih => exact (ih (i + 1)).trans (spPuts_tier u _ b)
@[simp] theorem journal_tier (u e j q) : (s.journal u e j q).tier = s.tier := by simp [State.journal]
@[simp] theorem enqueue_tier (c) : (s.enqueue c).tier = s.tier := by
  unfold State.enqueue
  split <;> simp
@[simp] theorem instant_tier : (s.instant).tier = s.tier := by
  unfold State.instant
  split <;> simp

/-! Readiness and arbitration (R104, R105) -/

@[simp] theorem refresh_tier (d p late) : (s.refresh d p late).tier = s.tier := tier_of_sameStore (refresh_sameStore _ _ _ _)
@[simp] theorem refreshUnit_tier (u late) : (s.refreshUnit u late).tier = s.tier := tier_congr rfl
/-- An engine word leaves what its checks, if they pass, go on to. -/
theorem engineWord_tier (h : s.tier = w) {e n r k} (hk : ∀ t c, r = .ok (t, c) → (k t c).tierIs w) :
    (s.engineWord e n r k).tierIs w := by
  unfold State.engineWord
  split
  · simp [h]
  · split
    · simp [h]
    · split
      · exact h
      · split
        · simp [h]
        · next t c => exact hk t c rfl
theorem decodeTime_tier (h : s.tier = w) {e r} (hr : ∀ t, r = .ok t → t.tier = w) : (s.decodeTime e r).tierIs w := by
  unfold State.decodeTime
  split
  · simp [h]
  · split
    · simp [h]
    · split
      · exact h
      · split
        · simp [h]
        · next t => simp [hr t rfl]
@[simp] theorem submit_tier (h : s.tier = w) (c) : (s.submit c).tierIs w := by simp [State.submit, h]
@[simp] theorem choose_tier (d p e) : (s.choose d p e).tier = s.tier := tier_congr rfl
@[simp] theorem toFlight_tier (u e j q) : (s.toFlight u e j q).tier = s.tier := tier_congr rfl
@[simp] theorem completeCmd_tier (u e j q) : (s.completeCmd u e j q).tier = s.tier := tier_congr rfl
@[simp] theorem touchCmd_tier (u agent q) : (s.touchCmd u agent q).tier = s.tier := by
  unfold State.touchCmd
  split <;> simp
@[simp] theorem failCmd_tier (u e j t) : (s.failCmd u e j t).tier = s.tier := by simp [State.failCmd]

/-! Accumulator slots (R98, R120, R224) -/

@[simp] theorem putAcc_tier (l : List (Nat × BitVec 32)) : (s.putAcc l).tier = s.tier := by
  induction l generalizing s with
  | nil => rfl
  | cons c l ih => exact ih
@[simp] theorem setLan_tier (slot u j q) : (s.setLan slot u j q).tier = s.tier := tier_congr rfl

/-! Completion objects (R299, R365, R398, R455) -/

@[simp] theorem noteApplied_tier (ctx pa cn) : (s.noteApplied ctx pa cn).tier = s.tier := tier_congr rfl
@[simp] theorem countObject_tier (u scope pa) : (s.countObject u scope pa).tier = s.tier := by simp [State.countObject]

/-! Draw levels (R419) -/

@[simp] theorem submitDrawn_tier (h : s.tier = w) (wt : t.tier = w) (c) : (s.submitDrawn t c).tierIs w := by
  unfold State.submitDrawn
  dsimp only
  (repeat' split) <;> simp [h, wt]
/-- A word whose checks leave the tier enters its queue, or is turned away, with the same tier (R125, R419). -/
theorem engineWord_submit_tier (h : s.tier = w) {e n r} (hr : ∀ x, r = .ok x → x.1.tier = w) :
    (s.engineWord e n r State.submit).tierIs w :=
  engineWord_tier h fun t c checked => submit_tier (hr (t, c) checked) c
theorem engineWord_submitDrawn_tier (h : s.tier = w) {e n r} (hr : ∀ x, r = .ok x → x.1.tier = w) :
    (s.engineWord e n r s.submitDrawn).tierIs w :=
  engineWord_tier h fun t c checked => submitDrawn_tier h (hr (t, c) checked) c

/-! Operands (R275 to R279) -/

theorem checkA_tier {u a code sm m cs o} (e : s.checkA u a code sm m cs = .ok o) : o.state.tier = s.tier := by
  obtain ⟨l, he⟩ := checkA_ok e
  simp [he]

/-! MMA and MMAG (R284 to R286) -/

theorem prepMma_tier {i z a w acc d m t' c f r} (e : s.prepMma i z a w acc d m t' c f = .ok r) : r.1.tier = s.tier := by
  obtain ⟨⟨l, he⟩, -⟩ := prepMma_hasPrepared e
  simp [he]
theorem prepMmag_tier {i z a w acc t' f r} (e : s.prepMmag i z a w acc t' f = .ok r) : r.1.tier = s.tier := by
  obtain ⟨⟨l, he⟩, -⟩ := prepMmag_hasPrepared e
  simp [he]

/-! Format table and selector (R287, R288) -/

@[simp] theorem putFormat_tier (ix v) : (s.putFormat ix v).tier = s.tier := tier_congr rfl
@[simp] theorem putScale_tier (ix v) : (s.putScale ix v).tier = s.tier := tier_congr rfl

/-! Accumulator moves (R289 to R292) -/

theorem prepRows_tier {i regs claims f r} (e : s.prepRows i regs claims f = .ok r) : r.1.tier = s.tier := by
  obtain ⟨-, -, e⟩ := bind_ok e
  cases e
  rfl

/-! Prefetch and unpin (R293, R294) -/

theorem prepPref_tier {i a r} (e : s.prepPref i a = .ok r) : r.1.tier = s.tier := by
  obtain ⟨-, -, e⟩ := bind_ok e
  obtain ⟨op, checked, e⟩ := bind_ok e
  cases e
  exact checkA_tier checked

/-! Merge control (R297) -/

@[simp] theorem closeGroups_tier (d p f) : (s.closeGroups d p f).tier = s.tier := tier_of_sameContents (closeGroups_sameContents _ _ _ _)

end

end Sys2Proof.Machine
end

section
/-! PROOFS. The engines at work leave the weight tier, as do the records that the Voicer keeps of its rows (O59). -/
namespace Sys2Proof.Machine
open Sys2Proof

section
variable {s t : State} {w : NMap Byte}

/-! Beats (R231, R232, R240, R242, R253) -/

@[simp] theorem cacheRow_tier (row) : (s.cacheRow row).1.tier = s.tier := by
  unfold State.cacheRow
  dsimp only
  split <;> simp
@[simp] theorem issueBeat_tier (d p x) : (s.issueBeat d p x).tier = s.tier := by
  unfold State.issueBeat
  split
  · rfl
  · exact (setCore_tier _ _ _).trans (cacheRow_tier _)
@[simp] theorem issueBeats_tier (d p) : (s.issueBeats d p).tier = s.tier := by simp [State.issueBeats, foldl_tier]
@[simp] theorem enter_tier (D memb starts m) : (s.enter D memb starts m).tier = s.tier := tier_congr rfl
@[simp] theorem enterAll_tier (D memb starts) (l : List (Nat × Nat × Cmd)) : (s.enterAll D memb starts l).tier = s.tier := by
  induction l generalizing s with
  | nil => rfl
  | cons c l ih => exact ih.trans (enter_tier D memb starts c)
@[simp] theorem burst_tier (u) : (s.burst u).tier = s.tier := by
  unfold State.burst
  dsimp only
  split <;> simp
@[simp] theorem runArray_tier (d p D memb rs ms declared) : (s.runArray d p D memb rs ms declared).tier = s.tier := by
  unfold State.runArray
  (repeat' split) <;> simp
@[simp] theorem missCmd_tier (u j code q) : (s.missCmd u j code q).tier = s.tier := by simp [State.missCmd]

/-! The group table of MMAG (R286) -/

@[simp] theorem readTable_tier (u j q) : (s.readTable u j q).tier = s.tier := by
  unfold State.readTable
  dsimp only
  (repeat' split) <;> simp

/-! The merge buffer (R269 to R272) -/

@[simp] theorem closeFull_tier (d p u q) : (s.closeFull d p u q).tier = s.tier := by
  unfold State.closeFull
  split <;> simp
theorem join_tier {d p u j q h} (e : s.join d p u j q h = some t) : t.tier = s.tier := by
  unfold State.join at e
  dsimp only at e
  (repeat' split at e) <;> cases e <;> simp

/-! Consorts (R266 to R268) -/

@[simp] theorem breakConsort_tier (u q) : (s.breakConsort u q).tier = s.tier := foldl_tier (fun t x => by simp) _ _
@[simp] theorem closeByPrio_tier (d p) : (s.closeByPrio d p).tier = s.tier := tier_congr rfl
@[simp] theorem runConsort_tier (D a) (l : List (Nat × Nat × Cmd)) : (s.runConsort D a l).tier = s.tier := by
  induction l generalizing s with
  | nil => rfl
  | cons c l ih => exact ih.trans (by simp)

/-! Issue (R104, R302) -/

@[simp] theorem runAlone_tier (d p u j q) : (s.runAlone d p u j q).tier = s.tier := by simp [State.runAlone]
@[simp] theorem runPort_tier (d p u j q) : (s.runPort d p u j q).tier = s.tier := by simp [State.runPort]
@[simp] theorem runPick_tier (d p x) : (s.runPick d p x).tier = s.tier := by
  unfold State.runPick
  split <;> simp
@[simp] theorem matrixIssue_tier (d p) : (s.matrixIssue d p).tier = s.tier := by
  unfold State.matrixIssue
  extract_lets t hs
  have closed : t.tier = s.tier :=
    (foldl_tier (fun t h => by split <;> simp) _ _).trans (closeByPrio_tier d p)
  clear_value t
  (repeat' split)
  · simp [closed]
  · simp [closed]
  · simp [closed]
  · next joined =>
    obtain ⟨h, -, joined⟩ := List.exists_of_findSome?_eq_some joined
    split at joined
    · exact (join_tier joined).trans closed
    · cases joined
  · exact closed
  · simp [closed]
  · exact closed

/-! Completion (R256, R259 to R261, R273, R274) -/

@[simp] theorem setMstat_tier (u j v) : (s.setMstat u j v).tier = s.tier := tier_congr rfl
@[simp] theorem countMerged_tier (u q) : (s.countMerged u q).tier = s.tier := by
  unfold State.countMerged
  (repeat' split) <;> simp
@[simp] theorem landProduct_tier (s0 u j q) : (s.landProduct s0 u j q).tier = s.tier := by
  unfold State.landProduct
  (repeat' split) <;> simp
@[simp] theorem landRows_tier (u j q) : (s.landRows u j q).tier = s.tier := by
  unfold State.landRows
  (repeat' split) <;> simp
@[simp] theorem landDrain_tier (u j q) : (s.landDrain u j q).tier = s.tier := by
  unfold State.landDrain
  dsimp only
  (repeat' split) <;> simp [foldl_tier]
@[simp] theorem landMtrq_tier (u j q) : (s.landMtrq u j q).tier = s.tier := by
  unfold State.landMtrq
  dsimp only
  (repeat' split) <;> simp [foldl_tier]
@[simp] theorem landMatrix_tier (s0 u j q) : (s.landMatrix s0 u j q).tier = s.tier := by
  unfold State.landMatrix
  (repeat' split) <;> simp
@[simp] theorem matrixDone_tier (s0 u j q) : (s.matrixDone s0 u j q).tier = s.tier := by simp [State.matrixDone]
@[simp] theorem finishTogether_tier (s0) (l : List (Nat × Nat × Cmd)) : (s.finishTogether s0 l).tier = s.tier := by
  induction l generalizing s with
  | nil => rfl
  | cons c l ih => exact ih.trans (matrixDone_tier s0 c.1 c.2.1 c.2.2)

/-! Global hold (R240, R241) -/

@[simp] theorem holdCore_tier (d p n) : (s.holdCore d p n).tier = s.tier := tier_congr rfl
@[simp] theorem hold_tier (d p n) : (s.hold d p n).tier = s.tier := foldl_tier (fun t x => by simp) _ _
@[simp] theorem holdDue_tier (d p) : (s.holdDue d p).tier = s.tier := by simp [State.holdDue]
@[simp] theorem setDue_tier (d p x y) : (s.setDue d p x y).tier = s.tier := tier_congr rfl

/-! A matrix cycle of a core (R240, R258, R259, R263) -/

@[simp] theorem dropMembers_tier (va) (l : List (Nat × Nat × Cmd)) : (s.dropMembers va l).tier = s.tier := by
  induction l generalizing s with
  | nil => rfl
  | cons c l ih => exact ih.trans (by simp)
@[simp] theorem readStep_tier (u j q g) : (s.readStep u j q g).tier = s.tier := by
  unfold State.readStep
  dsimp only
  split <;> simp
@[simp] theorem pauseOn_tier (d p enter) : (s.pauseOn d p enter).tier = s.tier := tier_congr rfl
@[simp] theorem pause_tier (u j q) : (s.pause u j q).tier = s.tier := by
  unfold State.pause
  split
  · rfl
  · exact foldl_tier (fun _ _ => pauseOn_tier _ _ _) _ _
@[simp] theorem tfu_tier (d p m) : (s.tfu d p m).tier = s.tier := by
  unfold State.tfu
  split <;> simp
@[simp] theorem matrixCycle_tier (d p) : (s.matrixCycle d p).tier = s.tier := by
  unfold State.matrixCycle
  dsimp only
  split
  · simp
  · exact (issueBeats_tier d p).trans ((foldl_tier (fun t m => tfu_tier d p m) _ _).trans (by simp))

/-! Shape, tile registers, masks (R119, R303 to R306) -/

@[simp] theorem putTile_tier (u r k) (l : List Byte) : (s.putTile u r k l).tier = s.tier := by
  induction l generalizing s k with
  | nil => rfl
  | cons b l ih => exact ih (k + 1)
@[simp] theorem putElem_tier (u r sz e v) : (s.putElem u r sz e v).tier = s.tier := by simp [State.putElem]
@[simp] theorem putMask_tier (u m v) : (s.putMask u m v).tier = s.tier := tier_congr rfl
@[simp] theorem mapElems_tier (u d sz n act z f) : (s.mapElems u d sz n act z f).tier = s.tier := by
  unfold State.mapElems
  exact foldl_tier (fun t k => by simp) _ _

/-! Submission (R307, R308, R315) -/

/-- A vector word leaves the tier that its operand leaves (R315). -/
theorem vectorWord_tier (h : s.tier = w) {i f fields size shape ents op} (operand : ∀ o, op = .ok o → o.state.tier = w) :
    (s.vectorWord i f fields size shape ents op).tierIs w := by
  refine engineWord_tier h fun t c e => ?_
  obtain ⟨-, -, e⟩ := bind_ok e
  obtain ⟨-, -, e⟩ := bind_ok e
  obtain ⟨o, he, e⟩ := bind_ok e
  cases e
  exact submit_tier (operand o he) _
/-- One that names no operand outside its registers leaves its own state. -/
theorem vectorWord_self_tier (h : s.tier = w) (i f fields size shape ents cl) :
    (s.vectorWord i f fields size shape ents (.ok { state := s, claims := cl })).tierIs w :=
  vectorWord_tier h fun o e => by
    cases e
    exact h
theorem tileWord_tier (h : s.tier = w) (i f size shape) : (s.tileWord i f size shape).tierIs w :=
  vectorWord_self_tier h i f true size shape [] []

/-! Loads and stores (R317 to R319) -/

theorem checkTile_tier {v store o} (e : s.checkTile v store = .ok o) : o.state.tier = s.tier := by
  unfold State.checkTile at e
  dsimp only at e
  split at e
  · split at e
    · cases e
    · split at e
      · cases e
      · obtain ⟨-, -, e⟩ := bind_ok e
        obtain ⟨r, looked, e⟩ := bind_ok e
        cases e
        exact lookTiles_tier looked
  · obtain ⟨-, -, e⟩ := bind_ok e
    cases e
    rfl

/-! Accumulator access (R336) -/

theorem checkWin_tier {z v rd wr o} (e : s.checkWin z v rd wr = .ok o) : o.state.tier = s.tier := by
  obtain ⟨-, -, e⟩ := bind_ok e
  cases e
  rfl

/-! Completion (R309, R318 to R336) -/

@[simp] theorem readLine_tier (u j q ls) : (s.readLine u j q ls).tier = s.tier := by simp [State.readLine]
@[simp] theorem touchFirst_tier (u wr size as) : (s.touchFirst u wr size as).tier = s.tier := by
  unfold State.touchFirst
  split <;> simp
theorem landVld_tier {u q d m z e} (h : s.landVld u q d m z e = .ok t) : t.tier = s.tier := by
  unfold State.landVld at h
  dsimp only at h
  (repeat' split at h) <;> cases h <;> simp
@[simp] theorem landLine_tier (u j q ls) : (s.landLine u j q ls).tier = s.tier := by
  unfold State.landLine
  split <;> simp
@[simp] theorem landVst_tier (u q r m e) : (s.landVst u q r m e).tier = s.tier := by
  unfold State.landVst
  dsimp only
  split <;> simp [foldl_tier]
theorem landVldg_tier {u q d b m z e} (h : s.landVldg u q d b m z e = .ok t) : t.tier = s.tier := by
  obtain ⟨l, -, h⟩ := bind_ok h
  cases h
  simp
theorem landVstg_tier {u q r b m e} (h : s.landVstg u q r b m e = .ok t) : t.tier = s.tier := by
  obtain ⟨l, -, h⟩ := bind_ok h
  cases h
  simp [foldl_tier]
@[simp] theorem landCmp_tier (u n d m e f) : (s.landCmp u n d m e f).tier = s.tier := tier_congr rfl
@[simp] theorem landRed_tier (u h d a x o act) : (s.landRed u h d a x o act).tier = s.tier := foldl_tier (fun t x => by simp) _ _
@[simp] theorem landScan_tier (u h d a x y o m) : (s.landScan u h d a x y o m).tier = s.tier := by simp [State.landScan]
@[simp] theorem landQnt_tier (u q d a b) : (s.landQnt u q d a b).tier = s.tier := by simp [State.landQnt]
@[simp] theorem landDqn_tier (u q d a b) : (s.landDqn u q d a b).tier = s.tier := by simp [State.landDqn]
@[simp] theorem landCvt_tier (u q d a m z e) : (s.landCvt u q d a m z e).tier = s.tier := by simp [State.landCvt]
@[simp] theorem landAcr_tier (u q d z) : (s.landAcr u q d z).tier = s.tier := by simp [State.landAcr]
@[simp] theorem landAcw_tier (u q r z m i n e) : (s.landAcw u q r z m i n e).tier = s.tier := by simp [State.landAcw]
theorem landVector_tier {u q} (h : s.landVector u q = .ok t) : t.tier = s.tier := by
  unfold State.landVector at h
  dsimp only at h
  split at h
  case h_1 => exact landVld_tier h
  case h_3 => exact landVldg_tier h
  case h_4 => exact landVstg_tier h
  all_goals
    injection h with h
    simp [← h]
@[simp] theorem vectorIssue_tier (d p) : (s.vectorIssue d p).tier = s.tier := by
  unfold State.vectorIssue
  split <;> simp
@[simp] theorem execVectorCommandComplete_tier (h : s.tier = w) (u j) : (execVectorCommandComplete u j s).tierIs w := by
  unfold execVectorCommandComplete
  dsimp only
  split
  · exact h
  · split
    · split
      · simp [h]
      · split
        · split
          · next landed => simp [landVector_tier landed, h]
          · simp [h]
        · simp [h]
    · exact h

/-! Operands as checked at submission (R222, R343) -/

/-- A copy word leaves the tier that its operands leave (R343). -/
theorem copyWord_tier (h : s.tier = w) {op : CopyOp} (operand : op.state.tier = w) (i d r k ok) :
    (s.copyWord i d r k ok op).tierIs w := by
  refine engineWord_tier h fun s1 c e => ?_
  obtain ⟨-, -, e⟩ := bind_ok e
  obtain ⟨o, checked, made⟩ := bind_ok e
  obtain rfl := checked_eq checked
  obtain ⟨rfl, -⟩ := Prod.mk.inj (Except.ok.inj made)
  have entered := submit_tier operand c
  dsimp only
  split
  · next submitted _ =>
    rw [submitted] at entered
    split
    · exact entered
    · simpa using entered
  · exact entered
theorem location_tier (wr w stride len n) : (s.location wr w stride len n).state.tier = s.tier := by
  unfold State.location
  dsimp only
  split <;> rfl

/-! Linear, 2-D and tensor copies (R350 to R353) -/

theorem linear_tier (r ss ds len n) : (s.linear r ss ds len n).state.tier = s.tier := location_tier _ _ _ _ _
theorem tensorTiles_tier (tn x wr copy rs) : (s.tensorTiles tn x wr copy rs).state.tier = s.tier := by
  unfold State.tensorTiles
  dsimp only
  split
  · rfl
  · split
    · rfl
    · next looked => exact lookTiles_tier looked
theorem onTensor_tier (tn) {f : Tensor → CopyOp} (hf : ∀ x, (f x).state.tier = s.tier) :
    (s.onTensor tn f).state.tier = s.tier := by
  unfold State.onTensor
  split
  · exact hf _
  · rfl
theorem cpytOp_tier (r) : (s.cpytOp r).state.tier = s.tier :=
  onTensor_tier _ fun x => by
    dsimp only
    split
    · rfl
    · exact tensorTiles_tier _ _ _ _ _
theorem gatherOp_tier (r scatter) : (s.gatherOp r scatter).state.tier = s.tier :=
  onTensor_tier _ fun x => by
    dsimp only
    split
    · rfl
    · exact tensorTiles_tier _ _ _ _ _

/-! Shadowed tensors (R355, R356) -/

theorem cpysOp_tier (tn) : (s.cpysOp tn).state.tier = s.tier :=
  onTensor_tier _ fun _ => (tensorTiles_tier _ _ _ _ _).trans (tensorTiles_tier _ _ _ _ _)
theorem pubOp_tier (tn) : (s.pubOp tn).state.tier = s.tier := onTensor_tier _ fun _ => rfl

/-! Weight commands (R357 to R359) -/

theorem wdigOp_tier (r) : (s.wdigOp r).state.tier = s.tier := by
  unfold State.wdigOp
  dsimp only
  (repeat' split) <;> rfl

/-! Collectives (R360, R361, R363) -/

theorem collective_tier (kind r) : (s.collective kind r).state.tier = s.tier := by
  unfold State.collective
  dsimp only
  split <;> rfl

/-! Issue (R337, R353, R356) -/

@[simp] theorem readIndex_tier (u j q) : (s.readIndex u j q).tier = s.tier := by
  unfold State.readIndex
  dsimp only
  split <;> simp

/-! Collectives (R362) -/

@[simp] theorem setCopy_tier (u j q) : (s.setCopy u j q).tier = s.tier := tier_congr rfl
@[simp] theorem endFor_tier (st) (l : List (Nat × Nat × Cmd)) : (s.endFor st l).tier = s.tier := by
  induction l generalizing s with
  | nil => rfl
  | cons c l ih => exact ih.trans (by simp)
@[simp] theorem endColl_tier (u j st q) : (s.endColl u j st q).tier = s.tier := by simp [State.endColl]
@[simp] theorem abortColl_tier (u j q) : (s.abortColl u j q).tier = s.tier := by simp [State.abortColl]
@[simp] theorem moveColl_tier (q ms) : (s.moveColl q ms).tier = s.tier := foldl_tier (fun t x => by simp) _ _
@[simp] theorem formColl_tier (u j q) : (s.formColl u j q).tier = s.tier := by
  unfold State.formColl
  split <;> simp
@[simp] theorem takeChannel_tier (d p u j q) : (s.takeChannel d p u j q).tier = s.tier := by
  unfold State.takeChannel
  dsimp only
  (repeat' split) <;> simp
@[simp] theorem copyIssue_tier (d p) : (s.copyIssue d p).tier = s.tier := by
  unfold State.copyIssue
  dsimp only
  (repeat' split) <;> simp

/-! Pieces and completion (R337, R346, R347, R349, R367) -/

@[simp] theorem landed_tier (u j q piece n) : (s.landed u j q piece n).tier = s.tier := by
  unfold State.landed
  dsimp only
  split
  · split
    · simp
    · rw [homeWrite_tier]
      split <;> simp
  · simp
@[simp] theorem stopPoison_tier (u j t q) : (s.stopPoison u j t q).tier = s.tier := by simp [State.stopPoison]
@[simp] theorem landPiece_tier (u j piece q) : (s.landPiece u j piece q).tier = s.tier := by
  unfold State.landPiece
  dsimp only
  split
  · rfl
  · split
    · simp
    · rw [landed_tier]
      split <;> simp [foldl_tier]
@[simp] theorem publish_tier (u scope tn) : (s.publish u scope tn).tier = s.tier := by simp [State.publish]
@[simp] theorem finishCopy_tier (u j q) : (s.finishCopy u j q).tier = s.tier := by
  unfold State.finishCopy
  (repeat' split) <;> simp
@[simp] theorem takeMiss_tier (u j q) : (s.takeMiss u j q).tier = s.tier := by simp [State.takeMiss]

/-! Remap tables (R234, R249, R251) -/

@[simp] theorem writeTable_tier (bank) : (s.writeTable bank).tier = s.tier := tier_congr rfl
@[simp] theorem damageRows_tier (f) : (s.damageRows f).tier = s.tier := tier_congr rfl
@[simp] theorem checkBank_tier (bank) : (s.checkBank bank).tier = s.tier := by
  unfold State.checkBank
  dsimp only
  split <;> simp
theorem remapRow_tier {row} (e : s.remapRow row = some t) : t.tier = s.tier := by
  unfold State.remapRow at e
  dsimp only at e
  split at e <;> cases e
  simp
@[simp] theorem programRow_tier (row n passes) : (s.programRow row n passes).1.tier = s.tier := by
  induction n generalizing s passes with
  | zero => rfl
  | succ n ih =>
    unfold State.programRow
    dsimp only
    split
    · rfl
    · next s1 fresh =>
      have remapped : s1.tier = s.tier := by
        split at fresh
        · exact remapRow_tier fresh
        · cases fresh
          rfl
      split
      · simp [remapped]
      · split
        · simp [remapped]
        · next again => simp [ih, remapRow_tier again, remapped]
@[simp] theorem rewriteRow_tier (die k row) : (s.rewriteRow die k row).tier = s.tier := by
  unfold State.rewriteRow
  split <;> simp
@[simp] theorem damage_tier (k) : (s.damage k).tier = s.tier := by
  unfold State.damage
  split <;> simp

end

end Sys2Proof.Machine
end

section
/-! PROOFS. Units, power, resets, packets and the Drone leave the weight tier (O59). -/
namespace Sys2Proof.Machine
open Sys2Proof

section
variable {s t : State} {w : NMap Byte}

/-! Reading the frame again (R453 step 2) -/

@[simp] theorem loadTiles_tier (u) : (s.loadTiles u).tier = s.tier := tier_congr rfl
@[simp] theorem loadSp_tier (u) : (s.loadSp u).tier = s.tier := by
  unfold State.loadSp
  dsimp only
  split <;> simp
@[simp] theorem loadSlot_tier (u z) : (s.loadSlot u z).tier = s.tier := by
  unfold State.loadSlot
  dsimp only
  split <;> simp
@[simp] theorem loadImages_tier (u) : (s.loadImages u).tier = s.tier := by
  unfold State.loadImages
  (repeat' split) <;> simp [foldl_tier]
@[simp] theorem loadFrame_tier (u) : (s.loadFrame u).tier = s.tier := by
  unfold State.loadFrame
  split
  · rfl
  · have context : ∀ (t : State) (e : Engine) (k : Nat) (c : Ctx),
        (if (t.ctxs.find (ckey u e k)).isSome then t.setCtx u e k c else t).tier = t.tier := by
      intro t e k c
      split <;> simp
    simp [foldl_tier, context]

/-! Creating a unit (R23, R46, R94 to R98, R450) -/

@[simp] theorem freshStorage_tier (p) : (s.freshStorage p).tier = s.tier := tier_congr rfl
theorem createUnit_tier {lid stg fails} (e : s.createUnit lid stg fails = some t) : t.tier = s.tier := by
  unfold State.createUnit at e
  dsimp only at e
  (repeat' split at e) <;> cases e
  simp [foldl_tier]
theorem createUnits_tier {lid stg n} (e : s.createUnits lid stg n = some t) : t.tier = s.tier := by
  induction n generalizing s with
  | zero =>
    cases e
    rfl
  | succ n ih =>
    unfold State.createUnits at e
    split at e
    · next created => exact (ih e).trans (createUnit_tier created)
    · cases e
theorem createStages_tier {lid} (l : List (Stage × Nat))
    (e : l.foldlM (fun t p => t.createUnits lid p.2 p.1.umin) s = some t) : t.tier = s.tier := by
  induction l generalizing s with
  | nil =>
    cases e
    rfl
  | cons p l ih =>
    rw [List.foldlM_cons, Option.bind_eq_bind, Option.bind_eq_some_iff] at e
    obtain ⟨t1, created, e⟩ := e
    exact (ih e).trans (createUnits_tier created)
theorem createAll_tier {lid} (e : s.createAll lid = some t) : t.tier = s.tier := createStages_tier _ e

/-! What freed resources allow (R23, R99, R102, R458) -/

@[simp] theorem failPast_tier (lid cause unitid) : (s.failPast lid cause unitid).tier = s.tier := by
  unfold State.failPast
  dsimp only
  split <;> simp [foldl_tier]
@[simp] theorem retryOne_tier (lid r) : (s.retryOne lid r).tier = s.tier := by
  unfold State.retryOne
  dsimp only
  split
  · rfl
  · split
    · rfl
    · split
      · simp
      · split
        · next created => exact createUnit_tier created
        · simp
@[simp] theorem tryRetries_tier (lid) : (s.tryRetries lid).tier = s.tier :=
  (serveAll_tier lid).trans ((foldl_tier (fun _ r => retryOne_tier lid r) _ _).trans (by simp))
theorem growUnit_tier {lid k} (e : s.growUnit lid k = some t) : t.tier = s.tier := by
  unfold State.growUnit at e
  split at e
  · cases e
  · obtain ⟨t1, created, rfl⟩ := Option.map_eq_some_iff.1 e
    simp [createUnit_tier created]
@[simp] theorem tryGrow_tier (lid) : (s.tryGrow lid).tier = s.tier := by
  refine foldl_tier (fun t k => ?_) s _
  split
  · split
    · split
      · next grown => simp [growUnit_tier grown]
      · rfl
    · rfl
  · rfl
@[simp] theorem freed_tier (d) : (s.freed d).tier = s.tier := foldl_tier (fun t x => by simp) _ _

/-! Thermal migration (R108 to R111) -/

@[simp] theorem askYield_tier (u cause D) : (s.askYield u cause D).tier = s.tier := tier_of_sameContents (askYield_sameContents _ _ _ _)
@[simp] theorem dropYield_tier (u cause) : (s.dropYield u cause).tier = s.tier := tier_of_sameContents (dropYield_sameContents _ _ _)
@[simp] theorem setMig_tier (d l m) : (s.setMig d l m).tier = s.tier := tier_congr rfl
@[simp] theorem tryMigrate_tier (d l) : (s.tryMigrate d l).tier = s.tier := by
  unfold State.tryMigrate
  dsimp only
  (repeat' split) <;> simp [foldl_tier]
@[simp] theorem moveUnit_tier (d p q t) : (s.moveUnit d p q t).tier = s.tier := foldl_tier (fun t x => by simp) _ _
@[simp] theorem bump_tier (d k) : (s.bump d k).tier = s.tier := tier_congr rfl
@[simp] theorem makeReady_tier (u) : (s.makeReady u).tier = s.tier := tier_of_sameContents (makeReady_sameContents _ _)
@[simp] theorem releaseMoved_tier (us ok) : (s.releaseMoved us ok).tier = s.tier := foldl_tier (fun t x => by simp) _ _
@[simp] theorem vacated_tier (d l) : (s.vacated d l).tier = s.tier := by
  unfold State.vacated
  dsimp only
  (repeat' split) <;> simp [foldl_tier]
@[simp] theorem leaveZone_tier (u) : (s.leaveZone u).tier = s.tier := by simp [State.leaveZone]
@[simp] theorem dropAsks_tier (d z us) : (s.dropAsks d z us).tier = s.tier := tier_congr rfl
/-- A migration moves the records of the units that it moves, within global memory (R110). -/
@[simp] theorem moveCore_tier (d l k) : (s.moveCore d l k).tier = s.tier := by
  unfold State.moveCore
  extract_lets +onlyGivenNames p q us s1 s2
  have placed : s1.tier = s.tier := by simp [s1, foldl_tier]
  have moved : s2.tier = s.tier := by
    refine (foldl_tier (fun t c => ?_) _ _).trans placed
    exact tier_congr rfl
  clear_value s2
  simp [foldl_tier, moved]
@[simp] theorem execMigrationMove_tier (h : s.tier = w) (die core) : (execMigrationMove die core s).tierIs w := by
  unfold execMigrationMove
  dsimp only
  split
  · split
    · exact h
    · rw [next_tierIs, freed_tier, vacated_tier]
      split <;> simp [h]
  · exact h
@[simp] theorem dropMove_tier (d l again) : (s.dropMove d l again).tier = s.tier := by
  unfold State.dropMove
  dsimp only
  split <;> simp [foldl_tier]
@[simp] theorem giveUpMove_tier (d l) : (s.giveUpMove d l).tier = s.tier := by simp [State.giveUpMove]
@[simp] theorem execOfflineMove_tier (h : s.tier = w) (die core) : (execOfflineMove die core s).tierIs w := by
  unfold execOfflineMove
  dsimp only
  (repeat' split) <;> simp [h]

/-! Starts (R100, R427, R453) -/

@[simp] theorem reenter_tier (u) : (s.reenter u).tier = s.tier := tier_congr rfl
@[simp] theorem startUnit_tier (u) : (s.startUnit u).tier = s.tier := by simp [State.startUnit]
@[simp] theorem wakeSwapped_tier (u) : (s.wakeSwapped u).tier = s.tier := by
  unfold State.wakeSwapped
  split <;> simp
@[simp] theorem wakeAll_tier (d) : (s.wakeAll d).tier = s.tier := foldl_tier (fun t x => by simp) _ _

/-! Samples (R101 to R103) -/

@[simp] theorem setStage_tier (lid k g) : (s.setStage lid k g).tier = s.tier := tier_congr rfl
@[simp] theorem grow_tier (lid k) : (s.grow lid k).tier = s.tier := by
  unfold State.grow
  split
  · next grown => exact growUnit_tier grown
  · (repeat' split) <;> simp
@[simp] theorem withdraw_tier (lid u q) : (s.withdraw lid u q).tier = s.tier := foldl_tier (fun t x => by simp) _ _

/-! Waits that end or last too long (R115, R117, R402, R403, R446) -/

@[simp] theorem deliver_tier (u j) : (s.deliver u j).tier = s.tier := by
  unfold State.deliver
  split <;> simp

/-! Ends (R91, R416, R436, R458) -/

@[simp] theorem execRetire_tier (h : s.tier = w) (x) : (execRetire x s).tierIs w := by
  unfold execRetire
  dsimp only
  split
  · simp [h]
  · generalize asks : (if ((s.unit s.selUnit).retireAt.isSome : Prop) then s else _) = s0
    have asked : s0.tier = w := by
      rw [← asks]
      split <;> simp [h]
    split
    · simp [h]
    · split
      · simp [asked]
      · split
        · split
          · simp [h]
          · next closed => simp [closeSpan_tier closed, asked]
        · simp [asked]
@[simp] theorem execUnitFail_tier (h : s.tier = w) (u) : (execUnitFail u s).tierIs w := by
  unfold execUnitFail
  dsimp only
  split
  · exact h
  · split
    · simp [h]
    · rw [next_tierIs, vacated_tier, freed_tier, serveAll_tier]
      (repeat' split) <;> simp [h]
@[simp] theorem execCancelComplete_tier (h : s.tier = w) (lid) : (execCancelComplete lid s).tierIs w := by
  unfold execCancelComplete
  dsimp only
  split
  · exact h
  · simp [foldl_tier, h]

/-! Power, clocks, heat and soft errors (17) -/

@[simp] theorem setZone_tier (d z x) : (s.setZone d z x).tier = s.tier := tier_of_sameContents (setZone_sameContents _ _ _ _)

/-! Valves (R432, R433) -/

@[simp] theorem setValve_tier (d z v) : (s.setValve d z v).tier = s.tier := by simp [State.setValve]
@[simp] theorem askValve_tier (d z) : (s.askValve d z).tier = s.tier := by simp [State.askValve]
@[simp] theorem setPump_tier : (s.setPump).tier = s.tier := by simp [State.setPump]
@[simp] theorem enterFallback_tier (d z) : (s.enterFallback d z).tier = s.tier := tier_of_sameContents (enterFallback_sameContents _ _ _)
@[simp] theorem resendPump_tier : (s.resendPump).tier = s.tier := tier_of_sameContents (resendPump_sameContents _)

/-! Thermal states (R429 to R431) -/

@[simp] theorem zoneThs_tier (d z n) : (s.zoneThs d z n).tier = s.tier := foldl_tier (fun t x => by simp) _ _
@[simp] theorem sampleZone_tier (d z) : (s.sampleZone d z).tier = s.tier := by simp [State.sampleZone]
@[simp] theorem shut_tier (d p) : (s.shut d p).tier = s.tier := by
  unfold State.shut
  dsimp only
  split <;> simp
@[simp] theorem goOffline_tier (d p) : (s.goOffline d p).tier = s.tier := by simp [State.goOffline, foldl_tier]
@[simp] theorem retryMove_tier (d p) : (s.retryMove d p).tier = s.tier := by simp [State.retryMove]
@[simp] theorem sampleCore_tier (d p) : (s.sampleCore d p).tier = s.tier := by simp [State.sampleCore]
@[simp] theorem execThermalSample_tier (h : s.tier = w) (die temps) : (execThermalSample die temps s).tierIs w := by
  unfold execThermalSample
  dsimp only
  split
  · exact h
  · simp [foldl_tier, h]

/-! Undervolting (R435, R436) -/

@[simp] theorem chargeDomain_tier (d z) : (s.chargeDomain d z).tier = s.tier := tier_congr rfl
@[simp] theorem endCharged_tier (d z u) : (s.endCharged d z u).tier = s.tier := tier_of_sameContents (endCharged_sameContents _ _ _ _)
@[simp] theorem execUndervoltUe_tier (h : s.tier = w) (die zone units) : (execUndervoltUe die zone units s).tierIs w := by
  unfold execUndervoltUe
  split <;> simp [foldl_tier, h]

/-! Lasting faults (R253, R437, R438) -/

@[simp] theorem leaveCore_tier (d p) : (s.leaveCore d p).tier = s.tier := by simp [State.leaveCore]
@[simp] theorem retire_tier (d w) : (s.retire d w).tier = s.tier := by
  unfold State.retire
  split <;> simp
@[simp] theorem noteError_tier (k hours) : (s.noteError k hours).tier = s.tier := tier_congr rfl
@[simp] theorem logError_tier (d w hours) : (s.logError d w hours).tier = s.tier := by simp [State.logError]
@[simp] theorem softError_tier (d w hours) : (s.softError d w hours).tier = s.tier := by
  unfold State.softError
  split <;> simp
@[simp] theorem rowError_tier (d row hours) : (s.rowError d row hours).tier = s.tier := by simp [State.rowError]
@[simp] theorem codewordError_tier (cw hours) : (s.codewordError cw hours).tier = s.tier := by simp [State.codewordError]
@[simp] theorem loseLine_tier (l) : (s.loseLine l).tier = s.tier := by
  unfold State.loseLine
  split <;> simp
@[simp] theorem uncorrectable_tier (d w hours l) : (s.uncorrectable d w hours l).tier = s.tier := by
  unfold State.uncorrectable
  (repeat' split) <;> simp
@[simp] theorem reread_tier (cw ok) : (s.reread cw ok).tier = s.tier := by simp [State.reread]

/-! Engine reset and replay (R310, R454 to R457) -/

@[simp] theorem abortColls_tier (u j mine) : (s.abortColls u j mine).tier = s.tier := foldl_tier (fun t x => by simp) _ _
@[simp] theorem resetEngine_tier (die core e) : (s.resetEngine die core e).tier = s.tier := by
  unfold State.resetEngine
  dsimp only
  split <;> simp [foldl_tier]
@[simp] theorem execEngineReset_tier (h : s.tier = w) (die core e bad vregs hours) :
    (execEngineReset die core e bad vregs hours s).tierIs w := by
  unfold execEngineReset
  extract_lets z uv fail s1
  have failed : ∀ t code u j info, (fail t code u j info).tier = t.tier := by
    intro t code u j info
    unfold fail
    (repeat' split) <;> simp
  have struck : s1.tier = w := by
    unfold s1
    split <;> simp [foldl_tier, failed, h]
  clear_value s1
  split <;> simp [struck]
@[simp] theorem execEngineResetEnd_tier (h : s.tier = w) (die core e) : (execEngineResetEnd die core e s).tierIs w := by
  unfold execEngineResetEnd
  dsimp only
  (repeat' split) <;> simp [foldl_tier, h]

/-! Format (R76, R77) -/

@[simp] theorem send_tier (d ty port fields body) : (s.send d ty port fields body).tier = s.tier :=
  tier_of_sameContents (send_sameContents _ _ _ _ _ _)

/-! Checks (R78, R79) -/

/-- A packet leaves the tier where acting on it does (R458, R462). -/
theorem receive_tier (h : s.tier = w) {ty p f} (hf : ∀ t : State, (f t).tier = t.tier) : (s.receive ty p f).tierIs w := by
  unfold State.receive
  extract_lets far d c die s1 s2
  have acted : s2.tier = w := (hf s1).trans h
  clear_value far c s2
  (repeat' split) <;> simp [acted, h]

/-! Reports (R86 to R88) -/

@[simp] theorem sendReport_tier (d port) : (s.sendReport d port).tier = s.tier := tier_congr rfl

/-! What the types do (R77, R83 to R85, R89 to R91) -/

@[simp] theorem forwardOpen_tier (p) : (s.forwardOpen p).tier = s.tier := by simp [State.forwardOpen]
@[simp] theorem takeSlice_tier (d) : (s.takeSlice d).tier = s.tier := tier_of_sameContents (takeSlice_sameContents _ _)
@[simp] theorem preempt_tier (d) : (s.preempt d).tier = s.tier := tier_of_sameContents (preempt_sameContents _ _)

/-! Completion records (R92, R93) -/

@[simp] theorem doneLaunch_tier (lid) : (s.doneLaunch lid).tier = s.tier := by
  unfold State.doneLaunch
  dsimp only
  split
  · rfl
  · split
    · rfl
    · rw [send_tier, setLaunch_tier]
      exact foldl_tier (fun _ u => widen_tier u 5) s _

/-! Provisional reads and eligibility (R44, R80, R81) -/

@[simp] theorem provisional_tier (lid) : (s.provisional lid).tier = s.tier := by
  unfold State.provisional
  dsimp only
  (repeat' split) <;> simp
theorem admitWith_tier {lid l} (e : s.admitWith lid l = some t) : t.tier = s.tier := (createAll_tier e).trans (setLaunch_tier _ _)
@[simp] theorem passOver_tier (lid) : (s.passOver lid).tier = s.tier := tier_congr rfl
@[simp] theorem execLaunchAdmission_tier (h : s.tier = w) (lid) : (execLaunchAdmission lid s).tierIs w := by
  unfold execLaunchAdmission
  extract_lets l0 t l
  have settled : t.tier = w := (provisional_tier lid).trans h
  clear_value t
  split
  · exact h
  · split
    · simp [settled]
    · split
      · simp [settled]
      · split
        · simp [settled]
        · split
          · exact settled
          · dsimp only
            split
            · simp [settled]
            · split
              · simp [settled]
              · split
                · next admitted => exact (admitWith_tier admitted).trans settled
                · simp [settled]

/-! Translation messages from the host -/

@[simp] theorem newGen_tier (d job gen) : (s.newGen d job gen).tier = s.tier := by simp [State.newGen]
theorem receiveMsg_tier (h : s.tier = w) {ty m f} (hf : ∀ t : State, (f t).tier = t.tier) :
    (s.receiveMsg ty m f).tierIs w := by
  unfold State.receiveMsg
  dsimp only
  (repeat' split) <;> simp [hf, h]

/-! Each die's Drone -/

@[simp] theorem setDrone_tier (d x) : (s.setDrone d x).tier = s.tier := tier_congr rfl

/-! Start-up (R248, R251, R462, R463) -/

@[simp] theorem bootDie_tier (d) : (s.bootDie d).tier = s.tier := by simp [State.bootDie]
/-- A cold start loses global memory, and keeps the weight tier (R8, R231). -/
@[simp] theorem cold_tier : s.cold.tier = s.tier := tier_congr rfl
@[simp] theorem findCopies_tier (cs) : (s.findCopies cs).tier = s.tier := tier_congr rfl
@[simp] theorem checkBanks_tier (cs) : (s.checkBanks cs).tier = s.tier := foldl_tier (fun t x => by simp) _ _
@[simp] theorem execPowerOnReset_tier (h : s.tier = w) (x) : (execPowerOnReset x s).tierIs w := by simp [execPowerOnReset, foldl_tier, h]

/-! Requests and answers (R465) -/

@[simp] theorem answer_tier (d code status bs) : (s.answer d code status bs).tier = s.tier := tier_congr rfl
theorem request_tier (h : s.tier = w) {d code status f} (hf : ∀ t : State, (f t).tier = t.tier) :
    (s.request d code status f).tierIs w := by
  unfold State.request
  (repeat' split) <;> simp [hf, h]
theorem managed_tier (h : s.tier = w) {d code status f} (hf : ∀ t : State, (f t).tier = t.tier) :
    (s.managed d code status f).tierIs w := request_tier h hf
@[simp] theorem spdmTo_tier (d code n bs) : (s.spdmTo d code n bs).tier = s.tier := tier_congr rfl
@[simp] theorem beginRemeas_tier (d name) : (s.beginRemeas d name).tier = s.tier := tier_congr rfl
@[simp] theorem endRemeas_tier (d l) : (s.endRemeas d l).tier = s.tier := tier_congr rfl
@[simp] theorem finishRemeas_tier (d) : (s.finishRemeas d).tier = s.tier := by
  unfold State.finishRemeas
  split <;> simp
@[simp] theorem startRemeas_tier (d) : (s.startRemeas d).tier = s.tier := by
  unfold State.startRemeas
  split <;> simp
@[simp] theorem serveRemeas_tier (d) : (s.serveRemeas d).tier = s.tier := by simp [State.serveRemeas]
/-- A die that starts again loses its part of global memory (R462). -/
@[simp] theorem resetDie_tier (d) : (s.resetDie d).tier = s.tier := tier_congr rfl

/-! The Voicer's rewrites (R250, R438, R463) -/

@[simp] theorem renewRow_tier (row passes) : (s.renewRow row passes).tier = s.tier := by
  unfold State.renewRow
  dsimp only
  split
  · rfl
  · split
    · rfl
    · split
      · exact tier_congr rfl
      · next s1 renewed =>
        have remapped : s1.tier = s.tier := by
          split at renewed
          · cases renewed
            exact tier_congr rfl
          · exact (remapRow_tier renewed).trans (tier_congr rfl)
        split <;> simp [remapped]

end

end Sys2Proof.Machine
end

section
/-! PROOFS. Every instruction, event and turn that is no write of the Voicer's leaves the weight tier (O59). -/
namespace Sys2Proof.Machine
open Sys2Proof

section
variable {s t : State} {w : NMap Byte}

/-! Words whose course turns on the end of a span, or on more than one check -/

theorem execLd_tier (h : s.tier = w) (sb d a z x o) : (execLd sb d a z x o s).tierIs w := by
  unfold execLd
  dsimp only
  split
  · split
    · simp [h]
    · next loaded => simp [aperLoad_tier loaded, h]
  · split
    · simp [h]
    · split <;> simp [h]
theorem execMts_tier (h : s.tier = w) (sb a i) : (execMts sb a i s).tierIs w := by
  unfold execMts
  split
  · next written => simp [writeSreg_tier written, h]
  · simp [h]
theorem execBara_tier (h : s.tier = w) (x a) : (execBara x a s).tierIs w := by
  unfold execBara
  dsimp only
  split
  · simp [h]
  · split
    · simp [h]
    · split
      · simp [h]
      · next closed =>
        have settled := (closeSpan_tier closed).trans h
        (repeat' split) <;> simp [settled]
theorem execSemp_tier (h : s.tier = w) (x a b c) : (execSemp x a b c s).tierIs w := by
  unfold execSemp
  dsimp only
  split
  · simp [h]
  · split
    · simp [h]
    · simp [h]
theorem execYield_tier (h : s.tier = w) (x) : (execYield x s).tierIs w := by
  unfold execYield
  dsimp only
  split
  · simp [h]
  · split
    · simp [h]
    · next closed =>
      have settled := (closeSpan_tier closed).trans h
      (repeat' split) <;> simp [settled]
theorem execMsync_tier (h : s.tier = w) (a z c) : (execMsync a z c s).tierIs w := by
  unfold execMsync
  extract_lets stopAt
  have stopped : ∀ o : Out, o.tierIs w → (stopAt o).tierIs w := by
    intro o ho
    unfold stopAt
    (repeat' split) <;> simp_all
  refine stopped _ (engineWord_submit_tier h fun x e => ?_)
  split at e
  · cases e
    exact h
  · obtain ⟨p, -, e⟩ := bind_ok e
    cases e
    exact h
/-- A word that completes at decode and leaves its own state. -/
theorem decodeTime_self_tier (h : s.tier = w) (e) : (s.decodeTime e (.ok s)).tierIs w :=
  decodeTime_tier h fun t e => by
    cases e
    exact h
theorem execMnop_tier (h : s.tier = w) (n) : (execMnop n s).tierIs w := by
  unfold execMnop
  split
  · exact decodeTime_self_tier h _
  · refine engineWord_submit_tier h fun x e => ?_
    cases e
    exact h
theorem execCwait_tier (h : s.tier = w) (a) : (execCwait a s).tierIs w := by
  simp [execCwait, decodeTime_self_tier, h]
theorem execRcvdata_tier (h : s.tier = w) (die off bytes last) : (execRcvdata die off bytes last s).tierIs w := by
  unfold execRcvdata
  split
  · exact h
  · split
    · exact request_tier h fun _ => rfl
    · dsimp only
      (repeat' split) <;> simp [h]
/-- The Voicer's writing again of a row that no recovery image holds keeps its contents (R250, R438). -/
theorem execVoicerRowRewrite_tier (h : s.tier = w) {x} (quiet : s.writesTier (.voicerRowRewrite x) = false) :
    (execVoicerRowRewrite x s).tierIs w := by
  unfold execVoicerRowRewrite
  rw [State.writesTier] at quiet
  split
  · exact h
  · rw [quiet]
    simp [h]
theorem execContextSave_tier (h : s.tier = w) (u) : (execContextSave u s).tierIs w := by
  unfold execContextSave
  split <;> simp [h]
theorem execTimedCommandStamp_tier (h : s.tier = w) (u j) : (execTimedCommandStamp u j s).tierIs w := by
  unfold execTimedCommandStamp
  dsimp only
  (repeat' split) <;> simp [h]
theorem execSwapBegin_tier (h : s.tier = w) (u j) : (execSwapBegin u j s).tierIs w := by
  unfold execSwapBegin
  dsimp only
  (repeat' split) <;> simp [h]

/-- Every instruction and event that is no write of the Voicer's leaves the tier: by the shape that its word shares with others, or by
its own rule. -/
theorem exec_tier (h : s.tier = w) {i : Instr} (quiet : s.writesTier i = false) : Out.tierIs w (exec i s) := by
  cases i with
  | voicerRowProgram | regmk => cases quiet
  | voicerRowRewrite => exact execVoicerRowRewrite_tier h quiet
  | add | sub | and | or | xor | shl | shr | sra | mul | mulh | min | max | agen | addi | andi | ori | xori | shli | shri | srai | lui | sel
  | fcls | popc | clz | bext | probe => exact next_tierIs.2 ((result_tier _ _).trans h)
  | fadd | fsub | fmul | ffma | fmin | fmax | fsgn | fsqs | frcs => exact next_tierIs.2 ((fpResult_tier _ _).trans h)
  | cmp | cmpi | plog => exact next_tierIs.2 ((resultP_tier _ _).trans h)
  | br | brp | call => exact next_tierIs.2 ((mapStream_tier _).trans h)
  | cncl | cmplr => exact next_tierIs.2 ((stallOn_tier _).trans h)
  | jr | ret => exact jumpTo_tier h _
  | loopImm | loopReg | loopxImm | loopxReg => exact enterLoop_tier h _ _ _ _
  | qpush | qtryPush => exact push_tier h _ _ _ _
  | qpop | qtryPop => exact pop_tier h _ _ _ _
  | ld a => exact execLd_tier h a ..
  | contextSave => exact execContextSave_tier h _
  | mts a => exact execMts_tier h a ..
  | bara a => exact execBara_tier h a ..
  | semp a => exact execSemp_tier h a ..
  | yield a => exact execYield_tier h a ..
  | msync a => exact execMsync_tier h a ..
  | mnop => exact execMnop_tier h _
  | cwait => exact execCwait_tier h _
  | rcvdata => exact execRcvdata_tier h _ _ _ _
  | timedCommandStamp => exact execTimedCommandStamp_tier h _ _
  | swapBegin => exact execSwapBegin_tier h _ _
  | rep | mfs | halt | st | lds | sts | amo | amr | span | cflush | bari | barw | mon | mwait | semw | fork | holdingDieAnswer | ldw =>
    simp only [exec, execRep, execMfs, execHalt, execSt, execLds, execSts, execAmo, execAmr, execSpan, execCflush, execBari, execBarw,
      execMon, execMwait, execSemw, execFork, execHoldingDieAnswer, execLdw]
    (repeat' split) <;> simp [h]
  | mergeGroupClose | consortTimeout | matrixCommandComplete | swapSignalArrival | swapLand | engineIssue | copyPieceLand
  | copyCommandComplete | missedPromise | collectiveTimeout | dwsSample | yieldRequestPost | syncStall | mwaitDeadline
  | engineEventDelivery | valveResend | bellowsGrant | breathPreposition | clockSwitch | undervoltReenable | correctedError | globalHold
  | sliceStart | done | launchBlocking | invack =>
    simp only [exec, execMergeGroupClose, execConsortTimeout, execMatrixCommandComplete, execSwapSignalArrival, execSwapLand,
      execEngineIssue, execCopyPieceLand, execCopyCommandComplete, execMissedPromise, execCollectiveTimeout, execDwsSample,
      execYieldRequestPost, execSyncStall, execMwaitDeadline, execEngineEventDelivery, execValveResend, execBellowsGrant,
      execBreathPreposition, execClockSwitch, execUndervoltReenable, execCorrectedError, execGlobalHold, execSliceStart, execDone,
      execLaunchBlocking, execInvack]
    (repeat' split) <;> simp [h]
  | mfmt | mfmtTs | mfsel | mbnk | mhold | mholdRel | vshp | cprq =>
    simp only [exec, execMfmt, execMfmtTs, execMfsel, execMbnk, execMhold, execMholdRel, execVshp, execCprq]
    refine decodeTime_tier h fun t e => ?_
    (repeat' split at e) <;> cases e <;> simp [h]
  | mzero | mdcySet =>
    refine engineWord_submit_tier h fun x e => ?_
    split at e
    · cases e
    · exact (prepRows_tier e).trans h
  | mdcy =>
    refine engineWord_submit_tier h fun x e => ?_
    split at e
    · cases e
    · split at e
      · cases e
      · exact (prepRows_tier e).trans h
  | mldz =>
    refine engineWord_submit_tier h fun x e => ?_
    split at e
    · exact (prepRows_tier e).trans h
    · cases e
  | mdrn =>
    refine engineWord_submit_tier h fun x e => ?_
    split at e
    · split at e
      · cases e
      · exact (prepRows_tier e).trans h
    · cases e
  | mswp | mstat | cfnc =>
    simp only [exec, execMswp, execMstat, execCfnc]
    refine engineWord_submit_tier h fun x e => ?_
    (repeat' split at e) <;> cases e
    all_goals exact h
  | munp =>
    refine engineWord_submit_tier h fun x e => ?_
    split at e
    · cases e
      exact h
    · exact (prepPref_tier e).trans h
  | csig =>
    refine engineWord_submit_tier h fun x e => ?_
    obtain ⟨p, -, e⟩ := bind_ok e
    cases e
    exact h
  | mprefW =>
    refine engineWord_submitDrawn_tier h fun x e => ?_
    (repeat' split at e) <;> cases e
    exact h
  | mtrq =>
    refine engineWord_submitDrawn_tier h fun x e => ?_
    (repeat' split at e)
    case h_2.isFalse.isFalse =>
      obtain ⟨-, -, e⟩ := bind_ok e
      cases e
      exact h
    all_goals cases e
  | vmov | vsplat | viota | vfadd | vfsub | vfmul | vffma | vfmin | vfmax | vfabs | vfneg | vmul | vmin | vmax | vand | vor | vxor | vshl
  | vshr | vsra | vfcmp | vcmp | vsel | mlog | vrsqs | vrcps | vexs | vlgs | vred | vscan | vtrn | vrot | vperm | vrns | vcrt =>
    exact tileWord_tier h _ _ _ _
  | vldg | vstg | vadd | vsub | vcvt | vqnt | vdqn => exact vectorWord_self_tier h _ _ _ _ _ _ _
  | vld | vst => exact vectorWord_tier h fun _ e => (checkTile_tier e).trans h
  | vacr | vacw => exact vectorWord_tier h fun _ e => (checkWin_tier e).trans h
  | cpy | cpy2 => exact copyWord_tier h ((linear_tier _ _ _ _ _).trans h) _ _ _ _ _
  | cpyt => exact copyWord_tier h ((cpytOp_tier _).trans h) _ _ _ _ _
  | gth | sct => exact copyWord_tier h ((gatherOp_tier _ _).trans h) _ _ _ _ _
  | cpys => exact copyWord_tier h ((cpysOp_tier _).trans h) _ _ _ _ _
  | pub => exact copyWord_tier h ((pubOp_tier _).trans h) _ _ _ _ _
  | wprg => exact copyWord_tier h (op := s.wprgOp _) ((location_tier _ _ _ _ _).trans h) _ _ _ _ _
  | wvfy => exact copyWord_tier h (op := s.wvfyOp _) ((location_tier _ _ _ _ _).trans h) _ _ _ _ _
  | wdig => exact copyWord_tier h ((wdigOp_tier _).trans h) _ _ _ _ _
  | cred | cag | cbct => exact copyWord_tier h ((collective_tier _ _).trans h) _ _ _ _ _
  | mma => exact engineWord_submitDrawn_tier h fun _ e => (prepMma_tier e).trans h
  | mmag => exact engineWord_submitDrawn_tier h fun _ e => (prepMmag_tier e).trans h
  | mpref => exact engineWord_submit_tier h fun _ e => (prepPref_tier e).trans h
  | jobopen | jobclose | phasedef | graphdef | launch | cancel | slice | query =>
    simp only [exec, execJobopen, execJobclose, execPhasedef, execGraphdef, execLaunch, execCancel, execSlice, execQuery]
    refine receive_tier (by simp [h]) fun t => ?_
    (repeat' split) <;> simp
  | pready | inval =>
    simp only [exec, execPready, execInval]
    refine receiveMsg_tier h fun t => ?_
    (repeat' split) <;> simp [foldl_tier]
  | getVersion | getCapabilities | negotiateAlgorithms | keyExchange | finish | endSession | getDigests | getCertificate | challenge
  | getMeasurements =>
    simp only [exec, execGetVersion, execGetCapabilities, execNegotiateAlgorithms, execKeyExchange, execFinish, execEndSession,
      execGetDigests, execGetCertificate, execChallenge, execGetMeasurements]
    exact request_tier h fun _ => by simp
  | keyset | keydel | regdel | reglist | remeas | cntrd | cfgset =>
    simp only [exec, execKeyset, execKeydel, execRegdel, execReglist, execRemeas, execCntrd, execCfgset]
    exact managed_tier h fun t => by simp [foldl_tier]
  | nop | lbrk | fcmp | fcvt | fence | rdv | ekill | park | parkUn | brth | acqp | relp | clkd | trap | tret | migrationAbandon | unitStart
  | swapOut | dataArrival | updateLineMerge | completionReport | stat | refresh | undervoltInterval | verticalBusRetire | powerLoss
  | hostWrite | hostReadRequest | ualinkReadRequest =>
    simp [exec, execNop, execLbrk, execFcmp, execFcvt, execFence, execRdv, execEkill, execPark, execParkUn, execBrth, execAcqp, execRelp,
      execClkd, execTrap, execTret, execMigrationAbandon, execUnitStart, execSwapOut, execDataArrival, execUpdateLineMerge,
      execCompletionReport, execStat, execRefresh, execUndervoltInterval, execVerticalBusRetire, execPowerLoss, execHostWrite,
      execHostReadRequest, execUalinkReadRequest, foldl_tier, h]
  | _ => simp [exec, h]

/-- A word of a stream writes no cell of the tier: who writes it are events. -/
theorem quiet_of_word {i : Instr} (word : i.home.isSome = true) (s : State) : s.writesTier i = false := by
  cases i with
  | voicerRowProgram | regmk | voicerRowRewrite => cases word
  | _ => rfl
/-- What a stream decodes is a word (R141). -/
theorem word_of_decode {k : StreamKind} {acc : Nat} {x : Word} {i : Instr} (decoded : decodeWord k acc x = .ok i) : i.home.isSome = true := by
  have wf := (decodeWord_eq_ok_iff_encode.1 decoded).1
  unfold Instr.wf at wf
  cases hi : i.home with
  | none => cases k <;> simp [hi] at wf
  | some _ => rfl
theorem word_of_instrOf {sel : Sel} {u : Nat} {rep : Option Rep} {x : Word} {q : Word × Instr} (e : s.instrOf sel u rep x = .ok q) :
    q.2.home.isSome = true := by
  unfold State.instrOf at e
  dsimp only at e
  split at e
  · cases e
  · next decoded =>
    cases e
    exact word_of_decode decoded
theorem word_of_checkSlot {u : Nat} {pc : X} {k : Nat} {q : Slot × Option Nat} (e : s.checkSlot u pc k = .ok q) :
    q.1.instr.home.isSome = true := by
  unfold State.checkSlot at e
  dsimp only at e
  split at e
  · cases e
  · split at e
    · cases e
    · split at e
      · cases e
      · next decoded =>
        cases e
        exact word_of_instrOf decoded

/-! The turns of a step (R104, R126, R142) -/

@[simp] theorem takeCycle_tier (sel) : (s.takeCycle sel).tier = s.tier := by
  unfold State.takeCycle
  split <;> simp
@[simp] theorem resume_tier (u sels) : (s.resume u sels).tier = s.tier := by simp [State.resume]
@[simp] theorem begin_tier (sel u) : (s.begin sel u).tier = s.tier := by simp [State.begin]
/-- Words that execute one after another leave the tier together. -/
theorem runAll_tier (u ts) (xs : List Slot) (words : ∀ x ∈ xs, x.instr.home.isSome = true) : (s.runAll u ts xs).1.tier = s.tier := by
  induction xs generalizing s ts with
  | nil => rfl
  | cons x xs ih =>
    obtain ⟨word, words⟩ := List.forall_mem_cons.1 words
    unfold State.runAll
    split
    · next t run =>
      have ran : Out.tierIs s.tier (s.run1 u x) := exec_tier (by simp) (quiet_of_word word _)
      rw [run, next_tierIs] at ran
      split
      · exact (ih _ words).trans ran
      · exact ih _ words
    · exact ih _ words
@[simp] theorem meet_tier (u) (ks : List Nat) : (s.meet u ks).tier = s.tier := by
  induction ks generalizing s with
  | nil => rfl
  | cons k ks ih => exact ih.trans (by simp)
@[simp] theorem settleBundle_tier (u) : (s.settleBundle u).tier = s.tier := by
  unfold State.settleBundle
  split <;> simp
theorem mem_of_mem_inRank {x : Slot} {xs : List Slot} (h : x ∈ inRank xs) : x ∈ xs := by
  unfold inRank at h
  rcases List.mem_append.1 h with h | h
  · obtain ⟨r, -, h⟩ := List.mem_flatMap.1 h
    exact List.mem_of_mem_filter h
  · exact List.mem_of_mem_filter (List.mem_of_mem_take h)
@[simp] theorem issueSync_tier (h : s.tier = w) (u pc ks) : (s.issueSync u pc ks).tierIs w := by
  unfold State.issueSync
  extract_lets +onlyGivenNames s0 got bad ok sf
  have fetched : sf.tier = w := by simp [sf, s0, foldl_tier, h]
  have words : ∀ x ∈ inRank (ok.map (·.1)), x.instr.home.isSome = true := by
    intro x hx
    obtain ⟨q, hq, rfl⟩ := List.mem_map.1 (mem_of_mem_inRank hx)
    obtain ⟨r, hr, e⟩ := List.mem_filterMap.1 hq
    obtain ⟨k, -, rfl⟩ := List.mem_map.1 hr
    split at e
    · cases e
    · next slot =>
      cases e
      exact word_of_checkSlot slot
  clear_value sf ok
  split
  · simp [fetched]
  · dsimp only
    split
    · simp [fetched]
    · split
      · simp [fetched]
      · rw [next_tierIs, settleBundle_tier, runAll_tier _ _ _ words]
        simp [fetched]
@[simp] theorem issueVoice_tier (h : s.tier = w) (u j) : (s.issueVoice u j).tierIs w := by
  unfold State.issueVoice
  dsimp only
  split
  · simp [h]
  · split
    · split <;> simp [h]
    · split
      · simp [h]
      · split
        · simp [h]
        · next decoded =>
          split
          · simp [h]
          · exact exec_tier (by simp [h]) (quiet_of_word (word_of_instrOf decoded) _)
@[simp] theorem issueCtx_tier (h : s.tier = w) (u e j) : (s.issueCtx u e j).tierIs w := by
  unfold State.issueCtx
  dsimp only
  split
  · simp [h]
  · split
    · simp [h]
    · next decoded =>
      split
      · simp [h]
      · exact exec_tier (by simp [h]) (quiet_of_word (word_of_instrOf decoded) _)
theorem streamTurn_tier (h : s.tier = w) (sel) : (s.streamTurn sel).tierIs w := by
  unfold State.streamTurn
  (repeat' split) <;> simp [h]

/-! The passing of die clock cycles (R104, R105) -/

@[simp] theorem endCycle_tier (d p) : (s.endCycle d p).tier = s.tier := by
  unfold State.endCycle
  split
  · refine foldl_tier (fun t m => ?_) s _
    have stamped := leaves_tier rfl (execTimedCommandStamp_tier (s := t) rfl m.1 m.2)
    exact leaves_tier stamped (execSwapBegin_tier stamped m.1 m.2)
  · rfl
@[simp] theorem startCycle_tier (d p) : (s.startCycle d p).tier = s.tier := by
  unfold State.startCycle
  split
  · simp [foldl_tier]
  · rfl
@[simp] theorem pass_tier (d n) : (s.pass d n).tier = s.tier := by
  unfold State.pass
  extract_lets +onlyGivenNames s0
  have granted : s0.tier = s.tier := (wakeAll_tier d).trans (foldl_tier (fun t pa => grantAll_tier pa) s _)
  clear_value s0
  refine (foldl_tier (fun t l => giveUpMove_tier d l) _ _).trans ?_
  simp [granted]
@[simp] theorem tick1_tier (d) : (s.tick1 d).tier = s.tier := by
  simp only [State.tick1]
  rw [foldl_tier (fun t p => startCycle_tier d p), pass_tier, foldl_tier (fun t p => endCycle_tier d p)]
theorem ticks_tier (d n) : (s.ticks d n).tier = s.tier := by
  induction n generalizing s with
  | zero => rfl
  | succ n ih => exact ih.trans (tick1_tier d)
theorem tick_tier (d n) : (s.tick d n).tier = s.tier := by
  unfold State.tick
  split
  · exact pass_tier d n
  · exact ticks_tier d n
theorem turn_tier (x : Turn) (h : s.tier = w) (quiet : ∀ i, x = .event i → s.writesTier i = false) : (s.turn x).tierIs w := by
  cases x with
  | stream sel => exact streamTurn_tier h sel
  | event i =>
    unfold State.turn
    dsimp only
    split
    · exact exec_tier h (quiet i rfl)
    · exact h
  | tick die n => exact (tick_tier die n).trans h
/-- What an event writes of the tier does not depend on the agenda and the free values. -/
theorem writesTier_agenda (s : State) (ts : List Turn) (n : Nat) (i : Instr) :
    ({ s with agenda := ts, fresh := n } : State).writesTier i = s.writesTier i := rfl
theorem step_tier (quiet : ∀ i, (s.agenda.head?).getD (Config.nextTurn s.fresh) = .event i → s.writesTier i = false) :
    Out.tierIs s.tier (step s) := by
  unfold step
  split
  · next empty =>
    refine turn_tier _ (by simp) fun i e => ?_
    exact quiet i (by rw [empty]; exact e)
  · next next =>
    refine turn_tier _ (by simp) fun i e => ?_
    exact (writesTier_agenda s _ _ i).trans (quiet i (by rw [next]; exact e))

end

/-- Settles O59: what an instruction, an event or a turn makes of a state is composed of operations none of which but `State.putCells`
and the making of a region writes a cell. -/
theorem weightTierWriters : Obligations.WeightTierWriters := by
  unfold Obligations.WeightTierWriters
  refine ⟨fun i s t quiet e => ?_, fun s t quiet e => ?_⟩
  · have kept := exec_tier (s := s) rfl quiet
    rw [e, next_tierIs] at kept
    exact tier_eq_iff.1 kept
  · have kept := step_tier quiet
    rw [e, next_tierIs] at kept
    exact tier_eq_iff.1 kept

end Sys2Proof.Machine
end

section
/-! PROOFS. What the Voicer makes of the rows that it programs and of those that it writes again (O50). -/
namespace Sys2Proof.NMap

variable {α : Type} [DecidableEq α] {d : α}

/-- Writes that name no place leave it. -/
theorem getD_foldl_putD_ne {l : List (Nat × α)} {k : Nat} (h : ∀ c ∈ l, c.1 ≠ k) (m : NMap α) :
    (l.foldl (fun m c => NMap.putD d m c.1 c.2) m).getD k d = m.getD k d := by
  induction l generalizing m with
  | nil => rfl
  | cons c l ih =>
    obtain ⟨hc, hl⟩ := List.forall_mem_cons.1 h
    exact (ih hl _).trans (getD_putD_ne hc.symm)
/-- Of writes that agree about a place each stands. -/
theorem getD_foldl_putD {l : List (Nat × α)} {c : Nat × α} (hc : c ∈ l) (agree : ∀ e ∈ l, e.1 = c.1 → e.2 = c.2) (m : NMap α) :
    (l.foldl (fun m c => NMap.putD d m c.1 c.2) m).getD c.1 d = c.2 := by
  induction l generalizing m with
  | nil => cases hc
  | cons a l ih =>
    obtain ⟨ha, hl⟩ := List.forall_mem_cons.1 agree
    rw [List.foldl_cons]
    by_cases later : ∃ e ∈ l, e.1 = c.1
    · obtain ⟨e, he, key⟩ := later
      have same : e = c := Prod.ext key (hl e he key)
      exact ih (same ▸ he) hl _
    · have other : ∀ e ∈ l, e.1 ≠ c.1 := fun e he key => later ⟨e, he, key⟩
      rw [getD_foldl_putD_ne other]
      rcases List.mem_cons.1 hc with rfl | hc
      · exact getD_putD_self _ _ _ _
      · exact absurd rfl (other c hc)

end Sys2Proof.NMap

namespace Sys2Proof.Machine
open Sys2Proof

section
variable {s t : State}

/-! Cells written (R231, R246) -/

theorem cell_congr (h : t.wt = s.wt) (wa : Nat) : t.cell wa = s.cell wa := by rw [State.cell, State.cell, h]
theorem putCells_cell {l : List (Nat × Byte)} {c : Nat × Byte} (hc : c ∈ l) (agree : ∀ e ∈ l, e.1 = c.1 → e.2 = c.2) (s : State) :
    (s.putCells l).cell c.1 = c.2 := NMap.getD_foldl_putD hc agree s.wt
theorem putCells_cell_ne {l : List (Nat × Byte)} {wa : Nat} (h : ∀ c ∈ l, c.1 ≠ wa) (s : State) : (s.putCells l).cell wa = s.cell wa :=
  NMap.getD_foldl_putD_ne h s.wt

/-! Write-and-check (R247) -/

/-- A row that is not worn out and takes at most eight pulses is completed where it lies. -/
theorem programRow_few {row passes : Nat} (fit : s.wear.getD (s.wearKey row) 0 < 9 * 10 ^ 9) (few : passes ≤ 8) (n : Nat) :
    s.programRow row (n + 1) passes =
      ({ s with wear := s.wear.put (s.wearKey row) (s.wear.getD (s.wearKey row) 0 + passes) }, true) := by
  unfold State.programRow
  simp only [decide_eq_false (not_le.2 fit), Bool.false_eq_true, if_false, if_pos few, min_eq_right few]
theorem programRow_few_cell {row passes : Nat} (fit : s.wear.getD (s.wearKey row) 0 < 9 * 10 ^ 9) (few : passes ≤ 8) :
    (s.programRow row 166 passes).2 = true ∧ ∀ wa, (s.programRow row 166 passes).1.cell wa = s.cell wa := by
  rw [programRow_few fit few 165]
  exact ⟨rfl, fun _ => rfl⟩

/-! What a landing leaves of the wear (R247, R347) -/

theorem writeList_wear (s : State) (u scope key : Nat) (l : List (Nat × Byte)) : (s.writeList u scope key l).wear = s.wear := by
  rw [writeList_onlyBytes s u scope key l]
theorem homeWrite_wear (s : State) (u scope pa : Nat) (bs : List Byte) : (s.homeWrite u scope pa bs).wear = s.wear :=
  writeList_wear s u scope _ _
theorem releaseAll_wear (s : State) (pa S : Nat) : (s.releaseAll pa S).wear = s.wear :=
  List.foldlRecOn _ _ (motive := fun t : State => t.wear = s.wear) rfl fun _ h _ _ => h
theorem landed_wear (s : State) (u j : Nat) (q : Cmd) (piece n : Nat) : (s.landed u j q piece n).wear = s.wear := by
  unfold State.landed
  dsimp only
  split
  · split
    · rfl
    · rw [homeWrite_wear]
      split
      · exact releaseAll_wear _ _ _
      · rfl
  · rfl
theorem rewriteRow_wear (s : State) (die k row : Nat) : (s.rewriteRow die k row).wear = s.wear := by
  unfold State.rewriteRow
  (repeat' split) <;> rfl

/-! A row of a WPRG (R245 to R248) -/

/-- The cells that a WPRG writes in a row, each with its source. -/
def State.rowCells (s : State) (u : Nat) (q : Cmd) (row : Nat) : List (Nat × Loc) :=
  ((s.weightAddrs u q).zip (q.moves.map (·.1))).filter fun x => decide (rowKey x.1 = row)
/-- Those cells with the bytes that their sources hold. -/
def State.rowBytes (s : State) (u : Nat) (q : Cmd) (row : Nat) : List (Nat × Byte) := (s.rowCells u q row).map fun x => (x.1, s.locRead u x.2)

/-- A row that nothing stands in the way of, and that takes few pulses, is written and lands. -/
theorem execVoicerRowProgram_few {u j cn row passes k : Nat} {bank : Bool} {q : Cmd} {r : Region} (usable : s.usableRow row = true)
    (fit : s.wear.getD (s.wearKey row) 0 < 9 * 10 ^ 9) (pulsed : 1 ≤ passes) (few : passes ≤ 8) (cmd : s.copyCmd u j cn = some q)
    (banked : q.wbank = some (k, bank)) (region : s.regions.find k = some r) (wprg : Instr.isWprg q.instr = true)
    (some_ : s.rowCells u q row ≠ []) (first : q.landed.find row = none) (running : q.status = 0)
    (free : r.pair = true → r.pending = [] ∧ s.bankReaders k bank = false) (clean : ∀ x ∈ s.rowCells u q row, s.locPoison x.2 = none)
    (whole : ∀ c ∈ s.wpoison, rowKey (c.1 * 64) ≠ row) :
    execVoicerRowProgram u j cn row passes s = .next ((((s.programRow row 166 passes).1.putCells (s.rowBytes u q row)).rewriteRow
      (s.unit u).place.die k row).landed u j q row (s.rowCells u q row).length) := by
  have go : ¬(Instr.isWprg q.instr = false ∨ s.rowCells u q row = [] ∨ (q.landed.find row).isSome = true ∨ q.status ≠ 0 ∨ passes = 0 ∨
      s.usableRow row = false ∨ (((s.regions.find k).getD {}).pair = true ∧
        (((s.regions.find k).getD {}).pending ≠ [] ∨ s.bankReaders k bank = true))) := by
    rw [region, Option.getD_some]
    rintro (h | h | h | h | h | h | ⟨paired, h⟩)
    · exact absurd (wprg.symm.trans h) (by decide)
    · exact some_ h
    · rw [first] at h
      cases h
    · exact h running
    · omega
    · exact absurd (usable.symm.trans h) (by decide)
    · obtain ⟨landed, unread⟩ := free paired
      rcases h with h | h
      · exact h landed
      · exact absurd (unread.symm.trans h) (by decide)
  have sound : (s.rowCells u q row).findSome? (fun x => s.locPoison x.2) = none := List.findSome?_eq_none_iff.2 clean
  have good : s.wpoison.find? (fun w => decide (rowKey (w.1 * 64) = row) && !(s.rowCells u q row).any fun x => decide (x.1 / 64 = w.1)) =
      none := List.find?_eq_none.2 fun c hc => by simp [whole c hc]
  unfold State.rowBytes
  unfold State.rowCells at *
  simp only [execVoicerRowProgram, cmd, banked, if_neg go, sound, good, (programRow_few_cell fit few).1, if_true]

/-! A row written again (R250) -/

theorem execVoicerRowRewrite_renew {row passes : Nat} (pulsed : 1 ≤ passes) (own : row ∉ (s.drone (rowDie row)).rows) :
    execVoicerRowRewrite ⟨row, passes⟩ s = .next (s.renewRow row passes) := by
  unfold execVoicerRowRewrite
  rw [if_neg (Nat.ne_of_gt pulsed), if_neg (by simpa using own)]
/-- A row that a second read corrected is pulsed where it lies. -/
theorem renewRow_here {row passes : Nat} (usable : s.usableRow row = true) (fit : s.wear.getD (s.wearKey row) 0 < 9 * 10 ^ 9)
    (few : passes ≤ 8) (due : s.rewrites.find row = some true) (idle : s.bankIdle (row / 8192) = true) :
    s.renewRow row passes =
      { s with rewrites := s.rewrites.del row, wear := s.wear.put (s.wearKey row) (s.wear.getD (s.wearKey row) 0 + passes) } := by
  unfold State.renewRow
  simp only [due, usable, idle, Bool.true_eq_false, or_self, if_false, if_true]
  rw [programRow_few (s := { s with rewrites := s.rewrites.del row }) fit few 165]
  rfl

end

/-- Settles O50: a row that is not worn out and takes few pulses is completed at once; then each of its cells is written from its source,
and what follows the writing changes neither cells nor wear. -/
theorem voicerRows : Obligations.VoicerRows := by
  unfold Obligations.VoicerRows
  intro u j cn row passes k bank s q r xs usable fit pulsed few
  refine ⟨fun cmd banked region wprg some_ first running free clean whole => ?_, fun own due idle => ?_, fun own none_ => ?_⟩
  · refine ⟨_, execVoicerRowProgram_few usable fit pulsed few cmd banked region wprg some_ first running free clean whole, ?_⟩
    have cells : ∀ wa, State.cell (State.landed (State.rewriteRow ((s.programRow row 166 passes).1.putCells (s.rowBytes u q row))
        (s.unit u).place.die k row) u j q row (s.rowCells u q row).length) wa =
        ((s.programRow row 166 passes).1.putCells (s.rowBytes u q row)).cell wa :=
      cell_congr (tier_eq_iff.1 (by simp))
    have before := (programRow_few_cell fit few).2
    refine ⟨fun x hx agree => ?_, fun wa out => ?_, fun wa _ unnamed => ?_, ?_⟩
    · refine (cells _).trans (putCells_cell (c := (x.1, s.locRead u x.2)) (List.mem_map.2 ⟨x, hx, rfl⟩) (fun e he key => ?_) _)
      obtain ⟨y, hy, rfl⟩ := List.mem_map.1 he
      exact congrArg (s.locRead u) (agree y hy key)
    · rw [cells, putCells_cell_ne _, before]
      intro e he key
      obtain ⟨y, hy, rfl⟩ := List.mem_map.1 he
      exact out (key ▸ of_decide_eq_true (List.mem_filter.1 hy).2)
    · rw [cells, putCells_cell_ne _, before]
      intro e he key
      obtain ⟨y, hy, rfl⟩ := List.mem_map.1 he
      exact unnamed y hy key
    · rw [landed_wear, rewriteRow_wear, programRow_few fit few 165]
      exact NMap.getD_put_self _ _ _ _
  · refine ⟨_, execVoicerRowRewrite_renew pulsed own, ?_⟩
    rw [renewRow_here usable fit few due idle]
    exact ⟨rfl, rfl, NMap.find_del_self _ _, NMap.getD_put_self _ _ _ _⟩
  · refine ⟨_, execVoicerRowRewrite_renew pulsed own, ?_⟩
    unfold State.renewRow
    rw [none_]

end Sys2Proof.Machine
end

section
/-! PROOFS. What an error of a row, of its bus and of its bank writes down (O49, O52). -/
namespace Sys2Proof
/-- A structure of the weight tier: a row, or a vertical bus. -/
def Structure.ofTier : Structure → Prop
  | .weightRow _ => True
  | .bus _ _ => True
  | _ => False
end Sys2Proof

namespace Sys2Proof.Machine
open Sys2Proof

/-- Of all the machine, the error log, the marks of lasting structures, the rows to be written again and the dies' counters may differ
in `t`. -/
def State.onlyLogs (s t : State) : Prop := t = { s with soft := t.soft, lasting := t.lasting, rewrites := t.rewrites, dies := t.dies }

section
variable {s t q : State}

theorem onlyLogs_trans (h : s.onlyLogs t) (k : t.onlyLogs q) : s.onlyLogs q :=
  Eq.trans k (congrArg (fun x : State => { x with soft := q.soft, lasting := q.lasting, rewrites := q.rewrites, dies := q.dies }) h)
theorem onlyLogs_cores (h : s.onlyLogs t) : t.cores = s.cores := by rw [h]
theorem onlyLogs_mem (h : s.onlyLogs t) : t.mem = s.mem := by rw [h]
theorem onlyLogs_acc (h : s.onlyLogs t) : t.acc = s.acc := by rw [h]

end

theorem retire_onlyLogs (s : State) (d : Nat) {w : Structure} (tier : w.ofTier) : s.onlyLogs (s.retire d w) := by
  cases w with
  | weightRow | bus => rfl
  | _ => cases tier
theorem logError_onlyLogs (s : State) (d : Nat) {w : Structure} (tier : w.ofTier) (hours : Nat) : s.onlyLogs (s.logError d w hours) := by
  have noted : s.onlyLogs (s.noteError (s.structKey d w) hours) := rfl
  unfold State.logError
  dsimp only
  split
  · exact noted
  · split
    · exact onlyLogs_trans noted (retire_onlyLogs _ d tier)
    · exact noted
/-- A structure of the tier lies in no voltage domain that may be below nominal (R435). -/
theorem softError_ofTier (s : State) (d : Nat) {w : Structure} (tier : w.ofTier) (hours : Nat) :
    s.softError d w hours = s.logError d w hours := by
  cases w with
  | weightRow | bus => rfl
  | _ => cases tier
theorem rowError_onlyLogs (s : State) (d row hours : Nat) : s.onlyLogs (s.rowError d row hours) := by
  unfold State.rowError
  rw [softError_ofTier (w := .weightRow row) s d trivial, softError_ofTier (w := .bus _ _) _ d trivial]
  exact onlyLogs_trans (onlyLogs_trans (logError_onlyLogs (w := .weightRow row) s d trivial hours)
    (logError_onlyLogs (w := .bus _ _) _ d trivial hours)) rfl

end Sys2Proof.Machine
end

section
/-! PROOFS. Holds of a core and of its consorts' cores (O49). -/
namespace Sys2Proof
/-- A list rid of its repetitions has none. -/
theorem nodup_eraseDups {α : Type} [BEq α] [LawfulBEq α] (l : List α) : l.eraseDups.Nodup := by
  match l with
  | [] => exact List.nodup_nil
  | a :: l =>
    rw [List.eraseDups_cons]
    refine List.nodup_cons.2 ⟨fun h => ?_, nodup_eraseDups _⟩
    simpa using (List.mem_filter.1 (List.mem_eraseDups.1 h)).2
termination_by l.length
decreasing_by exact Nat.lt_succ_of_le (List.length_filter_le _ l)
end Sys2Proof

namespace Sys2Proof.Machine
open Sys2Proof

/-- The record of a core that a hold of `n` matrix cycles, at DCC `dcc`, leaves (R240). -/
def Core.heldOn (c : Core) (dcc n : Nat) : Core :=
  if decide (c.mat.now dcc - c.holdAt < c.holdLen) then { c with holdLen := c.holdLen + n }
  else { c.settleHold dcc with holdDcc := c.mat.start dcc, holdAt := c.mat.now dcc, holdLen := n }
def State.heldCore (s : State) (d p n : Nat) : Core := (s.core d p).heldOn (s.dcc d) n

/-- A hold of a core that is not held begins now. -/
theorem heldOn_begun {c : Core} {dcc : Nat} (free : decide (c.mat.now dcc - c.holdAt < c.holdLen) = false) (n : Nat) {l : List Beat} :
    (({ c with due := l } : Core).heldOn dcc n).holdAt = c.mat.now dcc ∧ (({ c with due := l } : Core).heldOn dcc n).holdLen = n := by
  unfold Core.heldOn
  dsimp only
  rw [free]
  exact ⟨rfl, rfl⟩
/-- One of a core that is held is lengthened (R240, log 16). -/
theorem heldOn_longer {c : Core} {dcc : Nat} (on : decide (c.mat.now dcc - c.holdAt < c.holdLen) = true) (n : Nat) {l : List Beat} :
    (({ c with due := l } : Core).heldOn dcc n).holdAt = c.holdAt ∧ (({ c with due := l } : Core).heldOn dcc n).holdLen = c.holdLen + n := by
  unfold Core.heldOn
  dsimp only
  rw [on]
  exact ⟨rfl, rfl⟩

section
variable {s t : State}

theorem holdCore_core (s : State) (d p n : Nat) : (s.holdCore d p n).core d p = s.heldCore d p n := core_setCore s d p _
theorem holdCore_core_ne (s : State) {d p d' p' : Nat} (n : Nat) (h : pkey d' p' ≠ pkey d p) :
    (s.holdCore d p n).core d' p' = s.core d' p' := core_setCore_ne s _ h
/-- A hold depends on the core's own record and on its die's clock. -/
theorem heldCore_congr {d p : Nat} (core : t.core d p = s.core d p) (dies : t.dies = s.dies) (n : Nat) :
    t.heldCore d p n = s.heldCore d p n := by
  rw [State.heldCore, State.heldCore, State.dcc, State.dcc, State.die, State.die, core, dies]
/-- A core held once more, among others, has the record that its own hold leaves. -/
theorem foldl_holdCore_core {l : List (Nat × Nat)} (once : l.Nodup) {x : Nat × Nat} (hx : x ∈ l)
    (own : ∀ y ∈ l, pkey y.1 y.2 = pkey x.1 x.2 → y = x) (n : Nat) (s : State) :
    (l.foldl (fun t c => t.holdCore c.1 c.2 n) s).core x.1 x.2 = s.heldCore x.1 x.2 n := by
  have apart : ∀ (m : List (Nat × Nat)) (s : State), (∀ y ∈ m, pkey y.1 y.2 ≠ pkey x.1 x.2) →
      (m.foldl (fun t c => t.holdCore c.1 c.2 n) s).core x.1 x.2 = s.core x.1 x.2 := fun m s h =>
    List.foldlRecOn m _ (motive := fun t : State => t.core x.1 x.2 = s.core x.1 x.2) rfl fun t ht y hy =>
      (holdCore_core_ne t n (h y hy).symm).trans ht
  induction l generalizing s with
  | nil => cases hx
  | cons a l ih =>
    obtain ⟨new, once⟩ := List.nodup_cons.1 once
    rw [List.foldl_cons]
    rcases List.mem_cons.1 hx with rfl | hx
    · refine (apart l _ fun y hy key => new ?_).trans (holdCore_core s x.1 x.2 n)
      exact own y (List.mem_cons_of_mem _ hy) key ▸ hy
    · have other : pkey x.1 x.2 ≠ pkey a.1 a.2 := fun key => new (own a List.mem_cons_self key.symm ▸ hx)
      refine (ih once hx (fun y hy => own y (List.mem_cons_of_mem _ hy)) _).trans ?_
      exact heldCore_congr (holdCore_core_ne s n other) rfl n
theorem heldFrom_nodup (s : State) (n : Nat) {l : List (Nat × Nat)} (h : l.Nodup) : (s.heldFrom n l).Nodup := by
  induction n generalizing l with
  | zero => exact h
  | succ n ih =>
    unfold State.heldFrom
    dsimp only
    split
    · exact h
    · exact ih (nodup_eraseDups _)
theorem heldWith_nodup (s : State) (d p : Nat) : (s.heldWith d p).Nodup := heldFrom_nodup s _ (List.nodup_singleton _)

/-- The cores that are held with one are the same where commands, units, maps and clocks are. -/
theorem heldWith_congr (ctxs : t.ctxs = s.ctxs) (units : t.units = s.units) (dies : t.dies = s.dies)
    (clocks : ∀ d p, s.sameClocks t d p) (d p : Nat) : t.heldWith d p = s.heldWith d p := by
  have unit : t.unit = s.unit := funext fun u => by rw [State.unit, State.unit, units]
  have home : t.home = s.home := funext fun u => by simp only [State.home, State.phys, State.die, unit, dies]
  have on : t.unitOn = s.unitOn := by
    funext d p u
    simp only [State.unitOn, units, home]
  have members : t.consortUnits = s.consortUnits := by
    funext u a
    simp only [State.consortUnits, unit, units]
  have array : t.inArray = s.inArray := by
    funext d p
    simp only [State.inArray, ctxs, on, sameClocks_free (clocks d p)]
  have cores : t.consortCores = s.consortCores := by
    funext c
    simp only [State.consortCores, array, members, unit, home]
  have from_ : ∀ n l, t.heldFrom n l = s.heldFrom n l := by
    intro n
    induction n with
    | zero => exact fun _ => rfl
    | succ n ih =>
      intro l
      simp only [State.heldFrom, cores, ih]
  exact from_ _ _

/-- Core `p` of die `d`, and every core held with it, is held `m` matrix cycles more in `t` than in `s`, and no memory and no accumulator
changed (R240, R241). -/
def State.heldMore (s t : State) (d p m : Nat) : Prop :=
  t.mem = s.mem ∧ t.acc = s.acc ∧ ∀ x ∈ s.heldWith d p, (∀ y ∈ s.heldWith d p, pkey y.1 y.2 = pkey x.1 x.2 → y = x) →
    (s.holding x.1 x.2 = false → (t.core x.1 x.2).holdAt = s.mcyc x.1 x.2 ∧ (t.core x.1 x.2).holdLen = m) ∧
    (s.holding x.1 x.2 = true → (t.core x.1 x.2).holdAt = (s.core x.1 x.2).holdAt ∧
      (t.core x.1 x.2).holdLen = (s.core x.1 x.2).holdLen + m)

/-- A state in which beats of core `p` of die `d` that are under way have changed. -/
def State.withDue (s : State) (d p : Nat) (l : List Beat) : State := s.setCore d p { s.core d p with due := l }

/-- Beats under way are no part of how a core counts its cycles and is held. -/
theorem withDue_core (s : State) (d p : Nat) (l : List Beat) (d' p' : Nat) :
    ∃ m, (s.withDue d p l).core d' p' = { s.core d' p' with due := m } := by
  by_cases h : pkey d' p' = pkey d p
  · exact ⟨l, by simp [State.withDue, State.core, State.setCore, h]⟩
  · exact ⟨(s.core d' p').due, core_setCore_ne s _ h⟩
theorem withDue_sameClocks (s : State) (d p : Nat) (l : List Beat) (d' p' : Nat) : s.sameClocks (s.withDue d p l) d' p' := by
  obtain ⟨m, e⟩ := withDue_core s d p l d' p'
  exact ⟨rfl, by rw [e]; rfl⟩
theorem hold_mem (s : State) (d p n : Nat) : (s.hold d p n).mem = s.mem ∧ (s.hold d p n).acc = s.acc :=
  List.foldlRecOn _ _ (motive := fun t : State => t.mem = s.mem ∧ t.acc = s.acc) ⟨rfl, rfl⟩ fun _ h _ _ => h
/-- A hold begins, or is lengthened, on a core and on those held with it. -/
theorem hold_heldMore (s : State) (d p n : Nat) (l : List Beat) : s.heldMore ((s.withDue d p l).hold d p n) d p n := by
  obtain ⟨mem, acc⟩ := hold_mem (s.withDue d p l) d p n
  refine ⟨mem, acc, fun x hx own => ?_⟩
  have same := heldWith_congr (t := s.withDue d p l) (s := s) rfl rfl rfl (withDue_sameClocks s d p l) d p
  have core : ((s.withDue d p l).hold d p n).core x.1 x.2 = (s.withDue d p l).heldCore x.1 x.2 n := by
    unfold State.hold
    rw [same]
    exact foldl_holdCore_core (heldWith_nodup s d p) hx own n _
  obtain ⟨m, e⟩ := withDue_core s d p l x.1 x.2
  have dcc : (s.withDue d p l).dcc x.1 = s.dcc x.1 := rfl
  rw [core, State.heldCore, e, dcc]
  exact ⟨fun free => heldOn_begun free n, fun on => heldOn_longer on n⟩
/-- What only writes logs leaves a hold as it is. -/
theorem heldMore_onlyLogs {d p m : Nat} {q : State} (h : s.heldMore t d p m) (logs : t.onlyLogs q) : s.heldMore q d p m := by
  obtain ⟨mem, acc, cores⟩ := h
  have core : ∀ x : Nat × Nat, q.core x.1 x.2 = t.core x.1 x.2 := fun x => by rw [State.core, State.core, onlyLogs_cores logs]
  exact ⟨(onlyLogs_mem logs).trans mem, (onlyLogs_acc logs).trans acc, fun x hx own => by rw [core]; exact cores x hx own⟩

end

end Sys2Proof.Machine
end

section
/-! PROOFS. Swaps of a programmable pair, late beats, and retired buses (O49). -/
namespace Sys2Proof.Machine
open Sys2Proof

section
variable {s t : State}

/-! Swaps (R244, R245, R295) -/

/-- The region with its banks exchanged, each home core still to change over. -/
def Region.swapped (r : Region) : Region :=
  { r with gen := r.gen + 1, act := !r.act, pending := (List.range r.groups).map r.homeOf, signalled := [] }

/-- An armed MSWP at its context's head, on a core whose matrix engine works, is what SWAP_BEGIN looks at from its stamp on. -/
structure State.swapDue (s : State) (u j v ix k : Nat) (b : BitVec 6) (n : BitVec 3) (q : Cmd) (e : RegEntry) (r : Region) : Prop where
  head : ∃ qs, (s.ctx u .matrix j).queue = q :: qs
  instr : q.instr = .mswp b n
  stamp : q.stamp = some v
  armed : q.armed = true
  resident : (s.unit u).status = .resident
  engine : s.engineOn (s.unit u).place.die (s.home u) .matrix = true
  bound : s.binding u n.toNat = some ix
  region : s.tableRegion (s.unit u).place.die (s.unit u).place.job ix = some (k, e, r)

section
variable {u j v ix k : Nat} {b : BitVec 6} {n : BitVec 3} {q : Cmd} {e : RegEntry} {r : Region} (due : s.swapDue u j v ix k b n q e r)
include due

theorem swapDue_exec (late : v ≤ s.tclk u) : execSwapBegin u j s =
    if s.tclk u = v ∧ s.released k r = true ∧ r.popen = false ∧ s.measuring k = false then
      .next ((({ s with regions := s.regions.put k r.swapped } : State).toFlight u .matrix j q).completeCmd u .matrix j q)
    else .next (s.missCmd u j 0x82 q) := by
  obtain ⟨⟨qs, head⟩, instr, stamp, armed, resident, engine, bound, region⟩ := due
  simp [execSwapBegin, head, instr, stamp, armed, resident, engine, bound, region, Nat.not_lt.2 late, Region.swapped]
/-- In time, and with its region free, the swap begins. -/
theorem swapDue_begins (now : s.tclk u = v) (released : s.released k r = true) (closed : r.popen = false) (free : s.measuring k = false) :
    ∃ t, execSwapBegin u j s = .next t ∧ t.regions.find k = some r.swapped ∧
      t.commandOver u .matrix j q.cn ∧ t.wt = s.wt := by
  rw [swapDue_exec due now.ge, if_pos ⟨now, released, closed, free⟩]
  exact ⟨_, rfl, NMap.find_put_self _ _ _, completeCmd_over _ u .matrix j q, rfl⟩
/-- Else it misses its stamp (R295). -/
theorem swapDue_misses (late : v < s.tclk u ∨ (s.tclk u = v ∧ (s.released k r = false ∨ r.popen = true ∨ s.measuring k = true))) :
    execSwapBegin u j s = .next (s.missCmd u j 0x82 q) := by
  rcases late with late | ⟨now, barred⟩
  · rw [swapDue_exec due late.le, if_neg fun h => late.ne' h.1]
  · rw [swapDue_exec due now.ge, if_neg]
    rintro ⟨-, released, closed, free⟩
    rcases barred with h | h | h
    · rw [released] at h
      cases h
    · rw [closed] at h
      cases h
    · rw [free] at h
      cases h

end

theorem event_regions (s : State) (u : Nat) (e : Engine) (j : Nat) (t : Trap) : (s.event u e j t).regions = s.regions := by
  unfold State.event
  dsimp only
  split <;> rfl
theorem missCmd_regions (s : State) (u j code : Nat) (q : Cmd) : (s.missCmd u j code q).regions = s.regions := by
  unfold State.missCmd
  extract_lets s1 c s2
  have marked : s2.regions = s1.regions := by
    unfold s2
    split <;> rfl
  exact marked.trans (event_regions s u .matrix j _)
theorem missCmd_events (s : State) {u : Nat} (j code : Nat) (q : Cmd) (room : (s.unit u).events.length < 32) :
    ((s.missCmd u j code q).unit u).events = (s.unit u).events ++ [(causeWord code 2 (some .matrix) j, BitVec.ofNat 64 q.cn)] := by
  unfold State.missCmd
  extract_lets s1 c s2
  have marked : s2.unit u = s1.unit u := by
    unfold s2
    split <;> rfl
  exact (congrArg TeamUnit.events marked).trans (event_events .matrix j ⟨code, q.cn⟩ room)
theorem missCmd_over (s : State) (u j code : Nat) (q : Cmd) : (s.missCmd u j code q).commandOver u .matrix j q.cn :=
  completeCmd_over _ u .matrix j q

section
variable {die core name : Nat} {r : Region} (region : s.regions.find (rkey die name) = some r) (home : core ∈ r.pending)
include region home

/-- The first signal closes the core's groups of older generations (R244). -/
theorem execSwapSignalArrival_signals (new : core ∉ r.signalled) : ∃ t, execSwapSignalArrival die core name s = .next t ∧
    t.regions.find (rkey die name) = some { r with signalled := core :: r.signalled } ∧
    ∀ x ∈ (t.core die core).groups, x.region = rkey die name → x.gen < r.gen → x.closed = true := by
  have first : (r.pending.contains core && !r.signalled.contains core) = true := by simp [home, new]
  simp only [execSwapSignalArrival, region, if_pos first]
  refine ⟨_, rfl, NMap.find_put_self _ _ _, fun x hx key old => ?_⟩
  rw [State.closeGroups, core_setCore] at hx
  obtain ⟨g, -, rfl⟩ := List.mem_map.1 hx
  by_cases h : g.region = rkey die name ∧ g.gen < r.gen
  · simp [h]
  · simp only [Bool.and_eq_true, decide_eq_true_eq, if_neg h] at key old
    exact absurd ⟨key, old⟩ h
theorem execSwapLand_lands (signalled : core ∈ r.signalled) (boundary : s.atBoundary die core = true)
    (old : s.oldGroups die core (rkey die name) r.gen = false) : ∃ t, execSwapLand die core name s = .next t ∧
    t.regions.find (rkey die name) = some { r with pending := r.pending.filter fun x => decide (x ≠ core) } := by
  have lands : (r.pending.contains core && (r.signalled.contains core &&
      (s.atBoundary die core && !s.oldGroups die core (rkey die name) r.gen))) = true := by simp [home, signalled, boundary, old]
  simp only [execSwapLand, region, if_pos lands]
  exact ⟨_, rfl, NMap.find_put_self _ _ _⟩

end

/-! Late beats (R240, R241, R250) -/

theorem holdDue_heldMore {die core : Nat}
    (late : (((s.core die core).due.filter fun x => decide (x.slot ≤ s.free die core)).map (·.hold)).sum ≠ 0) :
    s.heldMore (s.holdDue die core) die core (((s.core die core).due.filter fun x => decide (x.slot ≤ s.free die core)).map (·.hold)).sum := by
  unfold State.holdDue
  dsimp only
  rw [if_neg late]
  exact hold_heldMore s die core _ _
theorem setDue_heldMore (s : State) (die core n : Nat) (x y : Beat) : s.heldMore ((s.setDue die core x y).hold die core n) die core n :=
  hold_heldMore s die core n _

theorem codewordError_onlyLogs (s : State) (cw hours : Nat) : s.onlyLogs (s.codewordError cw hours) := rowError_onlyLogs s _ _ hours
theorem reread_cores (s : State) (cw : Nat) (ok : Bool) : (s.reread cw ok).cores = s.cores := by
  unfold State.reread
  dsimp only
  split <;> rfl
theorem reread_heldMore {d p m : Nat} (h : s.heldMore t d p m) (cw : Nat) (ok : Bool) : s.heldMore (t.reread cw ok) d p m := by
  unfold State.reread
  dsimp only
  split
  · exact h
  · exact h
theorem reread_mem (s : State) (cw : Nat) (ok : Bool) : (s.reread cw ok).mem = s.mem := by
  unfold State.reread
  dsimp only
  split <;> rfl
/-- A codeword corrected by a second read has its row written again, and one that is not is lost (R250). -/
theorem reread_marks (s : State) (cw : Nat) (ok : Bool) : (ok = true → ((s.reread cw ok).rewrites.find (rowKey (cw * 64))).isSome = true) ∧
    (ok = false → ((s.reread cw ok).wpoison.find cw).isSome = true) := by
  unfold State.reread
  refine ⟨?_, ?_⟩
  · rintro rfl
    simp
  · rintro rfl
    simp

section
variable {die core cw hours : Nat} {ok : Bool}

theorem execGlobalHold_corrected {x : Beat} (due : s.beatDue die core cw = some x) :
    (x.fixed = false → ∃ t, execGlobalHold die core (.corrected cw hours) s = .next t ∧ s.heldMore t die core 3) ∧
    (x.fixed = true → ∃ t, execGlobalHold die core (.corrected cw hours) s = .next t ∧ t.cores = s.cores ∧ t.mem = s.mem) := by
  simp only [execGlobalHold, due]
  refine ⟨fun new => ⟨_, rfl, ?_⟩, fun again => ⟨_, rfl, ?_⟩⟩
  · rw [new]
    exact heldMore_onlyLogs (setDue_heldMore s die core 3 _ _) (codewordError_onlyLogs _ cw hours)
  · rw [again]
    exact ⟨onlyLogs_cores (codewordError_onlyLogs s cw hours), onlyLogs_mem (codewordError_onlyLogs s cw hours)⟩
theorem execGlobalHold_reread {x : Beat} (due : s.beatDue die core cw = some x) :
    ∃ t, execGlobalHold die core (.reread cw hours ok) s = .next t ∧ (x.again = false → s.heldMore t die core 14) ∧
      (x.again = true → t.cores = s.cores) ∧ (ok = true → (t.rewrites.find (rowKey (cw * 64))).isSome = true) ∧
      (ok = false → (t.wpoison.find cw).isSome = true) := by
  simp only [execGlobalHold, due]
  refine ⟨_, rfl, fun new => ?_, fun again => ?_, reread_marks _ cw ok⟩
  · rw [new]
    exact reread_heldMore (heldMore_onlyLogs (setDue_heldMore s die core 14 _ _) (codewordError_onlyLogs _ cw hours)) cw ok
  · rw [again]
    exact (reread_cores _ cw ok).trans (onlyLogs_cores (codewordError_onlyLogs s cw hours))
/-- An error that meets no beat holds nothing, and is marked where another read meets it. -/
theorem execGlobalHold_elsewhere (none_ : s.beatDue die core cw = none) :
    (∃ t, execGlobalHold die core (.corrected cw hours) s = .next t ∧ t.cores = s.cores ∧ t.mem = s.mem) ∧
    ∃ t, execGlobalHold die core (.reread cw hours ok) s = .next t ∧ t.cores = s.cores ∧ t.mem = s.mem ∧
      (s.readsElse die core cw = true → ok = false → (t.wpoison.find cw).isSome = true) := by
  have logged := codewordError_onlyLogs s cw hours
  simp only [execGlobalHold, none_]
  refine ⟨⟨_, rfl, ?_⟩, ⟨_, rfl, ?_⟩⟩
  · split
    · exact ⟨onlyLogs_cores logged, onlyLogs_mem logged⟩
    · exact ⟨rfl, rfl⟩
  · split
    · exact ⟨(reread_cores _ cw ok).trans (onlyLogs_cores logged), (reread_mem _ cw ok).trans (onlyLogs_mem logged),
        fun _ => (reread_marks _ cw ok).2⟩
    · next met => exact ⟨rfl, rfl, fun met' => absurd met' met⟩

end

/-! Retired buses (R253) -/

/-- Every core has in `t` the retired buses that it has in `s`. -/
def State.sameBuses (s t : State) : Prop := ∀ d p, (t.core d p).buses = (s.core d p).buses ∧ (t.core d p).vbr = (s.core d p).vbr

theorem sameBuses_trans {q : State} (h : s.sameBuses t) (k : t.sameBuses q) : s.sameBuses q :=
  fun d p => ⟨(k d p).1.trans (h d p).1, (k d p).2.trans (h d p).2⟩
theorem sameBuses_of_cores (h : t.cores = s.cores) : s.sameBuses t := fun d p => by
  rw [State.core, State.core, h]
  exact ⟨rfl, rfl⟩
theorem setCore_sameBuses (s : State) (d p : Nat) {c : Core} (buses : c.buses = (s.core d p).buses) (vbr : c.vbr = (s.core d p).vbr) :
    s.sameBuses (s.setCore d p c) := fun d' p' => by
  by_cases h : pkey d' p' = pkey d p
  · have own : (s.setCore d p c).core d' p' = c := by simp [State.core, State.setCore, h]
    have was : s.core d' p' = s.core d p := by rw [State.core, State.core, h]
    rw [own, was]
    exact ⟨buses, vbr⟩
  · rw [core_setCore_ne s c h]
    exact ⟨rfl, rfl⟩
theorem setMig_sameBuses (s : State) (d l : Nat) (m : Option Nat) : s.sameBuses (s.setMig d l m) := setCore_sameBuses s d _ rfl rfl
theorem askYield_cores (s : State) (u cause D : Nat) : (s.askYield u cause D).cores = s.cores := by
  unfold State.askYield
  split
  · split <;> rfl
  · rfl
theorem tryMigrate_sameBuses (s : State) (d l : Nat) : s.sameBuses (s.tryMigrate d l) := by
  unfold State.tryMigrate
  extract_lets p c D
  split
  · split
    · exact sameBuses_of_cores rfl
    · extract_lets s1
      have asked : s.sameBuses s1 := sameBuses_trans (setCore_sameBuses s d p (by rfl) (by rfl)) (setMig_sameBuses _ d _ _)
      refine sameBuses_trans asked (sameBuses_of_cores ?_)
      exact List.foldlRecOn _ _ (motive := fun t : State => t.cores = s1.cores) rfl fun t ht u _ => (askYield_cores t u.1 2 D).trans ht
  · exact sameBuses_of_cores rfl
theorem dropMove_sameBuses (s : State) (d l again : Nat) : s.sameBuses (s.dropMove d l again) := by
  unfold State.dropMove
  extract_lets c us
  split
  · extract_lets s1 s2
    have given : s.sameBuses s1 := by
      refine sameBuses_trans (setMig_sameBuses s d _ none) (setCore_sameBuses _ d (s.phys d l) ?_ ?_)
      · exact (setMig_sameBuses s d _ none d (s.phys d l)).1.symm
      · exact (setMig_sameBuses s d _ none d (s.phys d l)).2.symm
    have dropped : s2.hardware = s1.hardware := foldl_hardware (fun t c => dropYield_hardware t (Prod.fst c) 2) us s1
    have released := (releaseMoved_hardware s2 us fun t => t.moved).trans dropped
    have cores : (((s2.releaseMoved us fun t => t.moved).bump d 3).freed d).cores = s1.cores :=
      (congrArg Prod.snd (freed_hardware _ d)).trans (congrArg Prod.snd released)
    exact sameBuses_trans given (sameBuses_of_cores cores)
  · exact sameBuses_of_cores rfl
theorem shut_sameBuses (s : State) (d p : Nat) : s.sameBuses (s.shut d p) := by
  unfold State.shut
  extract_lets c s1 s2
  have offline : s.sameBuses s1 := sameBuses_trans (setCore_sameBuses s d p (by rfl) (by rfl)) (sameBuses_of_cores rfl)
  have given : s1.sameBuses s2 := by
    unfold s2
    split
    · split
      · exact dropMove_sameBuses s1 d _ 0
      · exact setMig_sameBuses s1 d _ none
    · exact sameBuses_of_cores rfl
  exact sameBuses_trans (sameBuses_trans offline given) (setCore_sameBuses s2 d p rfl rfl)
theorem leaveCore_sameBuses (s : State) (d p : Nat) : s.sameBuses (s.leaveCore d p) := by
  unfold State.leaveCore
  extract_lets l
  split
  · exact sameBuses_of_cores rfl
  · split
    · exact shut_sameBuses s d p
    · exact sameBuses_trans (setCore_sameBuses s d p (by rfl) (by rfl)) (tryMigrate_sameBuses _ d l)

/-- A lasting bus is retired once (R253). -/
theorem execVerticalBusRetire_retires {die core bus : Nat} (lasting : (s.lasting.find (faultKey die (.bus core bus))).isSome = true)
    (new : bus ∉ (s.core die core).buses) : ∃ t, execVerticalBusRetire die core bus s = .next t ∧
      (t.core die core).buses = bus :: (s.core die core).buses ∧ (t.core die core).vbr = true := by
  have retires : ¬((s.lasting.find (faultKey die (.bus core bus))).isNone = true ∨ (s.core die core).buses.contains bus = true) := by
    rintro (h | h)
    · rw [Option.isNone_iff_eq_none] at h
      rw [h] at lasting
      cases lasting
    · exact new (by simpa using h)
  simp only [execVerticalBusRetire, if_neg retires]
  refine ⟨_, rfl, ?_⟩
  split
  · rw [core_setCore]
    exact ⟨rfl, rfl⟩
  · obtain ⟨buses, vbr⟩ := leaveCore_sameBuses ((s.hold die core (Config.freeChoice s.fresh % 65)).setCore die core
      { (s.hold die core (Config.freeChoice s.fresh % 65)).core die core with vbr := true, buses := bus :: (s.core die core).buses })
      die core die core
    rw [buses, vbr, core_setCore]
    exact ⟨rfl, rfl⟩

end

/-- Settles O49: a swap by what its event does from its stamp on; a hold by the record that it leaves of each core held, which the logging
of an error does not change; and a retired bus by the record of its core, which its leaving keeps. -/
theorem weightEvents : Obligations.WeightEvents := by
  unfold Obligations.WeightEvents
  intro u j v ix k die core name bus cw hours ok b n s q qs e r x pl due heldFor
  refine ⟨fun head instr stamp armed resident engine bound region => ?_, fun region home => ⟨?_, ?_⟩, fun late => ?_, fun met => ?_,
    fun none_ => execGlobalHold_elsewhere none_, fun lasting new => execVerticalBusRetire_retires lasting new⟩
  · have swap : s.swapDue u j v ix k b n q e r := ⟨⟨qs, head⟩, instr, stamp, armed, resident, engine, bound, region⟩
    refine ⟨swapDue_begins swap, fun late room => ⟨_, swapDue_misses swap late, ?_⟩⟩
    exact ⟨missCmd_regions s u j _ q, missCmd_over s u j _ q, missCmd_events s j _ q room⟩
  · exact fun new => execSwapSignalArrival_signals region home new
  · exact fun signalled boundary old => execSwapLand_lands region home signalled boundary old
  · exact ⟨_, rfl, holdDue_heldMore late⟩
  · obtain ⟨begun, again⟩ := execGlobalHold_corrected (hours := hours) met
    exact ⟨begun, again, execGlobalHold_reread met⟩

end Sys2Proof.Machine
end

section
/-! PROOFS. A lasting core whose going offline lets a waiting unit be created (O52). -/
namespace Sys2Proof.Machine
open Sys2Proof

/-- Core 2 of die 0 is empty, has had two errors in its storage within the window, and is the target of a move that core 3 asks for.
A launch of the job that `State.install` furnishes waits for a core for its first unit. -/
def erringTarget : State :=
  let s := State.reset.install
  { s with
    launches := s.launches.put 1 { job := 2 ^ 32 - 1, status := .admitted, stages := [{ pend := true }] }
    cores := [(pkey 0 2, { mig := some 3 }), (pkey 0 3, { mig := some 2, moveBy := 1 })]
    soft := [(faultKey 0 (.coreStore 2), [0, 0])] }

/-- The third error takes core 2 offline: the move is given up, the waiting unit is created, and its frame is written (R99, R109,
R438, R450). -/
theorem erringTarget_writes : ∃ t, exec (.correctedError 0 (.coreStore 2) 0 none) erringTarget = .next t ∧ t.mem ≠ erringTarget.mem := by
  refine ⟨_, rfl, fun same => ?_⟩
  have one_more : (erringTarget.softError 0 (.coreStore 2) 0).mem.length ≠ erringTarget.mem.length := by decide +kernel
  exact one_more (congrArg List.length same)

/-- Refutes O52: no hypothesis keeps a logged error from making a core lasting. Where it does, and the core is the target of a move,
its going offline gives the move up, and what that frees lets a waiting unit be created, whose frame is written to memory. -/
theorem not_faultsAndResets : ¬ Obligations.FaultsAndResets := by
  unfold Obligations.FaultsAndResets
  intro h
  obtain ⟨logged, -⟩ := h 0 0 0 0 0 (.coreStore 2) .matrix [] [] erringTarget
  have nominal : ∀ z, faultZone (.coreStore 2) = some z → (erringTarget.zone 0 z).steps = 0 := by
    rintro _ ⟨⟩
    decide +kernel
  obtain ⟨t, ht, -, frame, -⟩ := logged nominal nofun
  obtain ⟨t', ht', written⟩ := erringTarget_writes
  obtain rfl := Host.Outcome.next.inj (ht.symm.trans ht')
  exact written frame

end Sys2Proof.Machine
end

section
/-! PROOFS. The management set of a die's Drone, and its recovery image (O36). -/
namespace Sys2Proof.NMap

variable {α : Type}

/-- A map of a list of keys finds each of them. -/
theorem find_map_self (f : Nat → α) {l : List Nat} {i : Nat} (h : i ∈ l) : find (l.map fun i => (i, f i)) i = some (f i) := by
  induction l with
  | nil => cases h
  | cons k l ih =>
    rw [List.map_cons, find_cons]
    split
    · next same => rw [same]
    · next other => exact ih ((List.mem_cons.1 h).resolve_left (Ne.symm other))

/-- A piece written at `off` changes no place outside it. -/
theorem find_foldl_put_zipIdx_ne {bs : List α} {off n i : Nat} (h : i < off + n) (m : NMap α) :
    ((bs.zipIdx n).foldl (fun (m : NMap α) p => m.put (off + p.2) p.1) m).find i = m.find i := by
  induction bs generalizing n m with
  | nil => rfl
  | cons b bs ih =>
    rw [List.zipIdx_cons, List.foldl_cons, ih (by omega)]
    exact find_put_ne (by dsimp only; omega)
/-- A piece written at `off` stands there. -/
theorem find_foldl_put_zipIdx {bs : List α} {off n i : Nat} (h : i < bs.length) (m : NMap α) :
    ((bs.zipIdx n).foldl (fun (m : NMap α) p => m.put (off + p.2) p.1) m).find (off + n + i) = bs[i]? := by
  induction bs generalizing n m i with
  | nil => cases h
  | cons b bs ih =>
    rw [List.zipIdx_cons, List.foldl_cons]
    cases i with
    | zero =>
      rw [find_foldl_put_zipIdx_ne (by omega)]
      simp
    | succ i =>
      rw [show off + n + (i + 1) = off + (n + 1) + i by omega, ih (by simpa using h)]
      simp

end Sys2Proof.NMap

namespace Sys2Proof.Machine
open Sys2Proof

section
variable {s : State} {die : Nat}

@[simp] theorem drone_setDrone (s : State) (d : Nat) (x : Drone) : (s.setDrone d x).drone d = x := NMap.getD_put_self _ _ _ _

/-! Requests (R465) -/

theorem completes_refused {i : Instr} {code : Nat} (o : Out) (means : exec i s = o) (refused : o = .next (s.answer die code 6 [])) :
    Completes i s (fun t => s.onlyAnswers t ⟨die, code, 6, []⟩) := ⟨_, means.trans refused, rfl⟩

section
variable (booted : (s.die die).boot = 5) (reached : s.reached die = true)
include booted reached

theorem request_refused {status : Nat} (refused : status ≠ 0) (code : Nat) (f : State → State) :
    s.request die code status f = .next (s.answer die code status []) := by
  unfold State.request
  rw [if_neg (by simp [booted, reached]), if_pos refused]
theorem request_performed {status : Nat} (granted : status = 0) (code : Nat) (f : State → State) :
    s.request die code status f = .next (f s) := by
  unfold State.request
  rw [if_neg (by simp [booted, reached]), if_neg (not_not.2 granted)]
/-- Outside a session every management request is refused. -/
theorem managed_outside (outside : (s.drone die).spdm ≠ 5) (code status : Nat) (f : State → State) :
    s.managed die code status f = .next (s.answer die code 6 []) := by
  rw [State.managed, if_neg outside]
  exact request_refused booted reached (by decide) code f
theorem managed_performed (session : (s.drone die).spdm = 5) {code status : Nat} {f : State → State} (granted : status = 0)
    {P : State → Prop} (done : P (f s)) : ∃ t, s.managed die code status f = .next t ∧ P t := by
  refine ⟨f s, ?_, done⟩
  rw [State.managed, if_pos session]
  exact request_performed booted reached granted code f

end

theorem refuseIf_granted {b : Bool} (h : b = false) (status : Nat) : refuseIf b status = 0 := by rw [h]; rfl

/-! Regions made (R235) -/

/-- The cells of a region are zero once they are dropped from the weight tier. -/
theorem getD_dropped (wt : NMap Byte) (f : Nat → Bool) (wa : Nat) :
    NMap.getD (wt.filter fun c => !f c.1) wa 0 = if f wa then 0 else wt.getD wa 0 := by
  rw [NMap.getD, NMap.find_filter_key wt fun k => !f k]
  cases f wa <;> rfl

/-! REMEAS (R466) -/

/-- A REMEAS of all regions, or of some that are there, is no error. -/
theorem remeas_named {name : Nat} (some_ : name = 0 ∨ s.named die name ≠ []) :
    (decide (name ≠ 0) && (s.named die name).isEmpty) = false := by
  rcases some_ with rfl | some_
  · rfl
  · rw [List.isEmpty_eq_false_iff.2 some_, Bool.and_false]
/-- What a REMEAS finds as it begins does not rest on what was written to the Drone before its record. -/
theorem beginRemeas_drone (s : State) (die name : Nat) (x : Drone) :
    (State.beginRemeas (State.setDrone (s.setDrone die x) die (s.drone die)) die name).drone die =
      { s.drone die with
        busy := some ((s.named die name).map (fun c => s.remeasure die c ((s.drone die).latestOf c)),
          s.dcc die + Config.measureTime s.fresh) } := by
  rw [State.beginRemeas, drone_setDrone, drone_setDrone]
  rfl
/-- A Drone with one REMEAS more that waits. -/
def Drone.asked (x : Drone) (name : Nat) : Drone := { x with queued := x.queued ++ [name] }

section
variable {name : Nat} (idle : (s.drone die).busy = none) (nowait : (s.drone die).queued = [])
include idle nowait

/-- A REMEAS that need not wait begins at once. -/
theorem serveRemeas_begins (free : ∀ c ∈ s.named die name, s.measurable (rkey die c.1, c.2) = true) :
    (s.setDrone die ((s.drone die).asked name)).serveRemeas die =
      State.beginRemeas (State.setDrone (s.setDrone die ((s.drone die).asked name)) die (s.drone die)) die name := by
  have all : ((s.setDrone die ((s.drone die).asked name)).named die name).all
      (fun c => (s.setDrone die ((s.drone die).asked name)).measurable (rkey die c.1, c.2)) = true := List.all_eq_true.2 free
  have busy : ((s.drone die).asked name).busy = none := idle
  have queued : ((s.drone die).asked name).queued = [name] := by rw [Drone.asked, nowait, List.nil_append]
  have served : { (s.drone die).asked name with queued := [], busy := none } = s.drone die := by rw [Drone.asked, ← nowait, ← idle]
  simp only [State.serveRemeas, State.finishRemeas, State.startRemeas, drone_setDrone, busy, queued, all, if_true]
  exact congrArg (fun x => State.beginRemeas (State.setDrone _ die x) die name) served
/-- One whose regions cannot be measured waits. -/
theorem serveRemeas_waits (barred : ∃ c ∈ s.named die name, s.measurable (rkey die c.1, c.2) = false) :
    (s.setDrone die ((s.drone die).asked name)).serveRemeas die = s.setDrone die ((s.drone die).asked name) := by
  have some_ : ((s.setDrone die ((s.drone die).asked name)).named die name).all
      (fun c => (s.setDrone die ((s.drone die).asked name)).measurable (rkey die c.1, c.2)) = false :=
    let ⟨c, member, bad⟩ := barred
    List.all_eq_false.2 ⟨c, member, ne_true_of_eq_false bad⟩
  have busy : ((s.drone die).asked name).busy = none := idle
  have queued : ((s.drone die).asked name).queued = [name] := by rw [Drone.asked, nowait, List.nil_append]
  simp only [State.serveRemeas, State.finishRemeas, State.startRemeas, drone_setDrone, busy, queued, some_, Bool.false_eq_true, if_false]

end

/-- What was measured stands where no codeword is poison. -/
theorem metPoison_clean (clean : s.wpoison = []) (d : Nat) (m : Measured) : s.metPoison d m = m := by
  unfold State.metPoison
  split
  · rfl
  · simp [clean]

/-- At its end a REMEAS is answered with what it measured, which is the latest from then on. -/
theorem finishRemeas_over {ms : List Measured} {till : Nat} (busy : (s.drone die).busy = some (ms, till)) (ended : till ≤ s.dcc die) :
    s.finishRemeas die = s.endRemeas die ms := by
  unfold State.finishRemeas
  simp only [busy, if_pos ended]
theorem endRemeas_drone (s : State) (die : Nat) (ms : List Measured) : ((s.endRemeas die ms).drone die).busy = none ∧
    ∀ m ∈ ms.map (s.metPoison die), m ∈ ((s.endRemeas die ms).drone die).latest := by
  have own : (s.endRemeas die ms).drone die = s.compile die
      { s.drone die with
        busy := none
        latest := ms.map (s.metPoison die) ++ (s.drone die).latest.filter fun m =>
          !((ms.map (s.metPoison die)).any fun c => decide (c.name = m.name)) } := drone_setDrone s die _
  rw [own]
  exact ⟨rfl, fun m hm => List.mem_append_left _ hm⟩

/-! CFGSET (R435) -/

theorem zone_setZone (s : State) (d k z : Nat) (x : Zone) : (s.setZone d k x).zone d z = if z = k then x else s.zone d z := by
  unfold State.zone State.setZone
  split
  · next h => rw [h, NMap.getD_put_self]
  · next h => exact NMap.getD_put_ne (by omega)
/-- `t` differs from `s` at most in its zones. -/
def State.onlyZones (s t : State) : Prop := t = { s with zones := t.zones }

theorem onlyZones_frame {t : State} (h : s.onlyZones t) :
    (∀ d, t.die d = s.die d) ∧ t.answers = s.answers ∧ t.mem = s.mem ∧ t.units = s.units := by
  rw [h]
  exact ⟨fun _ => rfl, rfl, rfl, rfl⟩
/-- Zones that change each by what it holds itself change independently, and nothing else does. -/
theorem foldl_setZone (d : Nat) (g : Nat → Zone → Zone) {l : List Nat} (once : l.Nodup) (s : State) :
    s.onlyZones (l.foldl (fun (t : State) z => t.setZone d z (g z (t.zone d z))) s) ∧
    ∀ z, (l.foldl (fun (t : State) z => t.setZone d z (g z (t.zone d z))) s).zone d z = if z ∈ l then g z (s.zone d z) else s.zone d z := by
  induction l generalizing s with
  | nil => exact ⟨rfl, fun z => rfl⟩
  | cons k l ih =>
    obtain ⟨out, once⟩ := List.nodup_cons.1 once
    obtain ⟨frame, zones⟩ := ih once (s.setZone d k (g k (s.zone d k)))
    refine ⟨frame, fun z => (zones z).trans ?_⟩
    rw [zone_setZone]
    by_cases h : z = k
    · subst h
      simp [out]
    · simp [h]
/-- A zone under a setting of its undervolting: disabled, it returns to its nominal voltage. -/
def Zone.undervolted (uv : List Bool) (z : Nat) (x : Zone) : Zone :=
  { x with uv := uv.getD z x.uv, steps := if uv.getD z x.uv then x.steps else 0 }
/-- A die under a CFGSET, before it is answered. -/
def State.configured (s : State) (die tt window : Nat) (uv : List Bool) : State :=
  (List.range 8).foldl (fun (t : State) z => t.setZone die z (Zone.undervolted uv z (t.zone die z)))
    (s.setDie die { s.die die with tt := tt, window := window })
theorem answer_zone (s : State) (d code status : Nat) (bs : List Byte) (k z : Nat) : (s.answer d code status bs).zone k z = s.zone k z := rfl
/-- A CFGSET of values in their ranges is taken. -/
theorem execCfgset_configures (booted : (s.die die).boot = 5) (reached : s.reached die = true) (session : (s.drone die).spdm = 5)
    {tt window : Nat} (tt70 : 70 ≤ tt) (tt94 : tt ≤ 94) (w1 : 1 ≤ window) (w168 : window ≤ 168) (uv : List Bool) :
    execCfgset die tt window uv s = .next ((s.configured die tt window uv).answer die 0x08 0 []) := by
  have ranged : refuseIf (decide (tt < 70) || decide (94 < tt) || decide (window < 1) || decide (168 < window)) 1 = 0 :=
    refuseIf_granted (by simp; omega) 1
  unfold execCfgset
  rw [State.managed, if_pos session, ranged]
  exact request_performed booted reached rfl 0x08 _
theorem configured_zone (s : State) (die tt window : Nat) (uv : List Bool) {z : Nat} (hz : z < 8) :
    (s.configured die tt window uv).zone die z = Zone.undervolted uv z (s.zone die z) :=
  ((foldl_setZone die (Zone.undervolted uv) List.nodup_range _).2 z).trans (if_pos (List.mem_range.2 hz))
theorem configured_onlyZones (s : State) (die tt window : Nat) (uv : List Bool) :
    (s.setDie die { s.die die with tt := tt, window := window }).onlyZones (s.configured die tt window uv) :=
  (foldl_setZone die (Zone.undervolted uv) List.nodup_range _).1
theorem undervolted_steps (uv : List Bool) (z : Nat) (x : Zone) (off : (Zone.undervolted uv z x).uv = false) :
    (Zone.undervolted uv z x).steps = 0 := if_neg (ne_true_of_eq_false off)

/-! The recovery image (R463) -/

/-- A piece of an image, in its place among those received. -/
def Drone.withPiece (x : Drone) (off : Nat) (bs : List Byte) : NMap Byte :=
  bs.zipIdx.foldl (fun (m : NMap Byte) p => m.put (off + p.2) p.1) x.image
/-- The bytes of an image with that piece, one that no piece brought being unspecified. -/
def State.pieceByte (s : State) (d off : Nat) (bs : List Byte) (i : Nat) : Byte :=
  ((s.drone d).withPiece off bs).getD i (Config.freeByte s.fresh i)
/-- The length that the image says it has. -/
def State.pieceLen (s : State) (d off : Nat) (bs : List Byte) : Nat := leAt ((List.range 8).map (s.pieceByte d off bs)) 4 4
/-- A Drone whose received image is `m`, with rows of it still to be written. -/
def Drone.receiving (x : Drone) (m : NMap Byte) (rows : List Nat) : Drone := { x with image := m, rows := rows }
theorem receiving_image (x : Drone) (m : NMap Byte) (rows : List Nat) : (x.receiving m rows).image = m := rfl
theorem imageByte_receiving (s : State) (d off : Nat) (bs : List Byte) (rows : List Nat) :
    (s.setDrone d ((s.drone d).receiving ((s.drone d).withPiece off bs) rows)).imageByte d = s.pieceByte d off bs := by
  funext i
  rw [State.imageByte, drone_setDrone]
  rfl

section
variable {off : Nat} {bs : List Byte} (reached : s.reached die = true) (recovery : (s.die die).recovery = true)
  (rows : (s.drone die).rows = []) (short : bs.length ≤ 4096) (within : off + bs.length ≤ 2 ^ 24)
include reached recovery rows short within

/-- A piece that fits is taken; the last one has the image checked (R463). -/
theorem execRcvdata_taken (last : Bool) : execRcvdata die off bs last s =
    if last = false then .next (State.answer (s.setDrone die ((s.drone die).receiving ((s.drone die).withPiece off bs) [])) die 0x10 0 [])
    else if imagePasses (fun _ => true) (s.pieceByte die off bs) then
      .next (State.answer (s.setDrone die ((s.drone die).receiving
        ((List.range (s.pieceLen die off bs)).map fun i => (i, s.pieceByte die off bs i))
        (rowsFrom (imageAt die) (s.pieceLen die off bs)))) die 0x10 0 [])
    else .next (State.answer (s.setDrone die ((s.drone die).receiving [] [])) die 0x10 0 []) := by
  have fits : ¬(4096 < bs.length ∨ 2 ^ 24 < off + bs.length) := by omega
  have same (m : NMap Byte) : { s.drone die with image := m } = (s.drone die).receiving m [] := by rw [Drone.receiving, ← rows]
  have byte := imageByte_receiving s die off bs []
  unfold Drone.withPiece at byte
  unfold execRcvdata
  rw [if_neg (ne_false_of_eq_true reached), if_neg (ne_false_of_eq_true recovery), if_neg (not_not.2 rows), if_neg fits]
  dsimp only
  rw [same, same, byte]
  rfl
theorem execRcvdata_piece : execRcvdata die off bs false s =
    .next (State.answer (s.setDrone die ((s.drone die).receiving ((s.drone die).withPiece off bs) [])) die 0x10 0 []) := by
  rw [execRcvdata_taken reached recovery rows short within, if_pos rfl]
theorem execRcvdata_dropped (bad : imagePasses (fun _ => true) (s.pieceByte die off bs) = false) : execRcvdata die off bs true s =
    .next (State.answer (s.setDrone die ((s.drone die).receiving [] [])) die 0x10 0 []) := by
  rw [execRcvdata_taken reached recovery rows short within, if_neg nofun, if_neg (ne_true_of_eq_false bad)]
theorem execRcvdata_passed (good : imagePasses (fun _ => true) (s.pieceByte die off bs) = true) : execRcvdata die off bs true s =
    .next (State.answer (s.setDrone die ((s.drone die).receiving ((List.range (s.pieceLen die off bs)).map fun i => (i, s.pieceByte die off bs i))
      (rowsFrom (imageAt die) (s.pieceLen die off bs)))) die 0x10 0 []) := by
  rw [execRcvdata_taken reached recovery rows short within, if_neg nofun, if_pos good]

end

theorem imageCells_mem {row : Nat} {c : Nat × Byte} : c ∈ s.imageCells die row ↔
    ∃ e ∈ (s.drone die).image, (imageAt die + e.1, e.2) = c ∧ rowKey c.1 = row := by
  simp only [State.imageCells, List.mem_filter, List.mem_map, decide_eq_true_eq]
  constructor
  · rintro ⟨⟨e, member, same⟩, key⟩
    exact ⟨e, member, same, key⟩
  · rintro ⟨e, member, same, key⟩
    exact ⟨⟨e, member, same⟩, key⟩
/-- The machine with a row of the image written, in pulses that complete it. -/
def State.imageRow (s : State) (d row passes : Nat) : State :=
  ({ s with wear := s.wear.put (s.wearKey row) (s.wear.getD (s.wearKey row) 0 + passes) } : State).putCells (s.imageCells d row)
theorem imageRow_cell {row : Nat} {c : Nat × Byte} (member : c ∈ (s.drone die).image)
    (agree : ∀ e ∈ (s.drone die).image, e.1 = c.1 → e.2 = c.2) (key : rowKey (imageAt die + c.1) = row) (passes : Nat) :
    (s.imageRow die row passes).cell (imageAt die + c.1) = c.2 := by
  have cell : (imageAt die + c.1, c.2) ∈ s.imageCells die row := imageCells_mem.2 ⟨c, member, rfl, key⟩
  refine putCells_cell cell (fun e he same => ?_) _
  obtain ⟨b, hb, rfl, -⟩ := imageCells_mem.1 he
  exact agree b hb (Nat.add_left_cancel same)
theorem imageRow_cell_ne {row wa : Nat} (other : rowKey wa ≠ row) (passes : Nat) : (s.imageRow die row passes).cell wa = s.cell wa := by
  refine putCells_cell_ne (fun c hc same => other ?_) _
  obtain ⟨-, -, -, key⟩ := imageCells_mem.1 hc
  exact same ▸ key
theorem execVoicerRowRewrite_image {row passes : Nat} (due : row ∈ (s.drone die).rows) (own : rowDie row = die)
    (usable : s.usableRow row = true) (fit : s.wear.getD (s.wearKey row) 0 < 9 * 10 ^ 9) (pulsed : 1 ≤ passes) (few : passes ≤ 8) :
    execVoicerRowRewrite ⟨row, passes⟩ s = .next (
      if (s.drone die).rows.erase row = [] then ((s.imageRow die row passes).resetDie die).bootDie die
      else (s.imageRow die row passes).setDrone die { s.drone die with rows := (s.drone die).rows.erase row }) := by
  unfold execVoicerRowRewrite
  simp only [own]
  rw [if_neg (Nat.ne_of_gt pulsed), if_pos (by simpa using due)]
  unfold State.writeImageRow
  rw [programRow_few fit few 165]
  simp only [usable, and_self, if_true]
  rfl
/-- A die that starts again has its weight tier as it was, none of its memory, and a record at reset but for how it starts. -/
theorem restarted (s : State) (die : Nat) : ((s.resetDie die).bootDie die).wt = s.wt ∧
    ((s.resetDie die).bootDie die).mem = (s.mem.filter fun c => decide (c.1 / 2 ^ 48 ≠ die)) ∧
    ((s.resetDie die).bootDie die).die die = bootedDie (((s.resetDie die).bootDie die).imageOk die) { fitted := (s.die die).fitted } := by
  have booted := bootDie_onlyDies (s.resetDie die) die
  refine ⟨?_, ?_, ?_⟩
  · rw [booted]
    rfl
  · rw [booted]
    rfl
  rw [bootDie_die, if_pos rfl, onlyDies_imageOk booted]
  congr 1
  exact die_setDie s die _

/-- What follows the writing of a row changes no cell. -/
theorem imageRow_then_wt (s : State) (die : Nat) {c : Prop} [Decidable c] (x : Drone) :
    (if c then (s.resetDie die).bootDie die else s.setDrone die x).wt = s.wt := by
  split
  · exact (restarted s die).1
  · rfl

end

/-- Settles O36: a request is refused or performed by the state of the die's Drone alone; then each performed one by what it writes, and a
row of the image by its cells and by what the die's start afterwards leaves. -/
theorem managementSet : Obligations.ManagementSet := by
  unfold Obligations.ManagementSet
  intro die job keyid name first n tt window off row passes till k1 k2 k3 q uv bs r ms last s x im byte ilen rs ok reached
  refine ⟨fun booted outside => ?_, fun booted session => ⟨fun nojob nokey => ?keyset, fun nojob => ?keydel, fun fields fits => ?regmk,
      fun named region closed unbound => ?regdel, fun few => ?reglist, fun nowait idle some_ => ⟨fun free => ?begins, fun barred => ?waits⟩, ?cntrd,
      fun tt70 tt94 w1 w168 => ?cfgset⟩, fun busy ended => ?remeasured, fun normal booted => ?normal, fun recovery rewriting => ?rewriting,
    fun recovery rows short within => ⟨?piece, fun bad => ?bad, fun good => ?good⟩, fun due own usable fit pulsed few => ?row⟩
  · have refused := managed_outside booted reached outside
    simp only [List.forall_mem_cons]
    exact ⟨completes_refused (execKeyset die job keyid k1 k2 k3 s) rfl (refused _ _ _),
      completes_refused (execKeydel die job s) rfl (refused _ _ _),
      completes_refused (execRegmk die q s) rfl (refused _ _ _), completes_refused (execRegdel die name s) rfl (refused _ _ _),
      completes_refused (execReglist die first n s) rfl (refused _ _ _), completes_refused (execRemeas die name s) rfl (refused _ _ _),
      completes_refused (execCntrd die s) rfl (refused _ _ _), completes_refused (execCfgset die tt window uv s) rfl (refused _ _ _),
      List.forall_mem_nil _⟩
  case keyset =>
    show ∃ t, execKeyset die job keyid k1 k2 k3 s = .next t ∧ _
    unfold execKeyset
    refine managed_performed booted reached session (refuseIf_granted ?_ 6) ⟨NMap.find_put_self _ _ _, rfl, rfl, rfl⟩
    rw [nojob, nokey]
    rfl
  case keydel =>
    show ∃ t, execKeydel die job s = .next t ∧ _
    unfold execKeydel
    refine managed_performed booted reached session (refuseIf_granted ?_ 6)
      ⟨NMap.find_del_self _ _, fun k other => NMap.find_del_ne other, rfl, rfl, rfl⟩
    rw [nojob]
    rfl
  case regmk =>
    show ∃ t, execRegmk die q s = .next t ∧ _
    unfold execRegmk
    refine managed_performed booted reached session ?_
      ⟨NMap.find_put_self _ _ _, fun wa inside => ?_, fun wa outside => ?_, rfl, rfl, rfl⟩
    · simp [fields, fits, refuseIf]
    · exact (getD_dropped s.wt _ wa).trans (if_pos inside)
    · exact (getD_dropped s.wt _ wa).trans (if_neg (ne_true_of_eq_false outside))
  case regdel =>
    show ∃ t, execRegdel die name s = .next t ∧ _
    unfold execRegdel
    refine managed_performed booted reached session ?_ ⟨NMap.find_del_self _ _, rfl, rfl, rfl, rfl⟩
    simp [named, region, closed, unbound, refuseIf]
  case reglist =>
    show ∃ t, execReglist die first n s = .next t ∧ _
    unfold execReglist
    exact managed_performed booted reached session (refuseIf_granted (decide_eq_false (Nat.not_lt.2 few)) 1) rfl
  case begins =>
    show ∃ t, execRemeas die name s = .next t ∧ _
    unfold execRemeas
    refine managed_performed booted reached session (refuseIf_granted (remeas_named some_) 6) ?_
    have begins := serveRemeas_begins idle nowait free
    have own := beginRemeas_drone s die name ((s.drone die).asked name)
    unfold Drone.asked at begins own
    rw [begins]
    exact ⟨congrArg Drone.busy own, (congrArg Drone.queued own).trans nowait, rfl⟩
  case waits =>
    show ∃ t, execRemeas die name s = .next t ∧ _
    unfold execRemeas
    refine managed_performed booted reached session (refuseIf_granted (remeas_named some_) 6) ?_
    have waits := serveRemeas_waits idle nowait barred
    unfold Drone.asked at waits
    rw [waits]
    refine ⟨(congrArg Drone.queued (drone_setDrone s die _)).trans ?_, (congrArg Drone.busy (drone_setDrone s die _)).trans idle, rfl⟩
    exact congrArg (· ++ [name]) nowait
  case cntrd =>
    show ∃ t, execCntrd die s = .next t ∧ _
    unfold execCntrd
    exact managed_performed booted reached session rfl rfl
  case cfgset =>
    refine ⟨_, execCfgset_configures booted reached session tt70 tt94 w1 w168 uv, ?_⟩
    obtain ⟨dies, answers, mem, units⟩ := onlyZones_frame (configured_onlyZones s die tt window uv)
    have own := (dies die).trans (die_setDie s die _)
    have zones := fun (z : Nat) (hz : z < 8) => configured_zone s die tt window uv hz
    generalize s.configured die tt window uv = t at *
    refine ⟨congrArg Die.tt own, congrArg Die.window own, ⟨congrArg (· ++ _) answers, mem, units⟩, fun z hz => ?_⟩
    rw [answer_zone, zones z hz]
    exact ⟨rfl, undervolted_steps uv z _⟩
  case remeasured =>
    intro t met
    have finished : t = s.endRemeas die ms := finishRemeas_over busy ended
    obtain ⟨idle, latest⟩ := endRemeas_drone s die ms
    rw [finished]
    exact ⟨⟨rfl, rfl, rfl⟩, idle, latest, fun clean => List.map_id'' (metPoison_clean clean die) ms⟩
  case normal =>
    refine ⟨s.answer die 0x10 6 [], ?_, rfl⟩
    simp only [exec, execRcvdata, reached, normal, Bool.true_eq_false, if_false, if_true]
    exact request_refused booted reached (by decide) _ _
  case rewriting =>
    refine ⟨s.answer die 0x10 6 [], ?_, rfl⟩
    show execRcvdata die off bs last s = _
    unfold execRcvdata
    rw [if_neg (ne_false_of_eq_true reached), if_neg (ne_false_of_eq_true recovery), if_pos rewriting]
  case piece =>
    refine ⟨_, execRcvdata_piece reached recovery rows short within, ⟨rfl, rfl, rfl⟩, fun i hi => ?_⟩
    exact (congrArg (fun x : Drone => x.image.find (off + i)) (drone_setDrone s die _)).trans (NMap.find_foldl_put_zipIdx hi x.image)
  case bad =>
    exact ⟨_, execRcvdata_dropped reached recovery rows short within bad, ⟨rfl, rfl, rfl⟩,
      congrArg Drone.image (drone_setDrone s die _), rfl⟩
  case good =>
    have len : s.pieceLen die off bs = ilen := rfl
    refine ⟨_, execRcvdata_passed reached recovery rows short within good, ⟨rfl, rfl, rfl⟩, ?_, fun i hi => ?_⟩
    · rw [← len]
      exact congrArg Drone.rows (drone_setDrone s die _)
    · rw [← len] at hi
      refine (congrArg (fun x : Drone => x.image.find i) (drone_setDrone s die _)).trans ?_
      rw [receiving_image]
      exact NMap.find_map_self (s.pieceByte die off bs) (List.mem_range.2 hi)
  case row =>
    refine ⟨_, execVoicerRowRewrite_image due own usable fit pulsed few, fun c member agree key => ?_, fun wa other => ?_,
      fun more => ?_, fun done => ?_⟩
    · exact (cell_congr (imageRow_then_wt _ _ _) _).trans (imageRow_cell member agree key passes)
    · exact (cell_congr (imageRow_then_wt _ _ _) wa).trans (imageRow_cell_ne other passes)
    · rw [if_neg more]
      exact ⟨rfl, congrArg Drone.rows (drone_setDrone _ die _), (congrArg Drone.image (drone_setDrone _ die _)).trans rfl, rfl⟩
    · rw [if_pos done]
      obtain ⟨-, mem, record⟩ := restarted (s.imageRow die row passes) die
      refine ⟨⟨_, rfl⟩, fun c => ?_, fun boots => ?_, fun fails => ?_⟩
      · rw [mem, List.mem_filter, decide_eq_true_eq]
        rfl
      · rw [record, boots]
        exact ⟨rfl, rfl⟩
      · rw [record, fails]
        exact ⟨rfl, rfl⟩

end Sys2Proof.Machine
end

section
/-! PROOFS. What lists of writes leave of the accumulators, of a scratchpad and of global memory (O46). -/
namespace Sys2Proof

/-- What one step of a fold makes, and none of its steps breaks, stands at its end; `inv` is what every step keeps. -/
theorem foldl_makes {σ β : Type} {f : σ → β → σ} {inv made : σ → Prop} {l : List β} {c : β} (hc : c ∈ l)
    (invs : ∀ a ∈ l, ∀ t, inv t → inv (f t a)) (keeps : ∀ a ∈ l, ∀ t, inv t → made t → made (f t a))
    (makes : ∀ t, inv t → made (f t c)) {s : σ} (hs : inv s) : made (l.foldl f s) := by
  induction l generalizing s with
  | nil => cases hc
  | cons a l ih =>
    obtain ⟨first, later⟩ := List.forall_mem_cons.1 invs
    obtain ⟨-, stays⟩ := List.forall_mem_cons.1 keeps
    by_cases here : c = a
    · subst here
      exact (List.foldlRecOn l f (motive := fun t => inv t ∧ made t) ⟨first s hs, makes s hs⟩ fun t ht a ha =>
        ⟨later a ha t ht.1, stays a ha t ht.1 ht.2⟩).2
    · exact ih ((List.mem_cons.1 hc).resolve_left here) later stays (first s hs)

end Sys2Proof

namespace Sys2Proof.NMap

variable {α : Type}

/-- Of writes that agree about a key each stands. -/
theorem find_foldl_put {l : List (Nat × α)} {c : Nat × α} (hc : c ∈ l) (agree : ∀ e ∈ l, e.1 = c.1 → e.2 = c.2) (m : NMap α) :
    (l.foldl (fun m c => NMap.put m c.1 c.2) m).find c.1 = some c.2 := by
  refine foldl_makes (inv := fun _ => True) (made := fun m : NMap α => m.find c.1 = some c.2) hc (fun _ _ _ h => h)
    (fun e he t _ ht => ?_) (fun t _ => find_put_self t _ _) trivial
  rw [find_put]
  split
  · next same => rw [agree e he same.symm]
  · exact ht

end Sys2Proof.NMap

namespace Sys2Proof.Machine
open Sys2Proof

/-! Accumulator words (R98, R120) -/

theorem putAcc_eq (s : State) (l : List (Nat × BitVec 32)) :
    s.putAcc l = { s with acc := l.foldl (fun m c => NMap.put m c.1 c.2) s.acc } := by
  induction l generalizing s with
  | nil => rfl
  | cons c l ih => exact ih _
theorem accWord_of_find {s : State} {slot row col : Nat} {w : BitVec 32} (h : s.acc.find (accKey slot row col) = some w) :
    s.accWord slot row col = w := by
  rw [State.accWord, h]
/-- Two words of a slot have two keys. -/
theorem accKey_inj {slot r r' n n' : Nat} (hn : n < 160) (hn' : n' < 160) (h : accKey slot r n = accKey slot r' n') : r = r' ∧ n = n' := by
  unfold accKey at h
  omega
theorem putAcc_accWord {s : State} {slot row col : Nat} {w : BitVec 32} {l : List (Nat × BitVec 32)}
    (hc : (accKey slot row col, w) ∈ l) (agree : ∀ e ∈ l, e.1 = accKey slot row col → e.2 = w) : (s.putAcc l).accWord slot row col = w := by
  refine accWord_of_find ?_
  rw [putAcc_eq]
  exact NMap.find_foldl_put hc agree s.acc
theorem mem_rowKeys {slot r n : Nat} {k : Nat × Nat × Nat} :
    k ∈ rowKeys slot r n ↔ ∃ i j, i < n ∧ j < 160 ∧ k = (accKey slot (r + i) j, i, j) := by
  simp only [rowKeys, List.mem_flatMap, List.mem_map, List.mem_range]
  constructor
  · rintro ⟨i, hi, j, hj, rfl⟩
    exact ⟨i, j, hi, hj, rfl⟩
  · rintro ⟨i, j, hi, hj, rfl⟩
    exact ⟨i, hi, j, hj, rfl⟩
/-- Rows of a slot that are written hold what is written. -/
theorem putAcc_rowKeys (s : State) {slot r n i j : Nat} (f : Nat × Nat × Nat → BitVec 32) (hi : i < n) (hj : j < 160) :
    (s.putAcc ((rowKeys slot r n).map fun k => (k.1, f k))).accWord slot (r + i) j = f (accKey slot (r + i) j, i, j) := by
  refine putAcc_accWord (List.mem_map.2 ⟨_, mem_rowKeys.2 ⟨i, j, hi, hj, rfl⟩, rfl⟩) fun e he key => ?_
  obtain ⟨k, hk, rfl⟩ := List.mem_map.1 he
  obtain ⟨i', j', -, hj', rfl⟩ := mem_rowKeys.1 hk
  obtain ⟨row, rfl⟩ := accKey_inj hj' hj key
  obtain rfl : i' = i := by omega
  rfl

/-! Scratchpad bytes (R224, R225) -/

/-- Of all the machine, scratchpad bytes alone may differ in `t`. -/
def State.onlySp (s t : State) : Prop := t = { s with sp := t.sp }

theorem onlySp_trans {s t r : State} (h : s.onlySp t) (k : t.onlySp r) : s.onlySp r :=
  Eq.trans k (congrArg (fun x : State => { x with sp := r.sp }) h)
theorem spPut_onlySp (s : State) (u a : Nat) (b : Byte) : s.onlySp (s.spPut u a b) := by
  unfold State.onlySp State.spPut
  split <;> rfl
theorem spPuts_onlySp (s : State) (u a : Nat) (bs : List Byte) : s.onlySp (s.spPuts u a bs) := by
  induction bs generalizing s a with
  | nil => rfl
  | cons b bs ih => exact onlySp_trans (spPut_onlySp s u a b) (ih _ _)
/-- The key of a scratchpad byte, and whether a guard covers it, stay. -/
theorem onlySp_spByte {s t : State} (h : s.onlySp t) {u a : Nat} (clear : (s.unit u).place.guarded a = false) :
    t.spByte u a = (t.sp.find (spKey (s.unit u).place.die (s.home u) a)).getD (Config.freeByte s.fresh (2 ^ 60 + spKey (s.unit u).place.die (s.home u) a)) := by
  rw [h]
  exact if_neg (ne_true_of_eq_false clear)
theorem spPut_spByte_self {s : State} {u a : Nat} (b : Byte) (clear : (s.unit u).place.guarded a = false) :
    (s.spPut u a b).spByte u a = b := by
  rw [onlySp_spByte (spPut_onlySp s u a b) clear, State.spPut, if_neg (ne_true_of_eq_false clear), NMap.find_put_self, Option.getD_some]
theorem spPut_spByte_ne {s : State} {u a a' : Nat} (b : Byte) (clear : (s.unit u).place.guarded a = false) (h : a ≠ a') :
    (s.spPut u a' b).spByte u a = s.spByte u a := by
  rw [onlySp_spByte (spPut_onlySp s u a' b) clear, onlySp_spByte (show s.onlySp s from rfl) clear, State.spPut]
  split
  · rfl
  · rw [NMap.find_put_ne (by unfold spKey; omega)]
/-- Of bytes written that agree about an address outside the guards each stands. -/
theorem foldl_spPut_spByte {s : State} {u : Nat} {l : List (Nat × Byte)} {c : Nat × Byte} (hc : c ∈ l)
    (agree : ∀ e ∈ l, e.1 = c.1 → e.2 = c.2) (clear : (s.unit u).place.guarded c.1 = false) :
    (l.foldl (fun t b => t.spPut u b.1 b.2) s).spByte u c.1 = c.2 := by
  have open_ : ∀ t, s.onlySp t → (t.unit u).place.guarded c.1 = false := fun t ht => by rw [ht]; exact clear
  refine foldl_makes (inv := s.onlySp) (made := fun t => t.spByte u c.1 = c.2) hc
    (fun e _ t ht => onlySp_trans ht (spPut_onlySp t u e.1 e.2)) (fun e he t ht made => ?_)
    (fun t ht => spPut_spByte_self _ (open_ t ht)) rfl
  by_cases same : e.1 = c.1
  · rw [same, agree e he same]
    exact spPut_spByte_self _ (open_ t ht)
  · exact (spPut_spByte_ne _ (open_ t ht) (Ne.symm same)).trans made
theorem spPuts_eq_foldl (s : State) (u a : Nat) (bs : List Byte) :
    s.spPuts u a bs = (addressed a bs).foldl (fun t b => t.spPut u b.1 b.2) s := by
  have shifted : ∀ (n : Nat) (t : State), t.spPuts u (a + n) bs =
      ((bs.zipIdx n).map fun p => (a + p.2, p.1)).foldl (fun t b => t.spPut u b.1 b.2) t := by
    induction bs with
    | nil => exact fun _ _ => rfl
    | cons b bs ih => exact fun n t => ih (n + 1) _
  exact shifted 0 s
/-- Pieces of the scratchpad written one after another: address and bytes. -/
def State.spPieces (s : State) (u : Nat) (ps : List (Nat × List Byte)) : State := ps.foldl (fun t p => t.spPuts u p.1 p.2) s

theorem spPieces_onlySp (s : State) (u : Nat) (ps : List (Nat × List Byte)) : s.onlySp (s.spPieces u ps) :=
  List.foldlRecOn ps _ (motive := s.onlySp) rfl fun t ht p _ => onlySp_trans ht (spPuts_onlySp t u p.1 p.2)
/-- A piece that lies apart from each other piece stands in the scratchpad. -/
theorem spPieces_spHolds {s : State} {u : Nat} {ps : List (Nat × List Byte)} {p : Nat × List Byte} (hp : p ∈ ps)
    (apart : ∀ r ∈ ps, r = p ∨ r.1 + r.2.length ≤ p.1 ∨ p.1 + p.2.length ≤ r.1) : (s.spPieces u ps).spHolds u p.1 p.2 := by
  intro clear
  have bytes : s.spPieces u ps = (ps.flatMap fun r => addressed r.1 r.2).foldl (fun t b => t.spPut u b.1 b.2) s := by
    rw [List.foldl_flatMap]
    exact congrArg (fun f => List.foldl f s ps) (funext fun t => funext fun r => spPuts_eq_foldl t u r.1 r.2)
  have place : ((s.spPieces u ps).unit u).place = (s.unit u).place := by rw [spPieces_onlySp s u ps]; rfl
  refine List.ext_getElem (by simp [State.spBytes]) fun i _ hi => ?_
  simp only [State.spBytes, List.getElem_map, List.getElem_range]
  rw [bytes]
  rw [place] at clear
  refine foldl_spPut_spByte (c := (p.1 + i, p.2[i])) ?_ (fun e he at_ => ?_) (clear i hi)
  · exact List.mem_flatMap.2 ⟨p, hp, mem_addressed.2 ⟨i, List.getElem?_eq_getElem hi, rfl⟩⟩
  · obtain ⟨r, hr, he⟩ := List.mem_flatMap.1 he
    obtain ⟨k, byte, at'⟩ := mem_addressed.1 he
    obtain ⟨hk, byte⟩ := List.getElem?_eq_some_iff.1 byte
    rw [at'] at at_
    dsimp only at at_
    rcases apart r hr with rfl | below | above
    · obtain rfl : k = i := by omega
      exact byte.symm
    · omega
    · omega

theorem spHolds_congr {s t : State} (u : Nat) (place : (t.unit u).place = (s.unit u).place) (dies : t.dies = s.dies)
    (fresh : t.fresh = s.fresh) (sp : t.sp = s.sp) : t.spHolds u = s.spHolds u := by
  have home : t.home u = s.home u := by rw [State.home, place, State.phys, State.die, dies, State.home, State.phys, State.die]
  have byte : t.spByte u = s.spByte u := by
    funext a
    simp only [State.spByte, place, home, fresh, sp]
  funext a bs
  simp only [State.spHolds, State.spBytes, place, byte]

/-! Global memory (R369 to R371, R487) -/

theorem writeList_eq_foldl (s : State) (u scope key : Nat) (l : List (Nat × Byte)) :
    s.writeList u scope key l = l.foldl (fun t b => t.writeAt u scope key b.1 b.2) s := by
  induction l generalizing s with
  | nil => rfl
  | cons c l ih => exact ih _
/-- No line becomes poisoned as poison ends elsewhere. -/
theorem unpoison_clean {s : State} {q : Nat} (clean : s.poisoned q = false) (pas : List Nat) : (s.unpoison pas).poisoned q = false := by
  have gone : s.mpoison.find (q / 128) = none := by simpa [State.poisoned] using clean
  refine Option.isSome_eq_false_iff.2 (Option.isNone_iff_eq_none.2 ?_)
  refine (NMap.find_filter_key s.mpoison (fun l => !((List.range 128).all fun i => pas.contains (l * 128 + i))) _).trans ?_
  rw [gone, ite_self]
theorem unpoison_latest {s : State} {q : Nat} (clean : s.poisoned q = false) (pas : List Nat) (key : Nat) :
    (s.unpoison pas).latest key q = s.latest key q := by
  rw [latest_eq_lastOf, latest_eq_lastOf]
  exact lastOf_ext ((unpoison_clean clean pas).trans clean.symm) rfl rfl rfl rfl
/-- Of writes that agree about a byte each is the last to it, where its line is not poisoned. -/
theorem land_latest {s : State} (u scope key : Nat) {l : List (Nat × Byte)} {c : Nat × Byte} (hc : c ∈ l)
    (agree : ∀ e ∈ l, e.1 = c.1 → e.2 = c.2) (clean : s.poisoned c.1 = false) : (s.land u scope key l).latest key c.1 = c.2 := by
  have clean' : (s.writeList u scope key l).poisoned c.1 = false := (onlyBytes_poisoned (writeList_onlyBytes s u scope key l) _).trans clean
  rw [State.land, unpoison_latest clean', writeList_eq_foldl]
  refine foldl_makes (inv := fun t : State => t.poisoned c.1 = false) (made := fun t : State => t.latest key c.1 = c.2) hc
    (fun e _ t ht => (onlyBytes_poisoned (writeAt_onlyBytes t u scope key e.1 e.2) _).trans ht) (fun e he t ht made => ?_)
    (fun t ht => writeAt_latest_self t u scope key c.1 c.2 ht) clean
  by_cases same : e.1 = c.1
  · rw [same, agree e he same]
    exact writeAt_latest_self t u scope key c.1 c.2 ht
  · rw [latest_eq_lastOf, writeAt_lastOf_ne t _ u scope key e.2 (Ne.symm same), ← latest_eq_lastOf, made]
theorem land_latest_ne {s : State} (u scope key : Nat) {l : List (Nat × Byte)} {q : Nat} (off : q ∉ l.map (·.1))
    (clean : s.poisoned q = false) : (s.land u scope key l).latest key q = s.latest key q := by
  have clean' : (s.writeList u scope key l).poisoned q = false := (onlyBytes_poisoned (writeList_onlyBytes s u scope key l) _).trans clean
  rw [State.land, unpoison_latest clean', latest_eq_lastOf, writeList_lastOf_ne s _ u scope key l off, ← latest_eq_lastOf]
theorem engineWrite_poisoned {s : State} (u scope : Nat) (l : List (Nat × Byte)) {q : Nat} (clean : s.poisoned q = false) :
    (s.engineWrite u scope l).poisoned q = false :=
  unpoison_clean ((onlyBytes_poisoned (writeList_onlyBytes s u scope (s.unitKey u) l) q).trans clean) _
/-- Bytes that an engine writes are the last to their addresses. -/
theorem engineWrite_latest {s : State} (u scope : Nat) {l : List (Nat × Byte)} {c : Nat × Byte} (hc : c ∈ l)
    (agree : ∀ e ∈ l, e.1 = c.1 → e.2 = c.2) (clean : s.poisoned c.1 = false) :
    (s.engineWrite u scope l).latest (s.unitKey u) c.1 = c.2 := land_latest u scope _ hc agree clean
theorem homeWrite_latest {s : State} (u scope : Nat) {pa : Nat} {bs : List Byte} {i : Nat} (hi : i < bs.length)
    (clean : s.poisoned (pa + i) = false) : (s.homeWrite u scope pa bs).latest (s.unitKey u) (pa + i) = bs[i] := by
  refine land_latest u scope _ (c := (pa + i, bs[i])) (mem_addressed.2 ⟨i, List.getElem?_eq_getElem hi, rfl⟩) (fun e he at_ => ?_) clean
  obtain ⟨k, byte, at'⟩ := mem_addressed.1 he
  obtain ⟨hk, byte⟩ := List.getElem?_eq_some_iff.1 byte
  dsimp only at at_
  obtain rfl : k = i := by omega
  exact byte.symm
theorem homeWrite_latest_ne {s : State} (u scope : Nat) {pa q : Nat} {bs : List Byte} (off : q < pa ∨ pa + bs.length ≤ q)
    (clean : s.poisoned q = false) : (s.homeWrite u scope pa bs).latest (s.unitKey u) q = s.latest (s.unitKey u) q := by
  refine land_latest_ne u scope _ (l := addressed pa bs) ?_ clean
  rw [addressed_keys, List.mem_range'_1]
  omega

/-! Writes that reach a broader scope keep their order (R370, R371) -/

/-- The last byte written at `q` that a coherence order and what all see hold, if any. -/
def lastByte (l : List NWrite) (m : List Host.Cell) (q : Nat) : Option Byte :=
  ((findLast (fun w => decide (w.pa = q)) l).map (·.byte)).or (NMap.find m q)

theorem lastByte_append (l : List NWrite) (w : NWrite) (m : List Host.Cell) (q : Nat) :
    lastByte (l ++ [w]) m q = if w.pa = q then some w.byte else lastByte l m q := by
  rw [lastByte, findLast_append]
  by_cases here : w.pa = q <;> simp [here, lastByte]
/-- A write that widens counts as it did where it stood. -/
theorem widenStep_lastByte (u S : Nat) (f : Nat → Bool) (acc : List NWrite × List Host.Cell) (w : NWrite) (q : Nat) :
    lastByte (widenStep u S f acc w).1 (widenStep u S f acc w).2 q = if w.pa = q then some w.byte else lastByte acc.1 acc.2 q := by
  unfold widenStep
  split
  · split
    · by_cases here : w.pa = q
      · have gone : findLast (fun e => decide (e.pa = q)) (acc.1.filter fun e => decide (e.pa ≠ w.pa)) = none :=
          findLast_filter_none _ _ _ fun e _ he => by simpa [here] using he
        rw [if_pos here, lastByte, gone, ← here, NMap.find_put_self]
        rfl
      · have kept : findLast (fun e => decide (e.pa = q)) (acc.1.filter fun e => decide (e.pa ≠ w.pa)) =
            findLast (fun e => decide (e.pa = q)) acc.1 :=
          findLast_filter _ _ _ fun e _ he => by
            obtain rfl : e.pa = q := by simpa using he
            simpa using Ne.symm here
        rw [if_neg here, lastByte, kept, NMap.find_put_ne (Ne.symm here), lastByte]
    · exact lastByte_append acc.1 _ acc.2 q
  · exact lastByte_append acc.1 w acc.2 q
theorem foldl_widenStep_lastByte (u S : Nat) (f : Nat → Bool) (l k : List NWrite) (acc : List NWrite × List Host.Cell) (m : List Host.Cell)
    (q : Nat) (h : lastByte acc.1 acc.2 q = lastByte k m q) :
    lastByte (l.foldl (widenStep u S f) acc).1 (l.foldl (widenStep u S f) acc).2 q = lastByte (k ++ l) m q := by
  induction l generalizing acc k with
  | nil => rw [List.append_nil]; exact h
  | cons w l ih =>
    rw [List.foldl_cons, ih (k ++ [w]) _ (by rw [widenStep_lastByte, lastByte_append, h]), List.append_assoc, List.singleton_append]
/-- Widening leaves the last write of every byte, whatever its scope (R371). -/
theorem widenAt_latest (s : State) (u S : Nat) (f : Nat → Bool) (key q : Nat) : (s.widenAt u S f).latest key q = s.latest key q := by
  have last : lastByte (s.widenAt u S f).narrow (s.widenAt u S f).mem q = lastByte s.narrow s.mem q := by
    have := foldl_widenStep_lastByte u S f s.narrow [] ([], s.mem) s.mem q rfl
    rwa [List.nil_append] at this
  have asLast : ∀ t : State, t.latest key q = if t.poisoned q = false ∧ t.keyOk key q = true then
      (lastByte t.narrow t.mem q).getD (t.freeByte q) else t.freeByte q := fun t => by
    rw [latest_eq_lastOf, State.lastOf]
    simp only [Bool.and_true]
    rfl
  rw [asLast, asLast, last]
  rfl

/-! What a write to memory leaves alone, and what it may set off (R230, R402) -/

/-- Of all the machine, what stands in global memory, and what keeps account of its writes or is set off by them, may differ in `t`. -/
def State.onlyMemory (s t : State) : Prop :=
  t = { s with mem := t.mem, lineKey := t.lineKey, narrow := t.narrow, mpoison := t.mpoison, launches := t.launches, voices := t.voices,
               barRel := t.barRel, applied := t.applied }

theorem onlyMemory_trans {s t r : State} (h : s.onlyMemory t) (k : t.onlyMemory r) : s.onlyMemory r :=
  Eq.trans k (congrArg (fun x : State =>
    { x with mem := r.mem, lineKey := r.lineKey, narrow := r.narrow, mpoison := r.mpoison, launches := r.launches, voices := r.voices,
             barRel := r.barRel, applied := r.applied }) h)
theorem writes_onlyMemory (s : State) (u scope key : Nat) (l : List (Nat × Byte)) (pas pas' : List Nat) (ok : Nat → Nat → Bool) :
    s.onlyMemory (((s.land u scope key l).dropSnaps pas).fire ok pas') := by
  have bytes := writeList_onlyBytes s u scope key l
  unfold State.land
  generalize s.writeList u scope key l = t at *
  rw [bytes]
  rfl
theorem engineWrite_onlyMemory (s : State) (u scope : Nat) (l : List (Nat × Byte)) : s.onlyMemory (s.engineWrite u scope l) := by
  unfold State.engineWrite
  exact writes_onlyMemory ..
theorem homeWrite_onlyMemory (s : State) (u scope pa : Nat) (bs : List Byte) : s.onlyMemory (s.homeWrite u scope pa bs) := by
  unfold State.homeWrite
  exact writes_onlyMemory ..
theorem widenAt_onlyMemory (s : State) (u S : Nat) (f : Nat → Bool) : s.onlyMemory (s.widenAt u S f) := rfl
theorem countObject_onlyMemory (s : State) (u scope pa : Nat) : s.onlyMemory (s.countObject u scope pa) :=
  onlyMemory_trans (widenAt_onlyMemory s u scope _) (homeWrite_onlyMemory _ u scope pa _)
section
variable {s t : State} (h : s.onlyMemory t)
include h

theorem onlyMemory_ctxs : t.ctxs = s.ctxs := by rw [h]
theorem onlyMemory_unitKey (u : Nat) : t.unitKey u = s.unitKey u := by rw [h]; rfl
theorem onlyMemory_spByte (u a : Nat) : t.spByte u a = s.spByte u a := by rw [h]; rfl

end

/-- A completion object counts one more (R299, R365). -/
theorem countObject_latestNat {s : State} (u scope : Nat) {pa : Nat} (clean : s.poisoned pa = false) (line : pa % 128 ≤ 120) :
    (s.countObject u scope pa).latestNat u pa 8 = (s.latestNat u pa 8 + 1) % 2 ^ 64 := by
  have wide : (s.widen u scope).latestNat u pa 8 = s.latestNat u pa 8 :=
    congrArg leNat (List.map_congr_left fun i _ => widenAt_latest s u scope _ _ _)
  have key : (s.countObject u scope pa).unitKey u = (s.widen u scope).unitKey u :=
    onlyMemory_unitKey (homeWrite_onlyMemory (s.widen u scope) u scope pa _) u
  have bytes : (List.range 8).map (fun i => (s.countObject u scope pa).latest ((s.countObject u scope pa).unitKey u) (pa + i)) =
      leBytes (s.latestNat u pa 8 + 1) 8 := by
    refine List.ext_getElem (by simp) fun i hi hb => ?_
    have near : i < 8 := by simpa using hi
    have same : s.poisoned (pa + i) = s.poisoned pa := by rw [State.poisoned, show (pa + i) / 128 = pa / 128 by omega, State.poisoned]
    rw [List.getElem_map, List.getElem_range, key]
    refine (homeWrite_latest (s := s.widen u scope) u scope (by simpa using near) (same.trans clean)).trans ?_
    simp only [wide]
  rw [State.latestNat, bytes, leNat_leBytes_mod]

end Sys2Proof.Machine
end

section
/-! PROOFS. What a command's completion leaves alone, and that what is over stays over (O46). -/
namespace Sys2Proof.Machine
open Sys2Proof

/-! Commands that are over stay over (R126, R273) -/

/-- Every context has in `t` the commands that it has in `s`. -/
structure State.sameCmds (s t : State) : Prop where
  queue : ∀ u e j, (t.ctx u e j).queue = (s.ctx u e j).queue
  flight : ∀ u e j, (t.ctx u e j).flight = (s.ctx u e j).flight

theorem sameCmds_trans {s t r : State} (h : s.sameCmds t) (k : t.sameCmds r) : s.sameCmds r :=
  ⟨fun u e j => (k.queue u e j).trans (h.queue u e j), fun u e j => (k.flight u e j).trans (h.flight u e j)⟩
theorem sameCmds_of_ctxs {s t : State} (h : t.ctxs = s.ctxs) : s.sameCmds t :=
  ⟨fun u e j => by rw [State.ctx, h, State.ctx], fun u e j => by rw [State.ctx, h, State.ctx]⟩
theorem ctx_of_ckey (s : State) {u u' j j' : Nat} {e e' : Engine} (same : ckey u' e' j' = ckey u e j) : s.ctx u' e' j' = s.ctx u e j := by
  rw [State.ctx, same, State.ctx]
theorem setCtx_sameCmds (s : State) {u j : Nat} {e : Engine} {c : Ctx} (hq : c.queue = (s.ctx u e j).queue)
    (hf : c.flight = (s.ctx u e j).flight) : s.sameCmds (s.setCtx u e j c) := by
  constructor <;> intro u' e' j' <;> by_cases same : ckey u' e' j' = ckey u e j
  · rw [ctx_of_ckey _ same, ctx_setCtx, ctx_of_ckey s same, hq]
  · rw [ctx_setCtx_ne s c same]
  · rw [ctx_of_ckey _ same, ctx_setCtx, ctx_of_ckey s same, hf]
  · rw [ctx_setCtx_ne s c same]
theorem sameCmds_over {s t : State} {u j n : Nat} {e : Engine} (h : s.sameCmds t) (past : s.commandOver u e j n) :
    t.commandOver u e j n := by
  rw [State.commandOver, h.queue, h.flight]
  exact past
/-- A command's completion brings no other back. -/
theorem completeCmd_keepsOver (s : State) {u j u' j' n : Nat} {e e' : Engine} (q : Cmd) (past : s.commandOver u' e' j' n) :
    (s.completeCmd u e j q).commandOver u' e' j' n := by
  unfold State.completeCmd State.refreshUnit
  extract_lets c c0 c1
  refine refresh_commandOver (fun k hk => ?_) _ _ _
  by_cases same : ckey u' e' j' = ckey u e j
  · rw [ctx_of_ckey _ same, ctx_setCtx, (settle_cmds _ _).1, (settle_cmds _ _).2, (finish_cmds c1 q).1, (finish_cmds c1 q).2] at hk
    rw [State.commandOver, ctx_of_ckey s same] at past
    exact past k (List.mem_append.2 ((List.mem_append.1 hk).imp List.mem_of_mem_filter List.mem_of_mem_filter))
  · rw [ctx_setCtx_ne s _ same] at hk
    exact past k hk

/-! What follows a command's results (R126, R225) -/

/-- What MSTAT and MPREF keep in a context, with its stream. -/
def Ctx.kept (c : Ctx) : Stream × X × List Nat := (c.st, c.mstat, c.pref)

theorem unready_kept (c : Ctx) (n : Nat) : (c.unready n).kept = c.kept := by
  unfold Ctx.unready
  split <;> rfl
theorem collapse_kept (c : Ctx) (n : Nat) : (c.collapse n).kept = c.kept := by
  induction n generalizing c with
  | zero => rfl
  | succ n ih =>
    rw [Ctx.collapse]
    split
    · exact ih _
    · rfl
theorem settle_kept (c : Ctx) (t : Nat) : (c.settle t).kept = c.kept := by
  unfold Ctx.settle
  split <;> rfl
theorem kept_of_unmarked {b c : Ctx} (h : b.unmarked = c.unmarked) : b.kept = c.kept := by
  show b.unmarked.kept = c.unmarked.kept
  rw [h]
theorem completeCmd_kept (s : State) (u : Nat) (e : Engine) (j : Nat) (q : Cmd) :
    ((s.completeCmd u e j q).ctx u e j).kept = (s.ctx u e j).kept := by
  unfold State.completeCmd State.refreshUnit
  extract_lets c c0 c1
  have first : c1.kept = c.kept := by
    show c0.kept = c.kept
    unfold c0
    split
    · exact unready_kept c _
    · rfl
  refine (kept_of_unmarked (refresh_unmarked _ _ _ _ _ _ _)).trans ?_
  rw [ctx_setCtx]
  exact (settle_kept _ _).trans ((collapse_kept _ _).trans first)

theorem latestNat_congr {s t : State} (store : s.sameStore t) (keys : t.keys = s.keys) (u : Nat) : t.latestNat u = s.latestNat u := by
  funext pa n
  rw [State.latestNat, unitKey_congr store.place keys]
  refine congrArg leNat (List.map_congr_left fun i _ => ?_)
  rw [latest_eq_lastOf, lastOf_congr store, latest_eq_lastOf]
/-- What a command of unit `u`'s matrix context `j` has left in `s` stands in `t`: only the record of a guard granule, and commands and
the account of them, may differ. -/
structure State.keepsResults (s t : State) (u j : Nat) : Prop where
  store : s.sameStore t
  keys : t.keys = s.keys
  dies : t.dies = s.dies
  status : (t.unit u).status = (s.unit u).status
  fault : (t.unit u).fault = (s.unit u).fault
  kept : (t.ctx u .matrix j).kept = (s.ctx u .matrix j).kept

theorem touchCmd_eq (s : State) (u agent : Nat) (q : Cmd) :
    s.touchCmd u agent q = s ∨ ∃ r, s.touchCmd u agent q = s.setUnit u { s.unit u with guard := some r } := by
  unfold State.touchCmd
  split
  · exact .inl rfl
  · exact touch_eq ..
theorem touchCmd_sameStore (s : State) (u agent : Nat) (q : Cmd) : s.sameStore (s.touchCmd u agent q) := by
  rcases touchCmd_eq s u agent q with same | ⟨r, touched⟩
  · exact same.symm ▸ sameStore_refl s
  · exact touched.symm ▸ setUnit_sameStore s u _ rfl
theorem touchCmd_ctxs (s : State) (u agent : Nat) (q : Cmd) : (s.touchCmd u agent q).ctxs = s.ctxs := by
  rcases touchCmd_eq s u agent q with same | ⟨r, touched⟩
  · rw [same]
  · rw [touched]; rfl
theorem completeCmd_sameStore (s : State) (u : Nat) (e : Engine) (j : Nat) (q : Cmd) : s.sameStore (s.completeCmd u e j q) :=
  ⟨rfl, rfl, rfl, rfl, rfl, rfl, rfl, rfl, rfl, rfl, rfl, rfl, fun _ => rfl⟩
theorem setUnit_keepsResults (s : State) {u : Nat} (j : Nat) {x : TeamUnit} (place : x.place = (s.unit u).place)
    (status : x.status = (s.unit u).status) (fault : x.fault = (s.unit u).fault) : s.keepsResults (s.setUnit u x) u j :=
  ⟨setUnit_sameStore s u x place, rfl, rfl, by rw [unit_setUnit, status], by rw [unit_setUnit, fault], rfl⟩
theorem touchCmd_keepsResults (s : State) (u j agent : Nat) (q : Cmd) : s.keepsResults (s.touchCmd u agent q) u j := by
  rcases touchCmd_eq s u agent q with same | ⟨r, touched⟩
  · rw [same]
    exact ⟨sameStore_refl s, rfl, rfl, rfl, rfl, rfl⟩
  · rw [touched]
    exact setUnit_keepsResults s j rfl rfl rfl
theorem completeCmd_keepsResults (s : State) (u j : Nat) (q : Cmd) : s.keepsResults (s.completeCmd u .matrix j q) u j :=
  ⟨completeCmd_sameStore .., rfl, rfl, rfl, rfl, completeCmd_kept ..⟩
theorem keepsResults_trans {s t r : State} {u j : Nat} (h : s.keepsResults t u j) (k : t.keepsResults r u j) : s.keepsResults r u j :=
  ⟨sameStore_trans h.store k.store, k.keys.trans h.keys, k.dies.trans h.dies, k.status.trans h.status, k.fault.trans h.fault,
    k.kept.trans h.kept⟩

section
variable {s t : State} {u j : Nat} (h : s.keepsResults t u j)
include h

theorem keepsResults_accWord : t.accWord = s.accWord := by
  funext slot row col
  rw [State.accWord, h.store.acc, h.store.fresh, State.accWord]
theorem keepsResults_lanOf : t.lanOf = s.lanOf := by
  funext slot
  rw [State.lanOf, h.store.lan, State.lanOf]
theorem keepsResults_dscOf : t.dscOf = s.dscOf := by
  funext slot
  rw [State.dscOf, h.store.dsc, State.dscOf]
theorem keepsResults_latestNat : t.latestNat u = s.latestNat u := latestNat_congr h.store h.keys u
theorem keepsResults_spHolds : t.spHolds u = s.spHolds u := spHolds_congr u (h.store.place u) h.dies h.store.fresh h.store.sp
/-- What a matrix command leaves is left as well where only its completion has followed. -/
theorem keepsResults_leaves {s0 : State} {q : Cmd} (left : s0.matrixLeaves s u j q) : s0.matrixLeaves t u j q := by
  have st : (t.ctx u .matrix j).st = (s.ctx u .matrix j).st := congrArg Prod.fst h.kept
  have mstat : (t.ctx u .matrix j).mstat = (s.ctx u .matrix j).mstat := congrArg (fun x => x.2.1) h.kept
  have pref : (t.ctx u .matrix j).pref = (s.ctx u .matrix j).pref := congrArg (fun x => x.2.2) h.kept
  unfold State.matrixLeaves at left ⊢
  simp only [keepsResults_accWord h, keepsResults_lanOf h, keepsResults_dscOf h, keepsResults_latestNat h, keepsResults_spHolds h,
    h.store.acc, h.store.lan, h.status, h.fault, st, mstat, pref]
  exact left

end

end Sys2Proof.Machine
end

section
/-! PROOFS. What each matrix command leaves (O46). -/
namespace Sys2Proof.Machine
open Sys2Proof

/-- The places of a list made of `range` are its indices. -/
theorem zipIdx_map_range {α : Type} (f : Nat → α) (n : Nat) : ((List.range n).map f).zipIdx = (List.range n).map fun i => (f i, i) := by
  refine List.ext_getElem (by simp) fun i _ _ => ?_
  simp

/-! What the operations on a slot and a unit leave alone (R120) -/

theorem setLan_accWord (s : State) (slot u j : Nat) (q : Cmd) : (s.setLan slot u j q).accWord = s.accWord := rfl
theorem raiseAt_accWord (s : State) (u : Nat) (fl : X) : (s.raiseAt u fl).accWord = s.accWord := rfl
theorem setMstat_accWord (s : State) (u j : Nat) (v : X) : (s.setMstat u j v).accWord = s.accWord := rfl
theorem raiseAt_lanOf (s : State) (u : Nat) (fl : X) : (s.raiseAt u fl).lanOf = s.lanOf := rfl
theorem setMstat_lanOf (s : State) (u j : Nat) (v : X) : (s.setMstat u j v).lanOf = s.lanOf := rfl
theorem setLan_lanOf (s : State) (slot u j : Nat) (q : Cmd) : ((s.setLan slot u j q).lanOf slot).cn = q.cn := by
  rw [State.lanOf, State.setLan, NMap.getD_put_self]

/-! Products (R285, R286) -/

/-- The word that row `i` of group `g` of a product and column `n` leave in the slot of the command. -/
def State.productWord (s : State) (u : Nat) (q : Cmd) (g : BOp × Nat × Nat × Nat) (i n : Nat) : BitVec 32 :=
  let slot := s.slotKey u (Instr.slotField q.instr)
  BitVec.ofNat 32 (dotRun q.code q.sm (startAcc q.zd.1 q.zd.2 (s.accWord slot (g.2.2.2 + i) n) (s.dscOf slot)).1
    ((List.range q.aop.steps).map fun st =>
      (s.aBlock u q.aop q.tens (q.copyOf q.aop.tn) (s.fetched q) q.code q.sm (g.2.1 + i) st, s.bBlock g.1 st n))).1

/-- The words of a product of a command that runs alone: those of each row of each group, by each of the 160 columns. -/
theorem productOf_words {s : State} {u : Nat} {q : Cmd} (single : q.con = 0) : (s.productOf u q).words =
    (s.parts u q).flatMap fun g => (List.range g.2.2.1).flatMap fun i => (List.range 160).map fun n =>
      (accKey (s.slotKey u (Instr.slotField q.instr)) (g.2.2.2 + i) n, s.productWord u q g i n) := by
  have joined : ∀ (f : BOp × Nat × Nat × Nat → Product) (l : List (BOp × Nat × Nat × Nat)) (p : Product),
      (l.foldl (fun acc g => acc.join (f g)) p).words = p.words ++ l.flatMap fun g => (f g).words := fun f l => by
    induction l with
    | nil => exact fun p => (List.append_nil _).symm
    | cons g l ih => exact fun p => (ih _).trans (List.append_assoc ..)
  have source : s.aSource u q = some (u, q) := if_pos single
  unfold State.productOf
  simp only [source]
  rw [joined, List.nil_append]
  refine congrArg (fun f => List.flatMap f (s.parts u q)) (funext fun g => ?_)
  simp only [State.product, zipIdx_map_range, List.flatMap_map, List.map_flatMap, List.map_map, Function.comp_def, List.zip_map']
  rfl

/-- Each group of rows ends in the slot before the next one begins. -/
theorem parts_sorted (s : State) (u : Nat) (q : Cmd) : (s.parts u q).Pairwise fun g h => g.2.2.2 + g.2.2.1 ≤ h.2.2.2 := by
  unfold State.parts
  split
  · dsimp only
    generalize s.bOf u q.weight _ q = b
    cases b
    · exact List.Pairwise.nil
    · exact List.pairwise_singleton _ _
  · refine (List.foldlRecOn (b := ([], 0)) (motive := fun acc : List (BOp × Nat × Nat × Nat) × Nat =>
      acc.1.Pairwise (fun g h => g.2.2.2 + g.2.2.1 ≤ h.2.2.2) ∧ ∀ g ∈ acc.1, g.2.2.2 + g.2.2.1 ≤ q.aop.row0 + acc.2)
      (q.table.getD []) _ ⟨List.Pairwise.nil, List.forall_mem_nil _⟩ fun acc ih t _ => ?_).1
    obtain ⟨apart, below⟩ := ih
    have below' : ∀ g ∈ acc.1, g.2.2.2 + g.2.2.1 ≤ q.aop.row0 + (acc.2 + t.1) := fun g hg => (below g hg).trans (by omega)
    dsimp only
    split
    · split
      · exact ⟨apart, below'⟩
      · refine ⟨List.pairwise_append.2 ⟨apart, List.pairwise_singleton _ _, fun g hg => List.forall_mem_singleton.2 (below g hg)⟩,
          List.forall_mem_append.2 ⟨below', List.forall_mem_singleton.2 ?_⟩⟩
        dsimp only
        omega
    · exact ⟨apart, below'⟩
  · exact List.Pairwise.nil
/-- Groups of rows lie apart in the slot. -/
theorem parts_apart (s : State) (u : Nat) (q : Cmd) {g h : BOp × Nat × Nat × Nat} (hg : g ∈ s.parts u q) (hh : h ∈ s.parts u q) :
    g = h ∨ g.2.2.2 + g.2.2.1 ≤ h.2.2.2 ∨ h.2.2.2 + h.2.2.1 ≤ g.2.2.2 :=
  List.Pairwise.forall_of_forall_of_flip (R := fun g h => g = h ∨ g.2.2.2 + g.2.2.1 ≤ h.2.2.2 ∨ h.2.2.2 + h.2.2.1 ≤ g.2.2.2)
    (fun _ _ => .inl rfl) ((parts_sorted s u q).imp fun h => .inr (.inl h)) ((parts_sorted s u q).imp fun h => .inr (.inr h)) hg hh

section
variable {s : State} {u j : Nat} {q : Cmd} (skip : s.skipped (s.slotKey u (Instr.slotField q.instr)) u j q = false) (kept : q.gone = false)
include skip kept

/-- A product whose tiles can be read leaves the sums of its rows and columns (R285). -/
theorem landProduct_sums (single : q.con = 0) (alone : q.memb = 0) (clean : ∀ g ∈ s.parts u q, s.bPoison g.1 q.aop.steps = none) :
    ((s.landProduct s u j q).lanOf (s.slotKey u (Instr.slotField q.instr))).cn = q.cn ∧
      ∀ g ∈ s.parts u q, ∀ i n, i < g.2.2.1 → n < 160 →
        (s.landProduct s u j q).accWord (s.slotKey u (Instr.slotField q.instr)) (g.2.2.2 + i) n = s.productWord u q g i n := by
  have none_bad : (s.parts u q).findSome? (fun g => s.bPoison g.1 q.aop.steps) = none := List.findSome?_eq_none_iff.2 clean
  have landed : s.landProduct s u j q = (((s.putAcc (s.productOf u q).words).setLan (s.slotKey u (Instr.slotField q.instr)) u j q).raiseAt u
      (s.productOf u q).flags).setMstat u j (q.statusWord (s.productOf u q).sat (s.productOf u q).ncs) := by
    unfold State.landProduct State.countMerged
    simp only [skip, kept, none_bad, alone, Bool.false_eq_true, if_false, if_true]
  have words := productOf_words (s := s) (u := u) single
  generalize s.productOf u q = r at landed words
  generalize s.slotKey u (Instr.slotField q.instr) = slot at landed words
  rw [landed]
  refine ⟨?_, fun g hg i n hi hn => ?_⟩
  · rw [setMstat_lanOf, raiseAt_lanOf, setLan_lanOf]
  rw [setMstat_accWord, raiseAt_accWord, setLan_accWord, words]
  refine putAcc_accWord ?_ fun e he key => ?_
  · exact List.mem_flatMap.2 ⟨g, hg, List.mem_flatMap.2 ⟨i, List.mem_range.2 hi, List.mem_map.2 ⟨n, List.mem_range.2 hn, rfl⟩⟩⟩
  · obtain ⟨h, hh, he⟩ := List.mem_flatMap.1 he
    obtain ⟨i', hi', he⟩ := List.mem_flatMap.1 he
    obtain ⟨n', hn', rfl⟩ := List.mem_map.1 he
    obtain ⟨row, rfl⟩ := accKey_inj (List.mem_range.1 hn') hn key
    have hi' := List.mem_range.1 hi'
    obtain rfl : h = g := (parts_apart s u q hh hg).resolve_right (by omega)
    obtain rfl : i' = i := by omega
    rfl
/-- A product one of whose tiles is poisoned fails its team (R252). -/
theorem landProduct_poisoned (alone : q.memb = 0) {g : BOp × Nat × Nat × Nat} (hg : g ∈ s.parts u q)
    (bad : s.bPoison g.1 q.aop.steps ≠ none) : ∃ a, s.landProduct s u j q = s.failCmd u .matrix j ⟨0x0F, a⟩ := by
  obtain ⟨a, found⟩ : ∃ a, (s.parts u q).findSome? (fun g => s.bPoison g.1 q.aop.steps) = some a := by
    refine Option.ne_none_iff_exists'.1 fun clean => bad ?_
    exact List.findSome?_eq_none_iff.1 clean g hg
  refine ⟨a, ?_⟩
  unfold State.landProduct State.countMerged
  simp only [skip, kept, found, alone, Bool.false_eq_true, if_false, if_true]

end

end Sys2Proof.Machine
end

section
/-! PROOFS. What the matrix commands on rows, the drain and the transposer leave (O46). -/
namespace Sys2Proof.Machine
open Sys2Proof

/-! Bytes that stand in a scratchpad -/

theorem raise_place (x : TeamUnit) (fl : X) (now t : Nat) : (x.raise fl now t).place = x.place := by
  unfold TeamUnit.raise
  split <;> rfl
theorem raiseAt_spHolds (s : State) (u : Nat) (fl : X) : (s.raiseAt u fl).spHolds u = s.spHolds u :=
  spHolds_congr u ((congrArg TeamUnit.place (unit_setUnit s u _)).trans (raise_place ..)) rfl rfl rfl
theorem putAcc_spHolds (s : State) (u : Nat) (l : List (Nat × BitVec 32)) : (s.putAcc l).spHolds u = s.spHolds u := by
  rw [putAcc_eq]
  exact spHolds_congr u rfl rfl rfl rfl
theorem setLan_spHolds (s : State) (slot u j : Nat) (q : Cmd) : (s.setLan slot u j q).spHolds u = s.spHolds u :=
  spHolds_congr u rfl rfl rfl rfl
theorem setMstat_spHolds (s : State) (u j : Nat) (v : X) : (s.setMstat u j v).spHolds u = s.spHolds u := spHolds_congr u rfl rfl rfl rfl

/-! MZERO, MDCY and MLDZ (R289 to R291) -/

section
variable {s : State} {u j n r : Nat} {q : Cmd} {z : BitVec 4} {a b : BitVec 6}

theorem landRows_mzero (instr : q.instr = .mzero z a) (rows : rowWord (q.regs.getD 0 0) = some (n, r))
    (run : s.skipped (s.slotKey u z.toNat) u j q = false) {i k : Nat} (hi : i < n) (hk : k < 160) :
    (s.landRows u j q).accWord (s.slotKey u z.toNat) (r + i) k = 0 := by
  have landed : s.landRows u j q = (s.putAcc ((rowKeys (s.slotKey u z.toNat) r n).map fun k => (k.1, 0))).setLan (s.slotKey u z.toNat) u j q := by
    simp only [State.landRows, instr, Instr.slotField, run, rows, Bool.false_eq_true, if_false]
  rw [landed, setLan_accWord]
  exact putAcc_rowKeys s (fun _ => 0) hi hk
theorem landRows_mdcy (instr : q.instr = .mdcy z a b) (rows : rowWord (q.regs.getD 1 0) = some (n, r))
    (run : s.skipped (s.slotKey u z.toNat) u j q = false) {i k : Nat} (hi : i < n) (hk : k < 160) :
    (s.landRows u j q).accWord (s.slotKey u z.toNat) (r + i) k =
      BitVec.ofNat 32 (mul32 (s.accWord (s.slotKey u z.toNat) (r + i) k).toNat ((q.regs.getD 0 0).toNat % 2 ^ 32)).1 := by
  obtain ⟨fl, landed⟩ : ∃ fl, s.landRows u j q = ((s.putAcc ((rowKeys (s.slotKey u z.toNat) r n).map fun k =>
      (k.1, BitVec.ofNat 32 (mul32 (s.accWord (s.slotKey u z.toNat) (r + k.2.1) k.2.2).toNat ((q.regs.getD 0 0).toNat % 2 ^ 32)).1))).setLan
      (s.slotKey u z.toNat) u j q).raiseAt u fl := by
    simp only [State.landRows, instr, Instr.slotField, run, rows, Bool.false_eq_true, if_false, List.map_map]
    exact ⟨_, rfl⟩
  rw [landed, raiseAt_accWord, setLan_accWord]
  exact putAcc_rowKeys s (fun k => BitVec.ofNat 32 (mul32 (s.accWord _ (r + k.2.1) k.2.2).toNat _).1) hi hk
theorem landRows_mldz {st at_ : Nat} (instr : q.instr = .mldz z a b) (rows : rowWord (q.regs.getD 1 0) = some (n, r))
    (place : spWord (q.regs.getD 0 0) 640 = some (st, at_)) (run : s.skipped (s.slotKey u z.toNat) u j q = false) {i k : Nat} (hi : i < n)
    (hk : k < 160) : (s.landRows u j q).accWord (s.slotKey u z.toNat) (r + i) k =
      BitVec.ofNat 32 (leNat (s.spBytes u (at_ + i * st + 4 * k) 4)) := by
  have landed : s.landRows u j q = (s.putAcc ((rowKeys (s.slotKey u z.toNat) r n).map fun k =>
      (k.1, BitVec.ofNat 32 (leNat (s.spBytes u (at_ + k.2.1 * st + 4 * k.2.2) 4))))).setLan (s.slotKey u z.toNat) u j q := by
    simp only [State.landRows, instr, Instr.slotField, run, rows, place, Bool.false_eq_true, if_false]
  rw [landed, setLan_accWord]
  exact putAcc_rowKeys s (fun k => BitVec.ofNat 32 (leNat (s.spBytes u (at_ + k.2.1 * st + 4 * k.2.2) 4))) hi hk

end

/-! MDRN (R292) -/

/-- The pieces of the scratchpad that a drain of `n` rows from `r` on writes: from `a` on, rows `st` bytes apart, elements of `size`. -/
def State.drainPieces (s : State) (slot n r st a size : Nat) (q : Cmd) (int : Bool) : List (Nat × List Byte) :=
  (rowKeys slot r n).map fun k =>
    (a + k.2.1 * st + size * k.2.2, leBytes (drainElem q.fent q.tsv int (s.accWord slot (r + k.2.1) k.2.2)).1 size)

/-- Where a row of elements fits between two rows, each drained element stands. -/
theorem drainPieces_holds {s : State} {u slot n r st a size : Nat} {q : Cmd} {int : Bool} (fits : 160 * size ≤ st) {i k : Nat} (hi : i < n)
    (hk : k < 160) : (s.spPieces u (s.drainPieces slot n r st a size q int)).spHolds u (a + i * st + size * k)
      (leBytes (drainElem q.fent q.tsv int (s.accWord slot (r + i) k)).1 size) := by
  refine spPieces_spHolds (List.mem_map.2 ⟨_, mem_rowKeys.2 ⟨i, k, hi, hk, rfl⟩, rfl⟩) fun p hp => ?_
  obtain ⟨x, hx, rfl⟩ := List.mem_map.1 hp
  obtain ⟨i', k', -, hk', rfl⟩ := mem_rowKeys.1 hx
  have within : ∀ {m : Nat}, m < 160 → size * m + size ≤ st := fun hm => by
    calc size * _ + size = size * (_ + 1) := (Nat.mul_succ _ _).symm
      _ ≤ size * 160 := Nat.mul_le_mul_left _ hm
      _ ≤ st := by omega
  have rows : ∀ {m m' : Nat}, m < m' → m * st + st ≤ m' * st := fun h => by
    calc _ * st + st = (_ + 1) * st := (Nat.succ_mul _ _).symm
      _ ≤ _ * st := Nat.mul_le_mul_right _ h
  have cols : ∀ {m m' : Nat}, m < m' → size * m + size ≤ size * m' := fun h => by
    calc size * _ + size = size * (_ + 1) := (Nat.mul_succ _ _).symm
      _ ≤ size * _ := Nat.mul_le_mul_left _ h
  have := within hk
  have := within hk'
  simp only [leBytes_length]
  rcases Nat.lt_trichotomy i' i with row | rfl | row
  · have := rows row
    omega
  · rcases Nat.lt_trichotomy k' k with col | rfl | col
    · have := cols col
      omega
    · exact .inl rfl
    · have := cols col
      omega
  · have := rows row
    omega
/-- A drain writes its pieces, and with CLR clears its rows. -/
theorem landDrain_eq {s : State} {u j n r st a : Nat} {q : Cmd} {z : BitVec 4} {x y : BitVec 6} {c m : BitVec 1} {f : BitVec 2}
    (instr : q.instr = .mdrn z x y c m f) (rows : rowWord (q.regs.getD 1 0) = some (n, r))
    (place : spWord (q.regs.getD 0 0) (160 * elemBytes q.code) = some (st, a))
    (run : c = 1 → s.skipped (s.slotKey u z.toNat) u j q = false) : ∃ fl, s.landDrain u j q =
      let t := (s.spPieces u (s.drainPieces (s.slotKey u z.toNat) n r st a (elemBytes q.code) q (decide (m = 1)))).raiseAt u fl
      if c = 1 then (t.putAcc ((rowKeys (s.slotKey u z.toNat) r n).map fun k => (k.1, 0))).setLan (s.slotKey u z.toNat) u j q else t := by
  have go : ¬(c = 1 ∧ s.skipped (s.slotKey u z.toNat) u j q = true) := fun h => ne_true_of_eq_false (run h.1) h.2
  simp only [State.landDrain, instr, rows, place, go, if_false, State.spPieces, State.drainPieces, List.foldl_map]
  exact ⟨_, rfl⟩
theorem spWord_fits {v : X} {need st a : Nat} (h : spWord v need = some (st, a)) : need ≤ st := by
  unfold spWord at h
  dsimp only at h
  split at h
  next fits =>
    obtain ⟨rfl, -⟩ := Prod.mk.inj (Option.some.inj h)
    exact fits.2.2.2
  · cases h

/-! MTRQ (R298) -/

/-- The piece of the scratchpad that takes the codes of row `k` of MTRQ, and the one that takes its scale half-words. -/
def mtrqCodes (s : State) (b : BOp) (o : Nat × Nat × Nat) (k : Nat) : Nat × List Byte :=
  (o.1 + rowBytes b.region.fmt 160 * k, packCodes b.region.fmt ((s.mtrqRow b k).flatMap fun x => x.codes))
def mtrqScales (s : State) (b : BOp) (o : Nat × Nat × Nat) (k : Nat) : Nat × List Byte :=
  (o.2.1 + 20 * k, (s.mtrqRow b k).flatMap fun x => leBytes x.scale 2)
/-- The pieces of the scratchpad that MTRQ writes. -/
def mtrqPieces (s : State) (b : BOp) (o : Nat × Nat × Nat) : List (Nat × List Byte) :=
  (List.range (16 * o.2.2)).flatMap fun k => [mtrqCodes s b o k, mtrqScales s b o k]

theorem mem_mtrqPieces {s : State} {b : BOp} {o : Nat × Nat × Nat} {p : Nat × List Byte} :
    p ∈ mtrqPieces s b o ↔ ∃ k < 16 * o.2.2, p = mtrqCodes s b o k ∨ p = mtrqScales s b o k := by
  simp [mtrqPieces]
theorem quantBlock_codes_length (U rm lim : Nat) (vs : List (Option Int)) : (quantBlock U rm lim vs).codes.length = vs.length := by
  unfold quantBlock
  dsimp only
  split
  · exact List.length_map _
  · split <;> simp
/-- A row has 160 codes, in as many bytes as its format gives them. -/
theorem mtrqCodes_length (s : State) {b : BOp} (o : Nat × Nat × Nat) (k : Nat) (fmt : b.region.fmt = 5 ∨ b.region.fmt = 6) :
    (mtrqCodes s b o k).2.length = rowBytes b.region.fmt 160 := by
  have codes : ((s.mtrqRow b k).flatMap fun x => x.codes).length = 160 := by
    simp [State.mtrqRow, List.length_flatMap, quantBlock_codes_length, Function.comp_def]
  unfold mtrqCodes packCodes
  rcases fmt with fmt | fmt <;> simp [fmt, codes] <;> rfl
theorem mtrqScales_length (s : State) (b : BOp) (o : Nat × Nat × Nat) (k : Nat) : (mtrqScales s b o k).2.length = 20 := by
  simp [mtrqScales, State.mtrqRow, List.length_flatMap, Function.comp_def]
/-- Where codes and scales do not overlap, each row of MTRQ stands. -/
theorem mtrqPieces_holds {s : State} {u : Nat} {b : BOp} {o : Nat × Nat × Nat} (fmt : b.region.fmt = 5 ∨ b.region.fmt = 6)
    (apart : o.1 + rowBytes b.region.fmt 160 * (16 * o.2.2) ≤ o.2.1 ∨ o.2.1 + 20 * (16 * o.2.2) ≤ o.1) {k : Nat} (hk : k < 16 * o.2.2) :
    (s.spPieces u (mtrqPieces s b o)).spHolds u (mtrqCodes s b o k).1 (mtrqCodes s b o k).2 ∧
      (s.spPieces u (mtrqPieces s b o)).spHolds u (mtrqScales s b o k).1 (mtrqScales s b o k).2 := by
  have codes : ∀ m, (mtrqCodes s b o m).1 = o.1 + rowBytes b.region.fmt 160 * m := fun _ => rfl
  have scales : ∀ m, (mtrqScales s b o m).1 = o.2.1 + 20 * m := fun _ => rfl
  have rows : ∀ {m m' : Nat}, m < m' → rowBytes b.region.fmt 160 * m + rowBytes b.region.fmt 160 ≤ rowBytes b.region.fmt 160 * m' :=
    fun h => (Nat.mul_succ _ _).symm.trans_le (Nat.mul_le_mul_left _ h)
  constructor <;> refine spPieces_spHolds (mem_mtrqPieces.2 ⟨k, hk, by simp⟩) fun p hp => ?_ <;>
    obtain ⟨m, hm, rfl | rfl⟩ := mem_mtrqPieces.1 hp
  · rcases Nat.lt_trichotomy m k with row | rfl | row
    · exact .inr (.inl (by simpa only [codes, mtrqCodes_length s o _ fmt, Nat.add_assoc] using Nat.add_le_add_left (rows row) o.1))
    · exact .inl rfl
    · exact .inr (.inr (by simpa only [codes, mtrqCodes_length s o _ fmt, Nat.add_assoc] using Nat.add_le_add_left (rows row) o.1))
  · have := rows hk
    rw [codes, scales, mtrqCodes_length s o _ fmt, mtrqScales_length]
    omega
  · have := rows hm
    rw [codes, scales, mtrqCodes_length s o _ fmt, mtrqScales_length]
    omega
  · rcases Nat.lt_trichotomy m k with row | rfl | row
    · rw [scales, scales, mtrqScales_length, mtrqScales_length]
      omega
    · exact .inl rfl
    · rw [scales, scales, mtrqScales_length, mtrqScales_length]
      omega
/-- MTRQ of tiles that can be read writes its pieces. -/
theorem landMtrq_eq {s : State} {u j : Nat} {q : Cmd} {b : BOp} (region : s.bOf u q.weight0 0 q = some b)
    (clean : s.bPoison b (mtrqOut (q.regs.getD 1 0)).2.2 = none) : ∃ fl v, s.landMtrq u j q =
      ((s.spPieces u (mtrqPieces s b (mtrqOut (q.regs.getD 1 0)))).raiseAt u fl).setMstat u j v := by
  unfold State.landMtrq
  extract_lets o
  rw [region]
  dsimp only
  rw [show s.bPoison b o.2.2 = none from clean]
  dsimp only
  refine ⟨_, _, congrArg (fun t : State => (t.raiseAt u _).setMstat u j _) ?_⟩
  rw [zipIdx_map_range, List.foldl_map, State.spPieces, mtrqPieces, List.foldl_flatMap]
  refine List.foldl_ext _ _ _ fun t k hk => ?_
  have hk := List.mem_range.1 hk
  have row : (List.range 10).map (fun jb => quantBlock 128 0 (if b.region.fmt = 6 then 7 else 69) ((List.range 16).map fun t =>
      mtrqValue b.region.fmt ((((List.range o.2.2).map fun st => (List.range 160).map fun n => s.bBlock b st n).getD (k / 16) []).getD
        (16 * jb + t) ⟨[], 0⟩) (k % 16))) = s.mtrqRow b k := by
    refine List.map_congr_left fun jb hjb => congrArg _ (List.map_congr_left fun i hi => ?_)
    have := List.mem_range.1 hjb
    have := List.mem_range.1 hi
    have step : k / 16 < o.2.2 := by omega
    have col : 16 * jb + i < 160 := by omega
    simp [List.getD, step, col]
  dsimp only
  rw [row, List.foldl_cons, List.foldl_cons, List.foldl_nil]
  rfl

end Sys2Proof.Machine
end

section
/-! PROOFS. What a matrix command that completes leaves, alone or with those that ran with it (O46). -/
namespace Sys2Proof.Machine
open Sys2Proof

/-! A landing changes no command of any context (R126) -/

theorem foldl_ctxs {α : Type} {f : State → α → State} (hf : ∀ t a, (f t a).ctxs = t.ctxs) (l : List α) (s : State) :
    (l.foldl f s).ctxs = s.ctxs :=
  List.foldlRecOn l f (motive := fun t : State => t.ctxs = s.ctxs) rfl fun t ht a _ => (hf t a).trans ht

section
variable (s s0 : State) (u j : Nat) (q : Cmd)

@[simp] theorem putAcc_ctxs (l : List (Nat × BitVec 32)) : (s.putAcc l).ctxs = s.ctxs := by rw [putAcc_eq]
@[simp] theorem setLan_ctxs (slot : Nat) : (s.setLan slot u j q).ctxs = s.ctxs := rfl
@[simp] theorem raiseAt_ctxs (fl : X) : (s.raiseAt u fl).ctxs = s.ctxs := rfl
@[simp] theorem spPuts_ctxs (a : Nat) (bs : List Byte) : (s.spPuts u a bs).ctxs = s.ctxs := by rw [spPuts_onlySp s u a bs]
@[simp] theorem failCmd_ctxs (e : Engine) (t : Trap) : (s.failCmd u e j t).ctxs = s.ctxs := by
  unfold State.failCmd State.failUnit
  split <;> rfl
@[simp] theorem countMerged_ctxs : (s.countMerged u q).ctxs = s.ctxs := by
  unfold State.countMerged
  split
  · rfl
  · split <;> rfl
theorem landRows_ctxs : (s.landRows u j q).ctxs = s.ctxs := by
  unfold State.landRows
  dsimp only
  (repeat' split) <;> simp
theorem landDrain_ctxs : (s.landDrain u j q).ctxs = s.ctxs := by
  unfold State.landDrain
  dsimp only
  (repeat' split) <;> simp [foldl_ctxs]
theorem setMstat_sameCmds (v : X) : s.sameCmds (s.setMstat u j v) := setCtx_sameCmds s rfl rfl
theorem landProduct_sameCmds : s.sameCmds (s.landProduct s0 u j q) := by
  unfold State.landProduct
  dsimp only
  split
  · exact sameCmds_of_ctxs rfl
  · split
    · exact sameCmds_of_ctxs (countMerged_ctxs ..)
    · split
      · exact sameCmds_of_ctxs (by simp)
      · refine sameCmds_trans (sameCmds_trans ?_ (setMstat_sameCmds ..)) (sameCmds_of_ctxs (countMerged_ctxs ..))
        exact sameCmds_of_ctxs (by simp)
theorem landMtrq_sameCmds : s.sameCmds (s.landMtrq u j q) := by
  unfold State.landMtrq
  dsimp only
  split
  · exact sameCmds_of_ctxs rfl
  · split
    · exact sameCmds_of_ctxs (failCmd_ctxs ..)
    · refine sameCmds_trans (sameCmds_of_ctxs ?_) (setMstat_sameCmds ..)
      simp [foldl_ctxs]
theorem countObject_ctxs (scope pa : Nat) : (s.countObject u scope pa).ctxs = s.ctxs := onlyMemory_ctxs (countObject_onlyMemory s u scope pa)
theorem landMatrix_sameCmds : s.sameCmds (s.landMatrix s0 u j q) := by
  unfold State.landMatrix
  split
  · exact landProduct_sameCmds ..
  · exact landProduct_sameCmds ..
  · exact sameCmds_of_ctxs (landRows_ctxs ..)
  · exact sameCmds_of_ctxs (landRows_ctxs ..)
  · exact sameCmds_of_ctxs (landRows_ctxs ..)
  · exact sameCmds_of_ctxs rfl
  · exact sameCmds_of_ctxs (landDrain_ctxs ..)
  · exact setCtx_sameCmds s rfl rfl
  · exact setMstat_sameCmds ..
  · exact setCtx_sameCmds s rfl rfl
  · exact landMtrq_sameCmds ..
  · split
    · split
      · exact sameCmds_of_ctxs rfl
      · exact sameCmds_of_ctxs (countObject_ctxs ..)
    · exact sameCmds_of_ctxs rfl
  · exact setCtx_sameCmds s rfl rfl
  · exact sameCmds_of_ctxs rfl

/-! Members that complete together (R260, R273) -/

theorem matrixDone_over : (s.matrixDone s0 u j q).commandOver u .matrix j q.cn := completeCmd_over _ _ _ _ _

end

section
variable {s : State} {u j n : Nat} {e : Engine} (s0 : State)

theorem matrixDone_keepsOver (v i : Nat) (q : Cmd) (past : s.commandOver u e j n) : (s.matrixDone s0 v i q).commandOver u e j n :=
  completeCmd_keepsOver _ q (sameCmds_over (sameCmds_of_ctxs (touchCmd_ctxs ..)) (sameCmds_over (landMatrix_sameCmds s s0 v i q) past))
theorem finishTogether_keepsOver (l : List (Nat × Nat × Cmd)) (past : s.commandOver u e j n) :
    (s.finishTogether s0 l).commandOver u e j n := by
  induction l generalizing s with
  | nil => exact past
  | cons m l ih => exact ih (matrixDone_keepsOver s0 m.1 m.2.1 m.2.2 past)
/-- Each of the members that complete together is over. -/
theorem finishTogether_over {l : List (Nat × Nat × Cmd)} {m : Nat × Nat × Cmd} (hm : m ∈ l) :
    (s.finishTogether s0 l).commandOver m.1 .matrix m.2.1 m.2.2.cn := by
  induction l generalizing s with
  | nil => cases hm
  | cons a l ih =>
    rcases List.mem_cons.1 hm with rfl | hm
    · exact finishTogether_keepsOver s0 l (matrixDone_over s s0 m.1 m.2.1 m.2.2)
    · exact ih hm

end

/-! The results of a command that runs alone -/

section
variable {s : State} {u j : Nat} {q : Cmd}

/-- A command that fails changes no accumulator, and a resident team is failing for it (R440, R443). -/
theorem failCmd_leaves (s : State) (u : Nat) (e : Engine) (j : Nat) (t : Trap) :
    (s.failCmd u e j t).acc = s.acc ∧ (s.failCmd u e j t).lan = s.lan ∧ ((s.unit u).status = .resident →
      ((s.failCmd u e j t).unit u).status = .failing ∧ ((s.failCmd u e j t).unit u).fault = some (causeWord t.code 0 (some e) j)) := by
  have store := failUnit_sameStore s u j none (causeWord t.code 0 (some e) j) (BitVec.ofNat 64 t.info)
  refine ⟨store.acc, store.lan, fun resident => ?_⟩
  obtain ⟨status, fault, -⟩ := failUnit_fails s u j none (causeWord t.code 0 (some e) j) (BitVec.ofNat 64 t.info) resident
  exact ⟨status, fault⟩
theorem landProduct_leaves (single : q.con = 0) (alone : q.memb = 0)
    (skip : s.skipped (s.slotKey u (Instr.slotField q.instr)) u j q = false) (kept : q.gone = false) :
    ((∀ g ∈ s.parts u q, s.bPoison g.1 q.aop.steps = none) →
      ((s.landProduct s u j q).lanOf (s.slotKey u (Instr.slotField q.instr))).cn = q.cn ∧
        ∀ g ∈ s.parts u q, ∀ i n, i < g.2.2.1 → n < 160 →
          (s.landProduct s u j q).accWord (s.slotKey u (Instr.slotField q.instr)) (g.2.2.2 + i) n = s.productWord u q g i n) ∧
      ∀ g ∈ s.parts u q, s.bPoison g.1 q.aop.steps ≠ none →
        (s.landProduct s u j q).acc = s.acc ∧ (s.landProduct s u j q).lan = s.lan ∧ ((s.unit u).status = .resident →
          ((s.landProduct s u j q).unit u).status = .failing ∧
            ((s.landProduct s u j q).unit u).fault = some (causeWord 0x0F 0 (some .matrix) j)) := by
  refine ⟨landProduct_sums skip kept single alone, fun g hg bad => ?_⟩
  obtain ⟨a, failed⟩ := landProduct_poisoned skip kept alone hg bad
  rw [failed]
  exact failCmd_leaves s u .matrix j ⟨0x0F, a⟩
theorem landDrain_leaves {z : BitVec 4} {x y : BitVec 6} {c m : BitVec 1} {f : BitVec 2} (instr : q.instr = .mdrn z x y c m f)
    {n r st a : Nat} (rows : rowWord (q.regs.getD 1 0) = some (n, r))
    (place : spWord (q.regs.getD 0 0) (160 * elemBytes q.code) = some (st, a))
    (run : c = 1 → s.skipped (s.slotKey u z.toNat) u j q = false) :
    (c = 0 → (s.landDrain u j q).acc = s.acc) ∧ ∀ i k, i < n → k < 160 →
      (s.landDrain u j q).spHolds u (a + i * st + elemBytes q.code * k)
          (leBytes (drainElem q.fent q.tsv (decide (m = 1)) (s.accWord (s.slotKey u z.toNat) (r + i) k)).1 (elemBytes q.code)) ∧
        (c = 1 → (s.landDrain u j q).accWord (s.slotKey u z.toNat) (r + i) k = 0) := by
  obtain ⟨fl, landed⟩ := landDrain_eq instr rows place run
  have holds := fun {i k : Nat} (hi : i < n) (hk : k < 160) => drainPieces_holds (s := s) (u := u) (slot := s.slotKey u z.toNat) (r := r) (a := a)
    (q := q) (int := decide (m = 1)) (spWord_fits place) hi hk
  dsimp only at landed
  by_cases clears : c = 1
  · rw [if_pos clears] at landed
    rw [landed]
    refine ⟨fun keeps => absurd (keeps.symm.trans clears) (by decide), fun i k hi hk => ⟨?_, fun _ => ?_⟩⟩
    · rw [setLan_spHolds, putAcc_spHolds, raiseAt_spHolds]
      exact holds hi hk
    · rw [setLan_accWord]
      exact putAcc_rowKeys _ (fun _ => 0) hi hk
  · rw [if_neg clears] at landed
    rw [landed]
    refine ⟨fun _ => ?_, fun i k hi hk => ⟨?_, fun h => absurd h clears⟩⟩
    · show (s.spPieces u _).acc = s.acc
      rw [spPieces_onlySp s u]
    · rw [raiseAt_spHolds]
      exact holds hi hk
/-- A matrix command that runs alone leaves its results as it lands. -/
theorem landMatrix_leaves (single : q.con = 0) (alone : q.memb = 0) : s.matrixLeaves (s.landMatrix s u j q) u j q := by
  unfold State.matrixLeaves
  extract_lets slot reg lines product size o
  split
  next instr =>
    have land : s.landMatrix s u j q = s.landProduct s u j q := by simp only [State.landMatrix, instr]
    unfold product
    rw [land]
    exact landProduct_leaves single alone
  next instr =>
    have land : s.landMatrix s u j q = s.landProduct s u j q := by simp only [State.landMatrix, instr]
    unfold product
    rw [land]
    exact landProduct_leaves single alone
  next z _ instr =>
    have land : s.landMatrix s u j q = s.landRows u j q := by simp only [State.landMatrix, instr]
    have here : slot = s.slotKey u z.toNat := by simp only [slot, instr, Instr.slotField]
    rw [land, here]
    exact fun n r rows run i k => landRows_mzero instr rows run
  next z _ _ instr =>
    have land : s.landMatrix s u j q = s.landRows u j q := by simp only [State.landMatrix, instr]
    have here : slot = s.slotKey u z.toNat := by simp only [slot, instr, Instr.slotField]
    rw [land, here]
    exact fun n r rows run i k => landRows_mdcy instr rows run
  next z _ _ instr =>
    have land : s.landMatrix s u j q = s.landRows u j q := by simp only [State.landMatrix, instr]
    have here : slot = s.slotKey u z.toNat := by simp only [slot, instr, Instr.slotField]
    rw [land, here]
    exact fun n r st a rows place run i k => landRows_mldz instr rows place run
  next z _ instr =>
    have here : slot = s.slotKey u z.toNat := by simp only [slot, instr, Instr.slotField]
    simp only [State.landMatrix, instr]
    rw [here]
    exact NMap.getD_put_self _ _ _ _
  next z _ _ c m _ instr =>
    have land : s.landMatrix s u j q = s.landDrain u j q := by simp only [State.landMatrix, instr]
    have here : slot = s.slotKey u z.toNat := by simp only [slot, instr, Instr.slotField]
    rw [land, here]
    exact fun n r st a rows place run => landDrain_leaves instr rows place run
  next instr =>
    intro l hl pinned
    simp only [State.landMatrix, instr, lines, ctx_setCtx]
    by_cases held : l ∈ (s.ctx u .matrix j).pref
    · exact List.mem_append_left _ held
    · exact List.mem_append_right _ (List.mem_filter.2 ⟨hl, by simp [held, pinned]⟩)
  next instr =>
    simp only [State.landMatrix, instr, State.setMstat, ctx_setCtx]
  next a instr =>
    simp only [State.landMatrix, instr, lines, ctx_setCtx]
    refine ⟨fun all => if_pos all, fun some_ l hl => ?_⟩
    rw [if_neg some_, List.mem_filter]
    simp [hl]
  next instr =>
    intro b region fmt clean apart k hk
    obtain ⟨fl, v, landed⟩ := landMtrq_eq (j := j) region clean
    have land : s.landMatrix s u j q = s.landMtrq u j q := by simp only [State.landMatrix, instr]
    rw [land, landed, setMstat_spHolds, raiseAt_spHolds]
    exact mtrqPieces_holds fmt apart hk
  next c instr =>
    intro pa sync fresh clean line
    have land : s.landMatrix s u j q = (s.countObject u c.toNat pa).noteApplied (ckey u .matrix j) pa q.cn := by
      simp only [State.landMatrix, instr, sync, fresh, Bool.false_eq_true, if_false]
    rw [land]
    exact countObject_latestNat u _ clean line
  next a instr =>
    intro named
    simp only [State.landMatrix, instr, ctx_setCtx]
    exact getX_setX_self _ _ named
  · trivial

/-- MATRIX_COMMAND_COMPLETE of a command whose time has come finishes it together with all that run with it (R256). -/
theorem execMatrixCommandComplete_due {cn : Nat} (found : (s.ctx u .matrix j).flight.find? (fun k => decide (k.cn = cn)) = some q)
    (issued : q.phase = .issued) (due : q.fin ≤ s.free (s.unit u).place.die (s.home u)) (on : (s.unit u).onCore = true)
    (up : (s.core (s.unit u).place.die (s.home u)).reset.find 0 = none) :
    execMatrixCommandComplete u j cn s = .next (s.finishTogether s (s.together u j q)) := by
  unfold execMatrixCommandComplete
  dsimp only
  rw [found]
  exact if_pos ⟨issued, due, on, by rw [up]; rfl⟩
theorem together_alone (single : q.con = 0) (alone : q.memb = 0) : s.together u j q = [(u, j, q)] := by
  rw [State.together, if_neg (not_not.2 single), if_pos alone]
/-- A matrix command that runs alone leaves its results as it completes. -/
theorem matrixDone_leaves (single : q.con = 0) (alone : q.memb = 0) : s.matrixLeaves (s.matrixDone s u j q) u j q :=
  keepsResults_leaves (keepsResults_trans (touchCmd_keepsResults _ u j 2 _) (completeCmd_keepsResults _ u j q)) (landMatrix_leaves single alone)
theorem matrixCommand_completes {cn : Nat} (found : (s.ctx u .matrix j).flight.find? (fun k => decide (k.cn = cn)) = some q)
    (issued : q.phase = .issued) (due : q.fin ≤ s.free (s.unit u).place.die (s.home u)) (on : (s.unit u).onCore = true)
    (up : (s.core (s.unit u).place.die (s.home u)).reset.find 0 = none) :
    Completes (.matrixCommandComplete u j cn) s fun t => (∀ m ∈ s.together u j q, t.commandOver m.1 .matrix m.2.1 m.2.2.cn) ∧
      (q.memb = 0 → q.con = 0 → t.commandOver u .matrix j cn ∧ s.matrixLeaves t u j q) := by
  obtain rfl : q.cn = cn := by simpa using List.find?_some found
  have members := fun (m : Nat × Nat × Cmd) (hm : m ∈ s.together u j q) => finishTogether_over (s := s) s hm
  refine ⟨_, execMatrixCommandComplete_due found issued due on up, members, fun alone single => ?_⟩
  rw [together_alone single alone] at members ⊢
  exact ⟨members (u, j, q) List.mem_cons_self, matrixDone_leaves single alone⟩

end

end Sys2Proof.Machine
end

section
/-! PROOFS. What a vector command whose time has come leaves (O46). -/
namespace Sys2Proof.Machine
open Sys2Proof

theorem getD_mod_mem {α : Type} {l : List α} (some_ : l ≠ []) (n : Nat) (d : α) : l.getD (n % l.length) d ∈ l := by
  have within : n % l.length < l.length := Nat.mod_lt _ (List.length_pos_iff.2 some_)
  rw [List.getD_eq_getElem _ _ within]
  exact List.getElem_mem within
/-- A command of a context that changes stands in flight as changed. -/
theorem mem_setCmd_flight {c : Ctx} {k q : Cmd} (hk : k ∈ c.flight) (same : k.cn = q.cn) : q ∈ (c.setCmd q).flight :=
  List.mem_map.2 ⟨k, hk, if_pos same⟩

section
variable {s : State} {u j : Nat} {q : Cmd} {qs : List Cmd} (flying : (s.ctx u .vector j).flight = q :: qs)

/-! Lines of a tensor that a load reads (R311, R318) -/

include flying in
/-- One of the lines that a load has left is read, and no tile changes. -/
theorem readLine_reads {ls : List (Nat × Nat)} (some_ : ls ≠ []) : ∃ x ∈ ls, (s.readLine u j q ls).tiles = s.tiles ∧
    ∃ k ∈ ((s.readLine u j q ls).ctx u .vector j).flight, k.cn = q.cn ∧ (k.abuf.find x.2).isSome = true := by
  unfold State.readLine
  extract_lets d p l n last q1 s1
  have read : (q1.abuf.find l.2).isSome = true := by
    show ((if (q.abuf.find l.2).isSome then q.abuf else q.abuf.put l.2 _).find l.2).isSome = true
    split
    · assumption
    · rw [NMap.find_put_self]
      rfl
  have stands : q1 ∈ (s1.ctx u .vector j).flight := by
    unfold s1
    rw [ctx_setCtx]
    exact mem_setCmd_flight (show q ∈ (s.ctx u .vector j).flight from flying ▸ List.mem_cons_self) rfl
  refine ⟨l, getD_mod_mem some_ _ _, ?_⟩
  split
  · exact ⟨rfl, q1, stands, rfl, read⟩
  · exact ⟨rfl, q1, stands, rfl, read⟩

/-! Lines of a tensor that a store lands (R309, R318, R386) -/

theorem vst_of_vstLeft (some_ : s.vstLeft u q ≠ []) : ∃ r a b m e, q.instr = .vst r a b m e := by
  unfold State.vstLeft at some_
  split at some_
  next instr => exact ⟨_, _, _, _, _, instr⟩
  · exact absurd rfl some_
theorem vldLeft_of_vst {r a b m : BitVec 5} {e : BitVec 1} (instr : q.instr = .vst r a b m e) : s.vldLeft u q = [] := by
  simp only [State.vldLeft, instr]

include flying in
/-- One of the lines that a store has left lands: what the store writes of it is the last to its bytes. -/
theorem landLine_lands {ls : List Nat} (some_ : ls ≠ []) {r a b m : BitVec 5} {e : BitVec 1} (instr : q.instr = .vst r a b m e) :
    ∃ x ∈ ls, (∃ k ∈ ((s.landLine u j q ls).ctx u .vector j).flight, k.cn = q.cn ∧ (k.landed.find x).isSome = true) ∧
      ∀ z ∈ s.vstBytes u q r m e, z.1 / 128 = x → s.poisoned z.1 = false → (∀ y ∈ s.vstBytes u q r m e, y.1 = z.1 → y = z) →
        (s.landLine u j q ls).latest (s.unitKey u) z.1 = z.2 := by
  unfold State.landLine
  simp -zeta only [instr]
  extract_lets d p l n last s1 q1 s2
  have ctxs : s1.ctxs = ({ s with fresh := s.fresh + 1 } : State).ctxs := onlyMemory_ctxs (engineWrite_onlyMemory _ u _ _)
  have stands : q1 ∈ (s2.ctx u .vector j).flight := by
    unfold s2
    rw [ctx_setCtx, State.ctx, ctxs]
    exact mem_setCmd_flight (show q ∈ (s.ctx u .vector j).flight from flying ▸ List.mem_cons_self) rfl
  have named : q1.cn = q.cn := rfl
  have landed : (q1.landed.find l).isSome = true := by
    unfold q1
    rw [NMap.find_put_self]
    rfl
  have bytes : ∀ z ∈ s.vstBytes u q r m e, z.1 / 128 = l → s.poisoned z.1 = false → (∀ y ∈ s.vstBytes u q r m e, y.1 = z.1 → y = z) →
      s1.latest (s.unitKey u) z.1 = z.2 := fun z hz line clean only => by
    refine engineWrite_latest (s := { s with fresh := s.fresh + 1 }) u _ (List.mem_filter.2 ⟨hz, decide_eq_true line⟩)
      (fun y hy at_ => ?_) clean
    rw [only y (List.mem_of_mem_filter hy) at_]
  have chosen : l ∈ ls := getD_mod_mem some_ _ _
  clear_value s1 l q1
  refine ⟨l, chosen, ?_⟩
  split
  · exact ⟨⟨q1, stands, named, landed⟩, bytes⟩
  · exact ⟨⟨q1, stands, named, landed⟩, bytes⟩

/-! The turn of the oldest command -/

variable (due : q.fin ≤ s.eclk (s.unit u).place.die (s.home u) .vector) (on : (s.unit u).onCore = true)
  (up : (s.core (s.unit u).place.die (s.home u)).reset.find 1 = none)
include flying due on up

theorem execVectorCommandComplete_reads {l : Nat × Nat} {ls : List (Nat × Nat)} (left : s.vldLeft u q = l :: ls) :
    execVectorCommandComplete u j s = .next (s.readLine u j q (l :: ls)) := by
  simp only [execVectorCommandComplete, flying, due, on, up, left, Option.isNone_none, and_self, if_true]
theorem execVectorCommandComplete_stores {l : Nat} {ls : List Nat} (read : s.vldLeft u q = []) (left : s.vstLeft u q = l :: ls) :
    execVectorCommandComplete u j s = .next (s.landLine u j q (l :: ls)) := by
  simp only [execVectorCommandComplete, flying, due, on, up, read, left, Option.isNone_none, and_self, if_true]
theorem execVectorCommandComplete_lands {t : State} (read : s.vldLeft u q = []) (stored : s.vstLeft u q = [])
    (lands : s.landVector u q = .ok t) : execVectorCommandComplete u j s = .next (t.completeCmd u .vector j q) := by
  simp only [execVectorCommandComplete, flying, due, on, up, read, stored, lands, Option.isNone_none, and_self, if_true]
theorem execVectorCommandComplete_faults {tr : Trap} (read : s.vldLeft u q = []) (stored : s.vstLeft u q = [])
    (faults : s.landVector u q = .error tr) :
    execVectorCommandComplete u j s = .next ((s.failCmd u .vector j tr).completeCmd u .vector j q) := by
  simp only [execVectorCommandComplete, flying, due, on, up, read, stored, faults, Option.isNone_none, and_self, if_true]

theorem vectorCommand_lands {t1 : State} (read : s.vldLeft u q = []) (stored : s.vstLeft u q = []) (lands : s.landVector u q = .ok t1) :
    Completes (.vectorCommandComplete u j) s fun t => t.commandOver u .vector j q.cn ∧ t.tiles = t1.tiles ∧ t.masks = t1.masks ∧
      t.sp = t1.sp ∧ t.mem = t1.mem ∧ t.acc = t1.acc ∧ (t.unit u).fpfl = (t1.unit u).fpfl :=
  ⟨_, execVectorCommandComplete_lands flying due on up read stored lands, completeCmd_over t1 u .vector j q, rfl, rfl, rfl, rfl, rfl, rfl⟩
theorem vectorCommand_faults {tr : Trap} (read : s.vldLeft u q = []) (stored : s.vstLeft u q = []) (faults : s.landVector u q = .error tr) :
    Completes (.vectorCommandComplete u j) s fun t => t.commandOver u .vector j q.cn ∧ t.tiles = s.tiles ∧ t.masks = s.masks ∧
      t.sp = s.sp ∧ t.mem = s.mem := by
  have failed : s.sameStore (s.failCmd u .vector j tr) := failUnit_sameStore ..
  exact ⟨_, execVectorCommandComplete_faults flying due on up read stored faults, completeCmd_over _ u .vector j q, failed.tiles,
    failed.masks, failed.sp, failed.mem⟩
theorem vectorCommand_reads {l : Nat × Nat} {ls : List (Nat × Nat)} (left : s.vldLeft u q = l :: ls) :
    Completes (.vectorCommandComplete u j) s fun t => ∃ x ∈ l :: ls, t.tiles = s.tiles ∧
      ∃ k ∈ (t.ctx u .vector j).flight, k.cn = q.cn ∧ (k.abuf.find x.2).isSome = true :=
  ⟨_, execVectorCommandComplete_reads flying due on up left, readLine_reads flying (List.cons_ne_nil _ _)⟩
theorem vectorCommand_stores {l : Nat} {ls : List Nat} (left : s.vstLeft u q = l :: ls) :
    Completes (.vectorCommandComplete u j) s fun t => ∃ x ∈ l :: ls,
      (∃ k ∈ (t.ctx u .vector j).flight, k.cn = q.cn ∧ (k.landed.find x).isSome = true) ∧
      ∀ r a w m z e, q.instr = .vst r a w m e → z ∈ s.vstBytes u q r m e → z.1 / 128 = x → s.poisoned z.1 = false →
        (∀ y ∈ s.vstBytes u q r m e, y.1 = z.1 → y = z) → t.latest (s.unitKey u) z.1 = z.2 := by
  obtain ⟨r, a, b, m, e, instr⟩ := vst_of_vstLeft (left ▸ List.cons_ne_nil l ls)
  obtain ⟨x, hx, stands, bytes⟩ := landLine_lands flying (List.cons_ne_nil l ls) instr
  refine ⟨_, execVectorCommandComplete_stores flying due on up (vldLeft_of_vst instr) left, x, hx, stands, ?_⟩
  intro r' a' w' m' z e' instr'
  obtain ⟨rfl, -, -, rfl, rfl⟩ := Instr.vst.inj (instr.symm.trans instr')
  exact bytes z

end

end Sys2Proof.Machine
end

section
/-! PROOFS. What a piece of a copy that lands leaves, and what a copy that completes leaves (O46). -/
namespace Sys2Proof.Machine
open Sys2Proof

/-! The bytes of a piece (R346, R350 to R355) -/

/-- The destination bytes of a copy that lie on line `ln`, with their values. -/
def State.pieceBytes (s : State) (u : Nat) (q : Cmd) (ln : Nat × Nat) : List (Loc × Byte) :=
  (q.dests.zipIdx.filter fun d => decide (d.1.line = ln)).map fun d => (d.1, (s.copyBytes u q).getD d.2 0)
/-- Those of the bytes that lie in the scratchpad, and those that lie in global memory. -/
def spBytesOf (bs : List (Loc × Byte)) : List (Nat × Byte) := bs.filterMap fun b => match b.1 with
  | .sp a => some (a, b.2)
  | .mem _ _ => none
def memBytesOf (bs : List (Loc × Byte)) : List (Nat × Byte) := bs.filterMap fun b => match b.1 with
  | .mem _ pa => some (pa, b.2)
  | .sp _ => none
/-- The bytes of a piece are written. -/
def State.pieceWritten (s : State) (u : Nat) (q : Cmd) (ln : Nat × Nat) : State :=
  let sp := spBytesOf (s.pieceBytes u q ln)
  let mem := memBytesOf (s.pieceBytes u q ln)
  let t := (sp.foldl (fun t b => t.spPut u b.1 b.2) s).keepLate u sp
  if mem = [] then t else t.engineWrite u q.scope mem

theorem mem_spBytesOf {bs : List (Loc × Byte)} {c : Nat × Byte} : c ∈ spBytesOf bs ↔ (Loc.sp c.1, c.2) ∈ bs := by
  rw [spBytesOf, List.mem_filterMap]
  constructor
  · rintro ⟨⟨l, b⟩, hb, e⟩
    cases l with
    | sp a => cases e; exact hb
    | mem va pa => cases e
  · exact fun h => ⟨_, h, rfl⟩
theorem mem_memBytesOf {bs : List (Loc × Byte)} {c : Nat × Byte} : c ∈ memBytesOf bs ↔ ∃ va, (Loc.mem va c.1, c.2) ∈ bs := by
  rw [memBytesOf, List.mem_filterMap]
  constructor
  · rintro ⟨⟨l, b⟩, hb, e⟩
    cases l with
    | sp a => cases e
    | mem va pa => cases e; exact ⟨va, hb⟩
  · exact fun ⟨va, h⟩ => ⟨_, h, rfl⟩

section
variable {s : State} {u j piece : Nat} {q : Cmd} {ln : Nat × Nat}

section
variable {k : Nat} {d : Loc} {v : Byte} (dest : q.dests[k]? = some d) (value : (s.copyBytes u q)[k]? = some v)
include dest value

theorem mem_pieceBytes (line : d.line = ln) : (d, v) ∈ s.pieceBytes u q ln := by
  refine List.mem_map.2 ⟨(d, k), List.mem_filter.2 ⟨List.mem_zipIdx_iff_getElem?.2 dest, decide_eq_true line⟩, ?_⟩
  rw [List.getD_eq_getElem?_getD, value, Option.getD_some]
omit dest in
/-- A byte of the destination that no other stands at has one value. -/
theorem pieceBytes_agree (only : ∀ k' d', q.dests[k']? = some d' → d'.place = d.place → k' = k) {e : Loc × Byte}
    (he : e ∈ s.pieceBytes u q ln) (at_ : e.1.place = d.place) : e.2 = v := by
  obtain ⟨x, hx, rfl⟩ := List.mem_map.1 he
  have there := List.mem_zipIdx_iff_getElem?.1 (List.mem_of_mem_filter hx)
  have same := only x.2 x.1 there at_
  dsimp only
  rw [same, List.getD_eq_getElem?_getD, value, Option.getD_some]

end

/-! What writing a piece leaves alone -/

theorem keepLate_sameStore (s : State) (u : Nat) (l : List (Nat × Byte)) : s.sameStore (s.keepLate u l) := by
  unfold State.keepLate
  split
  · exact setUnit_sameStore _ _ _ rfl
  · exact sameStore_refl s
theorem keepLate_spByte (s : State) (u a : Nat) (l : List (Nat × Byte)) : (s.keepLate u l).spByte u a = s.spByte u a := by
  have store := keepLate_sameStore s u l
  have dies : (s.keepLate u l).dies = s.dies := by
    unfold State.keepLate
    split <;> rfl
  simp only [State.spByte, State.home, State.phys, State.die, store.place, store.sp, store.fresh, dies]
theorem foldl_spPut_onlySp (s : State) (u : Nat) (l : List (Nat × Byte)) : s.onlySp (l.foldl (fun t b => t.spPut u b.1 b.2) s) :=
  List.foldlRecOn l _ (motive := s.onlySp) rfl fun t ht b _ => onlySp_trans ht (spPut_onlySp t u b.1 b.2)
/-- Of all the machine, scratchpad bytes and what the images of a unit lack may differ in `t`; no unit has moved. -/
structure State.onlySpLate (s t : State) : Prop where
  frame : t = { s with sp := t.sp, units := t.units }
  place : ∀ v, (t.unit v).place = (s.unit v).place

theorem spWritten_onlySpLate (s : State) (u : Nat) (l : List (Nat × Byte)) :
    s.onlySpLate ((l.foldl (fun t b => t.spPut u b.1 b.2) s).keepLate u l) := by
  have sp := foldl_spPut_onlySp s u l
  constructor
  · unfold State.keepLate
    split
    · rw [sp]
      rfl
    · rw [sp]
  · intro v
    rw [(keepLate_sameStore _ u l).place, sp]
    rfl
/-- What follows the scratchpad bytes of a piece writes memory alone. -/
theorem pieceWritten_onlyMemory (s : State) (u : Nat) (q : Cmd) (ln : Nat × Nat) :
    (((spBytesOf (s.pieceBytes u q ln)).foldl (fun t b => t.spPut u b.1 b.2) s).keepLate u (spBytesOf (s.pieceBytes u q ln))).onlyMemory
      (s.pieceWritten u q ln) := by
  unfold State.pieceWritten
  dsimp only
  split
  · rfl
  · exact engineWrite_onlyMemory ..
theorem pieceWritten_ctxs (s : State) (u : Nat) (q : Cmd) (ln : Nat × Nat) : (s.pieceWritten u q ln).ctxs = s.ctxs := by
  rw [onlyMemory_ctxs (pieceWritten_onlyMemory s u q ln), (spWritten_onlySpLate s u _).frame]
theorem onlySpLate_unitKey {s t : State} (late : s.onlySpLate t) (u : Nat) : t.unitKey u = s.unitKey u :=
  unitKey_congr late.place (by rw [late.frame]) u
theorem pieceWritten_unitKey (s : State) (u : Nat) (q : Cmd) (ln : Nat × Nat) : (s.pieceWritten u q ln).unitKey u = s.unitKey u :=
  (onlyMemory_unitKey (pieceWritten_onlyMemory s u q ln) u).trans (onlySpLate_unitKey (spWritten_onlySpLate s u _) u)

/-! What writing a piece leaves (R346) -/

section
variable {k : Nat} {d : Loc} {v : Byte} (dest : q.dests[k]? = some d) (line : d.line = ln) (value : (s.copyBytes u q)[k]? = some v)
  (only : ∀ k' d', q.dests[k']? = some d' → d'.place = d.place → k' = k)
include dest line value only

theorem pieceWritten_spByte {a : Nat} (here : d = .sp a) (clear : (s.unit u).place.guarded a = false) :
    (s.pieceWritten u q ln).spByte u a = v := by
  subst here
  rw [onlyMemory_spByte (pieceWritten_onlyMemory s u q ln), keepLate_spByte]
  exact foldl_spPut_spByte (c := (a, v)) (mem_spBytesOf.2 (mem_pieceBytes dest value line))
    (fun e he at_ => pieceBytes_agree value only (mem_spBytesOf.1 he) (congrArg (fun x => (0, x)) at_)) clear
theorem pieceWritten_latest {va pa : Nat} (here : d = .mem va pa) (clean : s.poisoned pa = false) :
    (s.pieceWritten u q ln).latest (s.unitKey u) pa = v := by
  subst here
  have stands : (pa, v) ∈ memBytesOf (s.pieceBytes u q ln) := mem_memBytesOf.2 ⟨va, mem_pieceBytes dest value line⟩
  unfold State.pieceWritten
  extract_lets sp mem t
  have late : s.onlySpLate t := spWritten_onlySpLate s u sp
  rw [if_neg (List.ne_nil_of_mem stands), ← onlySpLate_unitKey late u]
  refine engineWrite_latest u q.scope stands (fun e he at_ => ?_) ?_
  · obtain ⟨va', he⟩ := mem_memBytesOf.1 he
    exact pieceBytes_agree value only he (congrArg (fun x => (1, x)) at_)
  · rw [late.frame]
    exact clean

end

theorem pieceWritten_poisoned {pa : Nat} (clean : s.poisoned pa = false) : (s.pieceWritten u q ln).poisoned pa = false := by
  unfold State.pieceWritten
  extract_lets sp mem t
  have late : s.onlySpLate t := spWritten_onlySpLate s u sp
  have clean' : t.poisoned pa = false := by
    rw [late.frame]
    exact clean
  split
  · exact clean'
  · exact engineWrite_poisoned u q.scope mem clean'

/-! What a landing counts (R346, R347, R398) -/

theorem releaseAll_onlyMemory (s : State) (pa S : Nat) : s.onlyMemory (s.releaseAll pa S) :=
  List.foldlRecOn _ _ (motive := s.onlyMemory) rfl fun _ h _ _ => onlyMemory_trans h (widenAt_onlyMemory ..)
/-- The last write of a byte, and whether its line is poisoned, stay as bytes are released. -/
theorem releaseAll_latest (s : State) (pa S key a : Nat) :
    (s.releaseAll pa S).latest key a = s.latest key a ∧ (s.releaseAll pa S).poisoned a = s.poisoned a :=
  List.foldlRecOn _ _ (motive := fun t : State => t.latest key a = s.latest key a ∧ t.poisoned a = s.poisoned a) ⟨rfl, rfl⟩
    fun t h _ _ => ⟨(widenAt_latest t _ _ _ key a).trans h.1, h.2⟩

/-- A command of which `n` bytes have landed as piece `piece`. -/
def Cmd.withPiece (q : Cmd) (piece n : Nat) : Cmd := { q with landed := q.landed.put piece n, counted := q.counted + q.toCount n }

theorem landed_onlyMemory (s : State) (u j : Nat) (q : Cmd) (piece n : Nat) :
    (s.setCopy u j (q.withPiece piece n)).onlyMemory (s.landed u j q piece n) := by
  unfold State.landed
  extract_lets k s1
  split
  · split
    · rfl
    · extract_lets b S s2 s3
      refine onlyMemory_trans (t := s3) ?_ (homeWrite_onlyMemory ..)
      unfold s3
      split
      · exact onlyMemory_trans (t := s2) rfl (releaseAll_onlyMemory ..)
      · rfl
  · rfl
/-- Outside its barrier a landing leaves the last write of every byte. -/
theorem landed_latest (s : State) (u j : Nat) (q : Cmd) (piece n : Nat) {pa : Nat} (clean : s.poisoned pa = false)
    (off : ∀ pb, q.kind = 1 → q.sync = some pb → pa < pb ∨ pb + 16 ≤ pa) :
    (s.landed u j q piece n).latest (s.unitKey u) pa = s.latest (s.unitKey u) pa := by
  unfold State.landed
  extract_lets k s1
  split
  next pb kind sync =>
    split
    · rfl
    · extract_lets b S s2 s3
      have wide : s2.latest (s.unitKey u) pa = s.latest (s.unitKey u) pa := widenAt_latest (s1.noteRelease u pb) u S _ _ pa
      have last : s3.latest (s.unitKey u) pa = s.latest (s.unitKey u) pa ∧ s3.poisoned pa = false ∧ s3.unitKey u = s.unitKey u := by
        unfold s3
        split
        · have freed := releaseAll_latest s2 pb S (s.unitKey u) pa
          exact ⟨freed.1.trans wide, freed.2.trans clean, onlyMemory_unitKey (releaseAll_onlyMemory s2 pb S) u⟩
        · exact ⟨wide, clean, rfl⟩
      obtain ⟨last, clean, key⟩ := last
      rw [← last, ← key]
      exact homeWrite_latest_ne u _ (by rw [leBytes_length]; exact off pb (of_decide_eq_true kind) sync) clean
  · rfl

end

end Sys2Proof.Machine
end

section
/-! PROOFS. A piece of a copy lands, and a copy command completes (O46). -/
namespace Sys2Proof.Machine
open Sys2Proof

section
variable {s : State} {u j piece : Nat} {q : Cmd} {ln : Nat × Nat}

/-! The bytes of a plain copy (R346, R350) -/

theorem zipped_getElem? {α β γ : Type} {vs : List α} {ds : List β} {f : (α × β) × Nat → γ} {k : Nat} {d : β} {v : γ}
    (dest : ds[k]? = some d) (value : ((vs.zip ds).zipIdx.map f)[k]? = some v) : ∃ b, vs[k]? = some b ∧ f ((b, d), k) = v := by
  rw [List.getElem?_map, List.getElem?_zipIdx, Option.map_map, Option.map_eq_some_iff] at value
  obtain ⟨⟨b, d'⟩, both, rfl⟩ := value
  obtain ⟨at_, dest'⟩ := List.getElem?_zip_eq_some.1 both
  obtain rfl : d = d' := Option.some.inj (dest.symm.trans dest')
  exact ⟨b, at_, by rw [Function.comp_apply, Nat.zero_add]⟩
/-- The result of a WVFY stands at places in a row, where all its moves name one place. -/
theorem wvfy_not_plain {a b c : BitVec 6} {x : BitVec 3} {n : BitVec 1} {k : BitVec 2} (instr : q.instr = .wvfy a b c x n k) :
    q.dests ≠ q.moves.map (·.2) := by
  intro plain
  simp only [Cmd.dests, Cmd.moves, instr, List.map_map] at plain
  have second := congrArg (fun l : List Loc => l[1]?) plain
  have first := congrArg (fun l : List Loc => l[0]?) plain
  simp at second first
theorem wdig_not_plain {a b c : BitVec 6} {x : BitVec 3} {n : BitVec 1} {k : BitVec 2} (instr : q.instr = .wdig a b c x n k) :
    q.dests ≠ q.moves.map (·.2) := by
  simp [Cmd.dests, Cmd.moves, instr]
/-- A command without data of its own that moves bytes one by one takes each from its source. -/
theorem copyBytes_plain {k : Nat} {d : Loc} {v : Byte} {m : Loc × Loc} (dest : q.dests[k]? = some d)
    (value : (s.copyBytes u q)[k]? = some v) (own : q.data = none) (plain : q.dests = q.moves.map (·.2)) (move : q.moves[k]? = some m)
    (apart : q.overlaps k d = false) : v = s.locRead u m.1 := by
  unfold State.copyBytes at value
  extract_lets vs at value
  obtain ⟨b, at_, rfl⟩ := zipped_getElem? dest value
  rw [if_neg (ne_true_of_eq_false apart)]
  unfold vs at at_
  simp only [own] at at_
  split at at_
  next instr => exact absurd plain (wvfy_not_plain instr)
  next instr => exact absurd plain (wdig_not_plain instr)
  · rw [List.getElem?_map, move] at at_
    exact (Option.some.inj at_).symm

/-! The landing of a piece (R346) -/

theorem landPiece_eq (line : q.lineList[piece]? = some ln) (clean : ∀ m ∈ q.moves, s.locPoison m.1 = none) :
    ∃ q1 n, q1.cn = q.cn ∧ q1.kind = q.kind ∧ q1.sync = q.sync ∧ s.landPiece u j piece q = (s.pieceWritten u q ln).landed u j q1 piece n := by
  unfold State.landPiece
  simp -zeta only [line]
  extract_lets ix srcs vs bs q1 sp mem s1 s2
  have clear : srcs.findSome? s.locPoison = none := by
    refine List.findSome?_eq_none_iff.2 fun x hx => ?_
    unfold srcs at hx
    split at hx
    · obtain ⟨m, hm, rfl⟩ := List.mem_map.1 hx
      exact clean m hm
    · obtain ⟨y, -, e⟩ := List.mem_filterMap.1 hx
      obtain ⟨m, at_, rfl⟩ := Option.map_eq_some_iff.1 e
      exact clean m (List.mem_of_getElem? at_)
  have written : s2 = s.pieceWritten u q ln := rfl
  clear_value s2
  subst written
  have same : q1.cn = q.cn ∧ q1.kind = q.kind ∧ q1.sync = q.sync := by
    unfold q1
    split
    · split <;> exact ⟨rfl, rfl, rfl⟩
    · exact ⟨rfl, rfl, rfl⟩
  obtain ⟨cn1, kind1, sync1⟩ := same
  clear_value q1 srcs bs
  rw [clear]
  exact ⟨q1, _, cn1, kind1, sync1, rfl⟩

theorem execCopyPieceLand_lands {cn : Nat} (found : s.copyCmd u j cn = some q) (left : q.landed.find piece = none)
    (pieces : Instr.isWprg q.instr = false) (ready : q.group = [] ∨ q.data ≠ none) :
    execCopyPieceLand u j cn piece s = .next (s.landPiece u j piece q) := by
  simp only [execCopyPieceLand, found]
  rw [if_pos ⟨left, pieces, ready⟩]
theorem copyCmd_found {cn : Nat} (found : s.copyCmd u j cn = some q) : q ∈ (s.ctx u .copy j).flight ∧ q.cn = cn := by
  have holds := List.find?_some found
  rw [Bool.and_eq_true] at holds
  exact ⟨List.mem_of_find?_eq_some found, of_decide_eq_true holds.1⟩
theorem copyPiece_lands {cn : Nat} (found : s.copyCmd u j cn = some q) (left : q.landed.find piece = none)
    (pieces : Instr.isWprg q.instr = false) (ready : q.group = [] ∨ q.data ≠ none) (line : q.lineList[piece]? = some ln)
    (clean : ∀ m ∈ q.moves, s.locPoison m.1 = none) :
    Completes (.copyPieceLand u j cn piece) s fun t => s.pieceLands t u q ln ∧
      ∃ k ∈ (t.ctx u .copy j).flight, k.cn = cn ∧ (k.landed.find piece).isSome = true := by
  obtain ⟨flying, number⟩ := copyCmd_found found
  obtain ⟨q1, n, cn1, kind1, sync1, lands⟩ := landPiece_eq (u := u) (j := j) line clean
  have counts := landed_onlyMemory (s.pieceWritten u q ln) u j q1 piece n
  refine ⟨_, execCopyPieceLand_lands found left pieces ready, ?_⟩
  rw [lands]
  constructor
  · intro k d v dest here value only
    refine ⟨fun a sp clear => ?_, fun va pa mem unpoisoned off => ?_, fun m own plain move apart => ?_⟩
    · rw [onlyMemory_spByte counts]
      exact pieceWritten_spByte dest here value only sp clear
    · have written := pieceWritten_latest dest here value only mem unpoisoned
      rw [← pieceWritten_unitKey s u q ln] at written ⊢
      refine (landed_latest _ u j q1 piece n ?_ ?_).trans written
      · exact pieceWritten_poisoned unpoisoned
      · rwa [kind1, sync1]
    · exact copyBytes_plain dest value own plain move apart
  · refine ⟨q1.withPiece piece n, ?_, cn1.trans number, ?_⟩
    · rw [State.ctx, onlyMemory_ctxs counts]
      show _ ∈ ((State.setCtx _ _ _ _ _).ctx u .copy j).flight
      rw [ctx_setCtx]
      refine mem_setCmd_flight (k := q) ?_ cn1.symm
      rw [State.ctx, pieceWritten_ctxs]
      exact flying
    · show ((q1.landed.put piece n).find piece).isSome = true
      rw [NMap.find_put_self]
      rfl

/-! The completion of a copy command (R365, R366) -/

theorem closeRegion_ctxs (s : State) (k : Nat) : (s.closeRegion k).ctxs = s.ctxs := by
  unfold State.closeRegion
  (repeat' split) <;> rfl
/-- The trap of a missed promise changes no store, no key and no die. -/
theorem takeMiss_store (s : State) (u j : Nat) (q : Cmd) : s.sameStore (s.takeMiss u j q) ∧ (s.takeMiss u j q).keys = s.keys := by
  unfold State.takeMiss
  split
  · refine ⟨sameStore_trans (setCtx_sameStore ..) (event_sameStore ..), ?_⟩
    unfold State.event
    dsimp only
    split <;> rfl
  · exact ⟨sameStore_refl s, rfl⟩
theorem touchCmd_keys (s : State) (u agent : Nat) (q : Cmd) : (s.touchCmd u agent q).keys = s.keys :=
  (touchCmd_keepsResults s u 0 agent q).keys
/-- Command `q` completes, as `q1`. -/
def State.copyDone (s : State) (u j : Nat) (q q1 : Cmd) : State :=
  (((s.takeMiss u j q).finishCopy u j q1).touchCmd u 3 q1).completeCmd u .copy j q1

/-- A copy command of which all has landed completes; only a WPRG closes its region besides, or ends with a status of its own. -/
theorem execCopyCommandComplete_landed {cn : Nat} (found : s.copyCmd u j cn = some q) (all : s.allLanded u q = true) :
    ∃ q1 t, execCopyCommandComplete u j cn s = .next t ∧ q1.cn = q.cn ∧ t.ctxs = (s.copyDone u j q q1).ctxs ∧
      (Instr.isWprg q.instr = false → q1 = { q with missed := q.missed || s.pastPromise u q } ∧ t = s.copyDone u j q q1) := by
  simp -zeta only [execCopyCommandComplete, found, all, if_true]
  extract_lets q0 q1 s1
  have number : q1.cn = q.cn := by
    unfold q1
    split <;> rfl
  refine ⟨q1, _, rfl, number, ?_, fun other => ?_⟩
  · split
    · split
      · exact closeRegion_ctxs ..
      · rfl
    · rfl
  · constructor
    · unfold q1
      rw [other]
      rfl
    · split
      · rw [other]
        rfl
      · rfl
theorem finishCopy_csig {b : BitVec 6} {sc : BitVec 3} {pa : Nat} (instr : q.instr = .csig b sc) (object : q.sync = some pa)
    (first : q.replay = false) : s.finishCopy u j q = (s.countObject u q.scope pa).noteApplied (ckey u .copy j) pa q.cn := by
  simp [State.finishCopy, State.counted, instr, object, first]
theorem copyDone_csig {b : BitVec 6} {sc : BitVec 3} {pa : Nat} {q1 : Cmd} (instr : q1.instr = .csig b sc) (object : q1.sync = some pa)
    (first : q1.replay = false) (clean : s.poisoned pa = false) (line : pa % 128 ≤ 120) :
    (s.copyDone u j q q1).latestNat u pa 8 = (s.latestNat u pa 8 + 1) % 2 ^ 64 := by
  obtain ⟨store, keys⟩ := takeMiss_store s u j q
  have clean' : (s.takeMiss u j q).poisoned pa = false := by
    rw [State.poisoned, store.mpoison]
    exact clean
  have after : (s.copyDone u j q q1).latestNat u = ((s.takeMiss u j q).finishCopy u j q1).latestNat u :=
    latestNat_congr (sameStore_trans (touchCmd_sameStore ..) (completeCmd_sameStore ..)) (touchCmd_keys ..) u
  calc (s.copyDone u j q q1).latestNat u pa 8
      = ((s.takeMiss u j q).countObject u q1.scope pa).latestNat u pa 8 := by
        rw [after, finishCopy_csig instr object first]
        rfl
    _ = ((s.takeMiss u j q).latestNat u pa 8 + 1) % 2 ^ 64 := countObject_latestNat u q1.scope clean' line
    _ = (s.latestNat u pa 8 + 1) % 2 ^ 64 := by rw [latestNat_congr store keys u]
theorem copyCommand_completes {cn : Nat} (found : s.copyCmd u j cn = some q) (all : s.allLanded u q = true) :
    Completes (.copyCommandComplete u j cn) s fun t => t.commandOver u .copy j cn ∧
      ∀ b sc pa, q.instr = .csig b sc → q.sync = some pa → q.replay = false → s.poisoned pa = false → pa % 128 ≤ 120 →
        t.latestNat u pa 8 = (s.latestNat u pa 8 + 1) % 2 ^ 64 := by
  obtain ⟨q1, t, runs, number, ctxs, done⟩ := execCopyCommandComplete_landed found all
  refine ⟨t, runs, ?_, fun b sc pa instr object first clean line => ?_⟩
  · rw [← (copyCmd_found found).2, ← number]
    exact sameCmds_over (sameCmds_of_ctxs ctxs) (completeCmd_over _ _ _ _ _)
  · obtain ⟨as, rfl⟩ := done (by rw [instr]; rfl)
    subst as
    exact copyDone_csig instr object first clean line

end

/-- Settles O46: each engine's command completes as the lemmas `matrixCommand_completes`, `vectorCommand_lands`,
`vectorCommand_faults`, `vectorCommand_reads`, `vectorCommand_stores`, `copyPiece_lands` and `copyCommand_completes` say. -/
theorem engineCompletions : Obligations.EngineCompletions := by
  unfold Obligations.EngineCompletions
  intro u j cn piece pa l s t1 q qs ls vl vs tr b sc ln d p
  refine ⟨matrixCommand_completes, fun flying due on up => ⟨?_, ?_, ?_, ?_⟩, fun found => ⟨copyPiece_lands found, fun all => ?_⟩⟩
  · exact vectorCommand_lands flying due on up
  · exact vectorCommand_faults flying due on up
  · exact vectorCommand_reads flying due on up
  · exact vectorCommand_stores flying due on up
  · obtain ⟨t, runs, past, signal⟩ := copyCommand_completes found all
    exact ⟨t, runs, past, signal b sc pa⟩

end Sys2Proof.Machine
end
